-- ==== Sys2Proof/Word.lean ====
section
/-! DEFINITION. The word types of the device and the plainest arithmetic on them: two's-complement reads,
saturation of counters and of integers, rotation.  Register words are 32 bits wide (R2, *Notation*). -/

namespace Sys2Proof

/-- A register word, a scratchpad word, an FP32 bit pattern. -/
abbrev Word := BitVec 32

/-- The smallest addressable unit of every address space (R183). -/
abbrev Byte := BitVec 8

/-- A counter that saturates at all ones and does not wrap (R57 and the other counter rules). -/
def satAdd {w : Nat} (c : BitVec w) (n : Nat) : BitVec w :=
  if c.toNat + n < 2 ^ w then BitVec.ofNat w (c.toNat + n) else BitVec.allOnes w

/-- `sat` of an exact integer to the two's-complement range of `w` bits. -/
def satInt (w : Nat) (z : Int) : Int :=
  max (-(2 ^ (w - 1) : Int)) (min z (2 ^ (w - 1) - 1))

/-- `sat` of an exact integer to the unsigned range of `w` bits. -/
def satNat (w : Nat) (z : Int) : Int := max 0 (min z (2 ^ w - 1))

/-- Rotation left of a 32-bit word (R49). -/
def rotl32 (x : Word) (n : Nat) : Word := x.rotateLeft n

/-- One bit of a natural number as a Boolean. -/
def bitOf (n i : Nat) : Bool := n.testBit i

end Sys2Proof
end

