-- ==== Sys2Proof/Syntax.lean ====
section
/-! DEFINITION. The commands of the block: one constructor of `Instr` for each row of spec/opcode_table.json,
with the row's operands, and before it the plain types the operands are made of (tiles, requests, the
furnish, step programs, packages). -/

namespace Sys2Proof

/-- A physical tile P(site, x, y) (R9): site 0–63, die column x 0–15, die row y 0–8.  The instruction
commands, the tile events and the routers are named by it. -/
structure PTile where
  site : Fin 64
  y : Fin 9
  x : Fin 16
deriving DecidableEq, Repr

/-- The number site × 256 + 16y + x that the spec's records use for a physical tile (R477, R591). -/
def PTile.key (t : PTile) : Nat := t.site.val * 256 + 16 * t.y.val + t.x.val

/-- A scalar or vector register number, and any other 5-bit field of an instruction word. -/
abbrev Reg := BitVec 5

/-- The five unit queues (R293), in the order of their codes. -/
inductive Queue where
  | mq | vq | lq | dq | sq
deriving DecidableEq, Repr

/-- A virtual channel VC0–VC3 (R236). -/
abbrev Vc := Fin 4

/-- A sub-block of the device control space; the sub-blocks of a site carry the site's number. -/
inductive Block where
  | site (s : Fin 64) | vat (s : Fin 64) | sz (s : Fin 64) | net (s : Fin 64) | sem (s : Fin 64)
  | loft (s : Fin 64) | sup | bbx | pwr | thm | phw | plk | sto | sec
deriving DecidableEq, Repr

/-- The name of a register: its sub-block and its byte offset in it. -/
structure RegAddr where
  block : Block
  offset : Nat
deriving DecidableEq, Repr

/-! ### The furnish (R492) -/

/-- The hash of an LMS or LMOTS type. -/
inductive SigHash where
  | sha256 | sha256_192 | shake256 | shake256_192
deriving DecidableEq, Repr

/-- One level of an HSS signature: its LMS type and its LMOTS type, as their hashes, the height and W (R579). -/
structure HssLevel where
  lms : SigHash
  height : Nat
  ots : SigHash
  w : Nat
deriving DecidableEq, Repr

/-- A signature block (R577): the ECDSA signature r, s, and the bytes of the HSS signature. -/
structure SigBlock where
  r : Nat
  s : Nat
  hss : List (BitVec 8)
deriving DecidableEq, Repr

/-- Its bytes: r and s, the length, the HSS signature. -/
def SigBlock.size (b : SigBlock) : Nat := 100 + b.hss.length

/-- A signature block with the verification outcomes of its two signatures under one trusted key pair, and the parameters that the HSS
signature names, level by level (R577, R578, R579). -/
structure SigCheck where
  ecdsa : Bool
  hss : Bool
  block : SigBlock
  levels : List HssLevel
deriving DecidableEq, Repr

/-- A hash of the SHA-2 family: SHAKE is refused (R579). -/
def SigHash.sha2 : SigHash → Bool
  | .sha256 | .sha256_192 => true
  | .shake256 | .shake256_192 => false

/-- A level that the device accepts (R579). -/
def HssLevel.ok (l : HssLevel) : Bool :=
  l.lms.sha2 && l.ots == l.lms && 5 ≤ l.height && l.height ≤ 25 && (l.w == 1 || l.w == 2 || l.w == 4 || l.w == 8)

/-- The block is one that the device accepts: r and s of 48 B, the length of the HSS part, its 1 to 8 levels (R577, R579). -/
def SigCheck.formOk (g : SigCheck) : Bool :=
  g.block.r < 2 ^ 384 && g.block.s < 2 ^ 384 && 1 ≤ g.block.hss.length && g.block.hss.length ≤ 65536 && 1 ≤ g.levels.length && g.levels.length ≤ 8 && g.levels.all (·.ok)

/-- Both signatures verify (R578), with parameters that the device accepts (R579). -/
def SigCheck.ok (g : SigCheck) : Bool := g.ecdsa && g.hss && g.formOk

inductive BwMode where
  | uniform | neighbour
deriving DecidableEq, Repr

inductive PowerMode where
  | static | governed
deriving DecidableEq, Repr

inductive ExactMode where
  | narrow | exact | perRequest
deriving DecidableEq, Repr

/-- A loft grant range of a partition on a site (R206). -/
structure Grant where
  part : Fin 32
  site : Fin 64
  base : Nat
  size : Nat
deriving DecidableEq, Repr

/-- A partition section of the furnish (R492, type 0x02).  The rectangle is in blocks of 8 × 8 tiles. -/
structure FurnPart where
  part : Fin 32
  bx : Nat
  byy : Nat
  bw : Nat
  bh : Nat
  bwMode : BwMode
  power : PowerMode
  share : Nat
  /-- The stretch factor G in 64ths, 64 to 128 (R335). -/
  g64 : Nat
  dmaWait : Nat
  slipHalt : Nat
  exact : ExactMode
  tuning : Bool
  /-- The loft grant ranges of the partition that form its page pool, by index among its grants. -/
  pool : List Nat
  /-- The index of its adapter grant, if it has one. -/
  adapterGrant : Option Nat
  /-- The supervisor-structure site (R505). -/
  supSite : Fin 64
deriving DecidableEq, Repr

/-- A semaphore range (R260). -/
structure SemRange where
  part : Fin 32
  site : Fin 64
  first : Nat
  count : Nat
  /-- True: sequence mode. -/
  seq : Bool
  init : Word
  share : Word
deriving DecidableEq, Repr

structure Quota where
  part : Fin 32
  site : Fin 64
  quota : Nat
deriving DecidableEq, Repr

/-- A deadline class: the greatest first-token and per-token bound in units of 10 ns; all ones states no
limit (R492). -/
structure DeadlineClass where
  first : Word
  perToken : Word
deriving DecidableEq, Repr

/-- Where a package can be read from (R428): the cache, a byte offset in an NVMe namespace on a storage port, a peer. -/
inductive Source where
  | cache | nvme (port : Fin 4) (namespace_ : Nat) (offset : Nat) | peer (port : Fin 8)
deriving DecidableEq, Repr

/-- A swap-set entry (R428). -/
structure SwapEntry where
  part : Fin 32
  model : BitVec 16
  pubkey : Nat
  pkgid : Nat
  minSvn : Nat
  sources : List Source
  pin : Bool
  auto : Bool
  start : Bool
deriving DecidableEq, Repr

/-- A trusted publisher key pair, named by a number, with the minimum security version (R426). -/
structure Publisher where
  pubkey : Nat
  pkgid : Nat
  minSvn : Nat
deriving DecidableEq, Repr

/-- A control node and its authorisations (R492, R553). -/
structure Node where
  id : Nat
  submit : Bool
  management : Bool
  register : Bool
  exact : Bool
deriving DecidableEq, Repr

/-- A peer port and its partner, named by the SHA-384 digest of its certificate (R559). -/
structure Ream where
  port : Fin 8
  partner : Nat
  partnerPort : Nat
deriving DecidableEq, Repr

/-- One furnish image as it stands in flash (R492, R493).  `slot` is the owner slot whose keys verify it, `key` the digest of the key pair
that does; the block stands at the image length (R577), and `digest` is the SHA-384 digest of the bytes before it. -/
structure Furnish where
  sig : SigCheck
  slot : Fin 4
  key : Nat
  digest : Nat
  svn : Nat
  /-- The rest of the header: magic, format version, the device binding (a SHA-384 digest, or zero), the image length and the number of
  sections; the types of the sections that follow; the reserved bytes. -/
  magic : List Byte
  fmtver : Nat
  binding : Nat
  length : Nat
  nsection : Nat
  sections : List Nat
  reserved : List Byte
  cap : Nat
  fanFloor : Nat
  cacheBytes : Nat
  pause : Word
  sleepUnassigned : Bool
  reamId : Nat
  parts : List FurnPart
  grants : List Grant
  ranges : List SemRange
  quotas : List Quota
  classes : List DeadlineClass
  swap : List SwapEntry
  publishers : List Publisher
  nodes : List Node
  ream : List Ream
deriving DecidableEq, Repr

/-- A boot-firmware image in flash (R488, R580): the digest of the key pair that verifies it, where its signature block stands, and the
SHA-384 digest of the bytes before that (R577, R590). -/
structure Firmware where
  sig : SigCheck
  svn : Nat
  key : Nat
  sigoff : Nat
  digest : Nat
deriving DecidableEq, Repr

/-! ### Step programs (R321) -/

/-- A stage table entry: its budget, the semaphore stores it uses, its peer extension, the indices of its link-load records;
the lanes that it keeps active, by tile index and lane (R150, R151); the peer ports that it sends or receives through (R563). -/
structure StageInfo where
  budget : Nat
  stores : Nat
  peerExt : Nat
  links : List Nat
  active : List (Nat × Fin 2)
  ports : List (Fin 8)
deriving DecidableEq, Repr

inductive RegionKind where
  | scratch | carry | remote | sup | off
deriving DecidableEq, Repr

/-- A region of the memory plan (R330). -/
structure Region where
  image : Nat
  offset : Nat
  length : Nat
  first : Nat
  last : Nat
  kind : RegionKind
deriving DecidableEq, Repr

/-- One row of the power plan: the busy units of one site in one window of one stage (R333). -/
structure PowerRow where
  stage : Nat
  window : Nat
  site : Nat
  tiles : Nat
  mx4 : Nat
  mx8 : Nat
  mxbf : Nat
  vec : Nat
  lanes : Nat
  loft : Nat
deriving DecidableEq, Repr

/-- A transfer record of the link-load summary (R337). -/
structure LinkRec where
  stage : Nat
  src : Nat
  dst : Nat
  vc : Nat
  flits : Nat
  t0 : Nat
  t1 : Nat
  resv : Bool
deriving DecidableEq, Repr

/-- A node of a tree description, in partition-relative logical coordinates, with the index of its parent
among the nodes, its rank at the parent and, if it contributes or receives locally, its local rank. -/
structure TreeNode where
  col : Nat
  row : Nat
  parent : Option Nat
  rank : Nat
  localRank : Option Nat
deriving DecidableEq, Repr

/-- A press or multicast tree description (R240, R245). -/
structure TreeDesc where
  num : Nat
  variant : Nat
  multicast : Bool
  int32 : Bool
  nflit : Nat
  lrow : Nat
  nodes : List TreeNode
deriving DecidableEq, Repr

/-- A patch record (R339). -/
structure Patch where
  tile : Nat
  kind : Nat
  image : Nat
  word : Nat
  dstlo : Nat
  width : Nat
  srclo : Nat
  value : Word
deriving DecidableEq, Repr

/-- A factor that adapter tuning updates (R448): its tensor id, the offset of its FP32 master elements in the job's loft grant, the
offset of its BF16 elements in a slot's area, and how many they are. -/
structure Factor where
  tensor : BitVec 16
  master : Nat
  at_ : Nat
  count : Nat
deriving DecidableEq, Repr

/-- An entry of a manifest's shard table (R425): index, length, digest, and its reserved bytes. -/
structure ShardEntry where
  index : Nat
  length : Nat
  digest : Nat
  reserved : List Byte
deriving DecidableEq, Repr

/-- A manifest (R425): the fields of its header, digests as numbers; its reserved bytes; the shard table; the outcome of its signature
checks; and its own SHA-384 digest. -/
structure Manifest where
  magic : List Byte
  fmtver : Nat
  kind : Nat
  sigoff : Nat
  pubkey : Nat
  pkgid : Nat
  svn : Nat
  nshard : Nat
  total : Nat
  base : Nat
  reserved : List Byte
  shards : List ShardEntry
  sig : SigCheck
  digest : Nat
deriving DecidableEq, Repr

/-- A compiled step program (R321), with the manifest of the program package that it came in (R424) and the figures admission takes from it (R363, R393, R395, R410). -/
structure Program where
  pkg : Manifest
  exact : Bool
  bw : Nat
  bh : Nat
  bwMode : BwMode
  power : PowerMode
  entry : BitVec 16
  stages : List StageInfo
  images : List (List Word)
  tileTable : List Nat
  memPlan : List Region
  powerPlan : List PowerRow
  links : List LinkRec
  trees : List TreeDesc
  sems : List (Nat × Bool)
  patches : List Patch
  kp : Nat
  q : Nat
  attnTiles : Nat
  lengthClass : Nat
  gamma : Nat
  adapterRank : Nat
  /-- The size A of an adapter slot's area (R443). -/
  adapterArea : Nat
  /-- The factors of the adapter shape, with the places that the compiler fixes for them. -/
  factors : List Factor
  /-- Offset of the slot table in each tile whose image declares it, with the image's index. -/
  slotTable : List (Nat × Nat)
  /-- Offset of the binding table (R431). -/
  bindTable : Nat
  /-- T_step and T_stage_max, in arith cycles, of the other segments of a pipeline across a ream, which the head's bounds take in (R563). -/
  segments : List (Nat × Nat)
deriving DecidableEq, Repr

/-! ### Packages (R424–R427, R442) -/

/-- One tensor of a model descriptor. -/
structure Tensor where
  fmt : BitVec 4
  scale : Word
  rscale : Word
  symmetric : Bool
  /-- The axis along which its blocks run. -/
  axis : Nat
  onVat : Bool
  /-- Scale bytes of the tensor, block by block; of a vat-resident one the 16 of each output column of a slice together. -/
  scales : List Byte
  /-- Every code of its zero columns and of the rows that pad its slices is zero (R109). -/
  vatOk : Bool
  /-- A reserved encoding among its codes (R26). -/
  reservedCode : Bool
deriving DecidableEq, Repr

/-- Where one vat slice of a model goes: the tile's index in the rectangle, the slice number, the mode and the column shifts;
and the tensor that it is a slice of, with the number of its first column there and of the rows that it fills. -/
structure Slice where
  tile : Nat
  slice : Nat
  mode : BitVec 2
  kw : List (BitVec 5)
  tensor : Nat
  first : Nat
  rows : Nat
deriving DecidableEq, Repr

/-- A model descriptor (R427). -/
structure Descriptor where
  layers : Nat
  kvHeads : Nat
  headWidth : Nat
  vocab : Nat
  chainT : Nat
  chainP : Nat
  chainW : Nat
  chainG : Nat
  /-- The attention window of each layer, in positions. -/
  windows : List Nat
  /-- The formats of keys and values, and whether they are symmetric (R346). -/
  keyFmt : BitVec 4
  valueFmt : BitVec 4
  keySym : Bool
  valueSym : Bool
  eos : Word
  tensors : List Tensor
  slices : List Slice
deriving DecidableEq, Repr

/-- A target tensor of an adapter: its id and widths, the BF16 factors A and B, the FP32 scale (R442). -/
structure Target where
  tensor : BitVec 16
  inWidth : Nat
  outWidth : Nat
  a : List (BitVec 16)
  b : List (BitVec 16)
  scale : Word
deriving DecidableEq, Repr

/-- An adapter descriptor (R442), and the digests with which the package's shards have arrived after the reads of R434. -/
structure AdapterDesc where
  id : Nat
  version : Nat
  rank : Nat
  targets : List Target
  read : List Nat
deriving DecidableEq, Repr

/-- Where a tuning job's training sequences come from (R447): a storage address, or management messages. -/
inductive TrainSource where
  | storage (port : Fin 4) (namespace_ : Nat) (offset : Nat)
  | messages
deriving DecidableEq, Repr

/-! ### Requests (R388) -/

/-- The prompt: token ids, or a reference to a node of the tree of shared blocks followed by token ids. -/
structure Prompt where
  ref : Option Nat
  toks : List Word
deriving DecidableEq, Repr

structure Request where
  id : BitVec 64
  part : Fin 32
  model : BitVec 16
  adapter : Option (BitVec 16)
  prompt : Prompt
  maxNew : Nat
  tau : Word
  topK : Nat
  topP : Word
  stops : List (List Word)
  seed : BitVec 64
  draft : Option (BitVec 16)
  exact : Bool
  cls : Fin 16
  noIndex : Bool
deriving DecidableEq, Repr

/-! ### What arrives with an event -/

/-- The outcome of a logical or stored error check on a word: correct, one bit corrected, uncorrectable. -/
inductive Ecc where
  | ok | single | double
deriving DecidableEq, Repr

/-- A tree entry of a router (R240). -/
structure TreeEntry where
  v : Bool
  kind : Bool
  ty : Bool
  part : BitVec 5
  rank : BitVec 4
  pmask : BitVec 10
  port : BitVec 4
  resv : BitVec 11
  nflit : BitVec 12
  lrow : BitVec 15
  /-- The entry's current use bit (R241). -/
  use : Bool
deriving DecidableEq, Repr

/-- A supervisor write that arrives at a tile or router on VC2 (R238). -/
inductive CfgWrite where
  /-- Words of the instruction store from a word index (R284). -/
  | istore (word : BitVec 14) (ws : List Word)
  /-- The entry address, and the count of words that the program holds. -/
  | entry (pc : BitVec 16)
  /-- The stage-budget table beside the instruction store (R326). -/
  | budgets (st : List StageInfo)
  /-- A tree entry of the tile's router (R240). -/
  | tree (id : BitVec 8) (e : TreeEntry)
  /-- Bytes of a SUP region of the scratchpad: slot table, binding table (R330). -/
  | scratch (offset : Nat) (bs : List Byte)
  /-- The logical place and the partition of the tile; none: it belongs to no partition. -/
  | place (c : BitVec 7) (r : BitVec 6) (part : Option (Fin 32))
  /-- The stage-watchdog limit of the router (R461). -/
  | watchdog (limit : Nat)
  /-- Root table registers of a partition on the tile's site (R216). -/
  | seqRoot (part : Fin 32) (lo hi : Word)
deriving DecidableEq, Repr

/-- An event that the couch judges (R401, R406). -/
inductive NoticeKind where
  /-- A tile's recoverable event (R401). -/
  | recoverable
  /-- An event that the supervisor records (R399): hop CRC, reference switch. -/
  | recorded
  /-- A supply-warning window (R521). -/
  | supply
  /-- A thermal site-off or supply reset that cannot be replayed, with the status of R407. -/
  | thermalEnd
  | supplyEnd
  /-- A fatal program error of R327. -/
  | program
  /-- An event that its chapter does not replay (class S, T). -/
  | hardware
deriving DecidableEq, Repr

/-- A fault notice or a recorded event as it reaches the couch. -/
structure Notice where
  kind : NoticeKind
  /-- The stage counter it names (R401). -/
  tag : BitVec 16
  /-- The event's code (R481). -/
  code : BitVec 16
  /-- The tile it names, if any (R465). -/
  tile : Option PTile
  /-- The link it names, by the key of its sender's channel (R246). -/
  link : Option Nat
  /-- The site whose supply-warning window it tells of (R520). -/
  site : Option (Fin 64)
deriving DecidableEq, Repr

/-- What the step's output stages hold for one slot when the couch releases it: the logits of the target for
the positions in flight, and for a drafting slot the draft's logits for each proposal. -/
structure SlotLogits where
  slot : Fin 128
  target : List (List Word)
  draft : List (List Word)
deriving DecidableEq, Repr

/-- A page-table edit (R211): the entry of a page at a level, 0 for the root table's and 3 for the page's own, takes a new
value. -/
structure PageEdit where
  part : Fin 32
  handle : BitVec 16
  level : Fin 4
  vpage : Nat
  entry : BitVec 64
deriving DecidableEq, Repr

/-- What a press unit finds of an input: its CRC is right; the duplicated adder agreed (R247). -/
structure PressChecks where
  crc : Bool
  adder : Bool
deriving DecidableEq, Repr

/-- The end of a shard read: the digest of what was read; the loft offsets that it covers where it comes from the package cache, none from
a source (R434, R435); a peer has answered that it does not hold the shard (R564). -/
structure ShardRead where
  digest : Nat
  lines : List Nat
  absent : Bool
deriving DecidableEq, Repr

/-- What self-tests of a tile find (R457): the units whose checker failed its own, none if all passed; and of a spare tile or one in no
partition the verdicts of a neighbour test: tester, tested, PASS. -/
structure SelfTest where
  fails : List (BitVec 4)
  verdicts : List (PTile × PTile × Bool)
deriving DecidableEq, Repr

/-- What the tests of a PARTITION reset find: tiles that fail the neighbour test of R465, routers that fail the link tests of R468, and
the verdicts of neighbour tests of spare tiles and of tiles in no partition (R457, R470): tester, tested, PASS. -/
structure TestFails where
  tiles : List PTile
  routers : List PTile
  verdicts : List (PTile × PTile × Bool)
deriving DecidableEq, Repr

/-- The observations that start-up takes from the physical device (R488). -/
structure BootObs where
  /-- Sites whose domains did not come up (step 5) or whose dies failed authentication (R576). -/
  sitesFailed : List (Fin 64)
  /-- Die indices that failed the check of R576, in order. -/
  diesFailed : List (BitVec 8)
  /-- Loft rows that failed the loft test, per site (step 6). -/
  loftRows : List (Fin 64 × Nat)
  /-- Verdicts of the neighbour tests: tester, tested, PASS (R470); a tile that is not named as tested passed. -/
  verdicts : List (PTile × PTile × Bool)
  /-- Vat columns that failed vat BIST: tile, vat, columns (step 8). -/
  vatColumns : List (PTile × Nat × Nat)
  /-- Vats whose codes, read back, do not give their slice's digest (R500). -/
  digestsFailed : List (PTile × Nat)
  /-- Lanes that did not complete warm-up (R172). -/
  coldLanes : List (PTile × Fin 2)
  /-- The primary supervisor failed to boot, and the standby failed too (step 2). -/
  supPFail : Bool
  supSFail : Bool
  /-- The flash part meets R567. -/
  flashOk : Bool
  /-- Routers that failed their link tests (R468, R470). -/
  routersFailed : List PTile
deriving DecidableEq, Repr

/-- What start-up steps 6 and 8 find on a site that is re-initialised after a SUPPLY reset (R496): the loft rows that fail their test, the
vat columns that fail vat BIST. -/
structure SiteObs where
  site : Fin 64
  loftRows : List Nat
  vatColumns : List (PTile × Nat × Nat)
deriving DecidableEq, Repr

/-- One sample of a site's temperature sensors in units of 0.125 °C: 16 compute, 8 base, 4 loft (R530). -/
structure ThermSample where
  compute : List Int
  base : List Int
  loft : List Int
deriving DecidableEq, Repr

/-- The three sensed domains of a site (R515). -/
inductive Domain where
  | vlg | var | vmi
deriving DecidableEq, Repr

/-- A management operation's register write source (R513). -/
inductive WarmSource where
  | node | resetN | supFail | refLoss | console
deriving DecidableEq, Repr

/-- A challenge of the console as it is answered: the control node that signs, or none for the recovery key, whose digest is `key`; and
the check of both signatures (R569, R578). -/
structure Challenge where
  signer : Option Nat
  key : Nat
  sig : SigCheck
deriving DecidableEq, Repr

/-- A command of the UART console (R569). -/
inductive UartCmd where
  | status
  | warm (c : Challenge)
  | firmware (c : Challenge) (img : Firmware)
  | furnish (c : Challenge) (img : Furnish)
deriving DecidableEq, Repr

/-- A namespace of a drive (R565): its id, its LBA size in bytes, and whether it has metadata or protection information. -/
structure Namespace where
  id : Nat
  lba : Nat
  metadata : Bool
deriving DecidableEq, Repr

/-- An image for a flash image write (R568). -/
inductive FlashImage where
  | firmware (img : Firmware)
  | furnish (img : Furnish)
deriving DecidableEq, Repr

/-- What the header of a node's frame acknowledges: the next SEQ that it expects, and the frames that it can accept beyond (R546). -/
structure AckInfo where
  ack : Word
  credit : Nat
deriving DecidableEq, Repr

/-- The sending partition's check verdict for a step (R563): clean, or the slots that it ended, with the status and its detail. -/
inductive PeerVerdict where
  | clean
  | ended (slots : List (Fin 128)) (code detail : BitVec 8)
deriving DecidableEq, Repr

/-- A frame of a peer link as it arrives (R558): what the receiver finds of it; its header; its payload. -/
structure PeerFrame where
  crcOk : Bool
  idle : Bool
  retransmission : Bool
  /-- Codewords that the FEC corrected, and those that it could not (R571). -/
  corrected : Nat
  uncorrectable : Nat
  /-- Sending and receiving partition, transfer id, frame index, credits returned. -/
  sender : Fin 32
  part : Fin 32
  transfer : Nat
  index : Nat
  credit : Nat
  payload : List (BitVec 8)
  /-- The sender's check verdict for the step, if the frame carries it. -/
  verdict : Option PeerVerdict
deriving DecidableEq, Repr

/-- A black-box record (R477). -/
structure BbxRec where
  ts : BitVec 64
  source : Word
  event : BitVec 16
  tag : BitVec 16
  step : BitVec 64
  detail : BitVec 64
deriving DecidableEq, Repr

/-- A tile's check report of one step (R292): what it marks. -/
structure Report where
  /-- Recoverable events marked and not yet replayed. -/
  recov : List (BitVec 16)
  /-- Faults that the couch does not replay. -/
  fatal : List (BitVec 16)
  /-- Timing program errors (R327). -/
  timing : Bool
  /-- Results marked invalid by a supply-warning window (R130). -/
  invalid : Bool
deriving DecidableEq, Repr

/-- The commands of the block.  A tile's instruction names the physical tile that runs it and the fields of its
instruction word that its row does not fix; an event names what it happens to and what arrives with it. -/
inductive Instr where
  -- Scalar instructions (R288, R289)
  | aluAdd (t : PTile) (rd ra rb : Reg)
  | aluSub (t : PTile) (rd ra rb : Reg)
  | aluAnd (t : PTile) (rd ra rb : Reg)
  | aluOr (t : PTile) (rd ra rb : Reg)
  | aluXor (t : PTile) (rd ra rb : Reg)
  | aluSll (t : PTile) (rd ra rb : Reg)
  | aluSrl (t : PTile) (rd ra rb : Reg)
  | aluSra (t : PTile) (rd ra rb : Reg)
  | aluSlt (t : PTile) (rd ra rb : Reg)
  | aluSltu (t : PTile) (rd ra rb : Reg)
  | aluMul (t : PTile) (rd ra rb : Reg)
  | aluMulhu (t : PTile) (rd ra rb : Reg)
  | aluMin (t : PTile) (rd ra rb : Reg)
  | aluMax (t : PTile) (rd ra rb : Reg)
  | aluMinu (t : PTile) (rd ra rb : Reg)
  | aluMaxu (t : PTile) (rd ra rb : Reg)
  | addi (t : PTile) (rd ra : Reg) (imm : BitVec 16)
  | andi (t : PTile) (rd ra : Reg) (imm : BitVec 16)
  | ori (t : PTile) (rd ra : Reg) (imm : BitVec 16)
  | xori (t : PTile) (rd ra : Reg) (imm : BitVec 16)
  | slti (t : PTile) (rd ra : Reg) (imm : BitVec 16)
  | sltiu (t : PTile) (rd ra : Reg) (imm : BitVec 16)
  | shi (t : PTile) (rd ra : Reg) (imm : BitVec 16)
  | lui (t : PTile) (rd ra : Reg) (imm : BitVec 16)
  | lw (t : PTile) (rd ra : Reg) (imm : BitVec 16)
  | sw (t : PTile) (rs ra : Reg) (imm : BitVec 16)
  | beq (t : PTile) (ra rb : Reg) (off : BitVec 16)
  | bne (t : PTile) (ra rb : Reg) (off : BitVec 16)
  | blt (t : PTile) (ra rb : Reg) (off : BitVec 16)
  | bge (t : PTile) (ra rb : Reg) (off : BitVec 16)
  | bltu (t : PTile) (ra rb : Reg) (off : BitVec 16)
  | bgeu (t : PTile) (ra rb : Reg) (off : BitVec 16)
  | jal (t : PTile) (rd : Reg) (off : BitVec 21)
  | jalr (t : PTile) (rd ra : Reg) (imm : BitVec 16)
  | csrr (t : PTile) (rd ra : Reg) (imm : BitVec 16)
  -- System instructions (R290–R292)
  | nop (t : PTile) (f1 f2 f3 : Reg)
  | stage (t : PTile) (f1 f2 f3 : Reg)
  | stageRetire (t : PTile)
  | send (t : PTile) (f1 f2 f3 : Reg)
  | sendRetire (t : PTile)
  | stepend (t : PTile) (f1 f2 f3 : Reg)
  | stependRetire (t : PTile)
  | fence (t : PTile) (f1 f2 f3 : Reg)
  | fenceRetire (t : PTile)
  | bank (t : PTile) (f1 f2 f3 : Reg)
  | bankStateChangeDone (t : PTile) (b : Fin 16)
  -- Unit queues (R293–R295)
  | qwait (t : PTile) (q : Queue) (f1 f2 f3 : Reg) (mod : BitVec 6)
  | qwaitComplete (t : PTile) (q : Queue)
  -- Matrix queue (R298–R301)
  | wld (t : PTile) (f1 f2 f3 : Reg) (mod : BitVec 6)
  | wldv (t : PTile) (f1 f2 f3 : Reg) (mod : BitVec 6)
  | weightLoadComplete (t : PTile)
  | wsp (t : PTile) (f1 f2 f3 : Reg) (mod : BitVec 6)
  | osp (t : PTile) (f1 f2 f3 : Reg) (mod : BitVec 6)
  | passComplete (t : PTile)
  | abftVerdict (t : PTile) (mismatch : Bool)
  -- Vector queue (R302–R305)
  | vadd (t : PTile) (f1 f2 f3 : Reg) (mod : BitVec 6)
  | vsub (t : PTile) (f1 f2 f3 : Reg) (mod : BitVec 6)
  | vmul (t : PTile) (f1 f2 f3 : Reg) (mod : BitVec 6)
  | vfma (t : PTile) (f1 f2 f3 : Reg) (mod : BitVec 6)
  | vmin (t : PTile) (f1 f2 f3 : Reg) (mod : BitVec 6)
  | vmax (t : PTile) (f1 f2 f3 : Reg) (mod : BitVec 6)
  | vand (t : PTile) (f1 f2 f3 : Reg) (mod : BitVec 6)
  | vor (t : PTile) (f1 f2 f3 : Reg) (mod : BitVec 6)
  | vxor (t : PTile) (f1 f2 f3 : Reg) (mod : BitVec 6)
  | vshl (t : PTile) (f1 f2 f3 : Reg) (mod : BitVec 6)
  | vshr (t : PTile) (f1 f2 f3 : Reg) (mod : BitVec 6)
  | vclt (t : PTile) (f1 f2 f3 : Reg) (mod : BitVec 6)
  | vceq (t : PTile) (f1 f2 f3 : Reg) (mod : BitVec 6)
  | vsel (t : PTile) (f1 f2 f3 : Reg) (mod : BitVec 6)
  | vcvt (t : PTile) (f1 f2 f3 : Reg) (mod : BitVec 6)
  | venc (t : PTile) (f1 f2 f3 : Reg) (mod : BitVec 6)
  | vexp (t : PTile) (f1 f2 f3 : Reg) (mod : BitVec 6)
  | vrcp (t : PTile) (f1 f2 f3 : Reg) (mod : BitVec 6)
  | vrsq (t : PTile) (f1 f2 f3 : Reg) (mod : BitVec 6)
  | vred (t : PTile) (f1 f2 f3 : Reg) (mod : BitVec 6)
  | vscan (t : PTile) (f1 f2 f3 : Reg) (mod : BitVec 6)
  | vamax (t : PTile) (f1 f2 f3 : Reg) (mod : BitVec 6)
  | vtopk (t : PTile) (f1 f2 f3 : Reg) (mod : BitVec 6)
  | vdraw (t : PTile) (f1 f2 f3 : Reg) (mod : BitVec 6)
  | vsmax (t : PTile) (f1 f2 f3 : Reg) (mod : BitVec 6)
  | vdrain (t : PTile) (f1 f2 f3 : Reg) (mod : BitVec 6)
  | vld (t : PTile) (f1 f2 f3 : Reg) (mod : BitVec 6)
  | vst (t : PTile) (f1 f2 f3 : Reg) (mod : BitVec 6)
  | vsrch (t : PTile) (f1 f2 f3 : Reg) (mod : BitVec 6)
  | vrot (t : PTile) (f1 f2 f3 : Reg) (mod : BitVec 6)
  | vbcst (t : PTile) (f1 f2 f3 : Reg) (mod : BitVec 6)
  | vectorCommandComplete (t : PTile)
  -- Vat-lane queue (R306–R309)
  | leval (t : PTile) (f1 f2 f3 : Reg) (mod : BitVec 6)
  /-- `overRange` is how many conversions of the product raised an over-range flag (R123). -/
  | levalComplete (t : PTile) (lane : Fin 2) (overRange : Nat)
  | productVerdict (t : PTile) (lane : Fin 2)
  | ldrive (t : PTile) (f1 f2 f3 : Reg) (mod : BitVec 6)
  | loadDriveEnd (t : PTile) (lane : Fin 2)
  | substituteStart (t : PTile) (lane : Fin 2)
  | substituteComplete (t : PTile) (lane : Fin 2)
  -- DMA queue (R310, R311)
  | dcopy (t : PTile) (f1 f2 f3 : Reg) (mod : BitVec 6)
  | dcopyComplete (t : PTile)
  | tlbMissWalkDone (t : PTile)
  | dpress (t : PTile) (f1 f2 f3 : Reg) (mod : BitVec 6)
  | dmcast (t : PTile) (f1 f2 f3 : Reg) (mod : BitVec 6)
  | treeInjectionComplete (t : PTile)
  /-- The DMA access of tile `t` has waited past the limit at a bank of tile `bank`. -/
  | dmaWaitLimit (t bank : PTile)
  /-- The DMA access of tile `t` is served at the scratchpad of tile `dst`. -/
  | remoteScrAccess (t dst : PTile)
  -- Semaphores (R262–R273, R312, R313)
  | sadd (t : PTile) (f1 f2 f3 : Reg) (mod : BitVec 6)
  | ssub (t : PTile) (f1 f2 f3 : Reg) (mod : BitVec 6)
  | swait (t : PTile) (f1 f2 f3 : Reg) (mod : BitVec 6)
  | sread (t : PTile) (f1 f2 f3 : Reg) (mod : BitVec 6)
  | semAckArrival (t : PTile) (site : Fin 64) (ack : BitVec 64)
  | semAckTimeout (t : PTile)
  | semOpAdd (site : Fin 64) (src : PTile) (op : BitVec 64)
  | semOpSub (site : Fin 64) (src : PTile) (op : BitVec 64)
  | semOpWaitGe (site : Fin 64) (src : PTile) (op : BitVec 64)
  | semOpRead (site : Fin 64) (src : PTile) (op : BitVec 64)
  | semDeferredPerform (p : Fin 32)
  | semAudit (site : Fin 64)
  -- Network and press (R224–R250)
  | flitHop (r : PTile) (port : Fin 10) (vc : Vc) (crcOk : Bool)
  | transferArrival (t : PTile) (crcOk : Bool)
  | pressInput (r : PTile) (port : Fin 10) (checks : PressChecks)
  | multicastFlit (r : PTile) (port : Fin 10)
  | creditReturn (r : PTile) (port : Fin 10) (vc : Vc)
  | creditAuditStart
  | auditMarker (r : PTile) (port : Fin 10) (vc : Vc)
  | auditEcho (r : PTile) (port : Fin 10) (vc : Vc)
  -- Loft and translation (R199–R212, R366–R370)
  | loftRefreshSlot (site : Fin 64) (ch : Fin 16)
  | loftAccess (site : Fin 64) (t : PTile)
  | loftReadDone (site : Fin 64) (t : PTile)
  | configWrite (t : PTile) (w : CfgWrite)
  | tlbInvalidation (t : PTile) (handle : BitVec 16) (vpage : Nat)
  | pageTableEdit (e : PageEdit)
  | editNotice (t : PTile) (handle : BitVec 16)
  | editApply (p : Fin 32) (handle : BitVec 16)
  | frameRelease (p : Fin 32) (handle : BitVec 16)
  -- Vats and sizing (R105–R182)
  /-- Whole 64 B rows from row `row`; for each row of the write in order, how many of its readbacks differ, and how many
  columns are at fault where the third retry fails too (R112). -/
  | weightLoadWrite (t : PTile) (vat : Nat) (row : Nat) (codes : List Byte) (differs badCols : List Nat)
  | sizingSlot (t : PTile) (lane : Fin 2)
  | checkVectorVerdict (t : PTile) (lane : Fin 2)
  | closingCheckVector (t : PTile) (lane : Fin 2)
  | sizingPassResult (t : PTile) (lane : Fin 2) (bin : Fin 4)
  | sizingPassDiscard (t : PTile) (lane : Fin 2) (bin : Fin 4)
  | acceptanceReport (t : PTile) (lane : Fin 2) (bin : Fin 4)
  | binDue (t : PTile) (lane : Fin 2) (bin : Fin 4)
  | binBarred (t : PTile) (lane : Fin 2) (bin : Fin 4)
  | dueBarMessage (t : PTile) (lane : Fin 2) (bin : Fin 4) (bar : Bool) (count : Word)
  | warmUp (t : PTile) (lane : Fin 2) (bin : Fin 4)
  | warmUpTimeout (t : PTile) (lane : Fin 2)
  /-- `readback`: a DIG4 vat's readback equals the codes written (R169). -/
  | vatAcceptanceTest (t : PTile) (lane : Fin 2) (vat : Nat) (readback : Bool)
  -- Serving (R385–R423)
  | submit (session : Nat) (q : Request)
  | programChangeDone (p : Fin 32) (ok : Bool) (rows : List (PTile × Nat))
  | cancel (session : Nat) (id : BitVec 64)
  | stependReport (p : Fin 32) (t : PTile) (rep : Report)
  | couchRelease (p : Fin 32) (outs : List SlotLogits)
  | configWriteAck (p : Fin 32) (t : PTile)
  | configWriteResend (p : Fin 32)
  | stepGateAdd (p : Fin 32)
  | faultNotice (p : Fin 32) (n : Notice)
  | stageReplay (p : Fin 32)
  | stageOverrun (t : PTile)
  | deadlineExpiry (p : Fin 32) (slot : Fin 128)
  | slotFree (p : Fin 32) (slot : Fin 128)
  | portTokenFrame (p : Fin 32) (slot : Fin 128)
  -- Models, programs and adapters (R424–R452)
  | modelLoad (session : Nat) (p : Fin 32) (model : BitVec 16)
  | manifestFetched (p : Fin 32) (m : Manifest)
  /-- Shard 0 of a model package carries its descriptor. -/
  | shardReadComplete (p : Fin 32) (read : ShardRead) (desc : Option Descriptor)
  | shardReadTimeout (p : Fin 32)
  | loadCommit (p : Fin 32)
  /-- `read`: the digests with which the package's shards have arrived after the reads of R434. -/
  | programPackageLoad (session : Nat) (p : Fin 32) (narrow : Program) (exact : Option Program) (read : List Nat)
  /-- `rows`: as in `partitionReset`, in the TILE resets of the install. -/
  | programInstall (p : Fin 32) (rows : List (PTile × Nat))
  | adapterInstall (session : Nat) (p : Fin 32) (m : Manifest) (d : AdapterDesc)
  /-- `area`: the bytes that the gap windows of the install have written into the slot's area (R444). -/
  | adapterCommit (p : Fin 32) (slot : Fin 64) (area : List Byte)
  | adapterRetire (session : Nat) (p : Fin 32) (id : BitVec 16)
  /-- `start`: the starting package, or none for zero factors; `source`: where the training sequences come from. -/
  | tuningJob (session : Nat) (p : Fin 32) (model id : BitVec 16) (rank : Nat) (seed : BitVec 64) (steps : Nat)
      (start : Option Nat) (source : TrainSource)
  | adapterExport (session : Nat) (p : Fin 32)
  -- Faults and the black box (R453–R487)
  | stageWatchdog (t : PTile)
  | checkerSelfTest (t : PTile) (found : SelfTest)
  | supervisorFailure
  | refclkMonitorFail (input : Fin 2)
  | refclkRecovered (input : Fin 2)
  /-- `rows`: the suspect scratchpad rows that failed the march test (R197). -/
  | partitionReset (p : Fin 32) (failed : TestFails) (rows : List (PTile × Nat))
  /-- `rowsFailed`: the suspect rows that failed the march test (R197). -/
  | tileReset (t : PTile) (rowsFailed : List Nat)
  | pageSlotAudit (p : Fin 32)
  | bbxCopyForward (site : Fin 64)
  | bbxRecordArrival (r : BbxRec)
  | siteCounterRefresh (site : Fin 64)
  | bbxSnap
  | bbxFreezeComplete
  | bbxFlushComplete (ok : Bool)
  | tileCounterRead (t : PTile)
  -- Start-up, resets and low power (R488–R514)
  | por
  | startUp (obs : BootObs)
  | resetNLow
  | warmReset (obs : BootObs)
  | siteSupplyReset (site : Fin 64)
  | deviceSupplyReset
  | linkReset (peer : Bool) (port : Nat)
  -- Power and cooling (R515–R544)
  | supplyWarningWindowOpen (site : Fin 64) (d : Domain)
  | supplyWindowClose (site : Fin 64)
  | supplyWindowLong (site : Fin 64) (p : Fin 32)
  | supplyResetLevel (site : Fin 64) (d : Domain)
  | siteSupplyRecovered (obs : SiteObs)
  | input48vLow
  | input48vRestored (obs : List SiteObs)
  | vlkResetLevel (die : Fin 8)
  | governorWindow (site : Fin 64) (above : Bool) (held : Nat)
  | overcap (pin : BitVec 16)
  | thermalSample (site : Fin 64) (x : ThermSample)
  | throttleClear (site : Fin 64)
  | siteOffClear (site : Fin 64)
  | doze (session : Nat) (p : Fin 32)
  | wake (session : Nat) (p : Fin 32)
  | standby (session : Nat)
  | siteSleepEntry (site : Fin 64)
  -- Ports and sessions (R545–R572)
  | beacon (port : Fin 4)
  | hsInit (port : Fin 4) (node : Nat)
  | hsFin (hs : Nat) (sig : SigCheck)
  | handshakeTimeout (hs : Nat)
  | keyUpdate (session : Nat)
  | ack (session : Nat) (a : AckInfo)
  | retransmitTimeout (session : Nat)
  | sessionLoss (session : Nat)
  | resume (session : Nat) (ticket : Nat)
  | graceEnd (session : Nat)
  /-- `interval`: the interval in ms that the node asks for; none: the snapshot that is due. -/
  | telemetry (session : Nat) (interval : Option Nat)
  | bbxRead (session : Nat) (sel : Word) (count : Nat)
  | mgmtRegisterRead (session : Nat) (a : RegAddr)
  | mgmtRegisterWrite (session : Nat) (a : RegAddr) (v : Word)
  | flashImageWrite (session : Nat) (img : FlashImage)
  -- Identity (R573–R597)
  | attest (session : Nat) (nonce : BitVec 256) (parts : Word)
  | revokeOwner (session : Nat) (slot : Fin 4)
  | svnCommit (session : Nat) (furnish : Bool)
  /-- `torn`: power fails while the record is programmed. -/
  | lmsReservationWrite (torn : Bool)
  | lmsTreeBuild (done : Bool)
  -- Peer links and storage (R557–R566)
  | peerLinkUp (port : Fin 8) (partner : Nat) (partnerPort : Nat) (sig : SigCheck)
  | peerFrame (port : Fin 8) (f : PeerFrame)
  | peerLoss (port : Fin 8)
  | peerIdleTimeout (port : Fin 8)
  | peerShardRequest (port : Fin 8) (pubkey pkgid shard : Nat)
  | nvmeReadComplete (port : Fin 4) (error : Bool)
  | nvmeReadTimeout (port : Fin 4)
  | nvmeSurpriseRemoval (port : Fin 4)
  | nvmeInsertion (port : Fin 4) (speed : BitVec 3) (width : BitVec 4) (spaces : List Namespace)
  -- Management interfaces and registers
  | uartConsoleCommand (c : UartCmd)
  | smbusBlockRead (a : RegAddr)
  | siteNumClearFallback (site : Fin 64)
  | siteNumClearSat (site : Fin 64)
  | siteNumClearFmtfault (site : Fin 64)
  | siteChkClearAccecc (site : Fin 64)
  | siteChkClearVparity (site : Fin 64)
  | siteChkClearResidue (site : Fin 64)
  | siteChkClearAbft (site : Fin 64)
  | vatCntClearWretry (site : Fin 64)
  | vatCntClearOvr (site : Fin 64)
  | vatCntClearZero (site : Fin 64)
  | vatCntClearWide (site : Fin 64)
  | vatCntClearSplit (site : Fin 64)
  | vatCntClearCheck (site : Fin 64)
  | szCntClearAccfail (site : Fin 64)
  | szCntClearDiscard (site : Fin 64)
  | szCntClearChkvec (site : Fin 64)
  | siteScrClearDmawait (site : Fin 64)
  | siteScrClearCe (site : Fin 64)
  | loftClearUe (site : Fin 64)
  | loftClearCe (site : Fin 64)
  | netCntClearAudit (site : Fin 64)
  | netCntClearPressovf (site : Fin 64)
  | netCntClearFence (site : Fin 64)
  | netCntClearE2e (site : Fin 64)
  | netCntClearHcrc (site : Fin 64)
  | semCntClearAudit (site : Fin 64)
  | semCntClearError (site : Fin 64)
  | semCntClearFence (site : Fin 64)
  | siteKvClearVerfault (site : Fin 64)
  | siteKvClearHold (site : Fin 64)
  | supWarmReq (session : Nat) (key : Word)
  | pwrCapWrite (v : Word)
  | plkPortLossesRead (port : Fin 8)
  | registerWrite (a : RegAddr) (v : Word)
  | tokenCountAudit
  /-- `bytes`: the 32 bytes of the frame's header; `tagOk`: the tag of an encrypted frame is right. -/
  | droppedFrame (port : Fin 4) (bytes : List (BitVec 8)) (tagOk : Bool)
  | portLanesUp (port : Fin 4)
  | nvmeLinkDown (port : Fin 4)
  /-- A boundary scan of the ring-die I/O, or a private instruction. -/
  | jtagScan (priv : Bool) (tdi : List Bool)
deriving DecidableEq, Repr

end Sys2Proof
end

