-- ==== Sys2Proof/Decode.lean ====
section
/-! DEFINITION. The commands that a word spells by the bits of spec/opcode_table.json.  No row of the table gives
bits (each has a mnemonic, a rule and a summary only), so no word spells a command. -/

namespace Sys2Proof

/-- The command that an `nbits`-bit word spells: none, for want of a row with bits. -/
def decodeTableWord (_nbits _w : Nat) : Option Instr := none

end Sys2Proof
end

