-- ==== Sys2Proof/Config.lean ====
section
/-! DEFINITION. What an implementation fixes and the spec leaves open: the free values.  Each is an opaque
constant with no body, so a statement about the machine holds whatever its value is.  The first argument of
the converter codes is the model's own counter `nonce`, which the machine advances at each use. -/

namespace Sys2Proof.Config

/-- The code that a data-column ADC returns for one conversion (R120, R123): use number, conversion number.
DESIGN CHOICE log entry 5: the code is an analog reading, free within its 6 bits. -/
opaque dataCode : Nat → Nat → BitVec 6

/-- The code of a check converter for one conversion, free within its 12 bits (log entry 5). -/
opaque checkCode : Nat → Nat → BitVec 12

/-- `exp` of an FP32 value where R86 leaves the last places open (log entry 6). -/
opaque expF32 : Word → Word

/-- The reciprocal where R86 leaves the last place open (log entry 6). -/
opaque recipF32 : Word → Word

/-- The reciprocal square root where R86 leaves the last places open (log entry 6). -/
opaque rsqrtF32 : Word → Word

/-- Whether the second of two bit patterns stays where R90 and R91 rank them equal, with equal indices: zeros of either sign,
NaNs (log entry 59). -/
opaque tie : BitVec 32 → BitVec 32 → Bool

/-- The VALUE that R269 restores after a breach of R270, which R270 calls undefined: use number, entry key
(log entry 7). -/
opaque undefinedValue : Nat → Nat → Word

/-- The resume ticket of a session (R554), a number of 32 bytes that the device draws (log entry 8). -/
opaque ticket : Nat → Nat

/-- Where the supervisor puts a partition's root table in the loft of its supervisor site, as bits [33:12] of the offset: R208
gives no place (log entry 65). -/
opaque rootPage : Nat → BitVec 22

/-- Where the supervisor puts a page table of a sequence handle in that loft, as bits [33:12] of the offset: partition, handle, level
1 to 3, number of the table among those of the level (log entry 73). -/
opaque tablePage : Nat → Nat → Nat → Nat → BitVec 22

/-- A byte that admission copies from a frame that no slot and no node of the prefix tree holds any more: use number, address
(log entry 73). -/
opaque sharedByte : Nat → Nat → BitVec 8

/-- SHA-384 of bytes, as a number; the digest of the ECDSA P-384 public key that a seed gives; the tree identifier I and the root T[1]
of the HSS public key that it gives (R573, R574; log entry 76). -/
opaque sha384 : List (BitVec 8) → Nat
opaque pubDigest : Nat → Nat
opaque lmsId : Nat → Nat
opaque lmsRoot : Nat → Nat

/-- What a seed's keys sign: r and s of the ECDSA signature over a digest, and byte `i` of the HSS signature with a leaf over bytes
(R449, R552, R589; log entry 76). -/
opaque ecdsaR : Nat → Nat → Nat
opaque ecdsaS : Nat → Nat → Nat
opaque hssByte : Nat → Nat → List (BitVec 8) → Nat → BitVec 8

/-- The ECDH shared secret of a handshake, by its number; HKDF with SHA-384 of a secret for a purpose; AES-256-GCM of a key, a nonce,
associated data and a payload: ciphertext and tag (R546, R552; log entry 54). -/
opaque ecdh : Nat → Nat
opaque hkdf : Nat → Nat → Nat
opaque gcm : Nat → List (BitVec 8) → List (BitVec 8) → List (BitVec 8) → List (BitVec 8)

/-- The frames that the device can accept beyond ACK, which it advertises as CREDIT: use number (R550; log entry 47). -/
opaque deviceCredit : Nat → Nat

/-- The code of a die's kind in the die manifest (R575), by die index (log entry 76). -/
opaque dieKind : Nat → BitVec 8

/-- The bytes of a message's payload, or of an adapter descriptor (0x100), where no rule lays them out: a number of the type, its fields
(R442, R547; log entries 31, 54). -/
opaque payload : Nat → List Nat → List (BitVec 8)

/-- The package identifier, security version and version of an adapter package that the device forms, and the FP32 scale of a target of it
(R442, R449; log entry 31): use number, target. -/
opaque exportPkg : Nat → Nat
opaque exportSvn : Nat → Nat
opaque exportVersion : Nat → Nat
opaque exportScale : Nat → Nat → BitVec 32

/-- The 48 V input reading and mean input power of PWR_IN, which follow the supply outside the block (R540,
log entry 9): supervisor counter. -/
opaque inputReading : Nat → Word

end Sys2Proof.Config
end

