-- ==== Sys2Proof/Machine/Map.lean ====
section
/-! DEFINITION. Sparse maps from natural numbers in one canonical form: keys strictly rising, and no entry equal
to the value an unlisted key reads as.  Every memory and every large array of the device is one of these, so
that equal contents are equal data.  `d` is the value of an unlisted key throughout. -/

namespace Sys2Proof.Machine

/-- A sparse map: a list of keys and values. -/
abbrev SMap (V : Type) := List (Nat × V)

namespace SMap

/-- The value at key `k`. -/
def get {V : Type} (d : V) : List (Nat × V) → Nat → V
  | [], _ => d
  | (a, v) :: r, k => if k = a then v else get d r k

/-- Puts `v` at key `k`, keeping the keys in order. -/
def put {V : Type} : List (Nat × V) → Nat → V → List (Nat × V)
  | [], k, v => [(k, v)]
  | (a, w) :: r, k, v =>
    if k = a then (k, v) :: r else if k < a then (k, v) :: (a, w) :: r else (a, w) :: put r k v

/-- Removes every entry of key `k`. -/
def del {V : Type} : List (Nat × V) → Nat → List (Nat × V)
  | [], _ => []
  | (a, w) :: r, k => if k = a then del r k else (a, w) :: del r k

/-- Writes `v` at key `k`; writing the value of an unlisted key removes the entry. -/
def set {V : Type} [DecidableEq V] (d : V) (m : List (Nat × V)) (k : Nat) (v : V) : List (Nat × V) :=
  if v = d then del m k else put m k v

/-- Writes `f 0`, …, `f (n - 1)` at keys `b`, …, `b + n - 1`. -/
def setRange {V : Type} [DecidableEq V] (d : V) (m : List (Nat × V)) (b : Nat) : Nat → (Nat → V) → List (Nat × V)
  | 0, _ => m
  | n + 1, f => set d (setRange d m b n f) (b + n) (f n)

/-- Writes a list of values from key `b`. -/
def setList {V : Type} [DecidableEq V] (d : V) : List (Nat × V) → Nat → List V → List (Nat × V)
  | m, _, [] => m
  | m, b, v :: vs => setList d (set d m b v) (b + 1) vs

/-- The values at keys `b`, …, `b + n - 1`. -/
def getList {V : Type} (d : V) (m : List (Nat × V)) (b n : Nat) : List V :=
  (List.range n).map fun i => get d m (b + i)

/-- Removes every entry with a key from `lo` to `hi - 1`. -/
def clear {V : Type} (m : List (Nat × V)) (lo hi : Nat) : List (Nat × V) :=
  m.filter fun e => e.1 < lo || hi ≤ e.1

/-- Changes every listed value, dropping those that become the default. -/
def mapVals {V : Type} [DecidableEq V] (d : V) (f : Nat → V → V) : List (Nat × V) → List (Nat × V)
  | [] => []
  | (a, v) :: r => if f a v = d then del (mapVals d f r) a else (a, f a v) :: mapVals d f r

/-- The key is listed. -/
def has {V : Type} : List (Nat × V) → Nat → Bool
  | [], _ => false
  | (a, _) :: r, k => k == a || has r k

/-- Changes the values at the listed keys. -/
def modifyAll {V : Type} [DecidableEq V] (d : V) (f : Nat → V → V) : List Nat → List (Nat × V) → List (Nat × V)
  | [], m => m
  | k :: ks, m => modifyAll d f ks (set d m k (f k (get d m k)))

/-- The keys all exceed `lo` and rise strictly. -/
def rising {V : Type} : Option Nat → List (Nat × V) → Bool
  | _, [] => true
  | lo, (a, _) :: r => (match lo with | none => true | some b => b < a) && rising (some a) r

/-- The canonical form. -/
def wf {V : Type} [DecidableEq V] (d : V) (m : List (Nat × V)) : Bool :=
  rising none m && m.all fun e => e.2 ≠ d

end SMap

end Sys2Proof.Machine
end

