-- ==== Sys2Proof/Machine/State.lean ====
section
/-! DEFINITION. The state of the block as plain data: tiles, lanes, vats, lofts, semaphore stores, the network,
partitions with their couches, sessions, the supervisor, the black box, flash and fuses; the queue of waiting
commands; and the state right after a power-on reset. -/

namespace Sys2Proof.Machine

/-- Why the machine stops with a fault.  No command of this model faults: every row of the table has an
effect on every input (see NOTES.md, Stops). -/
inductive Fault where
  /-- Raised by nothing at present; kept so that a later row about hardware the spec says is absent has a
  named fault.  Safe: the machine stops. -/
  | absentUnit
deriving DecidableEq, Repr

/-- Why a command has no meaning. -/
inductive Refusal where
  /-- Raised by `exec` for a row that has no meaning yet.  Safe: the machine stops. -/
  | notModelled (mnemonic : String)
deriving DecidableEq, Repr

/-! ### Unit queues and the tile -/

/-- A queue command's operation (R295, R298, R302, R306, R310, R312). -/
inductive QOp where
  | qwait | wld | wldv | wsp | osp
  | vadd | vsub | vmul | vfma | vmin | vmax | vand | vor | vxor | vshl | vshr | vclt | vceq | vsel | vcvt | venc
  | vexp | vrcp | vrsq | vred | vscan | vamax | vtopk | vdraw | vsmax | vdrain | vld | vst | vsrch | vrot | vbcst
  | leval | ldrive | dcopy | dpress | dmcast | sadd | ssub | swait | sread
deriving DecidableEq, Repr

/-- Where a queued command stands: written, issued to its unit, or completed but behind an earlier one. -/
inductive CmdSt where
  | queued | issued | done
deriving DecidableEq, Repr

/-- One command in a unit queue with the scalar values copied at its issue (R293). -/
structure QCmd where
  op : QOp
  f1 : Reg
  f2 : Reg
  f3 : Reg
  mod : BitVec 6
  /-- The operand values of the registers named by F1, F2, F3; a pair's high word in bits [63:32]. -/
  a : BitVec 64
  b : BitVec 64
  c : BitVec 64
  /-- The PC and the stage counter at issue (R312, R318). -/
  pc : BitVec 16
  tag : BitVec 16
  /-- Scalar issue order, for the scoreboard (R315). -/
  seq : Nat
  st : CmdSt
  /-- The slip causes already counted for this command (R318). -/
  slipped : List Nat
  /-- An LEVAL that runs as a substitute (R308). -/
  sub : Bool
  /-- Cycles in net counts since a semaphore operation was sent (R272). -/
  age : Nat
  /-- The tile's cycle count at the issue to the unit (R192). -/
  at_ : Nat
  /-- An LEVAL that has run while the supply-warning flag was raised (R130), and the lane's count of calibration swaps
  at its issue (R158). -/
  win : Bool
  swaps : Nat
  /-- Its accesses of banks that have lost a port, each counted once (R192, R318). -/
  lost : List Nat
  /-- The turn in which it asked for the vat that it waits for (R131). -/
  vatAsk : Option Nat
deriving DecidableEq, Repr

/-- The planned wait that the scalar core is in (R290–R292). -/
inductive Wait where
  | none | stage (bin : BitVec 2) | send | stepend | fence (mask : BitVec 5)
deriving DecidableEq, Repr

/-- What STAGE saves (R283, R291). -/
structure Ckpt where
  regs : SMap Word
  pc : BitVec 16
  stagecnt : BitVec 16
  qdone : SMap (BitVec 16)
deriving DecidableEq, Repr

/-- The scalar core (R283, R289). -/
structure Scalar where
  /-- s1–s31; s0 is never listed and reads as zero. -/
  regs : SMap Word
  /-- The cycle from which a register's result can be read without waiting (R288, R314). -/
  ready : SMap Nat
  pc : BitVec 16
  entry : BitVec 16
  cyc : BitVec 48
  stagecnt : BitVec 16
  step : BitVec 64
  bin : BitVec 2
  pressovf : BitVec 16
  slipsTotal : BitVec 16
  slipsStep : BitVec 16
  slip1a : Word
  slip1b : Word
  /-- Completion counts by queue code (R294). -/
  qdone : SMap (BitVec 16)
  seq : Nat
  wait : Wait
  /-- The causes of waiting that the next instruction has already counted (R318). -/
  blocked : List Nat
  /-- Stopped by a command fault, until a TILE or PARTITION reset (R319). -/
  halted : Bool
  /-- Stopped by an uncorrectable word of the instruction store, until a PARTITION reset (R284). -/
  stopped : Bool
  ckpt : Ckpt
deriving DecidableEq, Repr

/-- A weight buffer (R62): format, depth, codes and scale bytes as loaded. -/
structure WBuf where
  loaded : Bool
  fmt : BitVec 4
  kt : Nat
  codes : List Byte
  scales : List Byte
  /-- Column sums of the checksum, formed during the load (R75, R79). -/
  sums : List Int
  ecc : Ecc
deriving DecidableEq, Repr

/-- The state of a scratchpad bank (R189). -/
inductive Bk where
  | on | ret | off
deriving DecidableEq, Repr

/-- A bank's present state and the state a running change leads to (R190). -/
structure Bank where
  cur : Bk
  next : Option Bk
deriving DecidableEq, Repr

/-- A translation-buffer entry (R212). -/
structure TlbEntry where
  handle : BitVec 16
  vpage : Nat
  site : Nat
  addr : Nat
  w : Bool
  ver : BitVec 16
deriving DecidableEq, Repr

/-- Where the DMA engine's current copy stands. -/
inductive DmaPh where
  | idle | walk (handle : BitVec 16) (vpage : Nat)
  /-- Waiting for the vat that it reads (R131). -/
  | vatWait
  | access | loftQueued | served
deriving DecidableEq, Repr

/-- The address translation unit and walk table of a tile (R212, R366, R369). -/
structure Dma where
  ph : DmaPh
  /-- Bytes of the current copy that are done (a copy in SEQ space is split at pages, R212). -/
  pos : Nat
  /-- While an access of the present part stands at a bank: the bank's tile by key, and that tile's cycle count at the arrival or
  at the last wait counted; and how many of the part's accesses have been counted (R193). -/
  since : Option (Nat × Nat)
  waited : Nat
  /-- Most recently used first, at most 64. -/
  tlb : List TlbEntry
  walks : List (BitVec 16)
  walkOvf : Bool
  /-- The version first used for each page in this stage (R369). -/
  vers : List (BitVec 16 × Nat × BitVec 16)
  /-- Edit notices whose acknowledgement waits for SEND (R367). -/
  held : List (BitVec 16)
deriving DecidableEq, Repr

/-- The memories of a tile. -/
structure TileMem where
  /-- The scratchpad (R187). -/
  scr : SMap Byte
  banks : SMap Bank
  /-- Stored error marks per 8 B word (R188). -/
  scrEcc : SMap Ecc
  /-- The pending list of suspect rows and the rows that have given one corrected error (R197). -/
  suspects : List Nat
  onceBad : List Nat
  /-- Spare rows in use per bank (R196). -/
  spareRows : SMap Nat
  /-- The instruction store and its stored error marks (R283, R284). -/
  istore : SMap Word
  istoreEcc : SMap Ecc
deriving DecidableEq, Repr

/-- The matrix core (R62). -/
structure Matrix where
  wb0 : WBuf
  wb1 : WBuf
  /-- Accumulator words at key row × 64 + column. -/
  acc : SMap Word
  /-- Rows that hold I32 values, and their overflow flags (R68). -/
  accInt : SMap Bool
  accOvf : SMap Bool
  accEcc : SMap Ecc
  /-- ABFT verdicts that have not arrived (R77), and for each, oldest first, whether an identity of R79 failed. -/
  abftDue : Nat
  abftBad : List Bool
  /-- The lane whose substitute runs (R309). -/
  sub : Option (Fin 2)
deriving DecidableEq, Repr

/-- The vector core (R82): register word at key register × 64 + lane, and the error marks of R94. -/
structure Vector' where
  v : SMap Word
  /-- The overflow flag read with an accumulator row, by the register that its drain wrote (R68, log entry 60). -/
  ovf : SMap Bool
  parityErr : SMap Bool
  /-- A residue or network-parity error that the next command will meet (R95). -/
  residueUpset : Bool
deriving DecidableEq, Repr

/-- The stage clock of a tile (R326) and the stage watchdog of its router (R461). -/
structure StageClock where
  /-- Stages begun in the step; the stage that runs is number `no - 1`. -/
  no : Nat
  /-- The supervisor counter at the last STAGE, which R522 measures from. -/
  began : BitVec 64
  /-- Arith cycles since STAGE while the stage runs. -/
  cycles : Nat
  running : Bool
  /-- Arith cycles since the step's first STAGE. -/
  stepCycles : Nat
  /-- Cycles the governor holds this tile (R335). -/
  held : Nat
  budgets : List StageInfo
  /-- The tile's lanes that each stage keeps active (bit 0 lane 0, bit 1 lane 1), and whether its die is shared, on which every
  lane is active in every stage and one without a product is in load drive (R150–R153). -/
  active : List (BitVec 2)
  shared : Bool
  wdCount : Nat
  wdRunning : Bool
  wdLimit : Nat
deriving DecidableEq, Repr

/-- What the tile reports to the couch (R292), and the events it has logged this step. -/
structure TileRep where
  rep : Report
  logged : List (BitVec 16)
  /-- A recoverable event was marked in the current stage (R402). -/
  recovInStage : Bool
deriving DecidableEq, Repr

/-- Where the tile stands on the logical grid, and its health. -/
structure Place where
  c : BitVec 7
  r : BitVec 6
  part : Option (Fin 32)
  /-- Declared bad in the repair log (R465). -/
  bad : Bool
  /-- Found to fail: it is declared bad and replaced at the PARTITION reset that is due, or at once where it belongs to no
  partition (R133, R172, R174, R198). -/
  failed : Bool
  /-- A lockstep mismatch that the next instruction will show (R285). -/
  lockstepUpset : Bool
  /-- The supervisor's extended cycle counter of the tile (R511). -/
  ext : BitVec 64
deriving DecidableEq, Repr

/-- A bank port taken by the scalar core or by the output rows of a lane (R192): the unit's rank, the cycle, the bank. -/
structure PortUse where
  rank : Nat
  cycle : Nat
  bank : Nat
deriving DecidableEq, Repr

/-- A physical tile. -/
structure Tile where
  sc : Scalar
  mq : List QCmd
  vq : List QCmd
  lq : List QCmd
  dq : List QCmd
  sq : List QCmd
  mem : TileMem
  mx : Matrix
  vec : Vector'
  dma : Dma
  clk : StageClock
  rp : TileRep
  pl : Place
  /-- The ports taken in the last 64 cycles. -/
  ports : List PortUse
deriving DecidableEq, Repr

/-! ### Vats and lanes -/

/-- A vat's descriptor (R110) and what the write path keeps for it (R107, R164, R168). -/
structure Vat where
  mode : BitVec 2
  part : Option (Fin 32)
  model : BitVec 16
  kw : List (BitVec 5)
  spares : Nat
  bad : Bool
  /-- Count cells C0–C3 at key row × 4 + k. -/
  counts : SMap Nat
  ta : List Nat
  tb : List Nat
  sTop : List Int
  sBot : List Int
  /-- Rows written by the present load, from row 0 on. -/
  rows : Nat
  /-- An acceptance test is owed; test a has passed; how many tests have failed; the tests have passed. -/
  testDue : Bool
  testA : Bool
  testFails : Nat
  tested : Bool
  /-- A SUPPLY reset has lost what it held, and its slice is not written again: MODE, BOUND and MODEL read as reset (R143). -/
  gone : Bool
deriving DecidableEq, Repr

/-- A sizing pass in progress (R154): slots used, slots since its start, sums of codes at converter × 4 + pattern. -/
structure Pass where
  slots : Nat
  total : Nat
  sums : SMap Nat
deriving DecidableEq, Repr

/-- One load bin of a lane (R181) with the lane's own view of its marks (R163). -/
structure Bin where
  held : Bool
  count : Word
  ts : BitVec 64
  rej : Word
  barwhy : BitVec 2
  warm : Bool
  wrap : Bool
  barred : Bool
  due : Bool
  lbarred : Bool
  ldue : Bool
  /-- Successive accepted passes since the values were last lost, 0–2. -/
  accepted : Nat
  pass : Option Pass
  /-- An acceptance that the supervisor has not stamped yet (R160). -/
  unstamped : Bool
deriving DecidableEq, Repr

/-- Load drive of a lane (R306): off, on, or ending at the end of its lane slot. -/
inductive Drive where
  | off | on | ending
deriving DecidableEq, Repr

/-- A product's check sums, waiting for its verdict (R128). -/
structure Verd where
  d : Int
  a : Int
  c : Int
  t0 : Int
  /-- R117: the product was exact zero, and its check passes. -/
  zero : Bool
  /-- An over-range flag was raised (R123). -/
  ovr : Bool
  /-- It was evaluated in a supply-warning window (R130). -/
  win : Bool
deriving DecidableEq, Repr

/-- The calibration values of a lane: gain and offset at key bin × 520 + converter, density at key converter; 0–511
data, 512–519 check. -/
structure CalVals where
  gain : SMap (BitVec 16)
  offset : SMap (BitVec 12)
  dens : SMap (BitVec 16)
deriving DecidableEq, Repr

/-- A vat lane (R144, R180). -/
structure Lane where
  bins : SMap Bin
  /-- The values in use, as in `CalVals`. -/
  gain : SMap (BitVec 16)
  offset : SMap (BitVec 12)
  dens : SMap (BitVec 16)
  /-- The values before the last swap, and the number of swaps: a product that began before it keeps them (R158). -/
  prev : CalVals
  swaps : Nat
  succ : Nat
  qcount : BitVec 8
  quar : Bool
  underTest : Bool
  lastVat : BitVec 7
  ovr : Bool
  chkfail : Bool
  drive : Drive
  /-- A product has been evaluated since the last check vector (R166). -/
  since : Bool
  /-- The last product failed its check in this step (R129), or a check vector did (R167). -/
  failedChk : Bool
  failedCv : Bool
  /-- Vat cycles since slot 0 of the stage (R145), sizing slots already run in the stage. -/
  slotClock : Nat
  slotsRun : Nat
  bin : BitVec 2
  verdicts : List Verd
  /-- Check vectors whose verdicts are due: passed or not. -/
  cvs : List Bool
  /-- The last sizing slot is free for an acceptance product (R169). -/
  accSlot : Bool
  /-- A warm-up is owed: the partition does not open before it is done (R171–R173). -/
  rewarm : Bool
  /-- A TILE reset has cleared the bins of the quarantined lane, and warm-up may run on it (R174). -/
  lifting : Bool
deriving DecidableEq, Repr

/-! ### Sites -/

/-- The seven-value thermal and supply state of a site (R542, R544), its loft status (R221), its clocks. -/
structure Site where
  /-- The domains are up. -/
  up : Bool
  /-- The arith and vat clocks run; stopped in sleep and site-off. -/
  arith : Bool
  sleep : Bool
  /-- The supply-warning window: the counter value at which it opened. -/
  window : Option (BitVec 64)
  /-- A window that R522 has already counted as long. -/
  windowLong : Bool
  dom : BitVec 3
  warn : Word
  resets : BitVec 16
  long : BitVec 16
  /-- A SUPPLY reset is running until recovery (R524). -/
  inReset : Bool
  selfref : Bool
  dbl : Bool
  scrub : Word
  /-- Lines that patrol scrub has read, by channel (R204). -/
  scrubAt : SMap Nat
  pprUsed : BitVec 8
  tcmp : BitVec 12
  tbase : BitVec 12
  tloft : BitVec 12
  tstate : BitVec 2
  throt : BitVec 16
  offs : BitVec 16
  excl : BitVec 28
  /-- Full fan demand is latched for a die of the site (R531). -/
  fanFull : Bool
  /-- The supervisor counter at which the present run below the clearing temperatures began. -/
  coolSince : Option (BitVec 64)
  /-- The site's copy of the supervisor counter (R477). -/
  ts : BitVec 64
  seqSel : BitVec 5
  vsel : Word
  semSel : BitVec 10
  waitHigh : Nat
  auditLast : Word
  /-- Power over its part of the share in the last window (R335). -/
  govHold : Nat
  /-- The counter value at which the site's warm-up started (R172). -/
  warmFrom : BitVec 64
  /-- The bin of the warm-up stage that runs on the site, and the lanes that it keeps active, by their keys (R171). -/
  warmBin : BitVec 2
  warmSet : List Nat
deriving DecidableEq, Repr

/-! ### Semaphores -/

/-- An entry of a semaphore store (R259). -/
structure Sem where
  value : Word
  seq : Bool
  /-- Owning partition 0–31, or 63. -/
  owner : BitVec 6
  share : Word
  init : Word
  tag : BitVec 16
  snap : Word
  /-- ADDs or SUBs of one step have carried two tags, which R270 forbids, and SNAP has not been taken anew in a later step: what
  R269 restores is undefined. -/
  mixed : Bool
  /-- The owner's step of the last ADD or SUB performed, if one was since the last initialisation (R270). -/
  step : Option Nat
  ecc : Ecc
deriving DecidableEq, Repr

/-- A waiter of a store, oldest first in the list (R265). -/
structure Waiter where
  site : Fin 64
  index : BitVec 10
  n : Word
  tag : BitVec 16
  part : Fin 32
  src : PTile
deriving DecidableEq, Repr

/-- A deferred operation (R268). -/
structure Deferred where
  site : Fin 64
  part : Fin 32
  word : BitVec 64
  /-- The step that carries its tag: that of the tile that sent it (R268). -/
  step : Nat
deriving DecidableEq, Repr

/-! ### Network -/

/-- What a flit carries. -/
inductive Msg where
  | semOp (word : BitVec 64)
  | semAck (word : BitVec 64)
  | report (step : BitVec 64) (rep : Report)
  | notice (n : Notice)
  | bbx (r : BbxRec)
  | cfg (w : CfgWrite)
  | cfgAck
  | freeze
  | counter
  | sizing (lane : Fin 2) (bin : Fin 4) (bar : Bool) (count : Word)
  | accepted (lane : Fin 2) (bin : Fin 4)
  | edit (handle : BitVec 16)
  | editAck (handle : BitVec 16)
  | tlbInval (handle : BitVec 16) (vpage : Nat)
  | invalAck (handle : BitVec 16)
  | data (last : Bool)
  | tree (id : BitVec 8) (rank : BitVec 4) (use : Bool) (index : Nat) (words : List Word) (ovf : Bool)
deriving DecidableEq, Repr

/-- A flit in the network: where it is, the port it entered by, where it goes (router and port). -/
structure Flit where
  vc : Vc
  /-- Device physical column and row of the router that holds it. -/
  col : Nat
  row : Nat
  inPort : Nat
  dcol : Nat
  drow : Nat
  dport : Nat
  part : Option (Fin 32)
  src : Nat
  msg : Msg
  /-- The link channel whose buffer slot it holds, by its key in `Net.links`. -/
  via : Option Nat
  /-- Column and row of the router where it was injected: with its destination it fixes its path (R227). -/
  origin : Nat × Nat
  /-- A delivery that waits at a bank of its tile: the tile's cycle count at its arrival (R190, R193). -/
  bankWait : Option Nat
  /-- It has passed a router of a site in a supply-warning window: what it carries is invalid (R521). -/
  inval : Bool
deriving DecidableEq, Repr

/-- The counts of one channel of a link direction (R249): S, G at the sender, A kept as its difference from the
buffer depth; R, C at the receiver; the marker and the echo that an audit has in flight. -/
structure LinkCnt where
  s : BitVec 16
  g : BitVec 16
  aOff : BitVec 16
  r : BitVec 16
  c : BitVec 16
  marker : Option (BitVec 16)
  echo : Option (BitVec 16)
  /-- A check of the audit has failed on it, and it waits to be re-initialised (R250). -/
  failed : Bool
deriving DecidableEq, Repr

/-- A press input waiting in a router's press unit (R241, R244). -/
structure PressIn where
  /-- Router key, port, tree id. -/
  router : Nat
  port : Nat
  id : BitVec 8
  rank : BitVec 4
  use : Bool
  index : Nat
  words : List Word
  ovf : Bool
  inval : Bool
deriving DecidableEq, Repr

structure Net where
  flits : List Flit
  /-- Key: (router key × 10 + port) × 4 + channel. -/
  links : SMap LinkCnt
  /-- Tree entries at key router key × 256 + id. -/
  trees : SMap TreeEntry
  press : List PressIn
  /-- Routers declared bad (R228). -/
  badRouters : List Nat
  /-- Where the next turn of the round robin begins: an input port for each output channel, by its key in `links`; a channel
  for each output port, by router key × 10 + port (R236). -/
  turns : SMap Nat
  vcTurns : SMap Nat
  /-- The supervisor's attachment: false SUP-P, true SUP-S (R614). -/
  atStandby : Bool
deriving DecidableEq, Repr

/-! ### Serving -/

inductive SlotSt where
  | free | prefill | decode | ended
deriving DecidableEq, Repr

/-- A terminal status with its detail and the tokens released (R421). -/
structure Status where
  code : BitVec 8
  detail : BitVec 8
  released : Nat
deriving DecidableEq, Repr

/-- A token frame at the port die (R548). -/
structure TokFrame where
  k : Nat
  toks : List Word
deriving DecidableEq, Repr

/-- A slot of a partition (R385, R386). -/
structure Slot where
  st : SlotSt
  q : Option Request
  session : Nat
  lc : Nat
  lres : Nat
  /-- Positions of the prompt, and the order of admission. -/
  lp : Nat
  order : Nat
  effExact : Bool
  ht : BitVec 16
  hd : BitVec 16
  adapt : Option (Fin 64)
  /-- The whole prompt, and the blocks of it that the prefix tree held at admission (R414). -/
  prompt : List Word
  matched : Nat
  /-- Frames reserved and written, frames given to the tree, tree nodes (by id) referenced. -/
  rsv : Nat
  used : Nat
  given : Nat
  nodes : List Nat
  /-- Positions in flight, as the slot table of the step states (R386). -/
  nf : Nat
  /-- Attention chunks the slot takes (R390). -/
  chunks : Nat
  /-- The released stream, the positions handed to the port, and the port die's own count (R473). -/
  toks : List Word
  handed : Nat
  sent : Nat
  portQ : List TokFrame
  masked : Bool
  status : Option Status
  /-- The STATUS frame has been sent (R420, R421). -/
  statusSent : Bool
  /-- Arrival, bounds and the leaving of the last token, in units of 10 ns (R397). -/
  tArr : Nat
  bf : Nat
  bt : Nat
  tLast : Nat
  /-- The counter value at which the slot ended, and its step then. -/
  tEnd : Nat
deriving DecidableEq, Repr

/-- The couch of a partition (R399–R406). -/
structure Couch where
  /-- The step being judged. -/
  step : BitVec 64
  /-- The partition has opened or reopened and its next gate add is that of step 0 (R387). -/
  fresh : Bool
  /-- No stage runs: from the last STEPEND report to the gate add (R615). -/
  gap : Bool
  /-- Tiles whose STEPEND report has arrived. -/
  reports : List Nat
  /-- The step's reports marked something that is not yet replayed. -/
  dirty : Bool
  timing : Bool
  /-- Replay: done in this step; its stage tag; the supervisor still has to perform it. -/
  replayed : Bool
  /-- None: the supervisor recorded the event before any stage of the step had begun. -/
  replayTag : Option (BitVec 16)
  replayDue : Bool
  /-- A supply window's event in this step. -/
  supplyEvent : Bool
  /-- The status that the step's first supply or thermal event gives (R526). -/
  first : Option (BitVec 8)
  /-- Tiles named by the step's event records (R465). -/
  named : List PTile
  /-- The step's tokens have been released or withheld. -/
  released : Bool
  /-- Peer ports over which the sending partition's clean verdict for the step has arrived (R563). -/
  peers : List (Fin 8)
deriving DecidableEq, Repr

/-- A node of the partition's tree of shared prompt blocks (R413). -/
structure PNode where
  id : Nat
  model : BitVec 16
  adapter : Option (BitVec 16 × Nat)
  exact : Bool
  seed : BitVec 64
  /-- The token blocks from the root, 64 tokens each. -/
  path : List (List Word)
  refs : Nat
  frames : Nat
  /-- Those frames, by page of the handle's range (R413). -/
  pages : List (Nat × Nat)
  /-- The counter value at which it was last matched. -/
  matched : Nat
deriving DecidableEq, Repr

/-- A sequence page that the supervisor has mapped (R345): its frame, as site × 2^18 + offset ÷ 64 KiB. -/
structure PageMap where
  handle : BitVec 16
  vpage : Nat
  frame : Nat
  /-- A writable frame of the slot's own reservation, not one shared with the prefix tree. -/
  own : Bool
  /-- Its removal waits in the edit queue (R420). -/
  out : Bool
deriving DecidableEq, Repr

/-- An edit queue of a sequence handle (R367). -/
structure EditQ where
  handle : BitVec 16
  edits : List PageEdit
  /-- Tiles whose acknowledgement is missing. -/
  waiting : List Nat
  /-- Frames to return when it is applied and the invalidation acknowledged (R370). -/
  frames : Nat
  applied : Bool
  /-- The pages whose translations have been invalidated, in the order sent (R211). -/
  invals : List Nat
deriving DecidableEq, Repr

/-! ### Models and adapters -/

/-- A model resident in a partition. -/
structure ModelInfo where
  entry : Nat
  id : BitVec 16
  desc : Descriptor
  svn : Nat
  lastAdmit : Nat
  /-- The vats of its slices: tile key × 96 + vat. -/
  vats : List Nat
  /-- The digest of its package's manifest (R442). -/
  digest : Nat
  /-- A SUPPLY reset has lost slices of it that are to be written again: RESIDENT reads as reset until the partition opens (R450). -/
  gone : Bool
deriving DecidableEq, Repr

/-- The load of one partition (R433, R450). -/
structure Load where
  state : BitVec 4
  reason : BitVec 4
  /-- Queued swap-set entries, in order, with the sessions to answer. -/
  queue : List (Nat × List Nat)
  entry : Option Nat
  answer : List Nat
  model : BitVec 16
  shard : BitVec 16
  nshard : BitVec 16
  retry : Word
  loads : BitVec 16
  /-- The source in use, by position, and the failed reads of the current shard from it. -/
  src : Nat
  tries : Nat
  manifest : Option Manifest
  desc : Option Descriptor
  /-- Vats chosen for the slices, and victims evicted. -/
  vats : List Nat
  victims : List ModelInfo
  /-- Loads that a reset has stopped or found waiting: they start once the partition reopens (R498). -/
  later : List (Nat × List Nat)
  /-- Models that have left admission and whose binding entries and vats go in the next gap; vats to be set EMPTY in it (R437–R439). -/
  leaving : List ModelInfo
  drop : List Nat
  /-- The counter value at the request of the read under way (R434); the NVMe commands of that read that have completed (R565). -/
  since : Nat
  cmds : Nat
  /-- Lines of the present shard's copy in the cache that a read has found uncorrectable (R435). -/
  badLines : List Nat
deriving DecidableEq, Repr

inductive AdSt where
  | free | filling | current | old
deriving DecidableEq, Repr

/-- An adapter slot (R443). -/
structure AdSlot where
  st : AdSt
  id : BitVec 16
  version : Nat
  count : Nat
  /-- The digest of its package's manifest (R590). -/
  digest : Nat
deriving DecidableEq, Repr

/-- An adapter install that waits for a FREE slot (R444). -/
structure PendInst where
  id : BitVec 16
  version : Nat
  session : Nat
  digest : Nat
deriving DecidableEq, Repr

/-- An adapter-tuning job (R447). -/
structure Job where
  model : BitVec 16
  id : BitVec 16
  rank : Nat
  seed : BitVec 64
  steps : Nat
  session : Nat
  /-- The adapter package it starts from, by the adapter id under which it is installed; none for zero factors. -/
  start : Option Nat
  /-- The source of its training sequences. -/
  source : TrainSource
  /-- Its working slot, and the updates made (R448). -/
  slot : Nat
  done : Nat
  /-- The starting factors stand in the working slot and the grant. -/
  ready : Bool
deriving DecidableEq, Repr

/-- What an install of a program goes back to where one of its steps fails (R341, R393), and the session to answer. -/
structure Prev where
  narrow : Option Program
  exact : Option Program
  badNarrow : Bool
  badExact : Bool
  isExact : Bool
  loaded : Bool
  session : Option Nat
deriving DecidableEq, Repr

/-- A partition (R13, R342, R422, R450, R452). -/
structure Part where
  open_ : Bool
  oos : Bool
  /-- Closed by a thermal site-off (R533). -/
  thermClosed : Bool
  resetDue : Bool
  doze : Bool
  /-- A wake has begun and the partition has yet to open (R504, R508). -/
  waking : Bool
  /-- Its sites have woken: the next PARTITION reset takes the neighbour tests of all its tiles (R508, R534). -/
  retest : Bool
  halted : Bool
  /-- A program change runs to the program of this mode (R393). -/
  switching : Option Bool
  narrow : Option Program
  exact : Option Program
  /-- The program that failed its install is unusable (R393). -/
  badNarrow : Bool
  badExact : Bool
  loaded : Bool
  isExact : Bool
  /-- An install whose acceptance tests are not done (R341 step 5): what stood before it. -/
  prev : Option Prev
  /-- Admission waits for a program package (R441), with the package. -/
  pkg : Option (Program × Option Program × Nat)
  terr : Word
  lastErr : BitVec 64
  admitted : Word
  rejected : Word
  replays : Word
  ended : Word
  late : Word
  /-- Page pool: free, reserved, used, total frames; the frames kept under R460, as site × 2^18 + offset ÷ 64 KiB. -/
  free : Nat
  rsv : Nat
  used : Nat
  total : Nat
  kept : List Nat
  couch : Couch
  nodes : List PNode
  editQs : List EditQ
  /-- The sequence pages mapped for the slots (R345). -/
  maps : List PageMap
  models : List ModelInfo
  load : Load
  adapters : SMap AdSlot
  pend : List PendInst
  installed : Word
  refused : Word
  exports : Word
  job : Option Job
  /-- Supervisor writes not yet acknowledged: tile key and write (R387). -/
  outWrites : List (Nat × CfgWrite)
  nextHandle : Nat
  /-- A serial number for admissions and tree nodes. -/
  nextOrder : Nat
  /-- Audit sums of the owner's entries at each site (R273): key site. -/
  auditSum : SMap Word
  /-- A remap has changed the load of one of its dies: its BIN patches are applied again in its next gap (R467). -/
  binsDue : Bool
deriving DecidableEq, Repr

/-! ### Sessions -/

/-- A target of an exported adapter (R442): its tensor id, its factors as bytes, its FP32 scale. -/
structure ExportTarget where
  tensor : BitVec 16
  factor : List Byte
  scale : Word
deriving DecidableEq, Repr

/-- An adapter package that the device exports (R449): its manifest (KIND 3) with the shard table and the signature block, the LMS leaf
that signs it beside the identity key, and its descriptor: adapter id, version and rank, the targets. -/
structure AdapterPackage where
  manifest : Manifest
  leaf : Nat
  id : BitVec 16
  version : Nat
  rank : Nat
  targets : List ExportTarget
deriving DecidableEq, Repr

/-- An attestation report (R590): an item is its kind, partition, id, SVN or version, and manifest digest; the other digests stand as
the data they are taken from. -/
structure AttestReport where
  nonce : BitVec 256
  ts : BitVec 64
  fwRun : Nat
  furnRun : Nat
  fwFuse : Nat
  furnFuse : Nat
  fwB : Bool
  furnB : Bool
  /-- The mapping tables (R591). -/
  map : SMap Nat
  /-- The device certificate digest; the firmware and the furnish image in use. -/
  cert : Nat
  firmware : Option Firmware
  furnish : Option Furnish
  /-- The next leaf, and the leaf that signs. -/
  next : Nat
  leaf : Nat
  items : List (Nat × Nat × Nat × Nat × Nat)
  /-- The device seed whose keys sign it (R574). -/
  seed : Nat
deriving DecidableEq, Repr

/-- A frame that the device sends (R547). -/
inductive Frame where
  | admitted (id : BitVec 64) (code detail : BitVec 8) (bf bt : Nat)
  | tokens (id : BitVec 64) (k : Nat) (toks : List Word)
  | status (id : BitVec 64) (st : Status)
  | reply (code detail : BitVec 8) (data : List Word)
  | telemetry (data : List Word)
  | bbxData (recs : List BbxRec)
  | resumeReply (accepted : Bool) (ids : List (BitVec 64)) (ticket : Nat)
  | report (r : AttestReport)
  | package (g : AdapterPackage)
  | keyUpdate (epoch : Word)
  /-- Fragment `i` of the `n` of a message of more than 8,192 B. -/
  | fragment (i n : Nat) (f : Frame)
deriving DecidableEq, Repr

/-- A frame that the device sends outside the numbering of a session (R547, R549): HS_RESP of a handshake, with the leaf that signs it;
SESS_OK with the authorisations and the ticket; an ACK. -/
inductive PortFrame where
  | hsResp (hs leaf : Nat)
  | sessOk (session : Nat) (submit management register exact : Bool) (ticket : Nat)
  | ack (session : Nat) (ack : Word) (credit : Nat)
deriving DecidableEq, Repr

/-- A handshake in progress (R552). -/
structure Hs where
  port : Fin 4
  node : Nat
  start : Nat
  /-- The leaf that signed HS_RESP, once it has been sent. -/
  resp : Option Nat
deriving DecidableEq, Repr

/-- A session (R549, R552–R556). -/
structure Session where
  port : Fin 4
  node : Node
  /-- Next sequence number to send; the lowest not acknowledged; the epoch and its first sequence number. -/
  seq : Word
  acked : Word
  epoch : Word
  epochStart : Word
  /-- Frames sent and not acknowledged, oldest first, at most 1,024; frames queued behind them or during grace. -/
  unacked : List Frame
  queued : List Frame
  /-- The EPOCH of each frame of `unacked`, with which it is sent again (R549). -/
  epochs : List Word
  /-- The shared secret of the handshake, from which the keys of each direction and epoch derive (R552); the credit that the device
  advertises (R550). -/
  secret : Nat
  grant : Nat
  /-- Frames that the node can accept beyond its ACK (R550); the counter value at which ACK last advanced, the window began to fill or its frames were sent
  again;
  the SEQ that the device expects next. -/
  credit : Nat
  ackAt : Nat
  rxSeq : Word
  ticket : Nat
  ticketUsed : Bool
  lastRx : Nat
  lost : Option Nat
  /-- When the last register snapshot was sent, and the interval in ms that the node has asked for (R547). -/
  lastTelem : Option Nat
  telemEvery : Option Nat
  /-- Kept terminal statuses, newest first (R419). -/
  kept : List (BitVec 64 × Status)
  /-- A cancel held until the admission decision (R419). -/
  heldCancels : List (BitVec 64)
deriving DecidableEq, Repr

/-- The payload of a BEACON (R551). -/
structure Beacon where
  cert : Nat
  port : Fin 4
  svn : Nat
  ream : Nat
  phase : BitVec 4
deriving DecidableEq, Repr

/-- PHW_PORT[n] (R570). -/
structure PhwPort where
  up : Bool
  txfr : Word
  rxfr : Word
  retx : Word
  badfr : Word
  authfail : Word
  lost : Word
  resumed : Word
  /-- Beacons sent, and the counter value of the last. -/
  beacons : Nat
  lastBeacon : Nat
  beacon : Option Beacon
  /-- The last frame sent outside a session's numbering. -/
  last : Option PortFrame
deriving DecidableEq, Repr

/-- What the device answers a partner's shard request with (R564): piece `k` of the shard, or that it is absent. -/
inductive PeerBody where
  | shard (pubkey pkgid shard k : Nat)
  | absent (pubkey pkgid shard : Nat)
deriving DecidableEq, Repr

/-- A frame for a peer link (R558): its transfer id and index, and its body. -/
structure PeerOut where
  transfer : Nat
  index : Nat
  body : PeerBody
deriving DecidableEq, Repr

/-- A payload that has arrived for a partition (R558). -/
structure PeerIn where
  sender : Fin 32
  part : Fin 32
  transfer : Nat
  index : Nat
  payload : List Byte
deriving DecidableEq, Repr

/-- PLK_PORT[n] (R571), and what stands at the port: the partner's certificate digest while it is up; the frames that wait for credit, and
those sent and kept until it returns (R558); the credit for frames, and the credits owed to the partner; what has arrived. -/
structure PlkPort where
  state : BitVec 2
  partner : Nat
  feccor : Word
  fecunc : Word
  retry : Word
  losses : Word
  unread : Bool
  lastFrame : Nat
  credit : Nat
  owed : Nat
  transfers : Nat
  out : List PeerOut
  sent : List PeerOut
  arrived : List PeerIn
deriving DecidableEq, Repr

/-- STO_PORT[n] (R572). -/
structure StoPort where
  present : Bool
  speed : BitVec 3
  width : BitVec 4
  reads : Word
  failed : Word
  /-- The drive's namespaces with LBAs of 512 B or 4 KiB and without metadata; the others are ignored (R565). -/
  spaces : List Namespace
deriving DecidableEq, Repr

/-! ### Black box -/

/-- A site ring (R476): the newest record's place, and the copies waiting for the network. -/
structure SiteRing where
  recs : SMap BbxRec
  next : Nat
  waiting : List BbxRec
  frozen : Bool
deriving DecidableEq, Repr

/-- A flushed image (R479). -/
structure Image where
  valid : Bool
  seq : BitVec 32
  event : BitVec 16
  ts : BitVec 64
  crc : BitVec 32
  recs : List BbxRec
deriving DecidableEq, Repr

structure Bbx where
  recs : SMap BbxRec
  next : BitVec 16
  wrap : Bool
  frozen : Bool
  /-- A freeze has been called for and waits for the copies in flight (R478). -/
  freezeDue : Bool
  freezeEvent : BitVec 16
  flushing : Bool
  flfail : Bool
  lost : Word
  rings : SMap SiteRing
  images : SMap Image
  rsel : Word
deriving DecidableEq, Repr

/-! ### Supervisor, identity, flash -/

/-- The supervisor and the device-wide registers. -/
structure Sup where
  counter : BitVec 64
  phase : BitVec 4
  fwB : Bool
  furnB : Bool
  bootTime : BitVec 16
  /-- The counter value at PWR_GOOD or WARM. -/
  bootFrom : BitVec 64
  rstKind : BitVec 4
  rstSource : BitVec 4
  warms : BitVec 16
  /-- A WARM is due and waits for a flush; the counter value at its request (R498). -/
  warmDue : Option (BitVec 4)
  warmAt : BitVec 64
  /-- The standby supervisor is the active one; the primary is held off (R463). -/
  standbyActive : Bool
  cap : BitVec 16
  capRefused : Bool
  overcap : Bool
  vinLow : Bool
  devrst : BitVec 16
  fanFloor : BitVec 8
  duty : BitVec 8
  trip : Bool
  /-- The hard limit has been passed and the supplies go off once the rings are frozen; a device SUPPLY reset waits for the flush (R462). -/
  tripDue : Bool
  supplyDue : Bool
  /-- A device SUPPLY reset runs: sites that it has reset are still down (R498). -/
  devRuns : Bool
  pause : Word
  standby : Bool
  /-- The two reference inputs: passing or not; the one in use; holdover. -/
  refOk : List Bool
  refSel : Fin 2
  holdover : Bool
  remaps : Word
  auditPages : Word
  auditSlots : Word
  auditTokens : Word
  auditKind : BitVec 3
  auditPart : BitVec 5
  /-- The boundary-scan register as last scanned in (R569). -/
  boundary : List Bool
  /-- Image writes that wait for a flush, with their sessions (R568). -/
  imageDue : List (Option Nat × FlashImage)
  /-- The words of the last answer of the console or the SMBus target (R569). -/
  console : List Word
  /-- Spare tiles used by remaps, old and new key (R465). -/
  remapLog : List (Nat × Nat)
deriving DecidableEq, Repr

/-- A signing that the device LMS key is asked for: a handshake, that of a peer link with what its partner presents, an attestation report,
an adapter export. -/
inductive Signing where
  | hs (id : Nat)
  | peer (port : Fin 8) (partner partnerPort : Nat) (sig : SigCheck)
  | report (session : Nat) (nonce : BitVec 256) (parts : Word)
  | adapter (session : Nat) (p : Fin 32)
deriving DecidableEq, Repr

/-- A certificate of the device's chain (R575): the public keys that it binds, as the digest of the ECDSA key and the HSS key's 52 bytes;
its signature block. -/
structure Cert where
  ecdsa : Nat
  hss : List Byte
  block : SigBlock
deriving DecidableEq, Repr

/-- The one-time-programmable certificate store (R575); beside its keys the device certificate binds the ordering code, the stepping, the
serial number and the die manifest. -/
structure CertStore where
  root : Cert
  ca : Cert
  device : Cert
  ordering : Nat
  stepping : Nat
  serial : Nat
deriving DecidableEq, Repr

/-- Identity, rollback and signing state (R573–R597). -/
structure Ident where
  fwFuse : Nat
  furnFuse : Nat
  fwRun : Nat
  furnRun : Nat
  lmsNext : Nat
  lmsLimit : Nat
  /-- Sequence number of the newest reservation record; trees built; a build runs; the signings that wait (R585–R587). -/
  lmsSeq : Nat
  lmsTrees : Nat
  building : Bool
  signings : List Signing
  fused : BitVec 4
  revoked : BitVec 4
  inUse : BitVec 2
  dieFails : BitVec 8
  dieFirst : BitVec 8
  /-- Seeds fused into the dies, by die index (R573, R575), and the seed whose key pair each entry of the die manifest holds; an
  unlisted die has the seed of its own index in both. -/
  dieSeeds : SMap Nat
  dieManifest : SMap Nat
  /-- Loft dies' key pairs, by site, as the seeds that their base dies read at power-up, plus one; 0: none read (R573). -/
  loftKeys : SMap Nat
  /-- Ring dies held off, a bit each from die index 192 (R576). -/
  ringOff : BitVec 10
  /-- The device seed fused into both supervisor dies, from which both device keys derive (R574). -/
  seed : Nat
  certs : CertStore
  /-- The fused digests: of Quinmian's firmware keys, of the owner slots' key pairs, of the recovery key (R569, R580). -/
  fwKeys : List Nat
  ownerKeys : List Nat
  recovery : Nat
deriving DecidableEq, Repr

/-- A reservation record (R584): sequence number, LIMIT, and the CRC of its bytes 0 to 59. -/
structure LmsRecord where
  seq : Nat
  limit : Nat
  crc : BitVec 32
deriving DecidableEq, Repr

/-- The flash (R567): image copies and the repair log. -/
structure Flash where
  /-- The reservation records of the LMS state region by place, 16,384 in each half (R584). -/
  lms : SMap LmsRecord
  fwA : Option Firmware
  fwB : Option Firmware
  furnA : Option Furnish
  furnB : Option Furnish
  badTiles : List Nat
  /-- Vat columns replaced in the field: tile key × 96 + vat, count (R133). -/
  vatRepairs : List (Nat × Nat)
  /-- Vats marked bad. -/
  badVats : List Nat
  /-- Scratchpad rows remapped: tile key, row (R197). -/
  rowRepairs : List (Nat × Nat)
  /-- Loft rows pending repair and repaired: site, row (R205). -/
  loftPending : List (Nat × Nat)
  loftRepaired : List (Nat × Nat)
  /-- Loft rows marked unusable: their banks' spare rows are spent (R205). -/
  loftUnusable : List (Nat × Nat)
deriving DecidableEq, Repr

/-- What manufacturing test has set by fuse (R133, R196). -/
structure Fuses where
  /-- The redundant bit columns in use of a scratchpad bank, a bit each, by tile key × 16 + bank; and its spare rows in use. -/
  scrCols : SMap (BitVec 8)
  scrRows : SMap Nat
  /-- Vat columns replaced, by tile key × 96 + vat. -/
  vatCols : SMap Nat
deriving DecidableEq, Repr

/-- A package in the cache: whose it is, its size, the lengths of its shards and how many of them, from the first on, have been fetched;
the site whose loft holds it; and the descriptor of its shard 0 once it is fetched whole. -/
structure Package where
  pubkey : Nat
  pkgid : Nat
  svn : Nat
  bytes : Nat
  lens : List Nat
  got : Nat
  site : Nat
  desc : Option Descriptor
  /-- The digest of its manifest. -/
  digest : Nat
deriving DecidableEq, Repr

/-- The package cache in supervisor loft (R440). -/
structure Cache where
  /-- Most recently used first. -/
  packages : List Package
deriving DecidableEq, Repr

/-- The whole block. -/
structure State where
  /-- The commands that wait, first in, first out. -/
  pending : List Instr
  /-- Tiles by `PTile.key`. -/
  tiles : SMap Tile
  /-- Lanes by tile key × 2 + lane. -/
  lanes : SMap Lane
  /-- Vats by tile key × 96 + vat; their codes by that × 0x8000 + offset. -/
  vats : SMap Vat
  vatMem : SMap Byte
  sites : SMap Site
  /-- Site event counters by site × 32 + `Ctr` code. -/
  ctrs : SMap Word
  /-- Root table registers by site × 64 + 2 × partition + (0 LO, 1 HI) (R216). -/
  roots : SMap Word
  /-- Loft bytes by site × 2^34 + offset, and stored error marks by line. -/
  loft : SMap Byte
  loftEcc : SMap Ecc
  /-- Loft rows that have given corrected errors on patrol since POR, by site × 2^23 + row × 512 + bank × 16 + channel: 4 × (the
  number of the last such pass + 1; 0 if that pass came before the site's passes began again) + how many passes (R205). -/
  loftHits : SMap Nat
  /-- Loft accesses queued at the controllers: site, tile key (R207). -/
  loftQ : List (Nat × Nat)
  /-- Semaphore entries by site × 1024 + index. -/
  sems : SMap Sem
  waiters : List Waiter
  deferred : List Deferred
  net : Net
  /-- The mapping tables: physical tile key by logical tile 128 r + c, where it differs from the nominal (R11). -/
  map : SMap Nat
  furnish : Option Furnish
  parts : SMap Part
  /-- Slots by partition × 128 + slot. -/
  slots : SMap Slot
  sessions : SMap Session
  handshakes : SMap Hs
  phw : SMap PhwPort
  plk : SMap PlkPort
  sto : SMap StoPort
  bbx : Bbx
  sup : Sup
  ident : Ident
  flash : Flash
  fuses : Fuses
  cache : Cache
  /-- The model's own counter of free values used (log entry 5). -/
  nonce : Nat
deriving DecidableEq, Repr

/-! ### Values of unlisted keys, and reset -/

def Report.clean : Report := ⟨[], [], false, false⟩

def Ckpt.init : Ckpt := ⟨[], 0, 0, []⟩

/-- R286; the cycle counter is zero after POR (R499). -/
def Scalar.init : Scalar :=
  { regs := [], ready := [], pc := 0, entry := 0, cyc := 0, stagecnt := 0, step := 0, bin := 0, pressovf := 0,
    slipsTotal := 0, slipsStep := 0, slip1a := 0, slip1b := 0, qdone := [], seq := 0, wait := .none,
    blocked := [], halted := false, stopped := false, ckpt := Ckpt.init }

def WBuf.init : WBuf := ⟨false, 0, 0, [], [], [], .ok⟩

/-- A bank is ON with zero contents after a TILE reset (R189); the model gives an untouched tile the same
(DESIGN CHOICE, log entry 2). -/
def Bank.init : Bank := ⟨.on, none⟩

def TileMem.init : TileMem :=
  { scr := [], banks := [], scrEcc := [], suspects := [], onceBad := [], spareRows := [], istore := [], istoreEcc := [] }

def Matrix.init : Matrix :=
  { wb0 := WBuf.init, wb1 := WBuf.init, acc := [], accInt := [], accOvf := [], accEcc := [], abftDue := 0, abftBad := [], sub := none }

def Dma.init : Dma := { ph := .idle, pos := 0, since := none, waited := 0, tlb := [], walks := [], walkOvf := false, vers := [], held := [] }

def StageClock.init : StageClock :=
  { no := 0, began := 0, cycles := 0, running := false, stepCycles := 0, held := 0, budgets := [], active := [], shared := false, wdCount := 0,
    wdRunning := false, wdLimit := 0 }

/-- A tile as it stands after POR, belonging to no partition. -/
def Tile.init : Tile :=
  { sc := Scalar.init, mq := [], vq := [], lq := [], dq := [], sq := [], mem := TileMem.init, mx := Matrix.init,
    vec := ⟨[], [], [], false⟩, dma := Dma.init, clk := StageClock.init,
    rp := ⟨Report.clean, [], false⟩, pl := ⟨0, 0, none, false, false, false, 0⟩, ports := [] }

/-- After each listed reset a bin reads BARRED = 1, BARWHY = 3 and DUE = 1 (R181). -/
def Bin.init : Bin :=
  { held := false, count := 0, ts := 0, rej := 0, barwhy := 3, warm := false, wrap := false, barred := true,
    due := true, lbarred := true, ldue := true, accepted := 0, pass := none, unstamped := false }

def CalVals.init : CalVals := ⟨[], [], []⟩

def Lane.init : Lane :=
  { bins := [], gain := [], offset := [], dens := [], prev := CalVals.init, swaps := 0, succ := 0, qcount := 0, quar := false, underTest := false,
    lastVat := 0, ovr := false, chkfail := false, drive := .off, since := false, failedChk := false,
    failedCv := false, slotClock := 0, slotsRun := 0, bin := 0, verdicts := [], cvs := [],
    accSlot := false, rewarm := false, lifting := false }

/-- An EMPTY, good, unbound vat (R106, R143). -/
def Vat.init : Vat :=
  { mode := 0, part := none, model := 0, kw := [], spares := 0, bad := false, counts := [], ta := [], tb := [],
    sTop := [], sBot := [], rows := 0, testDue := false, testA := false, testFails := 0, tested := false
    gone := false }

/-- A site before start-up step 5: its domains are down. -/
def Site.init : Site :=
  { up := false, arith := false, sleep := false, window := none, windowLong := false, dom := 0, warn := 0,
    resets := 0, long := 0, inReset := false, selfref := false, dbl := false, scrub := 0, scrubAt := [],
    pprUsed := 0, tcmp := 0, tbase := 0, tloft := 0, tstate := 0, throt := 0, offs := 0,
    excl := 0, fanFull := false, coolSince := none, ts := 0, seqSel := 0, vsel := 0, semSel := 0, waitHigh := 0, auditLast := 0,
    govHold := 0, warmFrom := 0, warmBin := 0, warmSet := [] }

/-- An unowned entry (R259, R260). -/
def Sem.unowned : Sem := ⟨0, false, 63, 0, 0, 0, 0, false, none, .ok⟩

def LinkCnt.init : LinkCnt := ⟨0, 0, 0, 0, 0, none, none, false⟩

def TreeEntry.init : TreeEntry := ⟨false, false, false, 0, 0, 0, 0, 0, 0, 0, false⟩

def Slot.init : Slot :=
  { st := .free, q := none, session := 0, lc := 0, lres := 0, lp := 0, order := 0, effExact := false, ht := 0,
    hd := 0, adapt := none, prompt := [], matched := 0, rsv := 0, used := 0, given := 0, nodes := [],
    nf := 0, chunks := 0, toks := [], handed := 0, sent := 0,
    portQ := [], masked := false, status := none, statusSent := false, tArr := 0, bf := 0, bt := 0, tLast := 0, tEnd := 0 }

def Couch.init : Couch :=
  { step := 0, fresh := true, gap := true, reports := [], dirty := false, timing := false, replayed := false, replayTag := none,
    replayDue := false, supplyEvent := false, first := none, named := [], released := true, peers := [] }

def Load.init : Load :=
  { state := 0, reason := 0, queue := [], entry := none, answer := [], model := 0, shard := 0, nshard := 0,
    retry := 0, loads := 0, src := 0, tries := 0, manifest := none, desc := none, vats := [], victims := [],
    later := [], leaving := [], drop := [], since := 0, cmds := 0, badLines := [] }

def AdSlot.init : AdSlot := ⟨.free, 0, 0, 0, 0⟩

/-- A partition that the furnish does not define, or that has not opened. -/
def Part.init : Part :=
  { open_ := false, oos := false, thermClosed := false, resetDue := false, doze := false, waking := false, retest := false, halted := false,
    switching := none, narrow := none, exact := none, badNarrow := false, badExact := false, loaded := false,
    isExact := false, prev := none, pkg := none, terr := 0, lastErr := 0, admitted := 0, rejected := 0, replays := 0, ended := 0,
    late := 0, free := 0, rsv := 0, used := 0, total := 0, kept := [], couch := Couch.init, nodes := [],
    editQs := [], maps := [], models := [], load := Load.init, adapters := [], pend := [], installed := 0, refused := 0,
    exports := 0, job := none, outWrites := [], nextHandle := 0, nextOrder := 0, auditSum := [], binsDue := false }

def Session.init : Session :=
  { port := 0, node := ⟨0, false, false, false, false⟩, seq := 0, acked := 0, epoch := 0, epochStart := 0,
    unacked := [], queued := [], epochs := [], secret := 0, grant := 0, credit := 256, ackAt := 0, rxSeq := 0, ticket := 0, ticketUsed := true, lastRx := 0, lost := none, lastTelem := none, telemEvery := none,
    kept := [], heldCancels := [] }

/-- The value of an unlisted key: no handshake starts at 2^64, which the counter never shows. -/
def Hs.init : Hs := ⟨0, 0, 2 ^ 64, none⟩

def PhwPort.init : PhwPort := ⟨false, 0, 0, 0, 0, 0, 0, 0, 0, 0, none, none⟩

def PlkPort.init : PlkPort := ⟨0, 0, 0, 0, 0, 0, false, 0, 0, 0, 0, [], [], []⟩

def StoPort.init : StoPort := ⟨false, 0, 0, 0, 0, []⟩

def BbxRec.init : BbxRec := ⟨0, 0, 0, 0, 0, 0⟩

def SiteRing.init : SiteRing := ⟨[], 0, [], false⟩

def Image.init : Image := ⟨false, 0, 0, 0, 0, []⟩

/-- The rings are lost at POR (R476); the images stand in flash. -/
def Bbx.init (images : SMap Image) : Bbx :=
  { recs := [], next := 0, wrap := false, frozen := false, freezeDue := false, freezeEvent := 0, flushing := false,
    flfail := false, lost := 0, rings := [], images := images, rsel := 0 }

/-- The supervisor after POR: its counter is zero, start-up step 1 is in progress, the fans run full (R537).
The cap and the floor read zero until the furnish gives them (DESIGN CHOICE, log entry 3). -/
def Sup.init : Sup :=
  { counter := 0, phase := 1, fwB := false, furnB := false, bootTime := 0, bootFrom := 0, rstKind := 0, rstSource := 0, warms := 0,
    warmDue := none, warmAt := 0, standbyActive := false, cap := 0, capRefused := false, overcap := false,
    vinLow := false, devrst := 0, fanFloor := 0, duty := 100, trip := false, tripDue := false, supplyDue := false, devRuns := false, pause := 0, standby := false,
    refOk := [true, true], refSel := 0, holdover := false, remaps := 0, auditPages := 0, auditSlots := 0,
    auditTokens := 0, auditKind := 0, auditPart := 0, boundary := [], imageDue := [], console := [],
    remapLog := [] }

/-- A device provisioned with one owner slot and no signature yet made (DESIGN CHOICE, log entry 4). -/
def Cert.init : Cert := ⟨0, [], ⟨0, 0, []⟩⟩

def CertStore.init : CertStore := ⟨Cert.init, Cert.init, Cert.init, 0, 0, 0⟩

def Ident.init : Ident :=
  { fwFuse := 0, furnFuse := 0, fwRun := 0, furnRun := 0, lmsNext := 0, lmsLimit := 0, lmsSeq := 0, lmsTrees := 1,
    building := false, signings := [], fused := 1, revoked := 0, inUse := 0, dieFails := 0, dieFirst := 0xFF,
    dieSeeds := [], dieManifest := [], loftKeys := [], ringOff := 0, seed := 0, certs := CertStore.init, fwKeys := [0]
    ownerKeys := [0, 0, 0, 0], recovery := 0 }

def Net.init : Net := ⟨[], [], [], [], [], [], [], false⟩

/-- A blank flash: no image is invented (log entry 4). -/
def Flash.init : Flash := ⟨[], none, none, none, none, [], [], [], [], [], [], []⟩

/-- A device that manufacturing test has repaired nowhere (DESIGN CHOICE, log entry 4). -/
def Fuses.init : Fuses := ⟨[], [], []⟩

/-- The block right after POR (R494, R499): start-up has not run, every memory that POR loses is empty. -/
def State.reset : State :=
  { pending := [], tiles := [], lanes := [], vats := [], vatMem := [], sites := [], ctrs := [], roots := [],
    loft := [], loftEcc := [], loftHits := [], loftQ := [], sems := [], waiters := [], deferred := [],
    net := Net.init, map := [], furnish := none, parts := [], slots := [], sessions := [], handshakes := [],
    phw := [], plk := [], sto := [], bbx := Bbx.init [], sup := Sup.init, ident := Ident.init, flash := Flash.init,
    fuses := Fuses.init, cache := ⟨[]⟩, nonce := 0 }

/-! ### Reads and writes of the parts -/

/-- Tile `t`. -/
def State.tile (s : State) (t : PTile) : Tile := SMap.get Tile.init s.tiles t.key

def State.setTile (s : State) (t : PTile) (x : Tile) : State := { s with tiles := SMap.set Tile.init s.tiles t.key x }

/-- The key of a lane: tile key × 2 + lane. -/
def laneKey (t : PTile) (l : Fin 2) : Nat := t.key * 2 + l.val

def State.lane (s : State) (t : PTile) (l : Fin 2) : Lane := SMap.get Lane.init s.lanes (laneKey t l)

def State.setLane (s : State) (t : PTile) (l : Fin 2) (x : Lane) : State :=
  { s with lanes := SMap.set Lane.init s.lanes (laneKey t l) x }

def State.vat (s : State) (k : Nat) : Vat := SMap.get Vat.init s.vats k

def State.site (s : State) (i : Fin 64) : Site := SMap.get Site.init s.sites i.val

def State.setSite (s : State) (i : Fin 64) (x : Site) : State := { s with sites := SMap.set Site.init s.sites i.val x }

def State.part (s : State) (p : Fin 32) : Part := SMap.get Part.init s.parts p.val

def State.setPart (s : State) (p : Fin 32) (x : Part) : State := { s with parts := SMap.set Part.init s.parts p.val x }

def State.slot (s : State) (p : Fin 32) (n : Fin 128) : Slot := SMap.get Slot.init s.slots (p.val * 128 + n.val)

def State.setSlot (s : State) (p : Fin 32) (n : Fin 128) (x : Slot) : State :=
  { s with slots := SMap.set Slot.init s.slots (p.val * 128 + n.val) x }

def State.sem (s : State) (i : Fin 64) (k : BitVec 10) : Sem := SMap.get Sem.unowned s.sems (i.val * 1024 + k.toNat)

def State.setSem (s : State) (i : Fin 64) (k : BitVec 10) (x : Sem) : State :=
  { s with sems := SMap.set Sem.unowned s.sems (i.val * 1024 + k.toNat) x }

def State.session (s : State) (n : Nat) : Option Session := (s.sessions.find? fun e => e.1 = n).map (·.2)

def State.phwPort (s : State) (n : Fin 4) : PhwPort := SMap.get PhwPort.init s.phw n.val

def State.plkPort (s : State) (n : Fin 8) : PlkPort := SMap.get PlkPort.init s.plk n.val

def State.stoPort (s : State) (n : Fin 4) : StoPort := SMap.get StoPort.init s.sto n.val

end Sys2Proof.Machine
end

