-- ==== Sys2Proof/Machine/Ops.lean ====
section
/-! DEFINITION. The shared operations over the state: the site counters, the black-box rings, flits and routes,
what one tile's step sends out (`Fx`) and how it is applied to the block, fault notices, the scratchpad with its
banks and stored error marks, clears of tiles and stores at resets. -/

namespace Sys2Proof

/-! ### Physical tiles, logical tiles, the device grid -/

def PTile.ofKey (k : Nat) : PTile := ⟨Fin.ofNat 64 (k / 256), Fin.ofNat 9 (k % 256 / 16), Fin.ofNat 16 (k % 16)⟩

/-- Device physical column and row (R9, *Physical and logical grids*). -/
def PTile.col (t : PTile) : Nat := 16 * (t.site.val % 8) + t.x.val
def PTile.row (t : PTile) : Nat := 9 * (t.site.val / 8) + t.y.val

/-- The physical tile in a device column and row. -/
def tileAt (col row : Nat) : PTile :=
  ⟨Fin.ofNat 64 (col / 16 + 8 * (row / 9)), Fin.ofNat 9 (row % 9), Fin.ofNat 16 (col % 16)⟩

/-- The nominal place of logical tile (c, r) (R9). -/
def nominal (c r : Nat) : PTile := ⟨Fin.ofNat 64 (c / 16 + 8 * (r / 8)), Fin.ofNat 9 (r % 8), Fin.ofNat 16 (c % 16)⟩

def PTile.place (t : PTile) : Nat × Nat := (t.col, t.row)

def PTile.port0 (t : PTile) : Nat × Nat × Nat := (t.col, t.row, 0)

/-- Logical tiles of a partition's rectangle (R13), row by row. -/
def FurnPart.tiles (f : FurnPart) : List (Nat × Nat) :=
  (List.range (8 * f.bh)).flatMap fun j => (List.range (8 * f.bw)).map fun i => (8 * f.bx + i, 8 * f.byy + j)

def FurnPart.holds (f : FurnPart) (c r : Nat) : Bool :=
  8 * f.bx ≤ c && c < 8 * (f.bx + f.bw) && 8 * f.byy ≤ r && r < 8 * (f.byy + f.bh)

/-- The nominal sites of the partition's rectangle. -/
def FurnPart.sites (f : FurnPart) : List Nat :=
  (List.range f.bh).flatMap fun j => (List.range f.bw).map fun i => (f.bx + i) / 2 + 8 * (f.byy + j)

/-- A tile's check report marks nothing (R399). -/
def Report.isClean (r : Report) : Bool := r.recov.isEmpty && r.fatal.isEmpty && !r.invalid

end Sys2Proof

namespace Sys2Proof.Machine

/-! ### Site counters -/

/-- The saturating event counters of a site (R57–R59, R98–R102, R134–R139, R175–R177, R213, R214, R218, R219,
R251–R255, R274–R276, R380, R381). -/
inductive Ctr where
  | fallback | sat | fmtfault | accecc | vparity | residue | abft | wretry | ovr | zero | wide | split | check
  | accfail | discard | chkvec | dmawait | scrCe | loftUe | loftCe | netAudit | pressovf | netFence | e2e | hcrc
  | semAudit | semError | semFence | verfault | hold
deriving DecidableEq, Repr

/-- The number of a counter in the key site × 32 + code of `State.ctrs`. -/
def Ctr.code : Ctr → Nat
  | .fallback => 0 | .sat => 1 | .fmtfault => 2 | .accecc => 3 | .vparity => 4 | .residue => 5 | .abft => 6
  | .wretry => 7 | .ovr => 8 | .zero => 9 | .wide => 10 | .split => 11 | .check => 12 | .accfail => 13
  | .discard => 14 | .chkvec => 15 | .dmawait => 16 | .scrCe => 17 | .loftUe => 18 | .loftCe => 19
  | .netAudit => 20 | .pressovf => 21 | .netFence => 22 | .e2e => 23 | .hcrc => 24 | .semAudit => 25
  | .semError => 26 | .semFence => 27 | .verfault => 28 | .hold => 29

def ctrKey (site : Fin 64) (c : Ctr) : Nat := site.val * 32 + c.code

/-- Adds `n` to a counter; it saturates at 0xFFFF_FFFF and does not wrap. -/
def ctrAdd (m : SMap Word) (site : Fin 64) (c : Ctr) (n : Nat) : SMap Word :=
  SMap.set 0 m (ctrKey site c) (satAdd (SMap.get 0 m (ctrKey site c)) n)

/-- A clear bit of a counter sets it to zero (R61, R104, R141, R179, R223, R257, R278, R384). -/
def ctrClear (m : SMap Word) (site : Fin 64) (c : Ctr) : SMap Word := SMap.set 0 m (ctrKey site c) 0

def ctrAddAll (m : SMap Word) (site : Fin 64) : List (Ctr × Nat) → SMap Word
  | [] => m
  | (c, n) :: r => ctrAddAll (ctrAdd m site c n) site r

def State.ctr (s : State) (site : Fin 64) (c : Ctr) : Word := SMap.get 0 s.ctrs (ctrKey site c)

/-! ### Event codes (R481) -/

def evtSizingQuarantine : BitVec 16 := 0x1002
def evtProgHalt : BitVec 16 := 0x1003
def evtLoadFail : BitVec 16 := 0x1004
def evtLoadRestore : BitVec 16 := 0x1005
def evtRemap : BitVec 16 := 0x1006
def evtTileBadBringup : BitVec 16 := 0x1007
def evtFreezeReq : BitVec 16 := 0x1008
def evtLate : BitVec 16 := 0x1009
def evtFormatFault : BitVec 16 := 0x2001
def evtAbft : BitVec 16 := 0x2002
def evtResidue : BitVec 16 := 0x2003
def evtVregParity : BitVec 16 := 0x2004
def evtVatCheck : BitVec 16 := 0x2005
def evtCheckVector : BitVec 16 := 0x2006
def evtNetHcrc : BitVec 16 := 0x2007
def evtNetE2e : BitVec 16 := 0x2008
def evtSemNoack : BitVec 16 := 0x2009
def evtLockstep : BitVec 16 := 0x200A
def evtSeqVersion : BitVec 16 := 0x200B
def evtSramUeReplay : BitVec 16 := 0x200C
def evtSupplyWarn : BitVec 16 := 0x200D
def evtRefclkSwitch : BitVec 16 := 0x200E
def evtSramUe : BitVec 16 := 0x3001
def evtLoftUe : BitVec 16 := 0x3002
def evtSeqFault : BitVec 16 := 0x3003
def evtReplayFail : BitVec 16 := 0x3004
def evtSupplyReset : BitVec 16 := 0x3005
def evtSiteOff : BitVec 16 := 0x3006
def evtSlip : BitVec 16 := 0x4001
def evtStageOverrun : BitVec 16 := 0x4002
def evtInsnFault : BitVec 16 := 0x4003
def evtBankOff : BitVec 16 := 0x4004
def evtSemFence : BitVec 16 := 0x4005
def evtSemError : BitVec 16 := 0x4006
def evtDeckle : BitVec 16 := 0x4007
def evtTileHung : BitVec 16 := 0x5001
def evtSelftest : BitVec 16 := 0x5002
def evtCreditAudit : BitVec 16 := 0x6001
def evtSemAudit : BitVec 16 := 0x6002
def evtAuditPages : BitVec 16 := 0x6003
def evtAuditSlots : BitVec 16 := 0x6004
def evtAuditTokens : BitVec 16 := 0x6005
def evtRemapReach : BitVec 16 := 0x6006
def evtRefclkLost : BitVec 16 := 0x7001
def evtSupFail : BitVec 16 := 0x7002
def evtThermTrip : BitVec 16 := 0x7003
def evtSupplyDevice : BitVec 16 := 0x7004

/-! ### The mapping tables -/

/-- The physical tile of logical tile (c, r) under the mapping tables (R11, R184).  The table holds key + 1, and
0 where the tile is at its nominal place. -/
def physOf (map : SMap Nat) (c r : Nat) : PTile :=
  match SMap.get 0 map (128 * r + c) with
  | 0 => nominal c r
  | n + 1 => PTile.ofKey n

/-- The value of a mapping entry that names no tile: its tile was declared bad, which no entry may name (R12), and no spare was left
for it (the model's choice, log entry 67). -/
def noTile : Nat := 0x10000

/-- The entry of logical tile (c, r) names a tile. -/
def named (map : SMap Nat) (c r : Nat) : Bool := SMap.get 0 map (128 * r + c) != noTile

def State.furnPart (s : State) (p : Fin 32) : Option FurnPart := s.furnish.bind fun f => f.parts.find? (·.part = p)

/-- The keys of the physical tiles of partition `p`. -/
def State.tilesOf (s : State) (p : Fin 32) : List Nat :=
  match s.furnPart p with
  | none => []
  | some f => (f.tiles.filter fun cr => named s.map cr.1 cr.2).map fun cr => (physOf s.map cr.1 cr.2).key

/-- The sites that hold a tile of partition `p`, spares included. -/
def State.sitesOf (s : State) (p : Fin 32) : List Nat := ((s.tilesOf p).map (· / 256)).dedup

def allSites : List (Fin 64) := List.ofFn id
def allParts : List (Fin 32) := List.ofFn id

/-- The partitions that hold a tile on the site. -/
def State.partsOn (s : State) (site : Fin 64) : List (Fin 32) :=
  allParts.filter fun p => (s.sitesOf p).contains site.val

/-- The die of the site serves more than one partition (R152). -/
def State.dieShared (s : State) (site : Fin 64) : Bool := 1 < (s.partsOn site).length

/-- Occupied slots of partition `p`: its entries of the slot map. -/
def State.slotsOf (s : State) (p : Fin 32) : List (Nat × Slot) := s.slots.filter fun e => e.1 / 128 = p.val

/-! ### Flits and routes -/

/-- Where the active supervisor joins the network (R614): column, row, port. -/
def Net.supAt (n : Net) : Nat × Nat × Nat := if n.atStandby then (127, 71, 2) else (0, 0, 4)

/-- Where a site's semaphore store and black-box ring join (R225, R614). -/
def storeAt (site : Fin 64) : Nat × Nat × Nat := ((PTile.mk site 4 8).col, (PTile.mk site 4 8).row, 9)

/-- Where loft channel `ch` of a site joins (R225). -/
def loftAt (site : Fin 64) (ch : Fin 16) : Nat × Nat × Nat := ((PTile.mk site 3 ch).col, (PTile.mk site 3 ch).row, 9)

/-- A flit injected at one attachment for another. -/
def mkFlit (vc : Vc) (src dst : Nat × Nat × Nat) (part : Option (Fin 32)) (srcTile : Nat) (m : Msg) : Flit :=
  { vc := vc, col := src.1, row := src.2.1, inPort := src.2.2, dcol := dst.1, drow := dst.2.1, dport := dst.2.2,
    part := part, src := srcTile, msg := m, via := none, origin := (src.1, src.2.1), bankWait := none, inval := false }

/-- Adds flits behind the ones that wait (R237: arrival order is sending order). -/
def Net.send (n : Net) (fs : List Flit) : Net := { n with flits := n.flits ++ fs }

/-- Takes the oldest flit that satisfies `q` out of the network; none if there is none. -/
def takeFlit (q : Flit → Bool) : List Flit → Option (Flit × List Flit)
  | [] => none
  | f :: r => if q f then some (f, r) else (takeFlit q r).map fun x => (x.1, f :: x.2)

/-- The network without the oldest flit that satisfies `q`. -/
def Net.drop (n : Net) (q : Flit → Bool) : Net :=
  { n with flits := match takeFlit q n.flits with | none => n.flits | some x => x.2 }

/-- The event of message `m` at attachment `d` keeps the order of R237 and R238: the oldest of the flits that `sel` selects,
the ones on its path before it, is that message and has arrived; where the network holds none, the event stands for a message
whose sending no command shows (log entry 25). -/
def Net.inOrder (n : Net) (sel : Flit → Bool) (d : Nat × Nat × Nat) (m : Msg) : Bool :=
  match n.flits.find? sel with
  | none => true
  | some f => f.msg == m && f.col == d.1 && f.row == d.2.1

/-- The message that `q` picks may act (R237): its flit is the oldest that its endpoint has sent on its channel to the same
endpoint, and has arrived; where the network holds no such flit, the event stands for a message whose sending no command
shows (log entry 25). -/
def Net.ready (n : Net) (q : Flit → Bool) : Bool :=
  match n.flits.find? q with
  | none => true
  | some f => n.inOrder (fun g => g.vc == f.vc && g.origin == f.origin && g.src == f.src && g.dcol == f.dcol && g.drow == f.drow &&
      g.dport == f.dport) (f.dcol, f.drow, f.dport) f.msg

/-- Flits of a channel for attachment `d`. -/
def Flit.isFor (f : Flit) (vc : Vc) (d : Nat × Nat × Nat) : Bool :=
  f.vc == vc && f.dcol == d.1 && f.drow == d.2.1 && f.dport == d.2.2

/-- A write of the supervisor to a tile, on VC2 beside the tiles' own transfers. -/
def Flit.isWrite (f : Flit) (d : Nat × Nat × Nat) : Bool := f.isFor 2 d && match f.msg with | .data _ => false | _ => true

/-- A flit stands at its destination attachment. -/
def Flit.arrived (f : Flit) (d : Nat × Nat × Nat) : Bool :=
  f.col == d.1 && f.row == d.2.1 && f.dcol == d.1 && f.drow == d.2.1 && f.dport == d.2.2

/-! ### The black box -/

/-- A record not written counts in BBX_LOST, saturating (R476, R478). -/
def Bbx.lose (b : Bbx) (n : Nat) : Bbx := { b with lost := satAdd b.lost n }

/-- A record reaches the supervisor ring of 65,536 records, in order of arrival (R476–R478). -/
def Bbx.append (b : Bbx) (r : BbxRec) : Bbx :=
  { b with
    recs := if b.frozen then b.recs else SMap.set BbxRec.init b.recs b.next.toNat r
    next := if b.frozen then b.next else b.next + 1
    wrap := b.wrap || (!b.frozen && b.next == 0xFFFF)
    lost := if b.frozen then satAdd b.lost 1 else b.lost }

def Bbx.appendAll (b : Bbx) : List BbxRec → Bbx
  | [] => b
  | r :: rs => (b.append r).appendAll rs

def Bbx.ring (b : Bbx) (site : Fin 64) : SiteRing := SMap.get SiteRing.init b.rings site.val

/-- A record of a site goes to its ring of 1,024 records, and a copy to the waiting list of 64 (R476). -/
def SiteRing.append (g : SiteRing) (r : BbxRec) : SiteRing :=
  { g with
    recs := if g.frozen then g.recs else SMap.set BbxRec.init g.recs g.next r
    next := if g.frozen then g.next else (g.next + 1) % 1024
    waiting := if g.frozen || 64 ≤ g.waiting.length then g.waiting else g.waiting ++ [r] }

/-- A site's record; one that finds the ring frozen, or whose copy finds the waiting list full, counts as lost. -/
def Bbx.siteLog (b : Bbx) (site : Fin 64) (r : BbxRec) : Bbx :=
  { b with
    rings := SMap.set SiteRing.init b.rings site.val ((b.ring site).append r)
    lost := if (b.ring site).frozen || 64 ≤ (b.ring site).waiting.length then satAdd b.lost 1 else b.lost }

def Bbx.siteLogAll (b : Bbx) (site : Fin 64) : List BbxRec → Bbx
  | [] => b
  | r :: rs => (b.siteLog site r).siteLogAll site rs

/-- The SOURCE word of R477. -/
def bbxSource (origin tile unit : Nat) (part : Option (Fin 32)) (hold : Bool) : Word :=
  BitVec.ofNat 32 (origin * 2 ^ 25 + tile * 2 ^ 17 + unit * 2 ^ 13 +
    (match part with | none => 0 | some p => 2 ^ 12 + p.val * 2 ^ 7) + (if hold then 1 else 0))

/-- A record that the supervisor makes itself: origin SUP-P or SUP-S, unit 11. -/
def Sup.record (u : Sup) (ev : BitVec 16) (part : Option (Fin 32)) (step detail : BitVec 64) : BbxRec :=
  { ts := u.counter, source := bbxSource (if u.standbyActive then 65 else 64) 0xFF 11 part u.holdover, event := ev,
    tag := 0, step := step, detail := detail }

/-- A record that the supervisor makes of a site, tile and unit, which its SOURCE names (R477). -/
def Sup.recordOf (u : Sup) (ev : BitVec 16) (site tile unit : Nat) (part : Option (Fin 32)) : BbxRec :=
  { ts := u.counter, source := bbxSource site tile unit part u.holdover, event := ev, tag := 0, step := 0, detail := 0 }

/-- A record made beside a site's tiles by unit `unit`, with the site's copy of the counter. -/
def Site.record (x : Site) (u : Sup) (site : Fin 64) (unit : Nat) (part : Option (Fin 32)) (ev : BitVec 16)
    (detail : BitVec 64) : BbxRec :=
  { ts := x.ts, source := bbxSource site.val 0xFF unit part u.holdover, event := ev, tag := 0, step := 0,
    detail := detail }

/-! ### What a tile's step sends out -/

/-- What a tile's step reads: which tile it is and the block as it stands. -/
structure Ctx where
  t : PTile
  s : State
deriving DecidableEq, Repr

def Ctx.site (c : Ctx) : Site := c.s.site c.t.site

/-- The partition is in bounded mode (R327). -/
def Ctx.bounded (c : Ctx) : Bool :=
  match (c.s.tile c.t).pl.part.bind c.s.furnPart with | none => true | some f => !f.tuning

/-- The DMA wait limit of the tile's partition, by default 256 (R193). -/
def Ctx.dmaWait (c : Ctx) : Nat :=
  match (c.s.tile c.t).pl.part.bind c.s.furnPart with | none => 256 | some f => f.dmaWait

/-- The tile after a step and what the step sends out of it: records for the site ring, notices to the couch,
counter increments, flits; and how many free values it used. -/
structure Fx where
  tile : Tile
  recs : List BbxRec
  notes : List Notice
  ctrs : List (Ctr × Nat)
  flits : List Flit
  /-- Lanes of the tile whose load drive starts or begins to end (R306). -/
  drives : List (Nat × Drive)
  used : Nat
deriving DecidableEq, Repr

def Fx.ofTile (x : Tile) : Fx := ⟨x, [], [], [], [], [], 0⟩

/-- How an event is marked in the check report: not at all, recoverable (class R), or not replayed (P; S, T). -/
inductive Mark where
  | none | recov | program | hardware
deriving DecidableEq, Repr

def Ctx.record (c : Ctx) (x : Tile) (unit : Nat) (ev : BitVec 16) (detail : BitVec 64) : BbxRec :=
  { ts := c.site.ts, source := bbxSource c.t.site.val (16 * c.t.y.val + c.t.x.val) unit x.pl.part c.s.sup.holdover, event := ev,
    tag := x.sc.stagecnt, step := x.sc.step, detail := detail }

def Mark.kind : Mark → NoticeKind
  | .none => .recorded | .recov => .recoverable | .program => .program | .hardware => .hardware

/-- A tile raises an event: it logs it in the site ring (`once`: at most once per tile per step), marks its check
report, and sends a fault notice that names its stage counter (R285, R319, R401, R402). -/
def Fx.raise (f : Fx) (c : Ctx) (unit : Nat) (ev : BitVec 16) (detail : BitVec 64) (m : Mark) (once : Bool) : Fx :=
  { f with
    recs := if once && f.tile.rp.logged.contains ev then f.recs else f.recs ++ [c.record f.tile unit ev detail]
    notes := match m with
      | .none => f.notes
      | _ => f.notes ++ [⟨m.kind, f.tile.sc.stagecnt, ev, some c.t, none, none⟩]
    tile := { f.tile with rp :=
      { rep := { f.tile.rp.rep with
          recov := if m = .recov then f.tile.rp.rep.recov ++ [ev] else f.tile.rp.rep.recov
          fatal := if m = .program ∨ m = .hardware then f.tile.rp.rep.fatal ++ [ev] else f.tile.rp.rep.fatal }
        logged := if f.tile.rp.logged.contains ev then f.tile.rp.logged else f.tile.rp.logged ++ [ev]
        recovInStage := f.tile.rp.recovInStage || decide (m = .recov) } } }

/-- Counts an event in a site counter. -/
def Fx.count (f : Fx) (k : Ctr) (n : Nat) : Fx := if n = 0 then f else { f with ctrs := f.ctrs ++ [(k, n)] }

def Fx.send (f : Fx) (x : Flit) : Fx := { f with flits := f.flits ++ [x] }

/-- Changes the tile of a step under way. -/
def Fx.set (f : Fx) (x : Tile) : Fx := { f with tile := x }

/-- A result that a supply-warning window makes invalid marks the check report (R130, R521). -/
def Fx.invalidate (f : Fx) (b : Bool) : Fx :=
  f.set { f.tile with rp := { f.tile.rp with rep := { f.tile.rp.rep with invalid := f.tile.rp.rep.invalid || b } } }

/-- A fault notice on its way from a tile to the couch (R401, R614). -/
def noticeFlit (n : Net) (t : PTile) (part : Option (Fin 32)) (x : Notice) : Flit :=
  mkFlit 0 t.port0 n.supAt part t.key (.notice x)

/-- Load drive of a lane starts; or, if it is on, is to end with the lane slot (R306). -/
def Lane.driven (l : Lane) (d : Drive) : Lane :=
  { l with drive := if d = .ending ∧ l.drive = .off then .off else d }

def drivesOn (m : SMap Lane) (key : Nat) : List (Nat × Drive) → SMap Lane
  | [] => m
  | (n, d) :: r => drivesOn (SMap.set Lane.init m (key * 2 + n) ((SMap.get Lane.init m (key * 2 + n)).driven d)) key r

/-- Applies what a tile's step sends out: the tile, the records, the counters, the notices and the flits. -/
def State.commit (s : State) (t : PTile) (f : Fx) : State :=
  { s with
    tiles := SMap.set Tile.init s.tiles t.key f.tile
    bbx := s.bbx.siteLogAll t.site f.recs
    ctrs := ctrAddAll s.ctrs t.site f.ctrs
    lanes := drivesOn s.lanes t.key f.drives
    net := s.net.send (f.flits ++ f.notes.map (noticeFlit s.net t f.tile.pl.part))
    nonce := s.nonce + f.used }

/-- Runs a tile's step `f` where `ok` holds; otherwise the step does not happen. -/
def State.onTile (s : State) (t : PTile) (ok : Bool) (f : Ctx → Fx → Fx) : State :=
  if ok then s.commit t (f ⟨t, s⟩ (Fx.ofTile (s.tile t))) else s

/-- A tile's clocks run: its site is up and its arith clock is not stopped (R506, R533), and the tile is good. -/
def State.tileRuns (s : State) (t : PTile) : Bool :=
  (s.site t.site).up && (s.site t.site).arith && !(s.tile t).pl.bad

/-! ### Time within a tile -/

/-- `n` arith cycles pass in a tile (R24, R326): its cycle counter, its stage and step counts. -/
def Tile.pass (x : Tile) (n : Nat) : Tile :=
  { x with
    sc := { x.sc with cyc := x.sc.cyc + BitVec.ofNat 48 n }
    clk := { x.clk with
      cycles := if x.clk.running then x.clk.cycles + n else x.clk.cycles
      stepCycles := x.clk.stepCycles + n } }

/-- A slip (R318): both SLIPS fields; the first of the step fills SLIP1 and logs EVT_SLIP; in bounded mode it is a
timing program error (R327). -/
def Fx.slip (f : Fx) (c : Ctx) (cause unit : Nat) (pc : BitVec 16) : Fx :=
  let sc := f.tile.sc
  let first := sc.slip1a.getLsbD 23 = false
  let w : Word := BitVec.ofNat 32 (cause * 2 ^ 28 + unit * 2 ^ 24 + 2 ^ 23 + pc.toNat)
  let f1 := f.set { f.tile with
    sc := { sc with
      slipsTotal := satAdd sc.slipsTotal 1
      slipsStep := satAdd sc.slipsStep 1
      slip1a := if first then w else sc.slip1a
      slip1b := if first then satAdd (0 : Word) f.tile.clk.stepCycles else sc.slip1b }
    rp := { f.tile.rp with rep := { f.tile.rp.rep with timing := f.tile.rp.rep.timing || (first && c.bounded) } } }
  if first then
    f1.raise c unit evtSlip (BitVec.ofNat 64 (pc.toNat * 2 ^ 32 + w.toNat)) .none true
  else f1

/-! ### Scalar registers -/

/-- A read of a general register; s0 reads as zero (R283). -/
def Scalar.reg (c : Scalar) (r : Reg) : Word := if r = 0 then 0 else SMap.get 0 c.regs r.toNat

/-- A write of a general register; a write to s0 is discarded (R283). -/
def Scalar.setReg (c : Scalar) (r : Reg) (v : Word) : Scalar :=
  { c with regs := if r = 0 then c.regs else SMap.set 0 c.regs r.toNat v }

/-- Records that a register's result can be read from cycle `n` on (R288, R314). -/
def Scalar.setReady (c : Scalar) (r : Reg) (n : Nat) : Scalar :=
  { c with ready := if r = 0 then c.ready else SMap.set 0 c.ready r.toNat n }

/-! ### Scratchpad -/

/-- Bank of a SCR offset (R187). -/
def bankOf (off : Nat) : Nat := off / 0x20000 % 16

/-- The key of a bank: its number. -/
def TileMem.bank (m : TileMem) (b : Nat) : Bank := SMap.get Bank.init m.banks b

/-- A bank serves an access (R189); OFF and waking from OFF do not (R191). -/
def Bank.served (b : Bank) : Bool := b.cur = .on
def Bank.dead (b : Bank) : Bool := b.cur = .off

/-- Little-endian value of bytes (R289). -/
def leVal : List Byte → Nat
  | [] => 0
  | b :: r => b.toNat + 256 * leVal r

/-- `n` little-endian bytes of a value. -/
def leBytes (n : Nat) (v : Nat) : List Byte := (List.range n).map fun i => BitVec.ofNat 8 (v / 256 ^ i)

def TileMem.read (m : TileMem) (off n : Nat) : List Byte := SMap.getList 0 m.scr off n

def TileMem.read32 (m : TileMem) (off : Nat) : Word := BitVec.ofNat 32 (leVal (m.read off 4))

/-- The 8 B words that `n` bytes at `off` touch. -/
def eccWords (off n : Nat) : List Nat := (List.range ((off + n - 1) / 8 + 1 - off / 8)).map (off / 8 + ·)

/-- A write: the bytes, and the marks of the words it covers; a word that is written has valid ECC. -/
def TileMem.write (m : TileMem) (off : Nat) (bs : List Byte) : TileMem :=
  { m with
    scr := SMap.setList 0 m.scr off bs
    scrEcc := SMap.modifyAll Ecc.ok (fun _ _ => .ok) (if bs.isEmpty then [] else eccWords off bs.length) m.scrEcc }

/-- Uncorrectable words among those read. -/
def TileMem.uncorrectable (m : TileMem) (off n : Nat) : List Nat :=
  (eccWords off n).filter fun k => SMap.get Ecc.ok m.scrEcc k = .double

/-- Words with one wrong bit among those read. -/
def TileMem.correctable (m : TileMem) (off n : Nat) : List Nat :=
  (eccWords off n).filter fun k => SMap.get Ecc.ok m.scrEcc k = .single

/-- A row becomes suspect; a full list of 16 drops it (R197). -/
def TileMem.suspect (m : TileMem) (row : Nat) : TileMem :=
  { m with suspects := if m.suspects.contains row || 16 ≤ m.suspects.length then m.suspects else m.suspects ++ [row] }

/-- A corrected error of a row: the second since the last POR makes it suspect (R197). -/
def TileMem.corrected (m : TileMem) (row : Nat) : TileMem :=
  if m.onceBad.contains row then m.suspect row else { m with onceBad := m.onceBad ++ [row] }

def TileMem.correctedAll (m : TileMem) : List Nat → TileMem
  | [] => m
  | k :: ks => (m.corrected (k / 8)).correctedAll ks

def TileMem.suspectAll (m : TileMem) : List Nat → TileMem
  | [] => m
  | k :: ks => (m.suspect (k / 8)).suspectAll ks

/-- The wafer address of an offset of the tile's own scratchpad, as DETAIL of a memory event (R183, R477). -/
def Tile.wafer (x : Tile) (off : Nat) : BitVec 64 :=
  BitVec.ofNat 64 (x.pl.c.toNat * 2 ^ 53 + x.pl.r.toNat * 2 ^ 47 + off)

/-- The ECC of a read of `n` bytes at `off` (R188, R197, R460): corrected errors are counted; an uncorrectable one
is EVT_SRAM_UE, not replayed, and makes its row suspect. -/
def Fx.readEcc (f : Fx) (c : Ctx) (unit off n : Nat) : Fx :=
  let m := f.tile.mem
  let one := m.correctable off n
  let two := m.uncorrectable off n
  let f1 := (f.set { f.tile with mem := (m.correctedAll one).suspectAll two }).count .scrCe one.length
  if two.isEmpty then f1 else f1.raise c unit evtSramUe (f.tile.wafer off) .hardware false

/-- Words of which `n` bytes at `off` cover a part (R188). -/
def partWords (off n : Nat) : List Nat :=
  if n = 0 then [] else (eccWords off n).filter fun k => 8 * k < off || off + n < 8 * k + 8

/-- A write that covers part of a word reads the word, merges it and writes it back (R188): the errors of those reads. -/
def TileMem.mergeErrs (m : TileMem) (off n : Nat) (e : Ecc) : List Nat :=
  (partWords off n).filter fun k => SMap.get Ecc.ok m.scrEcc k = e

/-- The errors that the merging reads of a write of `n` bytes at `off` meet, as in any read. -/
def Fx.mergeEcc (f : Fx) (c : Ctx) (unit off n : Nat) : Fx :=
  let m := f.tile.mem
  let one := m.mergeErrs off n .single
  let two := m.mergeErrs off n .double
  let f1 := (f.set { f.tile with mem := (m.correctedAll one).suspectAll two }).count .scrCe one.length
  if two.isEmpty then f1 else f1.raise c unit evtSramUe (f.tile.wafer off) .hardware false

/-- A write into the tile's own scratchpad. -/
def Fx.writeScr (f : Fx) (c : Ctx) (unit off : Nat) (bs : List Byte) : Fx :=
  let g := f.mergeEcc c unit off bs.length
  g.set { g.tile with mem := g.tile.mem.write off bs }

/-- An access to a bank in OFF or waking from OFF is not performed (R191); `detail`: the PC and the word. -/
def Fx.bankOff (f : Fx) (c : Ctx) (unit detail : Nat) : Fx :=
  f.raise c unit evtBankOff (BitVec.ofNat 64 detail) .program true

/-- Starts the wake of a bank in RET that an access meets (R190). -/
def TileMem.wake (m : TileMem) (b : Nat) : TileMem :=
  { m with
    banks := SMap.set Bank.init m.banks b
      (if (m.bank b).cur = .ret ∧ (m.bank b).next = none then ⟨.ret, some .on⟩ else m.bank b) }

/-- The access of the DMA's present part reaches a bank of the tile with key `k` at its cycle `n` (R193). -/
def Dma.atBank (d : Dma) (k n : Nat) : Dma :=
  { d with since := match d.since with | none => some (k, n) | some _ => d.since }

/-- An access of tile `x` reaches a bank of its own. -/
def Tile.atOwnBank (x : Tile) (t : PTile) : Tile := { x with dma := x.dma.atBank t.key x.sc.cyc.toNat }

/-- The banks that `n` bytes at `off` touch. -/
def banksOf (off n : Nat) : List Nat := ((List.range (bankOf (off + n - 1) + 1)).drop (bankOf off))

end Sys2Proof.Machine
end

