-- ==== Sys2Proof/Machine/Routes.lean ====
section
/-! DEFINITION. The routers' grid: ports and links (R224–R226, R614), the ring dies' attachments (R225), the path of a flit
with its detours around bad routers (R227, R228), and what a path costs (R229–R231). -/

namespace Sys2Proof.Machine

/-! ### Ports and links -/

/-- The port by which a flit at (c, r) leaves for (dc, dr): along its row first, express hops before mesh hops; none
at the destination. -/
def nextPort (c r dc dr : Nat) : Option Nat :=
  if c < dc then some (if 8 ≤ dc - c then 6 else 2)
  else if dc < c then some (if 8 ≤ c - dc then 8 else 4)
  else if r < dr then some (if 8 ≤ dr - r then 7 else 3)
  else if dr < r then some (if 8 ≤ r - dr then 5 else 1)
  else none

/-- The router at the far end of a port. -/
def beyond (c r port : Nat) : Nat × Nat :=
  match port with
  | 1 => (c, r - 1) | 2 => (c + 1, r) | 3 => (c, r + 1) | 4 => (c - 1, r)
  | 5 => (c, r - 8) | 6 => (c + 8, r) | 7 => (c, r + 8) | 8 => (c - 8, r)
  | _ => (c, r)

/-- The port by which a link enters the router at its far end. -/
def opposite (port : Nat) : Nat :=
  match port with | 1 => 3 | 2 => 4 | 3 => 1 | 4 => 2 | 5 => 7 | 6 => 8 | 7 => 5 | 8 => 6 | n => n

/-- A port leads to another router of the wafer's 128 columns and 72 rows (R224). -/
def onWafer (c r port : Nat) : Bool :=
  match port with
  | 1 => 1 ≤ r | 2 => c < 127 | 3 => r < 71 | 4 => 1 ≤ c
  | 5 => 8 ≤ r | 6 => c < 120 | 7 => r < 64 | 8 => 8 ≤ c
  | _ => false

/-! ### Ring dies (R225, R614) -/

/-- The ten ring dies. -/
inductive RingDie where
  | supP | supS | prt (i : Fin 2) | plk (i : Fin 4) | sto (i : Fin 2)
deriving DecidableEq, Repr

def ringDies : List RingDie :=
  [.supP, .supS, .prt 0, .prt 1, .plk 0, .plk 1, .plk 2, .plk 3, .sto 0, .sto 1]

/-- The outward mesh port and the sites that a ring die stands beside; at a corner both edges of its site.  STO0 and STO1 stand
beside PLK0 and PLK2 on their edges; the model puts them at the next site toward the middle's right (log entry 61). -/
def RingDie.beside : RingDie → List (Nat × Nat)
  | .supP => [(4, 0)]
  | .supS => [(2, 63)]
  | .prt 0 => [(1, 7), (2, 7)]
  | .prt 1 => [(3, 56), (4, 56)]
  | .plk 0 => [(1, 3), (1, 4)]
  | .plk 1 => [(2, 31), (2, 39)]
  | .plk 2 => [(3, 59), (3, 60)]
  | .plk 3 => [(4, 24), (4, 32)]
  | .sto 0 => [(1, 5)]
  | .sto 1 => [(3, 61)]

/-- The routers on the edge of a site that faces a port's direction: device columns and rows. -/
def edgeRouters (site port : Nat) : List (Nat × Nat) :=
  let c := 16 * (site % 8)
  let r := 9 * (site / 8)
  match port with
  | 1 => (List.range 16).map fun x => (c + x, r)
  | 3 => (List.range 16).map fun x => (c + x, r + 8)
  | 2 => (List.range 9).map fun y => (c + 15, r + y)
  | 4 => (List.range 9).map fun y => (c, r + y)
  | _ => []

/-- Where a ring die joins the network: column, row, port.  A supervisor has one router (R614). -/
def RingDie.attachments (d : RingDie) : List (Nat × Nat × Nat) :=
  match d with
  | .supP => [(0, 0, 4)]
  | .supS => [(127, 71, 2)]
  | d => d.beside.flatMap fun e => (edgeRouters e.2 e.1).map fun x => (x.1, x.2, e.1)

/-- What a router's port joins (R224, R225). -/
inductive Joined where
  | tile | router (c r : Nat) | loft (site : Fin 64) (ch : Fin 16) | store (site : Fin 64) | ring (d : RingDie) | none
deriving DecidableEq, Repr

def joined (t : PTile) (port : Fin 10) : Joined :=
  if port = 0 then .tile
  else if port = 9 then
    if t.y = 3 then .loft t.site t.x else if t.y = 4 ∧ t.x = 8 then .store t.site else .none
  else if onWafer t.col t.row port.val then .router (beyond t.col t.row port.val).1 (beyond t.col t.row port.val).2
  else match ringDies.find? fun d => d.attachments.contains (t.col, t.row, port.val) with
    | some d => .ring d
    | none => .none

/-! ### Paths (R227, R228) -/

/-- A router declared bad. -/
def badAt (bad : List Nat) (c : Nat × Nat) : Bool := bad.contains (tileAt c.1 c.2).key

/-- The links of a walk over ports from (c, r). -/
def walkPorts (c r : Nat) : List Nat → List (Nat × Nat × Nat)
  | [] => []
  | p :: ps => (c, r, p) :: walkPorts (beyond c r p).1 (beyond c r p).2 ps

/-- A walk stays on the wafer and enters no bad router. -/
def walkOk (bad : List Nat) (c r : Nat) : List Nat → Bool
  | [] => true
  | p :: ps => onWafer c r p && !badAt bad (beyond c r p) && walkOk bad (beyond c r p).1 (beyond c r p).2 ps

/-- Ports of the mesh plane across the axis of a port, in both senses. -/
def sideways (port : Nat) : List (Nat × Nat) :=
  if port % 2 = 1 then [(2, 4), (4, 2)] else [(3, 1), (1, 3)]

/-- The walks by which a path that would leave by `p` into a bad router and from there by `p2` goes around it: at the corner the
axes change places; on a line the flit steps aside, passes, and steps back, 2 mesh hops more (log entry 23). -/
def detours (p p2 : Nat) : List (List Nat) :=
  (if p % 2 = p2 % 2 then [] else [[p2, p]]) ++ (sideways p).map fun q => [q.1, p, p2, q.2]

/-- The links of the one path between two places, as (column, row, port) of their senders, around the routers declared bad; it
stops before a bad router that no detour passes.  `n` bounds the hops. -/
def route (bad : List Nat) : Nat → Nat → Nat → Nat → Nat → List (Nat × Nat × Nat)
  | 0, _, _, _, _ => []
  | n + 1, c, r, dc, dr =>
    match nextPort c r dc dr with
    | none => []
    | some p =>
      let b := beyond c r p
      if !badAt bad b then (c, r, p) :: route bad n b.1 b.2 dc dr
      else match nextPort b.1 b.2 dc dr with
        | none => [(c, r, p)]
        | some p2 => match (detours p p2).find? (walkOk bad c r) with
          | none => []
          | some ps =>
            let e := ps.foldl (fun a q => beyond a.1 a.2 q) (c, r)
            walkPorts c r ps ++ route bad n e.1 e.2 dc dr

/-- More hops than any path has. -/
def maxHops : Nat := 64

/-- The path between two places. -/
def pathOf (bad : List Nat) (a b : Nat × Nat) : List (Nat × Nat × Nat) := route bad maxHops a.1 a.2 b.1 b.2

/-! ### Latency (R229–R231), in net cycles -/

/-- Site boundaries that a link crosses: one or none. -/
def linkSeam (l : Nat × Nat × Nat) : Nat :=
  let b := beyond l.1 l.2.1 l.2.2
  if l.1 / 16 = b.1 / 16 ∧ l.2.1 / 9 = b.2 / 9 then 0 else 1

/-- What one hop takes: 2 on the mesh plane, 3 on the express plane, 4 more at a seam; with the wait that the link budget
allows. -/
def hopCost (wait : Nat) (l : Nat × Nat × Nat) : Nat := (if 5 ≤ l.2.2 then 3 else 2) + 4 * linkSeam l + wait

/-- The greatest time of the first flit on a path: injection, ejection, the hops. -/
def pathCost (wait : Nat) (ls : List (Nat × Nat × Nat)) : Nat := 16 + (ls.map (hopCost wait)).sum

/-- A_route (R230). -/
def aRoute : Nat := 50

/-- Greatest wait per hop of VC1, VC2 and VC3 (R233); VC0 does not wait for them. -/
def hopWait (vc : Nat) : Nat := if vc = 0 then 0 else 4

/-- The bound that a program assumes between two places of the nominal map (R230). -/
def assumedBound (vc : Nat) (a b : Nat × Nat) : Nat := pathCost (hopWait vc) (pathOf [] a b) + aRoute

/-- The path between two places, as the bad routers leave it, stays within the bound assumed between two nominal ones (R231). -/
def withinBound (bad : List Nat) (vc : Nat) (a b a0 b0 : Nat × Nat) : Bool :=
  pathCost (hopWait vc) (pathOf bad a b) ≤ assumedBound vc a0 b0

end Sys2Proof.Machine

namespace Sys2Proof

open Machine

/-! ### The routes of a step program (R337, R338) -/

/-- A partition, the physical map that its program is checked and placed under. -/
structure Ground where
  f : FurnPart
  map : SMap Nat
  /-- The routers declared bad (R228). -/
  bad : List Nat
deriving DecidableEq, Repr

/-- The key of the physical tile of relative tile (i, j). -/
def Ground.phys (x : Ground) (i j : Nat) : PTile := physOf x.map (8 * x.f.bx + i) (8 * x.f.byy + j)

/-- The key of the physical tile with row-major index `n` in the rectangle (R321). -/
def Ground.tile (x : Ground) (n : Nat) : PTile := x.phys (n % (8 * x.f.bw)) (n / (8 * x.f.bw))

/-- The physical routers of a tree's nodes. -/
def TreeDesc.router (d : TreeDesc) (x : Ground) (n : Nat) : PTile :=
  match d.nodes[n]? with | none => ⟨0, 0, 0⟩ | some v => x.phys v.col v.row

/-- The links from node `n` to its parent, or from the parent to it for a multicast tree (R338). -/
def TreeDesc.edge (d : TreeDesc) (x : Ground) (n parent : Nat) : List (Nat × Nat × Nat) :=
  let a := d.router x n
  let b := d.router x parent
  if d.multicast then pathOf x.bad b.place a.place else pathOf x.bad a.place b.place

def TreeDesc.edges (d : TreeDesc) (x : Ground) : List (Nat × List (Nat × Nat × Nat)) :=
  d.nodes.zipIdx.filterMap fun e => e.1.parent.map fun q => (e.2, d.edge x e.2 q)

/-- The links that the program's transfers between tiles take, by its link-load records and its trees. -/
def Program.tileRoutes (g : Program) (x : Ground) : List (Nat × Nat × Nat) :=
  ((g.links.filter fun r => r.dst < 0x8000).flatMap fun r => pathOf x.bad (x.tile r.src).place (x.tile r.dst).place) ++
    g.trees.flatMap fun d => (d.edges x).flatMap (·.2)

end Sys2Proof
end

