-- ==== Sys2Proof/Machine/Float.lean ====
section
/-! DEFINITION. Floating point (R30, R83, R86): values of FP32, BF16 and FP16 words, one rounding to nearest even,
IEEE 754 addition, multiplication and fused multiply-add, comparisons, conversions to and from integers, and the
special functions within the limits of R86. -/

namespace Sys2Proof.Machine

/-- A floating-point value: not a number, an infinity, or (−1)^neg × m × 2^e. -/
inductive FV where
  | nan | inf (neg : Bool) | fin (neg : Bool) (m : Nat) (e : Int)
deriving DecidableEq, Repr

/-- A wide format: exponent bits, mantissa bits. -/
structure FFmt where
  eb : Nat
  mb : Nat
deriving DecidableEq, Repr

def fFP32 : FFmt := ⟨8, 23⟩
def fBF16 : FFmt := ⟨8, 7⟩
def fFP16 : FFmt := ⟨5, 10⟩

def FFmt.bias (f : FFmt) : Int := 2 ^ (f.eb - 1) - 1

/-- The value of a code (IEEE 754). -/
def FFmt.dec (f : FFmt) (w : Nat) : FV :=
  let m := w % 2 ^ f.mb
  let x := w / 2 ^ f.mb % 2 ^ f.eb
  let s := w.testBit (f.eb + f.mb)
  if x = 2 ^ f.eb - 1 then (if m = 0 then .inf s else .nan)
  else if x = 0 then .fin s m (1 - f.bias - f.mb)
  else .fin s (2 ^ f.mb + m) (x - f.bias - f.mb)

/-- m ÷ 2^d to nearest, ties to even. -/
def rneShift (m d : Nat) : Nat :=
  let q := m / 2 ^ d
  let r := m % 2 ^ d
  if 2 * r > 2 ^ d ∨ (2 * r = 2 ^ d ∧ q % 2 = 1 ∧ d ≠ 0) then q + 1 else q

/-- The canonical quiet NaN of a format (R30). -/
def FFmt.qnan (f : FFmt) : Nat := (2 ^ f.eb - 1) * 2 ^ f.mb + 2 ^ (f.mb - 1)

def FFmt.infCode (f : FFmt) (s : Bool) : Nat := (if s then 2 ^ (f.eb + f.mb) else 0) + (2 ^ f.eb - 1) * 2 ^ f.mb

/-- One rounding to nearest even, with subnormals, overflow to infinity and signed zero. -/
def FFmt.enc (f : FFmt) : FV → Nat
  | .nan => f.qnan
  | .inf s => f.infCode s
  | .fin s m e =>
    let sg := if s then 2 ^ (f.eb + f.mb) else 0
    if m = 0 then sg
    else
      let x0 : Int := max (Nat.log2 m + e) (1 - f.bias)
      let q : Int := x0 - f.mb
      let n := if q ≤ e then m * 2 ^ (e - q).toNat else rneShift m (q - e).toNat
      let c := (x0 + f.bias - 1).toNat * 2 ^ f.mb + n
      if (2 ^ f.eb - 1) * 2 ^ f.mb ≤ c then f.infCode s else sg + c

def f32 (w : Word) : FV := fFP32.dec w.toNat
def toF32 (v : FV) : Word := BitVec.ofNat 32 (fFP32.enc v)

/-- The canonical NaN of FP32. -/
def nan32 : Word := 0x7FC00000
def negInf32 : Word := 0xFF800000

/-! ### Exact arithmetic on values -/

def FV.neg : FV → FV
  | .nan => .nan | .inf s => .inf (!s) | .fin s m e => .fin (!s) m e

/-- Exact sum; an exact zero of unlike signs is +0. -/
def FV.add : FV → FV → FV
  | .nan, _ => .nan
  | _, .nan => .nan
  | .inf a, .inf b => if a = b then .inf a else .nan
  | .inf a, _ => .inf a
  | _, .inf b => .inf b
  | .fin s m e, .fin s' m' e' =>
    let k := min e e'
    let a : Int := (if s then -1 else 1) * (m * 2 ^ (e - k).toNat : Nat)
    let b : Int := (if s' then -1 else 1) * (m' * 2 ^ (e' - k).toNat : Nat)
    if a + b = 0 then .fin (s && s') 0 0 else .fin (decide (a + b < 0)) (a + b).natAbs k

/-- Exact product. -/
def FV.mul : FV → FV → FV
  | .nan, _ => .nan
  | _, .nan => .nan
  | .inf a, .inf b => .inf (a != b)
  | .inf a, .fin s m _ => if m = 0 then .nan else .inf (a != s)
  | .fin s m _, .inf b => if m = 0 then .nan else .inf (s != b)
  | .fin s m e, .fin s' m' e' => .fin (s != s') (m * m') (e + e')

/-- An integer times a power of two. -/
def FV.ofInt (z e : Int) : FV := .fin (decide (z < 0)) z.natAbs e

def FV.isNan : FV → Bool
  | .nan => true | _ => false

def FV.isZero : FV → Bool
  | .fin _ m _ => m == 0 | _ => false

def FV.isInf : FV → Bool
  | .inf _ => true | _ => false

def FV.isNeg : FV → Bool
  | .fin s _ _ => s | .inf s => s | .nan => false

/-- a < b; false with a NaN. -/
def FV.lt : FV → FV → Bool
  | .nan, _ => false
  | _, .nan => false
  | .inf a, .inf b => a && !b
  | .inf a, _ => a
  | _, .inf b => !b
  | .fin s m e, .fin s' m' e' =>
    let k := min e e'
    (if s then -1 else 1) * ((m * 2 ^ (e - k).toNat : Nat) : Int) <
      (if s' then -1 else 1) * ((m' * 2 ^ (e' - k).toNat : Nat) : Int)

/-- a = b; false with a NaN; −0 equals +0. -/
def FV.eq (a b : FV) : Bool := !a.isNan && !b.isNan && !a.lt b && !b.lt a

/-- R83: minimum takes −0 as less than +0, and the operand that is not a NaN. -/
def FV.min (a b : FV) : FV :=
  if a.isNan then b else if b.isNan then a
  else if a.lt b then a else if b.lt a then b else if a.isNeg then a else b

def FV.max (a b : FV) : FV :=
  if a.isNan then b else if b.isNan then a
  else if a.lt b then b else if b.lt a then a else if a.isNeg then b else a

/-- The nearest integer, ties to even, of a finite value. -/
def rneInt (s : Bool) (m : Nat) (e : Int) : Int :=
  (if s then -1 else 1) * ((if 0 ≤ e then m * 2 ^ e.toNat else rneShift m (-e).toNat : Nat) : Int)

/-- Conversion to a `w`-bit integer: RNE, saturating; NaN gives zero (R303). -/
def FV.toIntSat (w : Nat) : FV → Int
  | .nan => 0
  | .inf s => if s then -(2 ^ (w - 1)) else 2 ^ (w - 1) - 1
  | .fin s m e => satInt w (rneInt s m e)

/-! ### FP32 operations, one rounding each -/

def fadd (a b : Word) : Word := toF32 ((f32 a).add (f32 b))
def fsub (a b : Word) : Word := toF32 ((f32 a).add (f32 b).neg)
def fmul (a b : Word) : Word := toF32 ((f32 a).mul (f32 b))
def ffma (a b c : Word) : Word := toF32 (((f32 a).mul (f32 b)).add (f32 c))
def flt (a b : Word) : Bool := (f32 a).lt (f32 b)
def fle (a b : Word) : Bool := (f32 a).lt (f32 b) || (f32 a).eq (f32 b)
def feq (a b : Word) : Bool := (f32 a).eq (f32 b)
def fmax (a b : Word) : Word := toF32 ((f32 a).max (f32 b))
def fmin (a b : Word) : Word := toF32 ((f32 a).min (f32 b))
def isFinite (a : Word) : Bool := match f32 a with | .fin _ _ _ => true | _ => false

/-! ### Special functions (R86) -/

/-- num ÷ den × 2^e, rounded once; `den` is positive. -/
def encQuot (neg : Bool) (num den : Nat) (e : Int) : Word :=
  let q := num * 2 ^ 120 / den
  toF32 (.fin neg (2 * q + (if num * 2 ^ 120 % den = 0 then 0 else 1)) (e - 121))

def toRat : FV → ℚ
  | .fin s m e => (if s then -1 else 1) * (m : ℚ) * (2 : ℚ) ^ e
  | _ => 0

/-- One unit in the last place of a result whose exponent is `x`. -/
def ulp32 (x : Int) : ℚ := (2 : ℚ) ^ (max x (-126) - 23)

/-- The value `y` that the device returns: the free one if it is finite and meets the limit, else the rounded one. -/
def within (y : Word) (ok : ℚ → Bool) (rounded : Word) : Word := if isFinite y && ok (toRat (f32 y)) then y else rounded

/-- Reciprocal: exact for powers of two, within 1 ulp otherwise (log entry 6). -/
def recip32 (w : Word) : Word :=
  match f32 w with
  | .nan => nan32
  | .inf s => if s then 0x80000000 else 0
  | .fin s m e =>
    if m = 0 then (if s then negInf32 else 0x7F800000)
    else if m = 2 ^ Nat.log2 m then toF32 (.fin s 1 (-(Nat.log2 m : Int) - e))
    else
      let r := encQuot s 1 m (-e)
      if isFinite r then
        within (Config.recipF32 w) (fun y => |y - 1 / toRat (.fin s m e)| ≤ ulp32 (-(Nat.log2 m : Int) - e - 1)) r
      else r

/-- Reciprocal square root: exact for even powers of two, within 2 ulp otherwise (log entry 6). -/
def rsqrt32 (w : Word) : Word :=
  match f32 w with
  | .nan => nan32
  | .inf s => if s then nan32 else 0
  | .fin s m e =>
    if m = 0 then (if s then negInf32 else 0x7F800000)
    else if s then nan32
    else
      let l : Int := Nat.log2 m + e
      if m = 2 ^ Nat.log2 m ∧ l % 2 = 0 then toF32 (.fin false 1 (-(l / 2)))
      else
        let x : Int := if l % 2 = 0 then -(l / 2) - 1 else -((l + 1) / 2)
        let u := 2 * ulp32 x
        let v := toRat (.fin false m e)
        -- m × 2^e = (m × 2^(e mod 2)) × 2^(2 × (e div 2)); the root of 2^240 ÷ it, then one rounding
        let root := Nat.sqrt (2 ^ 240 / (m * 2 ^ (e % 2).toNat))
        within (Config.rsqrtF32 w) (fun y => 0 ≤ y && (decide (y ≤ u) || (y - u) * (y - u) * v ≤ 1) && 1 ≤ (y + u) * (y + u) * v)
          (toF32 (.fin false (2 * root + 1) (-121 - e / 2)))

/-- 2^300 × exp(z ÷ 2^300), by 60 terms of the series at z ÷ 2^8 and eight squarings. -/
def expFix (z : Int) : Int :=
  let y := z / 2 ^ 8
  let sum := (List.range 60).foldl (fun (a : Int × Int) n => (a.1 + a.2, a.2 * y / (2 ^ 300 * (n + 1)))) (0, 2 ^ 300)
  (List.range 8).foldl (fun (v : Int) _ => v * v / 2 ^ 300) sum.1

/-- exp within 2 ulp, or 2 × 2^−149 for subnormal and zero results (log entry 6). -/
def exp32 (w : Word) : Word :=
  match f32 w with
  | .nan => nan32
  | .inf s => if s then 0 else 0x7F800000
  | .fin s m e =>
    if m = 0 then 0x3F800000
    else if !s && 0x42B17218 ≤ w.toNat then 0x7F800000
    else if s && 8 ≤ Nat.log2 m + e then
      within (Config.expF32 w) (fun y => |y| ≤ 2 * (2 : ℚ) ^ (-149 : Int)) 0
    else
      let z : Int := (if s then -1 else 1) * ((if 0 ≤ e + 300 then m * 2 ^ (e + 300).toNat else m / 2 ^ (-(e + 300)).toNat : Nat) : Int)
      let v := (expFix z).toNat
      let t : ℚ := (v : ℚ) * (2 : ℚ) ^ (-300 : Int)
      let r := toF32 (.fin false v (-300))
      if isFinite r then within (Config.expF32 w) (fun y => |y - t| ≤ 2 * ulp32 ((Nat.log2 v : Int) - 300)) r else r

end Sys2Proof.Machine
end

