-- ==== Sys2Proof/Machine/Operands.lean ====
section
/-! DEFINITION. The operands of the unit-queue commands: format codes and element widths, the layouts of
descriptors and operand words, the command faults of an instruction word and of its operand values (R287), and
the resources that each command reads and writes, by which the scoreboard orders commands (R314, R315). -/

namespace Sys2Proof

/-- Codes of the five queues (R295). -/
def Queue.code : Queue → Nat
  | .mq => 0 | .vq => 1 | .lq => 2 | .dq => 3 | .sq => 4

end Sys2Proof

namespace Sys2Proof.Machine

/-! ### Formats (R25, R296) -/

/-- Bits of one element of a format code; 0 for a reserved code. -/
def fmtBits (f : Nat) : Nat :=
  match f with
  | 0 => 2 | 1 => 4 | 2 => 4 | 3 => 6 | 4 => 6 | 5 => 8 | 6 => 8 | 7 => 8 | 8 => 16 | 9 => 16 | 10 => 32 | 11 => 32
  | 12 => 16 | _ => 0

/-- Codes 0x0–0x7 are narrow formats. -/
def isNarrow (f : Nat) : Bool := f < 8

/-- The reduction depth Kt of a pair of weight and activation formats (R64); 0 for a pair absent from R64. -/
def pairKt (w a : Nat) : Nat :=
  if isNarrow w then
    if a = 8 then 64
    else if a = 0 ∨ 8 < a then 0
    else if w = 0 then (if a ≤ 2 then 256 else 64)
    else if w ≤ 2 then (if a ≤ 2 then 128 else 64)
    else 64
  else 0

/-- Field [hi:lo] of a word. -/
def fld (w : Nat) (hi lo : Nat) : Nat := w / 2 ^ lo % 2 ^ (hi + 1 - lo)

/-! ### Fields of a queued command -/

def QCmd.ra (q : QCmd) : Nat := q.a.toNat % 2 ^ 32
def QCmd.rb (q : QCmd) : Nat := q.b.toNat % 2 ^ 32
def QCmd.rc (q : QCmd) : Nat := q.c.toNat % 2 ^ 32
def QCmd.lane (q : QCmd) : Nat := q.mod.toNat % 2

/-- Load descriptor (R298). -/
def QCmd.ldBuf (q : QCmd) : Nat := fld q.rc 6 6
def QCmd.ldKt (q : QCmd) : Nat := 64 * 2 ^ fld q.rc 5 4
def QCmd.ldFmt (q : QCmd) : Nat := fld q.rc 3 0

/-- Weight-stationary descriptor (R298). -/
def QCmd.wsRow0 (q : QCmd) : Nat := fld q.rc 25 17
def QCmd.wsM (q : QCmd) : Nat := fld q.rc 16 8 + 1
def QCmd.wsRaw (q : QCmd) : Bool := q.rc.testBit 7
def QCmd.wsOvw (q : QCmd) : Bool := q.rc.testBit 6
def QCmd.wsFb (q : QCmd) : Bool := q.rc.testBit 5
def QCmd.wsBuf (q : QCmd) : Nat := fld q.rc 4 4
def QCmd.wsFmt (q : QCmd) : Nat := fld q.rc 3 0

/-- Output-stationary descriptor (R298). -/
def QCmd.osKr (q : QCmd) : Nat := 32 * (fld q.rc 31 20 + 1)
def QCmd.osRow0 (q : QCmd) : Nat := fld q.rc 19 11
def QCmd.osRaw (q : QCmd) : Bool := q.rc.testBit 10
def QCmd.osOvw (q : QCmd) : Bool := q.rc.testBit 9
def QCmd.osFb (q : QCmd) : Bool := q.rc.testBit 8
def QCmd.osW (q : QCmd) : Nat := fld q.rc 7 4
def QCmd.osA (q : QCmd) : Nat := fld q.rc 3 0

/-- LEVAL operands (R306). -/
def QCmd.leVat (q : QCmd) : Nat := fld q.rb 31 25
def QCmd.leOut (q : QCmd) : Nat := fld q.rb 20 0
def QCmd.leFb (q : QCmd) : Bool := q.mod.toNat.testBit 1

/-- DCOPY operands (R310). -/
def QCmd.src (q : QCmd) : Nat := q.a.toNat
def QCmd.dst (q : QCmd) : Nat := q.b.toNat
def QCmd.len (q : QCmd) : Nat := q.rc

/-- A raw integer pass takes I4, I8 or T2 weights, I4 or I8 activations, and no partner slots (R68). -/
def rawOk (w a : Nat) (fb : Bool) : Bool := (w == 1 || w == 5 || w == 0) && (a == 1 || a == 5) && !fb

/-- Bytes of one activation row image of a weight-stationary pass (R300). -/
def wsImage (kt a : Nat) (fb : Bool) : Nat := if fb then kt else kt * fmtBits a / 8

/-- Bytes of a panel's codes, up to the next 64 B boundary (R301). -/
def panelCodes (f kr : Nat) (fb : Bool) : Nat := (kr * (if fb then 64 else 8 * fmtBits f) + 63) / 64 * 64

/-- Where the scale bytes of a panel at `base` lie: at the next 64 B boundary after its codes (R301). -/
def panelScales (base f kr : Nat) (fb : Bool) : Nat := (base + panelCodes f kr fb + 63) / 64 * 64

/-! ### Wafer addresses (R183) -/

def adSpace (a : Nat) : Nat := a / 2 ^ 60 % 16
def adC (a : Nat) : Nat := a / 2 ^ 53 % 128
def adR (a : Nat) : Nat := a / 2 ^ 47 % 64
def adSite (a : Nat) : Nat := a / 2 ^ 54 % 64
def adTileOff (a : Nat) : Nat := a % 2 ^ 47
def adSiteOff (a : Nat) : Nat := a % 2 ^ 54
def adHandle (a : Nat) : Nat := a / 2 ^ 44 % 2 ^ 16
def adVirt (a : Nat) : Nat := a % 2 ^ 44

/-- An address names the tile's own SCR space. -/
def adOwn (x : Tile) (a : Nat) : Bool := adSpace a == 0 && adC a == x.pl.c.toNat && adR a == x.pl.r.toNat

/-- The DCOPY writes out of the issuing tile. -/
def QCmd.outward (x : Tile) (q : QCmd) : Bool := adOwn x q.src

/-- The offset of the issuing tile's endpoint, and the address of the other. -/
def QCmd.ownOff (x : Tile) (q : QCmd) : Nat := if q.outward x then adTileOff q.src else adTileOff q.dst
def QCmd.farAddr (x : Tile) (q : QCmd) : Nat := if q.outward x then q.dst else q.src

/-! ### Command faults of the instruction word (R287) -/

/-- A span of `n` vector registers from `r` runs past v31. -/
def pastV31 (r : Reg) (n : Nat) : Bool := 32 < r.toNat + n

/-- Two register spans overlap. -/
def spansMeet (a : Reg) (n : Nat) (b : Reg) (m : Nat) : Bool := a.toNat < b.toNat + m && b.toNat < a.toNat + n

def vecTypes : List Nat := [5, 8, 9, 10, 11, 12]
def vecInts : List Nat := [5, 11, 12]
def vecFloats : List Nat := [8, 9, 10]

/-- The fields of a vector command that its row does not use, reserved MOD values, spans (R302–R305). -/
def vqFault (op : QOp) (f1 f2 f3 : Reg) (mod : BitVec 6) : Bool :=
  let m := mod.toNat
  let ty := m % 16
  let hi := m / 16
  match op with
  | .vadd | .vsub | .vmul => !vecTypes.contains ty || 1 < hi || (hi == 1 && !vecInts.contains ty)
  | .vfma => !vecFloats.contains ty || hi != 0
  | .vmin | .vmax | .vclt | .vceq => !vecTypes.contains ty || hi != 0
  | .vsel => !vecInts.contains ty || hi != 0
  | .vand | .vor | .vxor => m != 11
  | .vshl => !vecInts.contains ty || 1 < hi
  | .vshr => !vecInts.contains ty || hi != 0
  | .vcvt => !([5, 8, 9, 11, 12].contains ty) || (hi % 2 == 1 && (hi == 3 || !(ty == 8 || ty == 9))) ||
      (hi % 2 == 0 && f3 != 0)
  | .venc => 1 < hi
  | .vexp | .vrcp | .vrsq => !vecFloats.contains ty || hi != 0 || f3 != 0
  | .vred => ty != 10 || hi == 3 || f3 != 0
  | .vscan => ty != 10 || hi != 0 || f3 != 0
  | .vamax => !(ty == 10 || ty == 11) || hi != 0 || pastV31 f1 2 || spansMeet f1 2 f2 1
  | .vtopk => pastV31 f1 4 || pastV31 f2 2 || spansMeet f1 4 f2 2 || f3 != 0
  | .vdraw => m != 0 || f2 != 0
  | .vsmax => hi != 0 || pastV31 f2 (m % 8 + 1) || pastV31 f1 3 || spansMeet f1 3 f2 (m % 8 + 1) || f3 != 0
  | .vdrain => m != 0
  | .vld => m != 0 || f2 != 0
  | .vst => m != 0 || f1 != 0
  | .vsrch => ty != 10 || hi != 0
  | .vrot => m != 0
  | .vbcst => m != 0 || f2 != 0
  | _ => false

/-- A pair is named by an odd register or by s0 (R287). -/
def badPair (r : Reg) : Bool := r == 0 || r.toNat % 2 == 1

/-- The instruction word of a queue command is a command fault. -/
def wordFault (k : Queue) (op : QOp) (f1 f2 f3 : Reg) (mod : BitVec 6) : Bool :=
  match op with
  | .qwait => 4 < mod.toNat % 8 || mod.toNat % 8 == k.code || 8 ≤ mod.toNat || f2 != 0 || f3 != 0
  | .wld | .wldv | .wsp | .osp => mod != 0
  | .leval => 4 ≤ mod.toNat
  | .ldrive => 2 ≤ mod.toNat || f1 != 0 || f2 != 0 || f3 != 0
  | .dcopy => mod != 0 || badPair f1 || badPair f2
  | .dpress | .dmcast => mod != 0 || f3 != 0
  | .sadd | .ssub | .swait => mod != 0 || f3 != 0
  | .sread => mod != 0
  | _ => vqFault op f1 f2 f3 mod

/-! ### Command faults of the operand values, found when the command issues to its unit (R287) -/

/-- The format and depth with which buffer `b` will have been loaded when `q` runs: the last earlier load of the
matrix queue that names it, or what it holds. -/
def Tile.bufCfg (x : Tile) (q : QCmd) (b : Nat) : Option (Nat × Nat) :=
  match (x.mq.filter fun e => e.seq < q.seq && (e.op = .wld || e.op = .wldv) && e.ldBuf = b).getLast? with
  | some e => some (e.ldFmt, e.ldKt)
  | none =>
    let w := if b = 0 then x.mx.wb0 else x.mx.wb1
    if w.loaded then some (w.fmt.toNat, w.kt) else none

/-- The last piece of some row of a striped image, `m` rows of `s` bytes from `off`, lies beyond bank 15; an image of at
most 64 B a row is not striped (R297). -/
def pastBank15 (off s m : Nat) : Bool :=
  64 < s && 16 < (off + 64 * (m - 1)) / 0x20000 + (s + 63) / 64

/-- The operand values that make a command a command fault when it issues (R287).  A WLDV whose rows from its first row to its Kt run past vat
row 511 is one: DESIGN CHOICE, log entry 75. -/
def operandFault (x : Tile) (q : QCmd) : Bool :=
  match q.op with
  | .wld => q.ra % 64 != 0 || q.rb % 64 != 0 || 128 ≤ q.rc || fld q.rc 5 4 == 3 || !isNarrow q.ldFmt
  | .wldv => q.rb % 64 != 0 || 128 ≤ q.rc || fld q.rc 5 4 == 3 || !isNarrow q.ldFmt ||
      96 ≤ q.ra / 0x8000 || 512 < fld q.ra 14 6 + q.ldKt ||
      (if q.ldFmt = 0 then q.ra % 64 % 16 != 0 else !(q.ra % 64 == 0 || q.ra % 64 == 32)) || 2 < q.ldFmt
  | .wsp =>
    2 ^ 26 ≤ q.rc || 512 < q.wsRow0 + q.wsM ||
    (match x.bufCfg q q.wsBuf with
     | none => true
     | some (w, kt) => pairKt w q.wsFmt != kt || (q.wsRaw && !rawOk w q.wsFmt q.wsFb) ||
         pastBank15 q.ra (wsImage kt q.wsFmt q.wsFb) q.wsM) ||
    (q.wsFmt == 8 && (q.f2 != 0 || q.wsFb))
  | .osp => pairKt q.osW q.osA == 0 || 448 < q.osRow0 || (q.osRaw && !rawOk q.osW q.osA q.osFb) ||
      (q.osA == 8 && q.osFb)
  | .vld | .vst => q.rc % 64 != 0 || pastBank15 q.rc 256 1
  | .leval => q.ra % 64 != 0 || 96 ≤ q.leVat || fld q.rb 24 21 != 0 || q.leOut % 64 != 0
  | .dcopy => q.len == 0 || q.len % 4 != 0 || 2 ^ 24 ≤ q.len || q.src % 4 != 0 || q.dst % 4 != 0 ||
      adOwn x q.src == adOwn x q.dst
  | .dpress => q.ra % 64 != 0 || 2 ^ 12 ≤ q.rb
  | .dmcast => q.ra % 64 != 0 || 2 ^ 8 ≤ q.rb
  | _ => false

/-! ### Resources (R314) -/

/-- A recorded resource, as an inclusive range. -/
inductive Res where
  | scr (lo hi : Nat) | v (lo hi : Nat) | acc (lo hi : Nat) | wb (n : Nat) | s (n : Nat)
deriving DecidableEq, Repr

/-- Scratchpad rows of `n` contiguous bytes. -/
def scrRes (off n : Nat) : Res := .scr (off / 64) ((off + n - 1) / 64)

def vRes (r : Reg) (n : Nat) : Res := .v r.toNat (r.toNat + n - 1)

/-- The rows of an output-stationary panel, its scale bytes among them where the pass reads them (R301). -/
def panelRes (base f kr : Nat) (fb scaled : Bool) : Res :=
  scrRes base (if scaled then panelScales base f kr fb - base + 2 * kr else panelCodes f kr fb)

/-- The pieces of a striped image, one range each: the 64 B rows that its `m` rows of `s` bytes touch (R297, R314). -/
def striped (off s m : Nat) : List Res :=
  (List.range ((s + 63) / 64)).map fun j => scrRes (off + 0x20000 * j) (64 * (m - 1) + min 64 (s - 64 * j))

/-- Output bytes of an LEVAL: 512, or 1,024 from a T2 vat (R118). -/
def levalBytes (mode : BitVec 2) : Nat := if mode = 2 then 1024 else 512

/-- What a command reads.  `vm` is the mode of the vat that an LEVAL names. -/
def QCmd.reads (x : Tile) (vm : BitVec 2) (q : QCmd) : List Res :=
  match q.op with
  | .wld => [scrRes q.ra (q.ldKt * 8 * fmtBits q.ldFmt), scrRes q.rb (2 * q.ldKt)]
  | .wldv => [scrRes q.rb (2 * q.ldKt)]
  | .wsp =>
    (match x.bufCfg q q.wsBuf with
     | none => []
     | some (_, kt) => striped q.ra (wsImage kt q.wsFmt q.wsFb) q.wsM) ++
    (if q.wsFmt = 8 ∨ q.wsRaw then [] else [scrRes q.rb (8 * q.wsM)]) ++ [.wb q.wsBuf] ++
    (if q.wsOvw then [] else [.acc q.wsRow0 (q.wsRow0 + q.wsM - 1)])
  | .osp =>
    [panelRes q.ra q.osA q.osKr q.osFb (!q.osRaw && q.osA != 8), panelRes q.rb q.osW q.osKr false (!q.osRaw)] ++
    (if q.osOvw then [] else [.acc q.osRow0 (q.osRow0 + 63)])
  | .vadd | .vsub | .vmul | .vmin | .vmax | .vand | .vor | .vxor | .vshl | .vshr | .vclt | .vceq =>
    [vRes q.f2 1, vRes q.f3 1]
  | .vfma | .vsel => [vRes q.f1 1, vRes q.f2 1, vRes q.f3 1]
  | .vcvt => vRes q.f2 1 :: (if q.mod.toNat.testBit 4 then [vRes q.f3 1] else [])
  | .venc => [vRes q.f2 1, vRes q.f3 1]
  | .vexp | .vrcp | .vrsq | .vred | .vscan | .vsrch | .vrot | .vst => [vRes q.f2 1]
  | .vamax => [vRes q.f1 2, vRes q.f2 1]
  | .vtopk => [vRes q.f1 2, vRes q.f2 2]
  | .vdraw => [vRes q.f3 1]
  | .vsmax => [vRes q.f2 (q.mod.toNat % 8 + 1), vRes q.f1 (if q.mod.toNat.testBit 3 then 3 else 2)]
  | .vdrain => [.acc (q.rb % 512) (q.rb % 512)]
  | .vld => striped q.rc 256 1
  | .leval => [scrRes q.ra ((if q.leFb then 512 else 256) + 16)]
  | .dcopy => if q.outward x then [scrRes (q.ownOff x) q.len] else []
  | .dpress | .dmcast => [scrRes q.ra (64 * q.c.toNat)]
  | _ => []

/-- What a command writes. -/
def QCmd.writes (x : Tile) (vm : BitVec 2) (q : QCmd) : List Res :=
  match q.op with
  | .wld | .wldv => [.wb q.ldBuf]
  | .wsp => [.acc q.wsRow0 (q.wsRow0 + q.wsM - 1)]
  | .osp => [.acc q.osRow0 (q.osRow0 + 63)]
  | .vamax => [vRes q.f1 2]
  | .vtopk => [vRes q.f1 4]
  | .vsmax => [vRes q.f2 (q.mod.toNat % 8 + 1), vRes q.f1 3]
  | .vst => striped q.rc 256 1
  | .vadd | .vsub | .vmul | .vfma | .vmin | .vmax | .vand | .vor | .vxor | .vshl | .vshr | .vclt | .vceq | .vsel
  | .vcvt | .venc | .vexp | .vrcp | .vrsq | .vred | .vscan | .vdraw | .vdrain | .vld | .vsrch | .vrot | .vbcst =>
    [vRes q.f1 1]
  | .leval => [scrRes q.leOut (levalBytes vm)]
  | .dcopy => if q.outward x then [] else [scrRes (q.ownOff x) q.len]
  | .sread => if q.f3 = 0 then [] else [.s q.f3.toNat]
  | _ => []

/-- Two resources overlap. -/
def Res.meets : Res → Res → Bool
  | .scr a b, .scr c d => a ≤ d && c ≤ b
  | .v a b, .v c d => a ≤ d && c ≤ b
  | .acc a b, .acc c d => a ≤ d && c ≤ b
  | .wb a, .wb c => a == c
  | .s a, .s c => a == c
  | _, _ => false

/-- The slip cause of a wait on a resource (R318); a weight buffer gives none (R317). -/
def Res.cause : Res → Option Nat
  | .scr _ _ => some 1 | .v _ _ => some 2 | .acc _ _ => some 3 | .wb _ => none | .s _ => some 4

/-- A contiguous row range, which takes one of the 64 entries (R314). -/
def Res.isRows : Res → Bool
  | .scr _ _ => true | .acc _ _ => true | _ => false

/-- The resources on which an access (reads `r`, writes `w`) waits for an earlier one (R315). -/
def clashes (r w er ew : List Res) : List Res :=
  (er.filter fun e => w.any e.meets) ++ (ew.filter fun e => (r ++ w).any e.meets)

/-- The unit of a command, as SLIP1_A codes it (R289). -/
def QOp.unit (op : QOp) (lane : Nat) : Nat :=
  match op with
  | .wld | .wldv | .wsp | .osp => 1
  | .leval | .ldrive => 3 + lane
  | .dcopy | .dpress | .dmcast => 5
  | .sadd | .ssub | .swait | .sread => 6
  | .qwait => 0
  | _ => 2

end Sys2Proof.Machine
end

