-- ==== Sys2Proof/Machine/Narrow.lean ====
section
/-! DEFINITION. Narrow numbers: the element codes and their values (R25–R29), packing (R32), scale bytes (R34–R36),
the block encoder (R38–R44), rounding (R46–R48) and the rounding generator (R49). -/

namespace Sys2Proof.Machine

/-! ### Element values -/

/-- An element's value in units of 2^−16, and whether its code is a format fault (R26, R29). -/
structure Elem where
  v : Int
  fault : Bool
deriving DecidableEq, Repr

/-- The two's-complement value of a `w`-bit code. -/
def sInt (w n : Nat) : Int := if n % 2 ^ w < 2 ^ (w - 1) then (n % 2 ^ w : Nat) else (n % 2 ^ w : Nat) - 2 ^ w

/-- A narrow float code with `eb` exponent and `mb` mantissa bits, in units of 2^−16. -/
def narrowFloat (eb mb : Nat) (bias : Int) (c : Nat) : Int :=
  let m := c % 2 ^ mb
  let x := c / 2 ^ mb % 2 ^ eb
  let mag : Nat := if x = 0 then m * 2 ^ (17 - bias - mb).toNat else (2 ^ mb + m) * 2 ^ (x - bias - mb + 16 : Int).toNat
  if c.testBit (eb + mb) then -(mag : Int) else mag

/-- The value of a code of a narrow format, as the matrix core and the vat lanes read it: 0 for a faulty code. -/
def elem (fmt c : Nat) : Elem :=
  match fmt with
  | 0 => if c % 4 = 2 then ⟨0, true⟩ else ⟨sInt 2 c * 65536, false⟩
  | 1 => ⟨sInt 4 c * 65536, false⟩
  | 2 => ⟨narrowFloat 2 1 1 (c % 16), false⟩
  | 3 => ⟨narrowFloat 3 2 3 (c % 64), false⟩
  | 4 => ⟨narrowFloat 2 3 1 (c % 64), false⟩
  | 5 => ⟨sInt 8 c * 65536, false⟩
  | 6 => if c % 128 = 127 then ⟨0, true⟩ else ⟨narrowFloat 4 3 7 (c % 256), false⟩
  | 7 => if 0x7C ≤ c % 128 then ⟨0, true⟩ else ⟨narrowFloat 5 2 15 (c % 256), false⟩
  | _ => ⟨0, false⟩

/-- The partner of a format for wide fallback (R38); none for formats without. -/
def partner (fmt : Nat) : Option Nat :=
  match fmt with | 1 => some 5 | 2 => some 6 | 3 => some 6 | 4 => some 6 | _ => none

/-- Element `i` of packed bytes (R32). -/
def unpack (fmt : Nat) (bs : List Byte) (i : Nat) : Nat :=
  match fmtBits fmt with
  | 2 => (bs.getD (i / 4) 0).toNat / 4 ^ (i % 4) % 4
  | 4 => (bs.getD (i / 2) 0).toNat / 16 ^ (i % 2) % 16
  | 6 => ((bs.getD (i / 4 * 3) 0).toNat + (bs.getD (i / 4 * 3 + 1) 0).toNat * 256 +
      (bs.getD (i / 4 * 3 + 2) 0).toNat * 65536) / 64 ^ (i % 4) % 64
  | 16 => (bs.getD (2 * i) 0).toNat + (bs.getD (2 * i + 1) 0).toNat * 256
  | _ => (bs.getD i 0).toNat

/-- Packs codes into bytes (R32). -/
def pack (fmt : Nat) (cs : List Nat) : List Byte :=
  match fmtBits fmt with
  | 2 => (List.range ((cs.length + 3) / 4)).map fun j =>
      BitVec.ofNat 8 ((List.range 4).foldl (fun a i => a + cs.getD (4 * j + i) 0 * 4 ^ i) 0)
  | 4 => (List.range ((cs.length + 1) / 2)).map fun j => BitVec.ofNat 8 (cs.getD (2 * j) 0 + cs.getD (2 * j + 1) 0 * 16)
  | 6 => (List.range ((cs.length + 3) / 4)).flatMap fun j =>
      leBytes 3 ((List.range 4).foldl (fun a i => a + cs.getD (4 * j + i) 0 * 64 ^ i) 0)
  | _ => cs.map fun c => BitVec.ofNat 8 c

/-! ### Scale bytes (R34–R36) -/

def scK (b : Byte) : Nat := b.toNat % 32
def scW (b : Byte) : Bool := b.getLsbD 7
/-- Nonzero reserved bits, or K = 31 with W = 1, are format faults. -/
def scFault (b : Byte) : Bool := b.toNat / 32 % 4 != 0 || (scW b && scK b == 31)
def scZero (b : Byte) : Bool := scK b == 31

/-! ### The rounding generator (R49) -/

def rgenRound (k0 k1 : Word) (x : Word × Word) (j : Nat) : Word × Word :=
  let x0 := x.1 + x.2 + (if j % 2 = 0 then k0 else k1)
  (x0, rotl32 x.2 (8 + 4 * j) ^^^ x0)

def rgen (seed : BitVec 64) (model tensor : BitVec 16) (pos idx : Word) : Word :=
  let k0 := seed.extractLsb' 0 32 ^^^ 0x9E3779B9
  let k1 := seed.extractLsb' 32 32 ^^^ (model ++ tensor) ^^^ 0x3C6EF372
  ([0, 1, 2, 3, 4, 5].foldl (rgenRound k0 k1) (pos, idx)).2

/-! ### Rounding to a narrow or a 16-bit format (R47, R48) -/

/-- The rounded magnitude in grid steps, of m × 2^e on the grid 2^q: RNE, or stochastic with the bits [31:8]. -/
def gridRound (sr : Bool) (rb : Word) (m : Nat) (e q : Int) : Nat :=
  if q ≤ e then m * 2 ^ (e - q).toNat
  else
    let d := (q - e).toNat
    if sr then m / 2 ^ d + (if 2 ^ 24 ≤ m % 2 ^ d * 2 ^ 24 / 2 ^ d + rb.toNat / 256 then 1 else 0)
    else rneShift m d

/-- emin and mantissa bits of a narrow float format (R47). -/
def narrowGrid (fmt : Nat) : Int × Nat :=
  match fmt with | 2 => (0, 1) | 3 => (-2, 2) | 4 => (0, 3) | 6 => (-6, 3) | _ => (-14, 2)

/-- The code of a finite value within the format's range. -/
def narrowCode (fmt : Nat) (sr : Bool) (rb : Word) (s : Bool) (m : Nat) (e : Int) : Nat :=
  if fmt = 0 ∨ fmt = 1 ∨ fmt = 5 then
    let n := gridRound sr rb m e 0
    (if s then 2 ^ fmtBits fmt - n else n) % 2 ^ fmtBits fmt
  else
    let g := narrowGrid fmt
    let x : Int := if m = 0 then g.1 else max (Nat.log2 m + e) g.1
    let n := gridRound sr rb m e (x - g.2)
    if n = 0 then 0
    else ((x - g.1).toNat * 2 ^ g.2 + n) + (if s then 2 ^ (fmtBits fmt - 1) else 0)

/-- Conversion of FP32 to BF16 or FP16 (R48): the sign of the result is the sign bit. -/
def toHalf (f : FFmt) (sr : Bool) (rb : Word) (w : Word) : Nat :=
  match f32 w with
  | .fin s m e =>
    if sr then
      let emin : Int := 1 - f.bias
      let x : Int := if m = 0 then emin else max (Nat.log2 m + e) emin
      let n := gridRound sr rb m e (x - f.mb)
      let c := (x - emin).toNat * 2 ^ f.mb + n
      (if s then 2 ^ (f.eb + f.mb) else 0) + min c ((2 ^ f.eb - 1) * 2 ^ f.mb)
    else f.enc (.fin s m e)
  | v => f.enc v

/-! ### The block encoder (R38–R44) -/

/-- lo and hi of a format in units of 1/2 (R38). -/
def loHi (fmt : Nat) (sym : Bool) : Int × Int :=
  match fmt with
  | 0 => (-2, 2)
  | 1 => (if sym then -14 else -16, 14)
  | 2 => (-12, 12)
  | 3 => (-56, 56)
  | 4 => (-15, 15)
  | 5 => (if sym then -254 else -256, 254)
  | 6 => (-896, 896)
  | _ => (-114688, 114688)

/-- lo ≤ u × 2^k ≤ hi, compared exactly. -/
def fits1 (r : Int × Int) (k : Nat) : FV → Bool
  | .fin s m e => !(FV.fin s m (e + k)).lt (FV.ofInt r.1 (-1)) && !(FV.ofInt r.2 (-1)).lt (.fin s m (e + k))
  | _ => true

/-- The largest k from 0 to 30 at which every finite value fits. -/
def largestK (r : Int × Int) (us : List FV) : Option Nat :=
  ((List.range 31).filter fun k => us.all (fits1 r k)).getLast?

/-- What the encoding of one block gives: codes, scale byte, and whether it clipped, fell back, met a non-finite
value. -/
structure EncBlk where
  codes : List Nat
  scale : Byte
  clip : Bool
  fell : Bool
  fault : Bool
deriving DecidableEq, Repr

/-- Clamps a value to lo..hi. -/
def clampFV (r : Int × Int) (u : FV) : FV :=
  if u.lt (FV.ofInt r.1 (-1)) then FV.ofInt r.1 (-1) else if (FV.ofInt r.2 (-1)).lt u then FV.ofInt r.2 (-1) else u

/-- `encode_block` of R39 on the values u, with the element draws `rb`. -/
def encBlock (fmt : Nat) (sym sr fbOk : Bool) (us : List FV) (rb : List Word) : EncBlk :=
  let fin := us.filter fun u => !u.isNan && !u.isInf
  let bad := us.any fun u => u.isNan || u.isInf
  let allZero := fin.all FV.isZero
  let k0 := largestK (loHi fmt sym) us
  let fell := !allZero && k0 == none && fbOk && (partner fmt).isSome
  let f := if fell then (partner fmt).getD fmt else fmt
  let r := loHi f sym
  let k1 := if fell then largestK r us else k0
  let clip := !allZero && k1 == none
  let k := k1.getD 0
  let code (u : FV) (b : Word) : Nat :=
    match u with
    | .nan => 0
    | .inf s => match FV.ofInt (if s then r.1 else r.2) (-1) with
      | .fin s' m e => narrowCode f false 0 s' m e
      | _ => 0
    | .fin s m e =>
      if allZero then 0
      else match (if clip then clampFV r (.fin s m (e + k)) else .fin s m (e + k)) with
        | .fin s' m' e' => narrowCode f sr b s' m' e'
        | _ => 0
  let cs := us.zipIdx.map fun x => code x.1 (rb.getD x.2 0)
  let zero := allZero || cs.all fun c => (elem f c).v = 0
  { codes := cs
    scale := if zero then 0x1F else BitVec.ofNat 8 ((if fell then 128 else 0) + k)
    clip := clip, fell := fell, fault := bad }

end Sys2Proof.Machine
end

