-- ==== Sys2Proof/Machine/Blocks.lean ====
section
/-! DEFINITION. Blocks of 32 elements as the matrix core and the lanes read them, the aligned input of a product with its
planes (R114–R117, R124), and the bank ports that the commands of a tile take, cycle by cycle (R78, R125, R192). -/

namespace Sys2Proof.Machine

/-! ### Blocks -/

/-- A block of 32 narrow elements in units of 2^−16 with its shift. -/
structure NBlk where
  es : List Int
  k : Nat
  zero : Bool
  fault : Bool
deriving DecidableEq, Repr

/-- An activation block from its bytes and scale byte (R36, R41, R300): without FB a W = 1 block is a format fault
and reads as a zero block; with FB it holds partner codes.  DEDUCED, log entry 60: a reserved code in a zero block, whose
value R35 gives "whatever its codes", raises no format fault. -/
def actBlock (fmt : Nat) (fb : Bool) (bs : List Byte) (sc : Byte) : NBlk :=
  let w := scW sc
  let ok := !w || (fb && (partner fmt).isSome)
  let f := if w && ok then (partner fmt).getD fmt else fmt
  let es := (List.range 32).map fun i => elem f (unpack f bs i)
  { es := es.map (·.v), k := scK sc, zero := scZero sc || !ok
    fault := scFault sc || !ok || (!scZero sc && ok && es.any (·.fault)) }

/-- A weight block: the elements of one column over 32 reduction indices; W = 1 reads as a zero block (R75). -/
def wtBlock (fmt : Nat) (codes : List Nat) (sc : Byte) : NBlk :=
  let es := codes.map (elem fmt)
  { es := es.map (·.v), k := scK sc, zero := scZero sc || scW sc
    fault := scFault sc || scW sc || (!scZero sc && !scW sc && es.any (·.fault)) }

/-! ### The input of a product -/

/-- z ÷ 2^d to nearest, ties to even. -/
def rneShiftZ (z : Int) (d : Nat) : Int := rneInt (decide (z < 0)) z.natAbs (-(d : Int))

/-- The aligned input: x[i], kv, and whether any live block has W = 1 (eight planes). -/
structure LevalIn where
  xs : List Int
  kv : Nat
  wide : Bool
  fault : Bool
  /-- Every block is a zero block. -/
  dead : Bool
deriving DecidableEq, Repr

/-- The 16 blocks of an input vector and their alignment (R114, R115, R306). -/
def levalIn (m : TileMem) (ra : Nat) (fb : Bool) : LevalIn :=
  let n := if fb then 32 else 16
  let blk (j : Nat) : NBlk :=
    actBlock 1 fb (m.read (ra + n * j) n) ((m.read (ra + 16 * n + j) 1).getD 0 0)
  let sc (j : Nat) : Byte := (m.read (ra + 16 * n + j) 1).getD 0 0
  let bs := (List.range 16).map blk
  let live := bs.filter fun b => !b.zero
  let kv := live.foldl (fun a b => min a b.k) 31
  { xs := bs.flatMap fun b => b.es.map fun e => if b.zero then 0 else rneShiftZ (e / 65536) (b.k - kv)
    kv := kv
    wide := (List.range 16).any fun j => !(blk j).zero && scW (sc j)
    fault := bs.any (·.fault)
    dead := live.isEmpty }

/-- R117: no row is driven. -/
def LevalIn.zero (i : LevalIn) : Bool := i.dead || i.xs.all (· == 0)

def LevalIn.planes (i : LevalIn) : Nat := if i.wide then 8 else 4

/-- Rows driven of a range in plane `p`: bit p of x in two's complement. -/
def LevalIn.pop (i : LevalIn) (p lo hi : Nat) : Nat :=
  (((i.xs.take hi).drop lo).filter fun x => (x % 2 ^ i.planes).toNat.testBit p).length

/-- Planes driven as two halves (R116). -/
def LevalIn.splits (i : LevalIn) : Nat := ((List.range i.planes).filter fun p => 256 < i.pop p 0 512).length

/-- The evaluation time E in vat cycles (R117, R124): 2 for a plane, 4 for a split one; without a driven row that of an
unsplit I4 input. -/
def LevalIn.time (i : LevalIn) : Nat := if i.zero then 8 else 2 * (i.planes + i.splits)

/-! ### Bank ports (R78, R125, R192)

DESIGN CHOICE, log entry 60: a command takes its ports at these cycles after its issue; a loser's later accesses are not
moved. -/

/-- The number and the cycle within it of the row or group that is under way `d` cycles after the first. -/
def slotAt (cost : Nat → Nat) : Nat → Nat → Nat → Option (Nat × Nat)
  | 0, _, _ => none
  | n + 1, i, d => if d < cost i then some (i, d) else slotAt cost n (i + 1) (d - cost i)

/-- MACs per cell per cycle of a narrow pair (R64); the partner pair of a fallback runs at 1. -/
def pairRate (w a : Nat) : Nat := max 1 (pairKt w a / 64)

/-- Cycles of activation row `m` of a weight-stationary pass (R71).  DESIGN CHOICE, log entry 60: in a pass without FB a scale
byte with W = 1, which is a format fault and a zero block (R300), leaves the declared rate; R72's groups likewise. -/
def wsCost (x : Tile) (q : QCmd) (w kt m : Nat) : Nat :=
  if q.wsFmt = 8 then 4
  else if q.wsFb && !q.wsRaw && (x.mem.read (q.rb + 8 * m) (kt / 32)).any scW then pairRate w q.wsFmt
  else 1

/-- Cycles of group `g` of an output-stationary pass (R72). -/
def osCost (x : Tile) (q : QCmd) (g : Nat) : Nat :=
  if q.osA = 8 then 128
  else if q.osFb && !q.osRaw && (x.mem.read (panelScales q.ra q.osA q.osKr q.osFb + 64 * g) 64).any scW then 32
  else 32 / pairRate q.osW q.osA

/-- The 64 B pieces of an activation row's image that cycle `e` of the row's `cost` cycles reads (R78): one piece in each cycle where
the row has that many, else several banks in the one cycle. -/
def rowPieces (pieces cost e : Nat) : List Nat :=
  if pieces ≤ cost then [e * pieces / cost] else (List.range pieces).filter fun j => j * cost / pieces == e

/-- The 64 B rows of scale bytes that activation row `m` of a weight-stationary pass is the first to need (R78). -/
def newScaleRows (rb nb m : Nat) : List Nat :=
  ([(rb + 8 * m) / 64, (rb + 8 * m + nb - 1) / 64]).dedup.filter fun r => m = 0 || (rb + 8 * (m - 1) + nb - 1) / 64 < r

/-- The bytes that cycle `e` of the `cost` cycles of a group reads of a panel with `ab` bytes a step: offset and length. -/
def groupBytes (ab cost e : Nat) : Nat × Nat := (32 * ab * e / cost, 32 * ab * (e + 1) / cost - 32 * ab * e / cost)

/-- The banks whose ports a command takes `d` cycles after its issue (R78).  DESIGN CHOICE, log entry 60: an output-stationary
pass reads the 64 B of weight scale bytes of a group in the group's first cycle, as it does the activation scale bytes;
contiguous operands of one cycle take the port of a bank once, also the 128 B of activations of a T2 pass, which R187's one row
an access does not fit. -/
def QCmd.ports (x : Tile) (q : QCmd) (d : Nat) : List Nat :=
  match q.op with
  | .wld =>
    if d < 64 then [bankOf (q.ra + d * (q.ldKt * 8 * fmtBits q.ldFmt / 64))]
    else if d < 64 + q.ldKt / 32 then [bankOf (q.rb + 64 * (d - 64))] else []
  | .wldv => if d < q.ldKt / 32 then [bankOf (q.rb + 64 * d)] else []
  | .wsp =>
    match x.bufCfg q q.wsBuf with
    | none => []
    | some (w, kt) =>
      match slotAt (wsCost x q w kt) q.wsM 0 d with
      | some (m, e) =>
        ((rowPieces ((wsImage kt q.wsFmt q.wsFb + 63) / 64) (wsCost x q w kt m) e).flatMap fun j =>
          banksOf (q.ra + j * 0x20000 + 64 * m) (min 64 (wsImage kt q.wsFmt q.wsFb - 64 * j))) ++
        (if e ≠ 0 ∨ q.wsFmt = 8 ∨ q.wsRaw = true then []
         else (newScaleRows q.rb (kt / 32) m).map fun r => bankOf (64 * r))
      | none => []
  | .osp =>
    match slotAt (osCost x q) (q.osKr / 32) 0 d with
    | some (g, e) =>
      let ab := if q.osFb then 64 else 8 * fmtBits q.osA
      let wb := 8 * fmtBits q.osW
      let a := groupBytes ab (osCost x q g) e
      let w := groupBytes wb (osCost x q g) e
      banksOf (q.ra + 32 * g * ab + a.1) a.2 ++ banksOf (q.rb + 32 * g * wb + w.1) w.2 ++
      (if e = 0 && !q.osRaw then
        bankOf (panelScales q.rb q.osW q.osKr false + 64 * g) ::
          (if q.osA = 8 then [] else [bankOf (panelScales q.ra q.osA q.osKr q.osFb + 64 * g)])
       else [])
    | none => []
  | .vld | .vst => if d = 0 then (List.range 4).map fun j => bankOf (q.rc + j * 0x20000) else []
  | .leval => if d < (if q.leFb then 9 else 5) && !q.sub then [bankOf (q.ra + 64 * d)] else []
  | _ => []

/-- The cycles of a command that takes ports for a few cycles only; 0 for the matrix core's. -/
def QCmd.span (q : QCmd) : Nat :=
  match q.op with | .vld | .vst => 1 | .leval => if q.leFb then 9 else 5 | _ => 0

/-- The rows of accesses that a command of the vector core or a lane makes in turn. -/
def QCmd.shortPorts (x : Tile) (q : QCmd) : List (List Nat) := (List.range q.span).map (q.ports x)

/-- The priority of R192 by SLIP1_A's code of the unit; a lower number is served first. -/
def unitRank (unit : Nat) : Nat :=
  match unit with | 1 => 0 | 2 => 1 | 0 => 2 | 3 => 3 | 4 => 4 | _ => 5

def QCmd.rank (q : QCmd) : Nat := unitRank (q.op.unit q.lane)

/-- The commands of the matrix core, the vector core and the lanes that have issued. -/
def Tile.atPorts (x : Tile) : List QCmd := (x.mq ++ x.vq ++ x.lq).filter fun e => e.st = .issued

/-- An access of a bank: the cycle in which it first asks for the port, and the one in which it is served. -/
structure PortAcc where
  asked : Nat
  served : Nat
  bank : Nat
deriving DecidableEq, Repr

def PortAcc.waits (a : PortAcc) : Bool := a.asked < a.served

/-- The cycle from `n` on in which an access of bank `b` is served: it waits one cycle and competes again as long as a unit of
higher priority takes the port (R192). -/
def servedAt (taken : Nat → List Nat) (b : Nat) : Nat → Nat → Nat
  | 0, n => n
  | k + 1, n => if (taken n).contains b then servedAt taken b k (n + 1) else n

/-- More cycles than any command keeps a port. -/
def portWait : Nat := 0x10000

/-- Rows of accesses from cycle `n` on: those of a row ask together, and the next row asks when all are served. -/
def serveRows (taken : Nat → List Nat) : Nat → List (List Nat) → List PortAcc
  | _, [] => []
  | n, bs :: r =>
    let l := bs.map fun b => PortAcc.mk n (servedAt taken b portWait n) b
    l ++ serveRows taken (l.foldl (fun m a => max m a.served) n + 1) r

def QCmd.accesses (x : Tile) (taken : Nat → List Nat) (q : QCmd) : List PortAcc := serveRows taken q.at_ (q.shortPorts x)

/-- The banks that a list of accesses takes in cycle `n`. -/
def banksAt (n : Nat) (l : List PortAcc) : List Nat := (l.filter (·.served = n)).map (·.bank)

/-- The banks that the scalar core (rank 2) or the output rows of a lane have taken in cycle `n`. -/
def Tile.usedAt (x : Tile) (rank n : Nat) : List Nat := (x.ports.filter fun u => u.rank = rank && u.cycle = n).map (·.bank)

/-- The ports taken in cycle `n` by the matrix core; by it and the vector core; by these and the scalar core; by these and
lane 0. -/
def Tile.taken0 (x : Tile) (n : Nat) : List Nat :=
  (x.mq.filter (·.st = .issued)).flatMap fun e => if e.at_ ≤ n then e.ports x (n - e.at_) else []

def Tile.taken1 (x : Tile) (n : Nat) : List Nat :=
  x.taken0 n ++ (x.vq.filter (·.st = .issued)).flatMap fun e => banksAt n (e.accesses x x.taken0)

def Tile.taken2 (x : Tile) (n : Nat) : List Nat := x.taken1 n ++ x.usedAt 2 n

def Tile.taken3 (x : Tile) (n : Nat) : List Nat :=
  x.taken2 n ++ x.usedAt 3 n ++
    (x.lq.filter fun e => e.st = .issued && e.lane = 0).flatMap fun e => banksAt n (e.accesses x x.taken2)

/-- The ports that units of higher priority than `rank` take in cycle `n`. -/
def Tile.takenBy (x : Tile) (rank n : Nat) : List Nat :=
  match rank with
  | 0 => [] | 1 => x.taken0 n | 2 => x.taken1 n | 3 => x.taken2 n | _ => x.taken3 n

/-- The accesses of a command that wait, by their places in its order. -/
def QCmd.losses (x : Tile) (q : QCmd) : List Nat :=
  (((q.accesses x (x.takenBy q.rank)).zipIdx.filter fun a => a.1.waits).map (·.2))

/-- A command of lower priority than `rank` asks for bank `b`, or waits for it, in cycle `n`. -/
def Tile.wanted (x : Tile) (rank n b : Nat) : Bool :=
  x.atPorts.any fun e => decide (rank < e.rank) &&
    (e.accesses x (x.takenBy e.rank)).any fun a => a.asked ≤ n && n ≤ a.served && a.bank = b

/-- The accesses of a unit that is no command's are entered among the ports taken; those of 64 cycles ago are forgotten. -/
def Tile.take (x : Tile) (rank : Nat) (l : List PortAcc) : Tile :=
  { x with ports := (x.ports.filter fun u => x.sc.cyc.toNat ≤ u.cycle + 64) ++ l.map fun a => ⟨rank, a.served, a.bank⟩ }

end Sys2Proof.Machine
end

