-- ==== Sys2Proof/Machine/Flags.lean ====
section
/-! DEFINITION. Flags.  The block has no condition flags: a comparison writes 1 or 0 to a register (R288), a branch compares
two registers (R289), and QWAIT compares a completion count (R295).  The marks of the check report, the slip, the overflow
and the bar bits are set where their event happens (`Fx.raise`, `Fx.slip`, the matrix core, the bins). -/

namespace Sys2Proof.Machine

/-- The word that a comparison writes. -/
def b2w (b : Bool) : Word := if b then 1 else 0

/-- A count has reached a target: (count − target) mod 2^16 < 2^15 (R295). -/
def reached (count target : BitVec 16) : Bool := Nat.blt (count - target).toNat (2 ^ 15)

end Sys2Proof.Machine
end

