-- ==== Sys2Proof/Machine/Pump.lean ====
section
/-! DEFINITION. The unit queues at work: completion counts (R294), the scoreboard's holds and slips (R314–R318),
the issue of commands to their units with what each unit does at issue: the fences of R185 and R119, the choice of
a substitute (R308), translation (R208–R212), semaphore operations on VC0 (R313). -/

namespace Sys2Proof.Machine

/-! ### Queues -/

def Tile.queue (x : Tile) : Queue → List QCmd
  | .mq => x.mq | .vq => x.vq | .lq => x.lq | .dq => x.dq | .sq => x.sq

def Tile.setQueue (x : Tile) (k : Queue) (l : List QCmd) : Tile :=
  { x with
    mq := if k = .mq then l else x.mq
    vq := if k = .vq then l else x.vq
    lq := if k = .lq then l else x.lq
    dq := if k = .dq then l else x.dq
    sq := if k = .sq then l else x.sq }

def allQueues : List Queue := [.mq, .vq, .lq, .dq, .sq]

/-- Commands that are not complete; a QWAIT uses no resource. -/
def Tile.incomplete (x : Tile) : List QCmd :=
  (x.mq ++ x.vq ++ x.lq ++ x.dq ++ x.sq).filter fun q => q.st ≠ .done && q.op ≠ .qwait

/-- Entries taken in a queue: commands written and not yet issued (R289, R293). -/
def Tile.written (x : Tile) (k : Queue) : Nat := ((x.queue k).filter fun q => q.st = .queued).length

/-- Every command of the queue has completed. -/
def Tile.quiet (x : Tile) (k : Queue) : Bool := (x.queue k).isEmpty

def Tile.allQuiet (x : Tile) : Bool := allQueues.all x.quiet

/-- Takes the completed commands from the front, with their number; a QWAIT is not counted (R294). -/
def popDone : List QCmd → Nat × List QCmd
  | [] => (0, [])
  | q :: r => if q.st = .done then ((popDone r).1 + (if q.op = .qwait then 0 else 1), (popDone r).2) else (0, q :: r)

/-- Changes the command with number `n`. -/
def updCmd (n : Nat) (g : QCmd → QCmd) (l : List QCmd) : List QCmd := l.map fun q => if q.seq = n then g q else q

/-- The completion count of a queue. -/
def Scalar.qd (c : Scalar) (k : Nat) : BitVec 16 := SMap.get 0 c.qdone k

def bumpAt (m : SMap (BitVec 16)) (k n : Nat) : SMap (BitVec 16) :=
  SMap.set 0 m k (SMap.get 0 m k + BitVec.ofNat 16 n)

/-- Command `n` of queue `k` completes; the count advances over every leading completed command (R294). -/
def Tile.complete (x : Tile) (k : Queue) (n : Nat) : Tile :=
  let p := popDone (updCmd n (fun q => { q with st := .done }) (x.queue k))
  { x.setQueue k p.2 with sc := { x.sc with qdone := bumpAt x.sc.qdone k.code p.1 } }

/-- A command with a fault found at its issue is not performed: it leaves its queue uncounted, and the commands behind it go on,
R294 and R319 leaving this open (DESIGN CHOICE, log entry 75). -/
def Tile.discard (x : Tile) (k : Queue) (n : Nat) : Tile := x.setQueue k ((x.queue k).filter fun q => q.seq ≠ n)

/-! ### Command faults (R287, R319) -/

/-- The number of the CMD field (R295–R312). -/
def QOp.cmd : QOp → Nat
  | .qwait => 0x1F
  | .wld => 1 | .wldv => 2 | .wsp => 3 | .osp => 4
  | .vadd => 0 | .vsub => 1 | .vmul => 2 | .vfma => 3 | .vmin => 4 | .vmax => 5 | .vand => 6 | .vor => 7 | .vxor => 8
  | .vshl => 9 | .vshr => 0xA | .vclt => 0xB | .vceq => 0xC | .vsel => 0xD | .vcvt => 0xE | .venc => 0xF
  | .vexp => 0x10 | .vrcp => 0x11 | .vrsq => 0x12 | .vred => 0x13 | .vscan => 0x14 | .vamax => 0x15 | .vtopk => 0x16
  | .vdraw => 0x17 | .vsmax => 0x18 | .vdrain => 0x19 | .vld => 0x1A | .vst => 0x1B | .vsrch => 0x1C | .vrot => 0x1D
  | .vbcst => 0x1E
  | .leval => 1 | .ldrive => 2
  | .dcopy => 1 | .dpress => 2 | .dmcast => 3
  | .sadd => 1 | .ssub => 2 | .swait => 3 | .sread => 4

/-- The instruction word of a queue command (format Q). -/
def qWord (k : Queue) (op : QOp) (f1 f2 f3 : Reg) (mod : BitVec 6) : Nat :=
  (0x20 + k.code) * 2 ^ 26 + f1.toNat * 2 ^ 21 + f2.toNat * 2 ^ 16 + f3.toNat * 2 ^ 11 + op.cmd * 2 ^ 6 + mod.toNat

/-- DETAIL of a program error of a command: its PC and its word (R477). -/
def QCmd.detail (k : Queue) (q : QCmd) : Nat := q.pc.toNat * 2 ^ 32 + qWord k q.op q.f1 q.f2 q.f3 q.mod

/-- A command fault: EVT_INSN_FAULT with the PC and the command word; the scalar core stops issuing. -/
def Fx.insnFault (f : Fx) (c : Ctx) (unit : Nat) (pc : BitVec 16) (word : Nat) : Fx :=
  let f1 := f.raise c unit evtInsnFault (BitVec.ofNat 64 (pc.toNat * 2 ^ 32 + word)) .program true
  f1.set { f1.tile with sc := { f1.tile.sc with halted := true } }

/-- A deckle fault of the tile (R16): a fatal program error, logged against its partition. -/
def Fx.deckle (f : Fx) (c : Ctx) (unit : Nat) (detail : Nat) : Fx :=
  f.raise c unit evtDeckle (BitVec.ofNat 64 detail) .program false

/-- Counts each cause of a waiting command once (R318); 0 stands for a wait that is no slip (R309). -/
def Fx.slipCmd (f : Fx) (c : Ctx) (k : Queue) (q : QCmd) (causes : List Nat) : Fx :=
  let new := causes.filter fun n => n != 0 && !q.slipped.contains n
  let f1 := new.foldl (fun g n => g.slip c n (q.op.unit q.lane) q.pc) f
  f1.set (f1.tile.setQueue k (updCmd q.seq (fun e => { e with slipped := e.slipped ++ new }) (f1.tile.queue k)))

/-- The issue of a command to its unit, in a cycle of the tile (R293). -/
def QCmd.issue (n : Nat) (e : QCmd) : QCmd := { e with st := .issued, at_ := n }

/-- A weight load of the matrix core, the other kind being the passes (R77). -/
def QCmd.isLoad (q : QCmd) : Bool := q.op == .wld || q.op == .wldv

/-! ### Lost bank ports (R97, R125, R192) -/

/-- The queue of a command of the matrix core, the vector core or a lane. -/
def QOp.portQueue (op : QOp) : Queue := match op.unit 0 with | 1 => .mq | 2 => .vq | _ => .lq

/-- Each access of a command that loses a port and has not counted is one slip of cause 5 (R318). -/
def Fx.losePort (f : Fx) (c : Ctx) (e : QCmd) : Fx :=
  let new := (e.losses f.tile).filter fun n => !e.lost.contains n
  let f1 := new.foldl (fun g _ => g.slip c 5 (e.op.unit e.lane) e.pc) f
  let k := e.op.portQueue
  f1.set (f1.tile.setQueue k (updCmd e.seq (fun q => { q with lost := q.lost ++ new }) (f1.tile.queue k)))

def Fx.losePorts (f : Fx) (c : Ctx) : List QCmd → Fx
  | [] => f
  | e :: r => (f.losePort c e).losePorts c r

/-- The commands under way compete for the ports: a unit that loses waits a cycle and competes again (R192). -/
def Fx.arbitrate (f : Fx) (c : Ctx) : Fx := f.losePorts c (f.tile.atPorts.filter fun e => e.span ≠ 0)

/-! ### Addresses a DMA may use (R185, R186, R206) -/

/-- Every 64 MiB unit of `n` bytes of loft from `off` lies in a grant of the partition on the site. -/
def granted (fu : Option Furnish) (p : Option (Fin 32)) (site off n : Nat) : Bool :=
  match fu, p with
  | some f, some p =>
    ((List.range ((off + n - 1) / 0x4000000 + 1)).drop (off / 0x4000000)).all fun u =>
      f.grants.any fun g => g.part = p && g.site.val == site && g.base ≤ u * 0x4000000 &&
        u * 0x4000000 < g.base + g.size
  | _, _ => false

/-- A slot of the partition holds the sequence handle, as the model's handle or the draft model's (R343). -/
def State.holdsHandle (s : State) (p : Fin 32) (h : BitVec 16) : Bool :=
  (s.slotsOf p).any fun e => e.2.st != .free && (e.2.ht == h || (e.2.hd == h && e.2.hd != 0xFFFF))

/-- The address of `n` bytes passes R185 for a DMA engine of a tile of partition `p`; `write`: it is written. -/
def dmaOk (s : State) (p : Option (Fin 32)) (a n : Nat) (write : Bool) : Bool :=
  match adSpace a with
  | 0 => adTileOff a + n ≤ 0x200000 && (p.bind s.furnPart).any (·.holds (adC a) (adR a)) && named s.map (adC a) (adR a)
  | 1 => adTileOff a + n ≤ 0x300000 && (p.bind s.furnPart).any (·.holds (adC a) (adR a)) && named s.map (adC a) (adR a) && !write
  | 2 => adSiteOff a + n ≤ 2 ^ 34 && granted s.furnish p (adSite a) (adSiteOff a) n
  | 4 => adVirt a + n ≤ 2 ^ 44 && p.any fun p => s.holdsHandle p (BitVec.ofNat 16 (adHandle a))
  | _ => false

/-- Key of the root registers of partition `p` on a site. -/
def rootKey (site : Fin 64) (p : Fin 32) : Nat := site.val * 64 + 2 * p.val

/-- SEQ space is enabled for the tile's partition (R216). -/
def seqOn (s : State) (site : Fin 64) (p : Option (Fin 32)) : Bool :=
  match p with | none => false | some p => (SMap.get 0 s.roots (rootKey site p)).getLsbD 0

/-! ### Translation (R208–R212, R366, R369) -/

/-- Enters a handle in the walk table of 16 (R366). -/
def Dma.walked (d : Dma) (h : BitVec 16) : Dma :=
  { d with
    walks := if d.walks.contains h || 16 ≤ d.walks.length then d.walks else d.walks ++ [h]
    walkOvf := d.walkOvf || (!d.walks.contains h && 16 ≤ d.walks.length) }

def Dma.hit (d : Dma) (h : BitVec 16) (v : Nat) : Option TlbEntry := d.tlb.find? fun e => e.handle = h && e.vpage = v

/-- Makes an entry the most recently used of at most 64 (R212). -/
def Dma.use (d : Dma) (e : TlbEntry) : Dma :=
  { d with tlb := (e :: d.tlb.filter fun x => !(x.handle = e.handle && x.vpage = e.vpage)).take 64 }

/-- The version first used for a page in this stage (R369). -/
def Dma.firstVer (d : Dma) (h : BitVec 16) (v : Nat) : Option (BitVec 16) :=
  (d.vers.find? fun e => e.1 = h && e.2.1 = v).map (·.2.2)

/-! ### Parts of a copy (R212, R226, R236) -/

/-- The current part's length: in SEQ space a part ends at the page, in VAT space at the vat, which a read holds in turn
(R131). -/
def partLen (x : Tile) (q : QCmd) : Nat :=
  if adSpace (q.farAddr x) = 4 then min (q.len - x.dma.pos) (0x10000 - (adVirt (q.farAddr x) + x.dma.pos) % 0x10000)
  else if adSpace (q.farAddr x) = 1 then min (q.len - x.dma.pos) (0x8000 - (adTileOff (q.farAddr x) + x.dma.pos) % 0x8000)
  else q.len - x.dma.pos

/-- Site and loft offset of the current part of a copy with LOFT or SEQ space. -/
def partLoft (x : Tile) (q : QCmd) : Option (Nat × Nat) :=
  let a := q.farAddr x
  if adSpace a = 2 then some (adSite a, adSiteOff a + x.dma.pos)
  else if adSpace a = 4 then
    let v := adVirt a + x.dma.pos
    match x.dma.hit (BitVec.ofNat 16 (adHandle a)) (v / 0x10000) with
    | some e => some (e.site, e.addr + v % 0x10000)
    | none => none
  else none

/-- The tile's own offset of the current part. -/
def partOwn (x : Tile) (q : QCmd) : Nat := q.ownOff x + x.dma.pos

/-- The channels that `n` bytes of loft at `off` lie on (R199). -/
def channelsOf (off n : Nat) : List Nat :=
  if n = 0 then [] else ((List.range (min 16 ((off + n - 1) / 64 + 1 - off / 64))).map fun i => (off / 64 + i) % 16)

/-- The 64 B lines that `n` bytes at `off` touch. -/
def lineCount (off n : Nat) : Nat := if n = 0 then 0 else (off + n - 1) / 64 + 1 - off / 64

/-- Where the far end of a copy's present part joins the network, once for each 64 B of it; nowhere if it is the tile itself. -/
def partEnds (map : SMap Nat) (t : PTile) (x : Tile) (q : QCmd) : List (Nat × Nat × Nat) :=
  let a := q.farAddr x
  if adSpace a = 0 ∨ adSpace a = 1 then
    let far := physOf map (adC a) (adR a)
    if far = t then [] else List.replicate ((partLen x q + 63) / 64) far.port0
  else match partLoft x q with
    | some (site, off) => (List.range (lineCount off (partLen x q))).map fun i =>
        loftAt (Fin.ofNat 64 site) (Fin.ofNat 16 (off / 64 + i))
    | none => []

/-- Flits of data or requests, each with whether it is the last one to its end. -/
def dataFlits (mk : Nat × Nat × Nat → Bool → Flit) : List (Nat × Nat × Nat) → List Flit
  | [] => []
  | d :: r => mk d (!r.contains d) :: dataFlits mk r

/-- What the engine sends at the start of a part: the data on VC2, or a read request to each end on VC1. -/
def partAsk (map : SMap Nat) (t : PTile) (x : Tile) (q : QCmd) : List Flit :=
  let ends := partEnds map t x q
  if q.outward x then dataFlits (fun d last => mkFlit 2 t.port0 d x.pl.part t.key (.data last)) ends
  else dataFlits (fun d last => mkFlit 1 t.port0 d x.pl.part t.key (.data last)) ends.dedup

/-- The responses to a read request on VC2. -/
def partAnswer (map : SMap Nat) (t : PTile) (x : Tile) (q : QCmd) : List Flit :=
  if q.outward x then []
  else (partEnds map t x q).zipIdx.map fun e =>
    mkFlit 2 e.1 t.port0 x.pl.part t.key (.data (e.2 + 1 == (partEnds map t x q).length))

/-- A flit of the transfers of the tile with key `k`. -/
def Flit.isData (f : Flit) (k : Nat) : Bool := f.src == k && match f.msg with | .data _ => true | _ => false

/-- Flits of the tile's transfers are still on their way. -/
def Net.dataDue (n : Net) (k : Nat) : Bool := n.flits.any fun f => f.isData k && !(f.col == f.dcol && f.row == f.drow)

/-- The network without the tile's data flits, which have arrived. -/
def Net.dataTaken (n : Net) (k : Nat) : Net := { n with flits := n.flits.filter fun f => !f.isData k }

/-- The tile waits for an access, its part's first flits on their way. -/
def Fx.access (f : Fx) (c : Ctx) (q : QCmd) (x : Tile) : Fx :=
  { (f.set x) with flits := f.flits ++ partAsk c.s.map c.t x q }

/-- Uses a translation: the write permission and the grant check of R210, then the version check of R369; where both fail EVT_SEQ_FAULT alone
is raised, the spec giving no order: DESIGN CHOICE, log entry 17. -/
def Fx.translate (f : Fx) (c : Ctx) (q : QCmd) (e : TlbEntry) (write : Bool) : Fx :=
  let x := f.tile
  let d := x.dma
  let bad := match d.firstVer e.handle e.vpage with | none => false | some v => v != e.ver
  let fin (g : Fx) : Fx := g.set ((g.tile.complete .dq q.seq))
  if (write && !e.w) || !granted c.s.furnish x.pl.part e.site e.addr 0x10000 then
    fin (((f.set { x with dma := { d with ph := .idle, pos := 0 } }).raise c 5 evtSeqFault
      (BitVec.ofNat 64 (q.farAddr x)) .hardware false))
  else if bad then
    fin (((f.set { x with dma := { d with ph := .idle, pos := 0 } }).raise c 5 evtSeqVersion
      (BitVec.ofNat 64 (q.farAddr x)) .recov true).count .verfault 1)
  else
    f.access c q { x with dma := { (d.use e) with
      ph := .access
      since := none
      waited := 0
      vers := match d.firstVer e.handle e.vpage with
        | none => d.vers ++ [(e.handle, e.vpage, e.ver)]
        | some _ => d.vers } }

/-! ### Vats that an access holds (R131) -/

/-- The substitutes that have issued and not completed, in the order written. -/
def Tile.subs (x : Tile) : List QCmd := x.lq.filter fun q => q.op = .leval && q.st = .issued && q.sub

/-- The substitute that runs, or the one that starts next (R309). -/
def Tile.nextSub (x : Tile) : Option QCmd :=
  match x.mx.sub with
  | some l => x.subs.find? fun q => q.lane = l.val
  | none => x.subs.head?

/-- The vat of tile `t` that a DMA read of tile `y` holds: the one that its present part lies in. -/
def Tile.dmaVat (map : SMap Nat) (y : Tile) (t : PTile) : Option Nat :=
  match y.dq.find? fun q => q.st = .issued with
  | some q =>
    if y.dma.ph = .access ∧ q.op = .dcopy ∧ adSpace q.src = 1 ∧ physOf map (adC q.src) (adR q.src) = t then
      some ((adTileOff q.src + y.dma.pos) / 0x8000)
    else none
  | none => none

/-- The arith cycles from an LEVAL's issue to its last conversion, 2.5 to a vat cycle (R124). -/
def QCmd.leCycles (m : TileMem) (q : QCmd) : Nat := 12 + (5 * (levalIn m q.ra q.leFb).time + 1) / 2

/-- Vat `v` that a command reads by itself: an LEVAL that is no substitute, or a WLDV. -/
def QCmd.readsVat (q : QCmd) (v : Nat) : Bool :=
  (q.op == .leval && !q.sub && q.leVat == v) || (q.op == .wldv && q.ra / 0x8000 == v)

/-- An access other than command `n` of the tile under way holds vat `v` of tile `t`: an evaluation of either lane up to its last
conversion, a WLDV, or a DMA read of any tile (R131).  `x`: the tile of the step as it stands. -/
def Ctx.vatHeld (c : Ctx) (x : Tile) (t : PTile) (v n : Nat) : Bool :=
  let y := if t = c.t then x else c.s.tile t
  let other (e : QCmd) : Bool := t != c.t || e.seq != n
  ((y.lq ++ y.mq).any fun e => e.st = .issued && e.readsVat v && other e &&
    (e.op != .leval || decide (y.sc.cyc.toNat < e.at_ + e.leCycles y.mem))) ||
  (x.dmaVat c.s.map t == some v) ||
  c.s.tiles.any fun e => e.1 != c.t.key && e.2.dmaVat c.s.map t == some v

/-- The weight read of a substitute that runs holds vat `v` of the tile. -/
def Tile.subHolds (y : Tile) (v : Nat) : Bool := y.mx.sub.isSome && y.nextSub.any fun e => e.leVat = v

/-- The turns of the DMA reads of tile `y` that wait for vat `v` of tile `t`. -/
def Tile.dmaAsk (map : SMap Nat) (y : Tile) (t : PTile) (v : Nat) : List Nat :=
  (y.dq.filter fun q => q.st = .issued && q.op = .dcopy && y.dma.ph = .vatWait && adSpace q.src = 1 &&
    physOf map (adC q.src) (adR q.src) = t && (adTileOff q.src + y.dma.pos) / 0x8000 = v).filterMap (·.vatAsk)

/-- The turns of the accesses that wait for vat `v` of tile `t`, the substitutes apart. -/
def Ctx.vatAsks (c : Ctx) (x : Tile) (t : PTile) (v n : Nat) : List Nat :=
  let y := if t = c.t then x else c.s.tile t
  (((y.lq ++ y.mq).filter fun e => e.st = .queued && e.readsVat v && (t != c.t || e.seq != n)).filterMap (·.vatAsk)) ++
  (if x.dq.any fun e => e.seq = n then [] else x.dmaAsk c.s.map t v) ++
  (c.s.tiles.filter fun e => e.1 != c.t.key).flatMap fun e => e.2.dmaAsk c.s.map t v

/-- Some access that asked for the vat before turn `ask` still waits; one that has not asked comes last. -/
def asksFirst (ask : Option Nat) (l : List Nat) : Bool := l.any fun k => match ask with | none => true | some n => k < n

/-- Why an access of vat `v` of tile `t` must wait, in the order in which the accesses were issued (R131): 6 as a slip cause, 0 for
a wait that a substitute alone causes (R309). -/
def Ctx.vatWaits (c : Ctx) (x : Tile) (t : PTile) (v : Nat) (q : QCmd) : List Nat :=
  let y := if t = c.t then x else c.s.tile t
  if c.vatHeld x t v q.seq || asksFirst q.vatAsk (c.vatAsks x t v q.seq) then [6]
  else if (y.subHolds v && !(q.sub && t == c.t)) || asksFirst q.vatAsk
      ((y.subs.filter fun e => e.leVat = v && (t != c.t || e.seq != q.seq)).filterMap (·.vatAsk)) then [0]
  else []

/-- A command that must wait for a vat takes its turn (R131). -/
def Fx.askVat (f : Fx) (c : Ctx) (k : Queue) (q : QCmd) : Fx :=
  if q.vatAsk.isSome then f
  else { f with
    tile := f.tile.setQueue k (updCmd q.seq (fun e => { e with vatAsk := some (c.s.nonce + f.used) }) (f.tile.queue k))
    used := f.used + 1 }

/-- A command waits for a vat. -/
def Fx.vatSlip (f : Fx) (c : Ctx) (k : Queue) (q : QCmd) (causes : List Nat) : Fx := (f.askVat c k q).slipCmd c k q causes

/-- Starts the part of a copy at `pos`: in SEQ space a translation buffer hit or a walk; in VAT space the vat, once no other
access holds it (R131); elsewhere the access. -/
def Fx.dmaPart (f : Fx) (c : Ctx) (q : QCmd) : Fx :=
  let x := f.tile
  let a := q.farAddr x
  if adSpace a = 4 then
    let h := BitVec.ofNat 16 (adHandle a)
    let v := (adVirt a + x.dma.pos) / 0x10000
    let d := x.dma.walked h
    match d.hit h v with
    | some e => (f.set { x with dma := d }).translate c q e (q.outward x)
    | none => f.set { x with dma := { d with ph := .walk h v, since := none, waited := 0 } }
  else
    let far := physOf c.s.map (adC a) (adR a)
    let ws := if adSpace a = 1 then c.vatWaits x far ((adTileOff a + x.dma.pos) / 0x8000) q else []
    if !ws.isEmpty then (f.set { x with dma := { x.dma with ph := .vatWait, since := none, waited := 0 } }).vatSlip c .dq q ws
    else f.access c q { x with dma := { x.dma with
      ph := .access
      since := if adSpace a < 2 ∧ far = c.t then some (c.t.key, x.sc.cyc.toNat) else none
      waited := 0 } }

/-- A DCOPY issues: the fences of R185, then its first part.  A refused copy completes without effect. -/
def Fx.dcopyIssue (f : Fx) (c : Ctx) (q : QCmd) : Fx :=
  let x := f.tile
  let a := q.farAddr x
  let f1 := f.set (x.setQueue .dq (updCmd q.seq (QCmd.issue x.sc.cyc.toNat) x.dq))
  if q.ownOff x + q.len ≤ 0x200000 && dmaOk c.s x.pl.part a q.len (q.outward x) &&
      (adSpace a != 4 || seqOn c.s c.t.site x.pl.part) then
    (f1.set { f1.tile with dma := { f1.tile.dma with pos := 0 } }).dmaPart c q
  else
    let away := (adSpace a = 0 || adSpace a = 1) && !(x.pl.part.bind c.s.furnPart).any (·.holds (adC a) (adR a))
    let f2 := (f1.deckle c 5 (q.detail .dq)).count .netFence (if away then 1 else 0)
    f2.set (f2.tile.complete .dq q.seq)

/-! ### Semaphore operations (R262, R312, R313) -/

def QOp.semOp : QOp → Nat
  | .sadd => 1 | .ssub => 2 | .swait => 3 | .sread => 4 | _ => 0

/-- The operation word of R262. -/
def semWord (op tag index n : Nat) : BitVec 64 := BitVec.ofNat 64 (op * 2 ^ 60 + tag * 2 ^ 44 + index * 2 ^ 32 + n)

def semSite (a : Nat) : Fin 64 := Fin.ofNat 64 (fld a 25 20)

/-- A semaphore command issues: its operation goes out on VC0.  A reserved bit of the SEM address refuses it: the
deckle fault of R185, and the command completes without writing F3. -/
def Fx.semIssue (f : Fx) (c : Ctx) (q : QCmd) : Fx :=
  let x := f.tile
  let f1 := f.set (x.setQueue .sq (updCmd q.seq (fun e => { e.issue x.sc.cyc.toNat with age := 0 }) x.sq))
  if fld q.ra 31 26 ≠ 0 ∨ fld q.ra 19 10 ≠ 0 then
    let f2 := f1.deckle c 6 (q.detail .sq)
    f2.set (f2.tile.complete .sq q.seq)
  else
    f1.send (mkFlit 0 c.t.port0 (storeAt (semSite q.ra)) x.pl.part c.t.key
      (.semOp (semWord q.op.semOp q.tag.toNat (q.ra % 1024) q.rb)))

/-! ### Vat lanes at issue (R119, R131, R146, R308) -/

def Ctx.vat (c : Ctx) (n : Nat) : Vat := c.s.vat (c.t.key * 96 + n)
def Ctx.lane (c : Ctx) (l : Nat) : Lane := SMap.get Lane.init c.s.lanes (c.t.key * 2 + l)

/-- The values of a bin are 500 ms old: no product uses it, be there a bar or not (R162). -/
def Bin.stale (b : Bin) (now : BitVec 64) : Bool := b.held && !b.unstamped && 50000000 ≤ now.toNat - b.ts.toNat

/-- The lane's bin of the stage may not be used for products: barred, too old, quarantined, or under test (R18, R132, R162). -/
def Lane.unfit (l : Lane) (now : BitVec 64) : Bool :=
  l.quar || l.underTest || (SMap.get Bin.init l.bins l.bin.toNat).lbarred || (SMap.get Bin.init l.bins l.bin.toNat).stale now

/-- An LEVAL names a vat that may be evaluated (R119). -/
def Vat.evaluable (v : Vat) (p : Option (Fin 32)) : Bool :=
  (v.mode = 1 || v.mode = 2) && !v.bad && v.part.isSome && v.part == p

/-- Vat cycles to the next sizing slot of the lane; 0 inside one (R145). -/
def Lane.toSizing (l : Lane) : Nat :=
  let j := l.slotClock / 16
  if j % 32 = 31 then 0 else (j / 32 * 32 + 31) * 16 - l.slotClock

/-- The slip cause for which an LEVAL waits at its lane: the vat is in use (R131), or a sizing slot that begins before the evaluation
would end (R146), which comes the evaluation time after the first plane drive, itself 12 arith cycles, 4.8 vat cycles, after the
issue (R124). -/
def levalWaits (c : Ctx) (x : Tile) (q : QCmd) : List Nat :=
  c.vatWaits x c.t q.leVat q ++
  (if x.clk.running && (c.lane q.lane).toSizing < 5 + (levalIn x.mem q.ra q.leFb).time then [7] else [])

/-- An LEVAL issues: the fences of R185 and R119; a lane that may not evaluate makes it a substitute (R308). -/
def Fx.levalIssue (f : Fx) (c : Ctx) (q : QCmd) : Fx :=
  let x := f.tile
  let v := c.vat q.leVat
  let f1 := f.set (x.setQueue .lq (updCmd q.seq (fun e =>
    { e.issue x.sc.cyc.toNat with
      sub := (c.lane q.lane).unfit c.s.sup.counter, win := c.site.window.isSome, swaps := (c.lane q.lane).swaps }) x.lq))
  if q.ra + (if q.leFb then 512 else 256) + 16 ≤ 0x200000 && q.leOut + levalBytes v.mode ≤ 0x200000 &&
      v.evaluable x.pl.part then f1
  else
    let f2 := f1.deckle c (3 + q.lane) (q.detail .lq)
    f2.set (f2.tile.complete .lq q.seq)

/-! ### Banks (R189–R191) -/

/-- What a bank does with an access (R189–R191): serves it, refuses it, or makes it wait for a slip cause, starting
the bank's wake if it is in retention. -/
inductive BankAns where
  | go | off | wait (cause : Nat)
deriving DecidableEq, Repr

def Bank.answer (b : Bank) : BankAns :=
  match b.cur, b.next with
  | .off, _ => .off
  | .ret, none => .wait 8
  | .ret, some .on => .wait 8
  | .on, none => .go
  | _, some _ => .wait 1

/-- The banks that resource ranges touch. -/
def banksIn (rs : List Res) : List Nat :=
  (rs.flatMap fun r => match r with
    | .scr lo hi => (List.range (min 16 (hi / 2048 + 1))).drop (lo / 2048)
    | _ => []).dedup

/-- The slip causes for which a command waits at banks. -/
def TileMem.bankWaits (m : TileMem) (bs : List Nat) : List Nat :=
  (bs.filterMap fun b => match (m.bank b).answer with | .wait n => some n | _ => none).dedup

def TileMem.bankDead (m : TileMem) (bs : List Nat) : Bool := bs.any fun b => (m.bank b).answer == .off

def TileMem.wakeAll (m : TileMem) : List Nat → TileMem
  | [] => m
  | b :: r => (m.wake b).wakeAll r

/-! ### Issue and the scoreboard -/

def Ctx.vatMode (c : Ctx) (q : QCmd) : BitVec 2 := if q.op = .leval then (c.vat q.leVat).mode else 0

/-- The SCR ranges of a matrix or vector command lie below the limit (R185). -/
def scrInside (rs : List Res) : Bool :=
  rs.all fun r => match r with | .scr _ hi => hi < 0x8000 | _ => true

def QCmd.banks (q : QCmd) (x : Tile) (vm : BitVec 2) : List Nat := banksIn (q.reads x vm ++ q.writes x vm)

/-- An event that ends load drive (R306) came before the LDRIVE issued: a later command of the lane or QWAIT is written, or
the core is in the planned wait of a STAGE, SEND, STEPEND or FENCE of the LQ. -/
def Tile.driveOver (x : Tile) (q : QCmd) : Bool :=
  (x.lq.any fun e => q.seq < e.seq && (e.op = .qwait || e.lane = q.lane)) ||
  (match x.sc.wait with | .none => false | .fence m => m.getLsbD 2 | _ => true)

/-- A command whose holds are gone issues to its unit.  One that touches an OFF bank is not performed at all and completes, and of an
OFF bank and a deckle fence the bank is found first (R185, R191): DESIGN CHOICE, log entry 75. -/
def Fx.issueCmd (f : Fx) (c : Ctx) (k : Queue) (q : QCmd) : Fx :=
  let x := f.tile
  if operandFault x q then
    (f.insnFault c (q.op.unit q.lane) q.pc (qWord k q.op q.f1 q.f2 q.f3 q.mod)).set
      ((f.insnFault c (q.op.unit q.lane) q.pc (qWord k q.op q.f1 q.f2 q.f3 q.mod)).tile.discard k q.seq)
  else if x.mem.bankDead (q.banks x (c.vatMode q)) then
    let f2 := f.bankOff c (q.op.unit q.lane) (q.detail k)
    f2.set (f2.tile.complete k q.seq)
  else
    match q.op with
    | .leval => f.levalIssue c q
    | .ldrive => { f with
        tile := x.setQueue k (updCmd q.seq (QCmd.issue x.sc.cyc.toNat) (x.queue k))
        drives := f.drives ++ (q.lane, .on) :: (if x.driveOver q then [(q.lane, .ending)] else []) }
    | .dcopy => f.dcopyIssue c q
    | .sadd | .ssub | .swait | .sread => f.semIssue c q
    | _ =>
      if (k = .mq ∨ k = .vq ∨ k = .dq) ∧ scrInside (q.reads x 0 ++ q.writes x 0) = false then
        let f2 := f.deckle c (q.op.unit 0) (q.detail k)
        f2.set (f2.tile.complete k q.seq)
      else
        let y := x.setQueue k (updCmd q.seq (QCmd.issue x.sc.cyc.toNat) (x.queue k))
        f.set (if k = .dq then { y with dma := { y.dma with since := some (c.t.key, x.sc.cyc.toNat), waited := 0 } } else y)

/-- The unit whose resource an earlier command holds; 7 for a substitute, whose waits are not slips (R309, R317). -/
def QCmd.holder (e : QCmd) : Nat := if e.sub then 7 else e.op.unit e.lane

/-- The resources on which command `q` waits for earlier ones, with the earlier command's unit. -/
def Tile.holds (x : Tile) (c : Ctx) (q : QCmd) : List (Nat × Res) :=
  (x.incomplete.filter fun e => e.seq < q.seq).flatMap fun e =>
    (clashes (q.reads x (c.vatMode q)) (q.writes x (c.vatMode q)) (e.reads x (c.vatMode e))
      (e.writes x (c.vatMode e))).map fun r => (e.holder, r)

/-- The slip causes of a wait (R317): none on a resource of the command's own unit, none on a weight buffer, none on rows
that a substitute holds. -/
def slipCauses (unit : Nat) (l : List (Nat × Res)) : List Nat :=
  (l.filterMap fun e => if e.1 = 7 ∨ (e.1 = unit ∧ e.2.cause ≠ some 1) then none else e.2.cause).dedup

/-- Tries to issue one written command.  A pass whose buffer has had no load stalls (R76). -/
def Fx.tryCmd (f : Fx) (c : Ctx) (k : Queue) (q : QCmd) : Fx :=
  let hs := f.tile.holds c q
  let ws := if operandFault f.tile q then []
    else if q.op = .leval then (if (c.lane q.lane).unfit c.s.sup.counter then [] else levalWaits c f.tile q)
    else if q.op = .wldv then c.vatWaits f.tile c.t (q.ra / 0x8000) q else []
  let bs := if operandFault f.tile q then [] else q.banks f.tile (c.vatMode q)
  let bw := if f.tile.mem.bankDead bs then [] else f.tile.mem.bankWaits bs
  if q.op = .wsp ∧ (f.tile.bufCfg q q.wsBuf).isNone then f
  else if hs.isEmpty then
    if ws.isEmpty && bw.isEmpty then (f.issueCmd c k q).arbitrate c
    else
      let g := f.set { f.tile with mem := f.tile.mem.wakeAll bs }
      (if ws.contains 6 || ws.contains 0 then g.askVat c k q else g).slipCmd c k q (ws ++ bw)
  else f.slipCmd c k q (slipCauses (q.op.unit q.lane) hs)

/-- The first command of a list that is not complete. -/
def firstOpen (l : List QCmd) : Option QCmd := l.find? fun q => q.st ≠ .done

/-- The written commands that may issue next: the head of the matrix, vector and DMA queues; the head of each lane's
stream before any QWAIT (R307); the semaphore commands up to a WAIT or QWAIT (R313). -/
def lqHeads (l : List QCmd) : List QCmd :=
  let front := l.takeWhile fun q => q.op ≠ .qwait || q.st = .done
  let hs := ([0, 1].filterMap fun n => firstOpen (front.filter fun q => q.lane = n && q.op ≠ .qwait)).filter (·.st = .queued)
  match hs with | [a, b] => if b.seq < a.seq then [b, a] else hs | _ => hs

def sqHeads : List QCmd → List QCmd
  | [] => []
  | q :: r =>
    if q.st = .done then sqHeads r
    else if q.op = .qwait then []
    else if q.op = .swait then (if q.st = .queued then [q] else [])
    else if q.st = .queued then q :: sqHeads r else sqHeads r

def oneHead (l : List QCmd) : List QCmd :=
  match firstOpen l with
  | some q => if q.st = .queued && q.op ≠ .qwait then [q] else []
  | none => []

/-- The next matrix command, while those before it that have not completed are operations of the other kind, weight load or
pass, that have issued (R77). -/
def mqHead : List QCmd → List QCmd → List QCmd
  | _, [] => []
  | busy, q :: r =>
    if q.st = .done then mqHead busy r
    else if q.st = .issued then mqHead (q :: busy) r
    else if q.op = .qwait || busy.any fun e => e.isLoad == q.isLoad then [] else [q]

def Tile.heads (x : Tile) : Queue → List QCmd
  | .mq => if x.subs.isEmpty then mqHead [] x.mq else []
  | .vq => oneHead x.vq
  | .lq => lqHeads x.lq
  | .dq => oneHead x.dq
  | .sq => sqHeads x.sq

/-- Semaphore commands keep their order: one that waits holds those behind it. -/
def Fx.trySq (f : Fx) (c : Ctx) : List QCmd → Fx
  | [] => f
  | q :: r => if (f.tile.holds c q).isEmpty then (f.tryCmd c .sq q).trySq c r else f.tryCmd c .sq q

/-- A copy that waits for a vat tries again (R131). -/
def Fx.tryDma (f : Fx) (c : Ctx) : Fx :=
  match f.tile.dq.find? fun q => q.st = .issued with
  | some q => if f.tile.dma.ph = .vatWait then f.dmaPart c q else f
  | none => f

/-- Every unit takes the next command of its queue, if it can. -/
def Fx.pumpOnce (f : Fx) (c : Ctx) : Fx :=
  let go (g : Fx) (k : Queue) : Fx := (g.tile.heads k).foldl (fun h q => h.tryCmd c k q) g
  let f4 := go (go (go (go (f.tryDma c) .mq) .vq) .lq) .dq
  f4.trySq c (f4.tile.heads .sq)

/-- The commands that have been written and not issued. -/
def Tile.waiting (x : Tile) : Nat := (allQueues.map x.written).sum

/-- The units go on until none can take a command: one that is refused at its issue makes way for the next. -/
def Fx.pumpAll : Nat → Fx → Ctx → Fx
  | 0, f, _ => f
  | n + 1, f, c => let g := f.pumpOnce c; if g.tile.waiting < f.tile.waiting then pumpAll n g c else g

/-- Every unit takes what it can from its queue. -/
def Fx.pump (f : Fx) (c : Ctx) : Fx := f.pumpAll (f.tile.waiting + 1) c

/-- Command `n` of queue `k` completes and the units go on. -/
def Fx.finish (f : Fx) (c : Ctx) (k : Queue) (n : Nat) : Fx := (f.set (f.tile.complete k n)).pump c

/-- The issued command of a queue. -/
def Tile.running (x : Tile) (k : Queue) : Option QCmd := (x.queue k).find? fun q => q.st = .issued

/-- The issued LEVAL or LDRIVE of a lane. -/
def Tile.laneRunning (x : Tile) (n : Nat) : Option QCmd :=
  x.lq.find? fun q => q.st = .issued && q.lane = n && q.op ≠ .qwait

end Sys2Proof.Machine
end

