-- ==== Sys2Proof/Machine/Scalar.lean ====
section
/-! DEFINITION. The scalar instructions (R283–R289): the issue of an instruction with its waits, the ALU, loads and
stores, branches and jumps, the control and status registers. -/

namespace Sys2Proof.Machine

/-! ### Issue -/

/-- An instruction of tile `t` can be issued: the clocks run, the tile belongs to a partition (R14), the core has
not stopped (R319) and is in no planned wait. -/
def State.canIssue (s : State) (t : PTile) : Bool :=
  s.tileRuns t && (s.tile t).pl.part.isSome && !(s.tile t).sc.halted && !(s.tile t).sc.stopped &&
    (s.tile t).sc.wait == .none

/-- An instruction that waits on an earlier command: each cause is one slip (R318). -/
def Fx.waitOn (f : Fx) (c : Ctx) (causes : List Nat) : Fx :=
  let new := causes.filter fun n => n != 0 && !f.tile.sc.blocked.contains n
  let f1 := new.foldl (fun g n => g.slip c n 0 g.tile.sc.pc) f
  f1.set { f1.tile with sc := { f1.tile.sc with blocked := f1.tile.sc.blocked ++ new } }

/-- The slip causes of an access with resources `r` and `w` of the scalar core (R315); 0 for a wait that a substitute
causes, which is no slip (R309). -/
def Tile.scalarHolds (x : Tile) (c : Ctx) (r w : List Res) : List Nat :=
  (x.incomplete.flatMap fun e =>
    (clashes r w (e.reads x (c.vatMode e)) (e.writes x (c.vatMode e))).filterMap fun r => if e.sub then some 0 else r.cause).dedup

/-- The cycle at which every register of a list can be used. -/
def Scalar.readyAt (sc : Scalar) (rs : List Reg) : Nat :=
  rs.foldl (fun n r => max n (if r = 0 then 0 else SMap.get 0 sc.ready r.toNat)) 0

/-- Waits for results that are not ready: a slip of cause 4 (R314, R318), then the cycles pass. -/
def Fx.readyWait (f : Fx) (c : Ctx) (rs : List Reg) : Fx :=
  let n := f.tile.sc.readyAt rs - f.tile.sc.cyc.toNat
  if n = 0 then f
  else
    let f1 := f.slip c 4 0 f.tile.sc.pc
    f1.set (f1.tile.pass n)

/-- A lockstep mismatch shows at the next instruction (R285). -/
def Fx.lockstep (f : Fx) (c : Ctx) : Fx :=
  if f.tile.pl.lockstepUpset then
    (f.set { f.tile with pl := { f.tile.pl with lockstepUpset := false } }).raise c 0 evtLockstep 0 .recov true
  else f

/-- Issues an instruction that uses the registers `rs`: an uncorrectable word is not executed (R284; memory kind 3 and the word's number
in DETAIL, the model's choice, log entry 60); a register that an SREAD is to write holds the instruction. -/
def Fx.issue (f : Fx) (c : Ctx) (rs : List Reg) (body : Fx → Fx) : Fx :=
  let x := f.tile
  if SMap.get Ecc.ok x.mem.istoreEcc (x.sc.pc.toNat / 4) = .double then
    let f1 := f.raise c 0 evtSramUe (BitVec.ofNat 64 (3 * 2 ^ 56 + x.sc.pc.toNat / 4)) .hardware false
    f1.set { f1.tile with sc := { f1.tile.sc with stopped := true } }
  else
    let held := x.scalarHolds c ((rs.filter (· ≠ 0)).map fun r => .s r.toNat) []
    if held.isEmpty then body ((f.readyWait c rs).lockstep c) else f.waitOn c held

/-- The instruction has issued: it took `n` cycles, and the next is at `npc`. -/
def Fx.retire (f : Fx) (n : Nat) (npc : BitVec 16) : Fx :=
  let x := f.tile.pass n
  f.set { x with sc := { x.sc with pc := npc, blocked := [], seq := x.sc.seq + 1 } }

/-- Writes a result that can be read `lat` cycles after issue (R288). -/
def Fx.result (f : Fx) (rd : Reg) (v : Word) (lat : Nat) : Fx :=
  let x := f.tile
  f.set { x with sc :=
    if lat ≤ 1 then x.sc.setReg rd v else (x.sc.setReg rd v).setReady rd (x.sc.cyc.toNat + lat) }

def Fx.next (f : Fx) : Fx := f.retire 1 (f.tile.sc.pc + 4)

/-- Words of the instruction formats, for DETAIL of a command fault. -/
def iWord (op : Nat) (rd ra : Reg) (imm : BitVec 16) : Nat :=
  op * 2 ^ 26 + rd.toNat * 2 ^ 21 + ra.toNat * 2 ^ 16 + imm.toNat
def sysWord (func : Nat) (f1 f2 f3 : Reg) : Nat :=
  0x1A * 2 ^ 26 + f1.toNat * 2 ^ 21 + f2.toNat * 2 ^ 16 + f3.toNat * 2 ^ 11 + func

def Fx.fault (f : Fx) (c : Ctx) (word : Nat) : Fx := f.insnFault c 0 f.tile.sc.pc word

/-! ### Arithmetic (R288, R289) -/

def sext16 (i : BitVec 16) : Word := i.signExtend 32
def zext16 (i : BitVec 16) : Word := i.zeroExtend 32

/-- A register-register operation. -/
def State.alu (s : State) (t : PTile) (rd ra rb : Reg) (lat : Nat) (op : Word → Word → Word) : State :=
  s.onTile t (s.canIssue t) fun c f => f.issue c [ra, rb, rd] fun g =>
    (g.result rd (op (g.tile.sc.reg ra) (g.tile.sc.reg rb)) lat).next

/-- A register-immediate operation. -/
def State.aluImm (s : State) (t : PTile) (rd ra : Reg) (op : Word → Word) : State :=
  s.onTile t (s.canIssue t) fun c f => f.issue c [ra, rd] fun g => (g.result rd (op (g.tile.sc.reg ra)) 1).next

abbrev Out := Host.Outcome State Fault Refusal

def execAluAdd (t : PTile) (rd ra rb : Reg) (s : State) : Out := .next (s.alu t rd ra rb 1 fun a b => a + b)
def execAluSub (t : PTile) (rd ra rb : Reg) (s : State) : Out := .next (s.alu t rd ra rb 1 fun a b => a - b)
def execAluAnd (t : PTile) (rd ra rb : Reg) (s : State) : Out := .next (s.alu t rd ra rb 1 fun a b => a &&& b)
def execAluOr (t : PTile) (rd ra rb : Reg) (s : State) : Out := .next (s.alu t rd ra rb 1 fun a b => a ||| b)
def execAluXor (t : PTile) (rd ra rb : Reg) (s : State) : Out := .next (s.alu t rd ra rb 1 fun a b => a ^^^ b)
def execAluSll (t : PTile) (rd ra rb : Reg) (s : State) : Out :=
  .next (s.alu t rd ra rb 1 fun a b => a <<< (b.toNat % 32))
def execAluSrl (t : PTile) (rd ra rb : Reg) (s : State) : Out :=
  .next (s.alu t rd ra rb 1 fun a b => a >>> (b.toNat % 32))
def execAluSra (t : PTile) (rd ra rb : Reg) (s : State) : Out :=
  .next (s.alu t rd ra rb 1 fun a b => a.sshiftRight (b.toNat % 32))
def execAluSlt (t : PTile) (rd ra rb : Reg) (s : State) : Out := .next (s.alu t rd ra rb 1 fun a b => b2w (a.slt b))
def execAluSltu (t : PTile) (rd ra rb : Reg) (s : State) : Out := .next (s.alu t rd ra rb 1 fun a b => b2w (a.ult b))
def execAluMul (t : PTile) (rd ra rb : Reg) (s : State) : Out := .next (s.alu t rd ra rb 3 fun a b => a * b)
def execAluMulhu (t : PTile) (rd ra rb : Reg) (s : State) : Out :=
  .next (s.alu t rd ra rb 3 fun a b => BitVec.ofNat 32 (a.toNat * b.toNat / 2 ^ 32))
def execAluMin (t : PTile) (rd ra rb : Reg) (s : State) : Out :=
  .next (s.alu t rd ra rb 1 fun a b => if a.slt b then a else b)
def execAluMax (t : PTile) (rd ra rb : Reg) (s : State) : Out :=
  .next (s.alu t rd ra rb 1 fun a b => if a.slt b then b else a)
def execAluMinu (t : PTile) (rd ra rb : Reg) (s : State) : Out :=
  .next (s.alu t rd ra rb 1 fun a b => if a.ult b then a else b)
def execAluMaxu (t : PTile) (rd ra rb : Reg) (s : State) : Out :=
  .next (s.alu t rd ra rb 1 fun a b => if a.ult b then b else a)

def execAddi (t : PTile) (rd ra : Reg) (imm : BitVec 16) (s : State) : Out :=
  .next (s.aluImm t rd ra fun a => a + sext16 imm)
def execAndi (t : PTile) (rd ra : Reg) (imm : BitVec 16) (s : State) : Out :=
  .next (s.aluImm t rd ra fun a => a &&& zext16 imm)
def execOri (t : PTile) (rd ra : Reg) (imm : BitVec 16) (s : State) : Out :=
  .next (s.aluImm t rd ra fun a => a ||| zext16 imm)
def execXori (t : PTile) (rd ra : Reg) (imm : BitVec 16) (s : State) : Out :=
  .next (s.aluImm t rd ra fun a => a ^^^ zext16 imm)
def execSlti (t : PTile) (rd ra : Reg) (imm : BitVec 16) (s : State) : Out :=
  .next (s.aluImm t rd ra fun a => b2w (a.slt (sext16 imm)))
def execSltiu (t : PTile) (rd ra : Reg) (imm : BitVec 16) (s : State) : Out :=
  .next (s.aluImm t rd ra fun a => b2w (a.ult (sext16 imm)))

/-- The shift of an SHI, by imm16[6:5] and imm16[4:0]. -/
def shiOp (imm : BitVec 16) (a : Word) : Word :=
  match imm.toNat / 32 % 4 with
  | 0 => a <<< (imm.toNat % 32)
  | 1 => a >>> (imm.toNat % 32)
  | _ => a.sshiftRight (imm.toNat % 32)

/-- imm16[6:5] = 3 and imm16[15:7] ≠ 0 are reserved. -/
def execShi (t : PTile) (rd ra : Reg) (imm : BitVec 16) (s : State) : Out :=
  .next (if imm.toNat / 32 % 4 = 3 ∨ 128 ≤ imm.toNat then
    s.onTile t (s.canIssue t) fun c f => f.issue c [] fun g => g.fault c (iWord 8 rd ra imm)
  else s.aluImm t rd ra (shiOp imm))

/-- ra must be 0. -/
def execLui (t : PTile) (rd ra : Reg) (imm : BitVec 16) (s : State) : Out :=
  .next (if ra ≠ 0 then s.onTile t (s.canIssue t) fun c f => f.issue c [] fun g => g.fault c (iWord 0xB rd ra imm)
  else s.aluImm t rd 0 fun _ => zext16 imm <<< 16)

/-! ### Loads and stores (R188–R191, R289, R315) -/

/-- The scalar core takes a bank's port for `n` cycles in a row: it waits, one slip, while the matrix or the vector core takes the
port, and a lane that wants it loses it (R188, R192). -/
def Fx.corePort (f : Fx) (c : Ctx) (b n : Nat) : Fx :=
  let x := f.tile
  let now := x.sc.cyc.toNat
  let m := servedAt (fun k => (List.range n).flatMap fun i => x.takenBy (unitRank 0) (k + i)) b portWait now
  let l := (List.range n).map fun i => PortAcc.mk (now + i) (m + i) b
  let f1 := if now < m then f.slip c 5 0 x.sc.pc else f
  let f2 := f1.set ((f1.tile.pass (m - now)).take (unitRank 0) l)
  if l.any fun a => x.wanted (unitRank 0) a.served b then f2.arbitrate c else f2

/-- A scalar access of one word: the address, the rows that earlier commands hold, the bank; then `go`. -/
def Fx.scrAccess (f : Fx) (c : Ctx) (write : Bool) (addr : Word) (word : Nat) (go : Fx → Fx) : Fx :=
  if addr.toNat % 4 ≠ 0 ∨ 0x200000 ≤ addr.toNat then f.fault c word
  else
    let row : List Res := [.scr (addr.toNat / 64) (addr.toNat / 64)]
    let held := f.tile.scalarHolds c (if write then [] else row) (if write then row else [])
    if held.isEmpty then
      match (f.tile.mem.bank (bankOf addr.toNat)).answer with
      | .go => go (f.corePort c (bankOf addr.toNat) (if write then 2 else 1))
      | .off => (f.bankOff c 0 (f.tile.sc.pc.toNat * 2 ^ 32 + word)).next
      | .wait n => (f.waitOn c [n]).set
          { (f.waitOn c [n]).tile with mem := (f.waitOn c [n]).tile.mem.wake (bankOf addr.toNat) }
    else f.waitOn c held

def execLw (t : PTile) (rd ra : Reg) (imm : BitVec 16) (s : State) : Out :=
  .next (s.onTile t (s.canIssue t) fun c f => f.issue c [ra, rd] fun g =>
    let addr := g.tile.sc.reg ra + sext16 imm
    g.scrAccess c false addr (iWord 0xC rd ra imm) fun h =>
      ((h.readEcc c 0 addr.toNat 4).result rd (h.tile.mem.read32 addr.toNat) 3).next)

/-- A store writes part of an 8 B word: the word is read, merged and written back in two bank cycles (R188). -/
def execSw (t : PTile) (rs ra : Reg) (imm : BitVec 16) (s : State) : Out :=
  .next (s.onTile t (s.canIssue t) fun c f => f.issue c [ra, rs] fun g =>
    let addr := g.tile.sc.reg ra + sext16 imm
    g.scrAccess c true addr (iWord 0xD rs ra imm) fun h =>
      let k := h.readEcc c 0 (addr.toNat / 8 * 8) 8
      (k.set { k.tile with mem := k.tile.mem.write addr.toNat (leBytes 4 (h.tile.sc.reg rs).toNat) }).next)

/-! ### Branches and jumps -/

/-- PC + 4 × the sign-extended offset, at 16 bits. -/
def branchTo (pc : BitVec 16) (off : Int) : BitVec 16 := pc + BitVec.ofInt 16 (4 * off)

def State.branch (s : State) (t : PTile) (ra rb : Reg) (off : BitVec 16) (cond : Word → Word → Bool) : State :=
  s.onTile t (s.canIssue t) fun c f => f.issue c [ra, rb] fun g =>
    if cond (g.tile.sc.reg ra) (g.tile.sc.reg rb) then g.retire 3 (branchTo g.tile.sc.pc off.toInt) else g.next

def execBeq (t : PTile) (ra rb : Reg) (off : BitVec 16) (s : State) : Out := .next (s.branch t ra rb off fun a b => a == b)
def execBne (t : PTile) (ra rb : Reg) (off : BitVec 16) (s : State) : Out := .next (s.branch t ra rb off fun a b => a != b)
def execBlt (t : PTile) (ra rb : Reg) (off : BitVec 16) (s : State) : Out := .next (s.branch t ra rb off fun a b => a.slt b)
def execBge (t : PTile) (ra rb : Reg) (off : BitVec 16) (s : State) : Out := .next (s.branch t ra rb off fun a b => !a.slt b)
def execBltu (t : PTile) (ra rb : Reg) (off : BitVec 16) (s : State) : Out := .next (s.branch t ra rb off fun a b => a.ult b)
def execBgeu (t : PTile) (ra rb : Reg) (off : BitVec 16) (s : State) : Out := .next (s.branch t ra rb off fun a b => !a.ult b)

def execJal (t : PTile) (rd : Reg) (off : BitVec 21) (s : State) : Out :=
  .next (s.onTile t (s.canIssue t) fun c f => f.issue c [rd] fun g =>
    (g.result rd ((g.tile.sc.pc + 4).zeroExtend 32) 1).retire 3 (branchTo g.tile.sc.pc off.toInt))

/-- The target drops bits [1:0] and the bits above 15. -/
def execJalr (t : PTile) (rd ra : Reg) (imm : BitVec 16) (s : State) : Out :=
  .next (s.onTile t (s.canIssue t) fun c f => f.issue c [ra, rd] fun g =>
    (g.result rd ((g.tile.sc.pc + 4).zeroExtend 32) 1).retire 3
      (BitVec.ofNat 16 ((g.tile.sc.reg ra + sext16 imm).toNat / 4 * 4)))

/-! ### Control and status registers (R289) -/

/-- The register `n`; none for a number that is not listed. -/
def Tile.csr (x : Tile) (n : Nat) : Option Word :=
  let sc := x.sc
  let pair (hi lo : BitVec 16) : Word := hi ++ lo
  match n with
  | 0x000 => some (sc.cyc.extractLsb' 0 32)
  | 0x001 => some ((sc.cyc.extractLsb' 32 16).zeroExtend 32)
  | 0x002 => some (sc.stagecnt.zeroExtend 32)
  | 0x003 => some (sc.step.extractLsb' 0 32)
  | 0x004 => some (sc.step.extractLsb' 32 32)
  | 0x005 => some (BitVec.ofNat 32 ((match x.pl.part with | none => 0 | some p => p.val) * 2 ^ 16 +
      x.pl.c.toNat * 2 ^ 8 + x.pl.r.toNat))
  | 0x006 => some (pair (sc.qd 1) (sc.qd 0))
  | 0x007 => some (pair (sc.qd 3) (sc.qd 2))
  | 0x008 => some ((sc.qd 4).zeroExtend 32)
  | 0x009 => some (BitVec.ofNat 32 ((16 - x.written .sq) * 2 ^ 20 + (16 - x.written .dq) * 2 ^ 15 +
      (16 - x.written .lq) * 2 ^ 10 + (16 - x.written .vq) * 2 ^ 5 + (16 - x.written .mq)))
  | 0x00A => some (pair sc.slipsTotal sc.slipsStep)
  | 0x00B => some sc.slip1a
  | 0x00C => some sc.slip1b
  | 0x00D => some (sc.entry.zeroExtend 32)
  | 0x00E => some (sc.bin.zeroExtend 32)
  | 0x00F => some (sc.pressovf.zeroExtend 32)
  | _ => none

/-- ra and imm16[15:12] must be 0, and the number listed. -/
def execCsrr (t : PTile) (rd ra : Reg) (imm : BitVec 16) (s : State) : Out :=
  .next (s.onTile t (s.canIssue t) fun c f =>
    if ra ≠ 0 ∨ 16 ≤ imm.toNat then f.issue c [] fun g => g.fault c (iWord 0x18 rd ra imm)
    else f.issue c [rd] fun g =>
      match g.tile.csr imm.toNat with
      | none => g.fault c (iWord 0x18 rd ra imm)
      | some v => (g.result rd v 2).next)

end Sys2Proof.Machine
end

