-- ==== Sys2Proof/Machine/System.lean ====
section
/-! DEFINITION. The system instructions (R290–R292): NOP, STAGE, SEND, STEPEND, FENCE and BANK, the planned waits
that they begin and the events that end them. -/

namespace Sys2Proof.Machine

/-- Changes both lanes of a tile. -/
def State.setLanes (s : State) (t : PTile) (g : Lane → Lane) : State :=
  { s with lanes := SMap.modifyAll Lane.init (fun _ l => g l) [t.key * 2, t.key * 2 + 1] s.lanes }

/-- A system instruction with the fields it must have; others are a command fault. -/
def State.sys (s : State) (t : PTile) (func : Nat) (f1 f2 f3 : Reg) (bad : Bool) (rs : List Reg)
    (go : Ctx → Fx → Fx) : State :=
  s.onTile t (s.canIssue t) fun c f =>
    if bad then f.issue c [] fun g => g.fault c (sysWord func f1 f2 f3) else f.issue c rs fun g => go c g

/-- Begins a planned wait; STAGE, SEND, STEPEND and a FENCE of the LQ end load drive (R306). -/
def Fx.beginWait (f : Fx) (w : Wait) (endDrive : Bool) : Fx :=
  { f with
    tile := { f.tile with sc := { f.tile.sc with wait := w, blocked := [] } }
    drives := if endDrive then f.drives ++ [(0, .ending), (1, .ending)] else f.drives }

def execNop (t : PTile) (f1 f2 f3 : Reg) (s : State) : Out :=
  .next (s.sys t 0 f1 f2 f3 (f1 != 0 || f2 != 0 || f3 != 0) [] fun _ f => f.next)

def execStage (t : PTile) (f1 f2 f3 : Reg) (s : State) : Out :=
  .next (s.sys t 1 f1 f2 f3 (4 ≤ f1.toNat || f2 != 0 || f3 != 0) [] fun _ f =>
    f.beginWait (.stage (f1.setWidth 2)) true)

/-- Cycles for which the governor holds the tile at this STAGE boundary (R335): those of the site's last window, in a
partition with governed power, up to G times the stage's budget. -/
def State.heldAt (s : State) (t : PTile) : Nat :=
  let x := s.tile t
  match x.pl.part.bind s.furnPart with
  | none => 0
  | some f =>
    match f.power, x.clk.budgets[x.clk.no]? with
    | .governed, some b => min (s.site t.site).govHold (b.budget * (f.g64 - 64) / 64)
    | _, _ => 0

/-- What STAGE does when its wait ends (R291): the checkpoint, the counters, the stage's clocks (R326, R461), an
empty walk table (R366) and no first versions (R369); `h`: the governor's hold; `now`: the supervisor's counter. -/
def Tile.beginStage (x : Tile) (b : BitVec 2) (h : Nat) (now : BitVec 64) : Tile :=
  { x with
    sc := { x.sc with
      ckpt := ⟨x.sc.regs, x.sc.pc, x.sc.stagecnt, x.sc.qdone⟩
      stagecnt := x.sc.stagecnt + 1, bin := b, pressovf := 0, pc := x.sc.pc + 4, wait := .none, blocked := []
      cyc := x.sc.cyc + BitVec.ofNat 48 (1 + h), seq := x.sc.seq + 1 }
    dma := { x.dma with walks := [], walkOvf := false, vers := [] }
    clk := { x.clk with
      no := x.clk.no + 1, began := now, cycles := h, running := true, held := h
      stepCycles := if x.clk.no = 0 then h else x.clk.stepCycles + 1 + h
      wdCount := 0, wdRunning := true }
    rp := { x.rp with recovInStage := false } }

/-- A lane's load drive without an LDRIVE.  In a stage that keeps it active: where it is quarantined, or the bin of the stage is barred,
it drives in place of its products (R153, R159).  In a stage that does not, and while no stage runs: on a shared die (R152). -/
def StageClock.drives (c : StageClock) (l : Lane) (lane : Nat) : Bool :=
  if c.running && (c.active.getD (c.no - 1) 0).getLsbD lane then
    l.quar || (SMap.get Bin.init l.bins l.bin.toNat).lbarred
  else c.shared

/-- The lane after a load drive of its own, a warm-up stage or a reset has ended. -/
def Lane.rest (l : Lane) (c : StageClock) (lane : Nat) : Lane := { l with drive := if c.drives l lane then .on else .off }

/-- The lane after a quarantine or a bar: load drive may start. -/
def Lane.redrive (l : Lane) (c : StageClock) (lane : Nat) : Lane := if l.drive = .off then l.rest c lane else l

/-- At the next vat edge slot 0 begins in both lanes with the stage's bin (R145, R291), and the load drive of the stage. -/
def Lane.beginStage (l : Lane) (b : BitVec 2) (c : StageClock) (lane : Nat) : Lane :=
  { l with slotClock := 0, slotsRun := 0, bin := b }.rest c lane

/-- A lane whose partition runs no stage: on a shared die the supervisor keeps it in load drive (R152). -/
def Lane.idle (l : Lane) (shared : Bool) : Lane := { l with drive := if shared then .on else .off }

/-- Changes both lanes of a tile, each by its number. -/
def State.setLanesBy (s : State) (t : PTile) (g : Nat → Lane → Lane) : State :=
  { s with lanes := SMap.modifyAll Lane.init (fun k l => g (k % 2) l) [t.key * 2, t.key * 2 + 1] s.lanes }

def execStageRetire (t : PTile) (s : State) : Out :=
  .next (match (s.tile t).sc.wait with
    | .stage b =>
      if s.tileRuns t && (s.tile t).allQuiet then
        (s.commit t (Fx.ofTile ((s.tile t).beginStage b (s.heldAt t) s.sup.counter))).setLanesBy t fun n l =>
          l.beginStage b ((s.tile t).beginStage b (s.heldAt t) s.sup.counter).clk n
      else s
    | _ => s)

def execSend (t : PTile) (f1 f2 f3 : Reg) (s : State) : Out :=
  .next (s.sys t 2 f1 f2 f3 (f1 != 0 || f2 != 0 || f3 != 0) [] fun _ f => f.beginWait .send true)

def execStepend (t : PTile) (f1 f2 f3 : Reg) (s : State) : Out :=
  .next (s.sys t 3 f1 f2 f3 (f1 != 0 || f2 != 0 || f3 != 0) [] fun _ f => f.beginWait .stepend true)

/-- No product verdict, check-vector verdict or closing check vector of the lane is outstanding (R128, R166). -/
def Lane.closed (l : Lane) : Bool := l.verdicts.isEmpty && l.cvs.isEmpty && !l.since

/-- The conditions on which SEND and STEPEND retire (R292), with the hold of R402. -/
def State.mayClose (s : State) (t : PTile) : Bool :=
  s.tileRuns t && (s.tile t).allQuiet && (s.tile t).mx.abftDue == 0 && (s.lane t 0).closed && (s.lane t 1).closed &&
    !(s.tile t).rp.recovInStage

/-- An acknowledgement of an edit notice (R367). -/
def editAckFlit (s : State) (t : PTile) (part : Option (Fin 32)) (h : BitVec 16) : Flit :=
  mkFlit 2 t.port0 s.net.supAt part t.key (.editAck h)

/-- The stage finishes in the tile (R20, R326); held edit notices are acknowledged and their translations
discarded (R367). -/
def Fx.closeStage (f : Fx) (c : Ctx) : Fx :=
  let x := f.tile
  { f with
    flits := f.flits ++ x.dma.held.map (editAckFlit c.s c.t x.pl.part)
    tile := { x with
      sc := { x.sc with wait := .none, pc := x.sc.pc + 4, blocked := [], cyc := x.sc.cyc + 1, seq := x.sc.seq + 1 }
      dma := { x.dma with tlb := x.dma.tlb.filter fun e => !x.dma.held.contains e.handle, held := [] }
      clk := { x.clk with running := false, stepCycles := x.clk.stepCycles + 1 } } }

def execSendRetire (t : PTile) (s : State) : Out :=
  .next (if (s.tile t).sc.wait = .send ∧ s.mayClose t = true then
      (s.onTile t true fun c f => f.closeStage c).setLanes t fun l => l.idle (s.tile t).clk.shared
    else s)

/-- The check report of a step on its way to the couch (R292, R614). -/
def reportFlit (n : Net) (t : PTile) (x : Tile) : Flit :=
  mkFlit 0 t.port0 n.supAt x.pl.part t.key (.report x.sc.step x.rp.rep)

/-- STEPEND sends and clears the report, opens the next step at the entry address and stops the watchdog
(R292, R461).  SLIP1_B of a slip before the next step's first STAGE counts on from this step's first STAGE: DESIGN CHOICE, log entry
75. -/
def Fx.closeStep (f : Fx) (c : Ctx) : Fx :=
  let g := (f.closeStage c).send (reportFlit c.s.net c.t f.tile)
  let x := g.tile
  g.set { x with
    sc := { x.sc with step := x.sc.step + 1, slipsStep := 0, slip1a := 0, pc := x.sc.entry }
    clk := { x.clk with no := 0, wdRunning := false, wdCount := 0 }
    rp := ⟨Report.clean, [], false⟩ }

def execStependRetire (t : PTile) (s : State) : Out :=
  .next (if (s.tile t).sc.wait = .stepend ∧ s.mayClose t = true then
      (s.onTile t true fun c f => f.closeStep c).setLanes t fun l =>
        { l.idle (s.tile t).clk.shared with failedChk := false, failedCv := false }
    else s)

def execFence (t : PTile) (f1 f2 f3 : Reg) (s : State) : Out :=
  .next (s.sys t 4 f1 f2 f3 (f2 != 0 || f3 != 0) [] fun _ f => f.beginWait (.fence f1) (f1.getLsbD 2))

/-- Every command written to a masked queue has completed. -/
def Tile.quietMask (x : Tile) (m : BitVec 5) : Bool := allQueues.all fun k => !m.getLsbD k.code || x.quiet k

def execFenceRetire (t : PTile) (s : State) : Out :=
  .next (match (s.tile t).sc.wait with
    | .fence m =>
      s.onTile t (s.tileRuns t && (s.tile t).quietMask m) fun _ f =>
        (f.set { f.tile with sc := { f.tile.sc with wait := .none } }).next
    | _ => s)

/-! ### Bank states (R189, R190, R290) -/

def bkOf (n : Nat) : Bk := match n with | 0 => .on | 1 => .ret | _ => .off

def maskedBanks (m : Nat) : List Nat := (List.range 16).filter fun b => m.testBit b

/-- Starts the change of each masked bank that is not in the state. -/
def TileMem.setBanks (m : TileMem) (bs : List Nat) (k : Bk) : TileMem :=
  { m with banks := SMap.modifyAll Bank.init (fun _ b => if b.cur = k then b else ⟨b.cur, some k⟩) bs m.banks }

/-- The scoreboard takes a BANK as a write to every row of each masked bank. -/
def execBank (t : PTile) (f1 f2 f3 : Reg) (s : State) : Out :=
  .next (s.sys t 5 f1 f2 f3 (3 ≤ f1.toNat || f3 != 0) [f2] fun c f =>
    let bs := maskedBanks ((f.tile.sc.reg f2).toNat % 2 ^ 16)
    let held := f.tile.scalarHolds c [] (bs.map fun b => .scr (2048 * b) (2048 * b + 2047))
    if held.isEmpty then
      if bs.any fun b => (f.tile.mem.bank b).next.isSome then f.waitOn c [1]
      else (f.set { f.tile with mem := f.tile.mem.setBanks bs (bkOf f1.toNat) }).next
    else f.waitOn c held)

/-- A bank reaches its new state; contents are lost in OFF, and a bank that wakes from OFF is zeroed with valid
ECC, spare rows included (R189, R190). -/
def TileMem.bankDone (m : TileMem) (b : Nat) : TileMem :=
  match (m.bank b).next with
  | none => m
  | some k =>
    let lost := k = .off ∨ (m.bank b).cur = .off
    { m with
      banks := SMap.set Bank.init m.banks b ⟨k, none⟩
      scr := if lost then SMap.clear m.scr (b * 0x20000) (b * 0x20000 + 0x20000) else m.scr
      scrEcc := if lost then SMap.clear m.scrEcc (b * 0x4000) (b * 0x4000 + 0x4000) else m.scrEcc }

def execBankStateChangeDone (t : PTile) (b : Fin 16) (s : State) : Out :=
  .next (s.onTile t (s.site t.site).up fun c f =>
    (f.set { f.tile with mem := f.tile.mem.bankDone b.val }).pump c)

end Sys2Proof.Machine
end

