-- ==== Sys2Proof/Machine/Queues.lean ====
section
/-! DEFINITION. The instructions that write a unit queue (R293): the write with its waits and faults, and one
meaning for each queue command of R298, R302, R306, R310 and R312; QWAIT and its completion (R295). -/

namespace Sys2Proof.Machine

/-- The scalar registers that a queue command reads (R293), pairs included (R310), and the register an SREAD is to
write. -/
def cmdRegs (op : QOp) (f1 f2 f3 : Reg) : List Reg :=
  match op with
  | .qwait => [f1]
  | .wld | .wldv | .wsp | .osp | .leval => [f1, f2, f3]
  | .vamax | .vsrch | .vrot | .vld | .vst | .vbcst => [f3]
  | .vdrain => [f2, f3]
  | .dcopy => [f1, f1 + 1, f2, f2 + 1, f3]
  | .dpress | .dmcast | .sadd | .ssub | .swait => [f1, f2]
  | .sread => [f1, f2, f3]
  | _ => []

/-- NFLIT + 1 of the entry of the tile's own router that a DPRESS or DMCAST names (R311). -/
def Ctx.nflit (c : Ctx) (tree : Nat) : Nat :=
  (SMap.get TreeEntry.init c.s.net.trees (c.t.key * 256 + tree % 256)).nflit.toNat + 1

/-- The command with the values of the registers it reads. -/
def mkCmd (c : Ctx) (x : Tile) (op : QOp) (f1 f2 f3 : Reg) (mod : BitVec 6) : QCmd :=
  let r := x.sc.reg
  { op := op, f1 := f1, f2 := f2, f3 := f3, mod := mod
    a := if op = .dcopy then r (f1 + 1) ++ r f1 else (r f1).zeroExtend 64
    b := if op = .dcopy then r (f2 + 1) ++ r f2 else (r f2).zeroExtend 64
    c := if op = .dpress ∨ op = .dmcast then BitVec.ofNat 64 (c.nflit (r f2).toNat) else (r f3).zeroExtend 64
    pc := x.sc.pc, tag := x.sc.stagecnt, seq := x.sc.seq, st := .queued, slipped := [], sub := false, age := 0, at_ := 0,
    win := false, swaps := 0, lost := [], vatAsk := none }

/-- Entries that a command needs: one for each contiguous row range, that it reads, writes or both (R314). -/
def QCmd.need (q : QCmd) (c : Ctx) (x : Tile) : Nat :=
  ((q.reads x (c.vatMode q) ++ q.writes x (c.vatMode q)).filter Res.isRows).dedup.length

/-- Scoreboard entries in use (R314). -/
def Tile.entries (x : Tile) (c : Ctx) : Nat := (x.incomplete.map fun q => q.need c x).sum

/-- The lanes whose load drive a written LQ command ends (R306): the one it names, or both for a QWAIT. -/
def driveEnds (k : Queue) (q : QCmd) : List (Nat × Drive) :=
  if k = .lq then (if q.op = .qwait then [(0, .ending), (1, .ending)] else [(q.lane, .ending)]) else []

/-- Writes one command (R293): a command fault of the word; a full queue is a planned wait; a full scoreboard is a
slip (R314).  The units then take what they can. -/
def State.enqueue (s : State) (t : PTile) (k : Queue) (op : QOp) (f1 f2 f3 : Reg) (mod : BitVec 6) : State :=
  s.onTile t (s.canIssue t) fun c f =>
    if wordFault k op f1 f2 f3 mod then f.issue c [] fun g => g.fault c (qWord k op f1 f2 f3 mod)
    else f.issue c (cmdRegs op f1 f2 f3) fun g =>
      let q := mkCmd c g.tile op f1 f2 f3 mod
      if 16 ≤ g.tile.written k then g
      else if op ≠ .qwait ∧ 64 < g.tile.entries c + q.need c g.tile ∧ g.tile.entries c ≠ 0 then g.waitOn c [0xA]
      else
        let h := (g.set (g.tile.setQueue k (g.tile.queue k ++ [q]))).next
        ({ h with drives := h.drives ++ driveEnds k q } : Fx).pump c

/-! ### QWAIT (R295) -/

def execQwait (t : PTile) (q : Queue) (f1 f2 f3 : Reg) (mod : BitVec 6) (s : State) : Out :=
  .next (s.enqueue t q .qwait f1 f2 f3 mod)

/-- The watched count has reached the target. -/
def qwaitMet (sc : Scalar) (q : QCmd) : Bool := reached (sc.qd (q.mod.toNat % 8)) (BitVec.ofNat 16 q.a.toNat)

/-- The QWAIT that holds queue `k`: every command before it has issued. -/
def holdingQwait (l : List QCmd) : Option QCmd :=
  match l.find? fun q => q.st = .queued with
  | some q => if q.op = .qwait then some q else none
  | none => none

def execQwaitComplete (t : PTile) (k : Queue) (s : State) : Out :=
  .next (match holdingQwait ((s.tile t).queue k) with
    | some q => s.onTile t (s.tileRuns t && qwaitMet (s.tile t).sc q) fun c f => f.finish c k q.seq
    | none => s)

/-! ### Matrix queue (R298) -/

def execWld (t : PTile) (f1 f2 f3 : Reg) (m : BitVec 6) (s : State) : Out := .next (s.enqueue t .mq .wld f1 f2 f3 m)
def execWldv (t : PTile) (f1 f2 f3 : Reg) (m : BitVec 6) (s : State) : Out := .next (s.enqueue t .mq .wldv f1 f2 f3 m)
def execWsp (t : PTile) (f1 f2 f3 : Reg) (m : BitVec 6) (s : State) : Out := .next (s.enqueue t .mq .wsp f1 f2 f3 m)
def execOsp (t : PTile) (f1 f2 f3 : Reg) (m : BitVec 6) (s : State) : Out := .next (s.enqueue t .mq .osp f1 f2 f3 m)

/-! ### Vector queue (R302–R305) -/

def execVadd (t : PTile) (f1 f2 f3 : Reg) (m : BitVec 6) (s : State) : Out := .next (s.enqueue t .vq .vadd f1 f2 f3 m)
def execVsub (t : PTile) (f1 f2 f3 : Reg) (m : BitVec 6) (s : State) : Out := .next (s.enqueue t .vq .vsub f1 f2 f3 m)
def execVmul (t : PTile) (f1 f2 f3 : Reg) (m : BitVec 6) (s : State) : Out := .next (s.enqueue t .vq .vmul f1 f2 f3 m)
def execVfma (t : PTile) (f1 f2 f3 : Reg) (m : BitVec 6) (s : State) : Out := .next (s.enqueue t .vq .vfma f1 f2 f3 m)
def execVmin (t : PTile) (f1 f2 f3 : Reg) (m : BitVec 6) (s : State) : Out := .next (s.enqueue t .vq .vmin f1 f2 f3 m)
def execVmax (t : PTile) (f1 f2 f3 : Reg) (m : BitVec 6) (s : State) : Out := .next (s.enqueue t .vq .vmax f1 f2 f3 m)
def execVand (t : PTile) (f1 f2 f3 : Reg) (m : BitVec 6) (s : State) : Out := .next (s.enqueue t .vq .vand f1 f2 f3 m)
def execVor (t : PTile) (f1 f2 f3 : Reg) (m : BitVec 6) (s : State) : Out := .next (s.enqueue t .vq .vor f1 f2 f3 m)
def execVxor (t : PTile) (f1 f2 f3 : Reg) (m : BitVec 6) (s : State) : Out := .next (s.enqueue t .vq .vxor f1 f2 f3 m)
def execVshl (t : PTile) (f1 f2 f3 : Reg) (m : BitVec 6) (s : State) : Out := .next (s.enqueue t .vq .vshl f1 f2 f3 m)
def execVshr (t : PTile) (f1 f2 f3 : Reg) (m : BitVec 6) (s : State) : Out := .next (s.enqueue t .vq .vshr f1 f2 f3 m)
def execVclt (t : PTile) (f1 f2 f3 : Reg) (m : BitVec 6) (s : State) : Out := .next (s.enqueue t .vq .vclt f1 f2 f3 m)
def execVceq (t : PTile) (f1 f2 f3 : Reg) (m : BitVec 6) (s : State) : Out := .next (s.enqueue t .vq .vceq f1 f2 f3 m)
def execVsel (t : PTile) (f1 f2 f3 : Reg) (m : BitVec 6) (s : State) : Out := .next (s.enqueue t .vq .vsel f1 f2 f3 m)
def execVcvt (t : PTile) (f1 f2 f3 : Reg) (m : BitVec 6) (s : State) : Out := .next (s.enqueue t .vq .vcvt f1 f2 f3 m)
def execVenc (t : PTile) (f1 f2 f3 : Reg) (m : BitVec 6) (s : State) : Out := .next (s.enqueue t .vq .venc f1 f2 f3 m)
def execVexp (t : PTile) (f1 f2 f3 : Reg) (m : BitVec 6) (s : State) : Out := .next (s.enqueue t .vq .vexp f1 f2 f3 m)
def execVrcp (t : PTile) (f1 f2 f3 : Reg) (m : BitVec 6) (s : State) : Out := .next (s.enqueue t .vq .vrcp f1 f2 f3 m)
def execVrsq (t : PTile) (f1 f2 f3 : Reg) (m : BitVec 6) (s : State) : Out := .next (s.enqueue t .vq .vrsq f1 f2 f3 m)
def execVred (t : PTile) (f1 f2 f3 : Reg) (m : BitVec 6) (s : State) : Out := .next (s.enqueue t .vq .vred f1 f2 f3 m)
def execVscan (t : PTile) (f1 f2 f3 : Reg) (m : BitVec 6) (s : State) : Out := .next (s.enqueue t .vq .vscan f1 f2 f3 m)
def execVamax (t : PTile) (f1 f2 f3 : Reg) (m : BitVec 6) (s : State) : Out := .next (s.enqueue t .vq .vamax f1 f2 f3 m)
def execVtopk (t : PTile) (f1 f2 f3 : Reg) (m : BitVec 6) (s : State) : Out := .next (s.enqueue t .vq .vtopk f1 f2 f3 m)
def execVdraw (t : PTile) (f1 f2 f3 : Reg) (m : BitVec 6) (s : State) : Out := .next (s.enqueue t .vq .vdraw f1 f2 f3 m)
def execVsmax (t : PTile) (f1 f2 f3 : Reg) (m : BitVec 6) (s : State) : Out := .next (s.enqueue t .vq .vsmax f1 f2 f3 m)
def execVdrain (t : PTile) (f1 f2 f3 : Reg) (m : BitVec 6) (s : State) : Out := .next (s.enqueue t .vq .vdrain f1 f2 f3 m)
def execVld (t : PTile) (f1 f2 f3 : Reg) (m : BitVec 6) (s : State) : Out := .next (s.enqueue t .vq .vld f1 f2 f3 m)
def execVst (t : PTile) (f1 f2 f3 : Reg) (m : BitVec 6) (s : State) : Out := .next (s.enqueue t .vq .vst f1 f2 f3 m)
def execVsrch (t : PTile) (f1 f2 f3 : Reg) (m : BitVec 6) (s : State) : Out := .next (s.enqueue t .vq .vsrch f1 f2 f3 m)
def execVrot (t : PTile) (f1 f2 f3 : Reg) (m : BitVec 6) (s : State) : Out := .next (s.enqueue t .vq .vrot f1 f2 f3 m)
def execVbcst (t : PTile) (f1 f2 f3 : Reg) (m : BitVec 6) (s : State) : Out := .next (s.enqueue t .vq .vbcst f1 f2 f3 m)

/-! ### Vat-lane queue (R306) -/

def execLeval (t : PTile) (f1 f2 f3 : Reg) (m : BitVec 6) (s : State) : Out := .next (s.enqueue t .lq .leval f1 f2 f3 m)
def execLdrive (t : PTile) (f1 f2 f3 : Reg) (m : BitVec 6) (s : State) : Out := .next (s.enqueue t .lq .ldrive f1 f2 f3 m)

/-! ### DMA queue (R310, R311) -/

def execDcopy (t : PTile) (f1 f2 f3 : Reg) (m : BitVec 6) (s : State) : Out := .next (s.enqueue t .dq .dcopy f1 f2 f3 m)
def execDpress (t : PTile) (f1 f2 f3 : Reg) (m : BitVec 6) (s : State) : Out := .next (s.enqueue t .dq .dpress f1 f2 f3 m)
def execDmcast (t : PTile) (f1 f2 f3 : Reg) (m : BitVec 6) (s : State) : Out := .next (s.enqueue t .dq .dmcast f1 f2 f3 m)

/-! ### Semaphore queue (R312) -/

def execSadd (t : PTile) (f1 f2 f3 : Reg) (m : BitVec 6) (s : State) : Out := .next (s.enqueue t .sq .sadd f1 f2 f3 m)
def execSsub (t : PTile) (f1 f2 f3 : Reg) (m : BitVec 6) (s : State) : Out := .next (s.enqueue t .sq .ssub f1 f2 f3 m)
def execSwait (t : PTile) (f1 f2 f3 : Reg) (m : BitVec 6) (s : State) : Out := .next (s.enqueue t .sq .swait f1 f2 f3 m)
def execSread (t : PTile) (f1 f2 f3 : Reg) (m : BitVec 6) (s : State) : Out := .next (s.enqueue t .sq .sread f1 f2 f3 m)

end Sys2Proof.Machine
end

