-- ==== Sys2Proof/Machine/Vector.lean ====
section
/-! DEFINITION. The vector core (R82–R95, R302–R305): element-wise operations, conversions and block encoding,
special functions, reductions, scans, selections, loads and stores; and the completion of a vector command. -/

namespace Sys2Proof.Machine

/-! ### Registers and packed elements (R82) -/

/-- The 64 lanes of register `r`. -/
def Tile.vget (x : Tile) (r : Nat) : List Word := SMap.getList 0 x.vec.v (64 * r) 64

/-- Writes a register; a written lane has valid parity. -/
def Vector'.put (c : Vector') (r : Nat) (ws : List Word) : Vector' :=
  { c with
    v := SMap.setList 0 c.v (64 * r) (ws.take 64)
    ovf := SMap.set false c.ovf r false
    parityErr := SMap.clear c.parityErr (64 * r) (64 * r + 64) }

def Tile.vset (x : Tile) (r : Nat) (ws : List Word) : Tile := { x with vec := x.vec.put r ws }

/-- Width of an element type in bits. -/
def tyBits (ty : Nat) : Nat := fmtBits ty

/-- Element `i` of width `w` in a lane word. -/
def sub (w i : Nat) (x : Word) : Nat := x.toNat / 2 ^ (w * i) % 2 ^ w

/-- Applies an element operation to the packed elements of lane words. -/
def packed3 (w : Nat) (f : Nat → Nat → Nat → Nat) (d a b : Word) : Word :=
  BitVec.ofNat 32 ((List.range (32 / w)).foldl (fun acc i => acc + f (sub w i d) (sub w i a) (sub w i b) % 2 ^ w * 2 ^ (w * i)) 0)

/-- Element-wise over the 64 lanes. -/
def lanes3 (w : Nat) (f : Nat → Nat → Nat → Nat) (d a b : List Word) : List Word :=
  (List.range 64).map fun l => packed3 w f (d.getD l 0) (a.getD l 0) (b.getD l 0)

/-! ### Element operations (R83, R302) -/

def isFloatTy (ty : Nat) : Bool := vecFloats.contains ty
def tyFmt (ty : Nat) : FFmt := if ty = 8 then fBF16 else if ty = 9 then fFP16 else fFP32

/-- An integer result: clamped to the type, or wrapped. -/
def intRes (w : Nat) (sat : Bool) (z : Int) : Nat := ((if sat then satInt w z else z) % 2 ^ w).toNat

def elAdd (ty : Nat) (sat : Bool) (_d a b : Nat) : Nat :=
  if isFloatTy ty then (tyFmt ty).enc (((tyFmt ty).dec a).add ((tyFmt ty).dec b))
  else intRes (tyBits ty) sat (sInt (tyBits ty) a + sInt (tyBits ty) b)

def elSub (ty : Nat) (sat : Bool) (_d a b : Nat) : Nat :=
  if isFloatTy ty then (tyFmt ty).enc (((tyFmt ty).dec a).add ((tyFmt ty).dec b).neg)
  else intRes (tyBits ty) sat (sInt (tyBits ty) a - sInt (tyBits ty) b)

def elMul (ty : Nat) (sat : Bool) (_d a b : Nat) : Nat :=
  if isFloatTy ty then (tyFmt ty).enc (((tyFmt ty).dec a).mul ((tyFmt ty).dec b))
  else intRes (tyBits ty) sat (sInt (tyBits ty) a * sInt (tyBits ty) b)

def elFma (ty : Nat) (d a b : Nat) : Nat :=
  (tyFmt ty).enc ((((tyFmt ty).dec a).mul ((tyFmt ty).dec b)).add ((tyFmt ty).dec d))

def elMin (ty : Nat) (_d a b : Nat) : Nat :=
  if isFloatTy ty then (tyFmt ty).enc (((tyFmt ty).dec a).min ((tyFmt ty).dec b))
  else if sInt (tyBits ty) a ≤ sInt (tyBits ty) b then a else b

def elMax (ty : Nat) (_d a b : Nat) : Nat :=
  if isFloatTy ty then (tyFmt ty).enc (((tyFmt ty).dec a).max ((tyFmt ty).dec b))
  else if sInt (tyBits ty) a ≤ sInt (tyBits ty) b then b else a

def elShl (ty : Nat) (sat : Bool) (_d a b : Nat) : Nat :=
  intRes (tyBits ty) sat (sInt (tyBits ty) a * 2 ^ (b % 32))

def elShr (ty : Nat) (_d a b : Nat) : Nat := intRes (tyBits ty) false (sInt (tyBits ty) a / 2 ^ (b % 32))

def allOnes (ty : Nat) : Nat := 2 ^ tyBits ty - 1

def elClt (ty : Nat) (_d a b : Nat) : Nat :=
  if (if isFloatTy ty then ((tyFmt ty).dec a).lt ((tyFmt ty).dec b) else sInt (tyBits ty) a < sInt (tyBits ty) b)
  then allOnes ty else 0

def elCeq (ty : Nat) (_d a b : Nat) : Nat :=
  if (if isFloatTy ty then ((tyFmt ty).dec a).eq ((tyFmt ty).dec b) else a == b) then allOnes ty else 0

def elSel (d a b : Nat) : Nat := if d ≠ 0 then a else b

/-- A special function on one element: packed forms compute in FP32 and round once. -/
def elFun (ty : Nat) (f : Word → Word) (_d a _b : Nat) : Nat :=
  if ty = 10 then (f (BitVec.ofNat 32 a)).toNat
  else (tyFmt ty).enc (f32 (f (toF32 ((tyFmt ty).dec a))))

/-! ### Key registers (R305) -/

/-- The draw of lane `l` with the key register `k`. -/
def keyDraw (k : List Word) (l : Nat) : Word :=
  rgen (k.getD 1 0 ++ k.getD 0 0) ((k.getD 2 0).extractLsb' 16 16) ((k.getD 2 0).extractLsb' 0 16) (k.getD 3 0)
    (k.getD 4 0 + BitVec.ofNat 32 l)

/-- The uniform value of a draw (R92). -/
def uniform (r : Word) : Word := toF32 (.fin false (r.toNat / 256) (-24))

/-! ### Conversion (R303) -/

/-- The 64 elements of width `w` in the narrower packing, the rest zero. -/
def packElems (w : Nat) (es : List Nat) : List Word :=
  (List.range 64).map fun l =>
    BitVec.ofNat 32 ((List.range (32 / w)).foldl (fun acc i => acc + es.getD (l * (32 / w) + i) 0 % 2 ^ w * 2 ^ (w * i)) 0)

/-- Element `j` of a register of packed elements. -/
def packedElem (w : Nat) (a : List Word) (j : Nat) : Nat := sub w (j % (32 / w)) (a.getD (j / (32 / w)) 0)

def vcvt (ty : Nat) (sr toF : Bool) (a k : List Word) : List Word :=
  let w := tyBits ty
  if toF then
    (List.range 64).map fun j =>
      let e := packedElem w a j
      if isFloatTy ty then toF32 ((tyFmt ty).dec e) else toF32 (FV.ofInt (sInt w e) 0)
  else
    packElems w ((List.range 64).map fun l =>
      let v := a.getD l 0
      if isFloatTy ty then toHalf (tyFmt ty) sr (keyDraw k l) v else ((f32 v).toIntSat w % 2 ^ w).toNat)

/-! ### Block encode (R304) -/

/-- Encodes one block of 32 lanes. -/
def vencBlock (fmt : Nat) (sym sr : Bool) (a k : List Word) (b : Nat) : EncBlk :=
  encBlock fmt sym sr ((k.getD 6 0).getLsbD b)
    ((List.range 32).map fun i => f32 (fmul (a.getD (32 * b + i) 0) (k.getD 5 0)))
    ((List.range 32).map fun i => keyDraw k (32 * b + i))

/-- The slot of a block: its codes in the leading bytes, the rest zero. -/
def vencSlot (fmt : Nat) (e : EncBlk) : List Byte :=
  ((pack (if e.fell then (partner fmt).getD fmt else fmt) e.codes) ++ List.replicate 32 0).take 32

/-- Lane words of bytes, zero beyond. -/
def wordsOf (bs : List Byte) : List Word :=
  (List.range 64).map fun l => BitVec.ofNat 32 (leVal ((List.range 4).map fun i => bs.getD (4 * l + i) 0))

/-! ### Reductions, scans, selections (R87–R93) -/

def redRound (op : Word → Word → Word) (v : List Word) (d : Nat) : List Word :=
  (List.range 64).map fun l => if l < d then op (v.getD l 0) (v.getD (l + d) 0) else v.getD l 0

def vred (op : Word → Word → Word) (v : List Word) : Word := ([32, 16, 8, 4, 2, 1].foldl (redRound op) v).getD 0 0

def scanRound (v : List Word) (d : Nat) : List Word :=
  (List.range 64).map fun l => if d ≤ l then fadd (v.getD (l - d) 0) (v.getD l 0) else v.getD l 0

/-- The inclusive scan of R88. -/
def vscan (v : List Word) : List Word := [1, 2, 4, 8, 16, 32].foldl scanRound v

/-- a ranks above b: greater value, a NaN below everything, zeros equal (R90). -/
def rankGt (isInt : Bool) (a b : Word) : Bool :=
  if isInt then b.slt a
  else if (f32 a).isNan then false else if (f32 b).isNan then true else flt b a

def rankEq (isInt : Bool) (a b : Word) : Bool := !rankGt isInt a b && !rankGt isInt b a

/-- The second of two pairs with equal index, of values that rank equal but differ in their bits, is taken (log entry 59: a
free value, for R90 and R91 do not say which stays). -/
def tieTakes (isInt : Bool) (a b : Word × Word) : Bool :=
  rankEq isInt a.1 b.1 && a.2 == b.2 && a.1 != b.1 && Config.tie a.1 b.1

/-- One lane of an argmax step: the new running pair. -/
def amaxLane (isInt : Bool) (m i v j : Word) : Word × Word :=
  if rankGt isInt v m || (rankEq isInt v m && j.ult i) || tieTakes isInt (m, i) (v, j) then (v, j) else (m, i)

/-- Pair `a` ranks before pair `b`: descending value, then ascending index (R91). -/
def pairBefore (a b : Word × Word) : Bool := rankGt false a.1 b.1 || (rankEq false a.1 b.1 && a.2.ult b.2)

/-- Inserts a pair into ranked ones; the order of two that rank equal is free where their bits differ. -/
def rankInsert (p : Word × Word) : List (Word × Word) → List (Word × Word)
  | [] => [p]
  | q :: r => if pairBefore q p || tieTakes false p q then q :: rankInsert p r else p :: q :: r

def rankSort : List (Word × Word) → List (Word × Word)
  | [] => []
  | p :: r => rankInsert p (rankSort r)

def filler : Word × Word := (nan32, 0xFFFFFFFF)

/-- The lowest lane with v ≥ threshold, or 64 (R93). -/
def vsrch (v : List Word) (thr : Word) : Nat :=
  ((List.range 64).find? fun l => fle thr (v.getD l 0)).getD 64

/-! ### The softmax step (R89) -/

/-- One lane: the scores, the state m and s, the block maximum; the results p, m, s, alpha. -/
def softLane (m s b : Word) (xs : List Word) : List Word × Word × Word × Word :=
  let mx := xs.foldl fmax (fmax m b)
  let alpha : Word := if m = negInf32 then 0 else exp32 (fsub m mx)
  let ps := xs.map fun x => if x = negInf32 then (0 : Word) else exp32 (fsub x mx)
  let t := ps.foldl fadd 0
  (ps, mx, ffma alpha s t, alpha)

/-! ### The results of a command -/

/-- What a vector command's execution gives: registers written, scratchpad written, blocks encoded. -/
structure VRes where
  regs : List (Nat × List Word)
  stores : List (Nat × List Byte)
  encs : List EncBlk
deriving DecidableEq, Repr

def oneReg (r : Reg) (ws : List Word) : VRes := ⟨[(r.toNat, ws)], [], []⟩

/-- Result in lane 0, other lanes zero. -/
def lane0 (w : Word) : List Word := w :: List.replicate 63 0

/-- The words of an accumulator row (R63). -/
def Matrix.row (x : Matrix) (r : Nat) : List Word := SMap.getList 0 x.acc (64 * r) 64

/-- A drain (R70): FP32 words times the scale operand with one rounding; an I32 row as it is; a scale of 1.0 leaves
every word unchanged. -/
def drain (x : Matrix) (r : Nat) (scale : Word) : List Word :=
  if SMap.get false x.accInt r || scale == 0x3F800000 then x.row r else (x.row r).map fun w => fmul w scale

/-- The 256 bytes of a striped register image (R297). -/
def stripedRead (m : TileMem) (off : Nat) : List Byte := (List.range 4).flatMap fun j => m.read (off + 0x20000 * j) 64

/-- Executes a vector command (R302). -/
def vexec (x : Tile) (q : QCmd) : VRes :=
  let m := q.mod.toNat
  let ty := m % 16
  let sat := m.testBit 4
  let vd := x.vget q.f1.toNat
  let va := x.vget q.f2.toNat
  let vb := x.vget q.f3.toNat
  let rs : Word := BitVec.ofNat 32 q.rc
  let el (f : Nat → Nat → Nat → Nat) : VRes := oneReg q.f1 (lanes3 (tyBits ty) f vd va vb)
  match q.op with
  | .vadd => el (elAdd ty sat)
  | .vsub => el (elSub ty sat)
  | .vmul => el (elMul ty sat)
  | .vfma => el (elFma ty)
  | .vmin => el (elMin ty)
  | .vmax => el (elMax ty)
  | .vand => oneReg q.f1 (lanes3 32 (fun _ a b => a &&& b) vd va vb)
  | .vor => oneReg q.f1 (lanes3 32 (fun _ a b => a ||| b) vd va vb)
  | .vxor => oneReg q.f1 (lanes3 32 (fun _ a b => a ^^^ b) vd va vb)
  | .vshl => el (elShl ty sat)
  | .vshr => el (elShr ty)
  | .vclt => el (elClt ty)
  | .vceq => el (elCeq ty)
  | .vsel => el elSel
  | .vcvt => oneReg q.f1 (vcvt ty sat (m.testBit 5) va vb)
  | .venc =>
    let fmt := m % 8
    let b0 := vencBlock fmt sat (m.testBit 3) va vb 0
    let b1 := vencBlock fmt sat (m.testBit 3) va vb 1
    ⟨[(q.f1.toNat, wordsOf (vencSlot fmt b0 ++ vencSlot fmt b1 ++ [b0.scale, b1.scale]))], [], [b0, b1]⟩
  | .vexp => el (elFun ty exp32)
  | .vrcp => el (elFun ty recip32)
  | .vrsq => el (elFun ty rsqrt32)
  | .vred => oneReg q.f1 (lane0 (vred (match m / 16 with | 0 => fadd | 1 => fmax | _ => fmin) va))
  | .vscan => oneReg q.f1 (vscan va)
  | .vamax =>
    let vi := x.vget (q.f1.toNat + 1)
    let r := (List.range 64).map fun l =>
      amaxLane (ty == 11) (vd.getD l 0) (vi.getD l 0) (va.getD l 0) (rs + BitVec.ofNat 32 l)
    ⟨[(q.f1.toNat, r.map (·.1)), (q.f1.toNat + 1, r.map (·.2))], [], []⟩
  | .vtopk =>
    let n := m + 1
    let list := (vd.zip (x.vget (q.f1.toNat + 1))) ++ va.zip (x.vget (q.f2.toNat + 1))
    let s := rankSort list
    let head := (s.take n ++ List.replicate 64 filler).take 64
    let tail := ((s.drop n).take 64 ++ List.replicate 64 filler).take 64
    ⟨[(q.f1.toNat, head.map (·.1)), (q.f1.toNat + 1, head.map (·.2)), (q.f1.toNat + 2, tail.map (·.1)),
      (q.f1.toNat + 3, tail.map (·.2))], [], []⟩
  | .vdraw => oneReg q.f1 ((List.range 64).map fun l => uniform (keyDraw vb l))
  | .vsmax =>
    let j := m % 8 + 1
    let sc := (List.range j).map fun i => x.vget (q.f2.toNat + i)
    let vs := x.vget (q.f1.toNat + 1)
    let vbm := x.vget (q.f1.toNat + 2)
    let r := (List.range 64).map fun l => softLane (vd.getD l 0) (vs.getD l 0)
      (if m.testBit 3 then vbm.getD l 0 else negInf32) (sc.map fun v => v.getD l 0)
    ⟨(List.range j).map (fun i => (q.f2.toNat + i, r.map fun y => y.1.getD i 0)) ++
      [(q.f1.toNat, r.map (·.2.1)), (q.f1.toNat + 1, r.map (·.2.2.1)), (q.f1.toNat + 2, r.map (·.2.2.2))], [], []⟩
  | .vdrain => oneReg q.f1 (drain x.mx (q.rb % 512) rs)
  | .vld => oneReg q.f1 (wordsOf (stripedRead x.mem q.rc))
  | .vst => ⟨[], (List.range 4).map fun j =>
      (q.rc + 0x20000 * j, ((va.drop (16 * j)).take 16).flatMap fun w => leBytes 4 w.toNat), []⟩
  | .vsrch => oneReg q.f1 (lane0 (BitVec.ofNat 32 (vsrch va rs)))
  | .vrot => oneReg q.f1 ((List.range 64).map fun l => va.getD ((l + rs.toNat) % 64) 0)
  | .vbcst => oneReg q.f1 (List.replicate 64 rs)
  | _ => ⟨[], [], []⟩

/-! ### Checks (R63, R94, R95) -/

/-- A lane word that the command reads has a wrong parity bit. -/
def parityHit (x : Tile) (q : QCmd) : Bool :=
  (q.reads x 0).any fun r => match r with
    | .v lo hi => x.vec.parityErr.any fun e => 64 * lo ≤ e.1 && e.1 < 64 * (hi + 1) && e.2
    | _ => false

/-- The accumulator words of a row with stored error marks. -/
def Matrix.eccRow (x : Matrix) (r : Nat) (k : Ecc) : Nat :=
  (x.accEcc.filter fun e => e.1 / 64 = r && e.2 = k).length

/-- A format fault (R45).  DESIGN CHOICE, log entry 60: DETAIL is zero, R477's other choice for a counted event. -/
def Fx.formatFault (f : Fx) (c : Ctx) (unit : Nat) : Fx :=
  (f.raise c unit evtFormatFault 0 .recov true).count .fmtfault 1

/-- An uncorrectable error of the accumulator file or a weight buffer, which the couch replays (R460).  DESIGN CHOICE, log entry 60:
memory kind 1 is the accumulator file with its row, kind 2 a weight buffer with the buffer's number as the row; R477 gives no numbers. -/
def Fx.ueReplay (f : Fx) (c : Ctx) (unit kind row : Nat) : Fx :=
  f.raise c unit evtSramUeReplay (BitVec.ofNat 64 (kind * 2 ^ 56 + row)) .recov false

/-- The checks that a vector command's execution makes.  DESIGN CHOICE, log entry 60: one count of SITE_CHK_VPARITY a command,
however many of the words it reads have wrong parity; DETAIL of EVT_RESIDUE and EVT_VREG_PARITY is zero. -/
def Fx.vecChecks (f : Fx) (c : Ctx) (q : QCmd) (encs : List EncBlk) : Fx :=
  let x := f.tile
  let f1 := if parityHit x q then (f.raise c 2 evtVregParity 0 .recov true).count .vparity 1 else f
  let f2 := if f1.tile.vec.residueUpset then
      ((f1.set { f1.tile with vec := { f1.tile.vec with residueUpset := false } }).raise c 2 evtResidue 0 .recov true).count
        .residue 1
    else f1
  let f3 := ((f2.count .sat (encs.filter (·.clip)).length).count .fallback (encs.filter (·.fell)).length)
  let f4 := if encs.any (·.fault) then f3.formatFault c 2 else f3
  let f5 := if q.op = .vdrain then f4.count .accecc (x.mx.eccRow (q.rb % 512) .single) else f4
  let f6 := if q.op = .vdrain ∧ x.mx.eccRow (q.rb % 512) .double ≠ 0 then f5.ueReplay c 2 1 (q.rb % 512) else f5
  if q.op = .vld then
    (List.range 4).foldl (fun g j => g.readEcc c 2 (q.rc + 0x20000 * j) 64) f6
  else f6

def Vector'.putAll (c : Vector') : List (Nat × List Word) → Vector'
  | [] => c
  | e :: r => (c.put e.1 e.2).putAll r

/-- A drain reads its row's overflow flag with the row (R68); it stays beside the register that the drain wrote (DESIGN
CHOICE, log entry 60: the spec names no place for it). -/
def Vector'.flagged (c : Vector') (x : Matrix) (q : QCmd) : Vector' :=
  if q.op = .vdrain then { c with ovf := SMap.set false c.ovf q.f1.toNat (SMap.get false x.accOvf (q.rb % 512)) } else c

def TileMem.writeAll (m : TileMem) : List (Nat × List Byte) → TileMem
  | [] => m
  | e :: r => (m.write e.1 e.2).writeAll r

/-- The last result of the issued vector command is written. -/
def execVectorCommandComplete (t : PTile) (s : State) : Out :=
  .next (match (s.tile t).running .vq with
    | none => s
    | some q => s.onTile t (s.tileRuns t) fun c f =>
      let r := vexec f.tile q
      let f1 := f.vecChecks c q r.encs
      (f1.set { f1.tile with vec := (f1.tile.vec.putAll r.regs).flagged f.tile.mx q, mem := f1.tile.mem.writeAll r.stores }).finish
        c .vq q.seq)

end Sys2Proof.Machine
end

