-- ==== Sys2Proof/Machine/Matrix.lean ====
section
/-! DEFINITION. The matrix core (R62–R81, R298–R301): weight loads, weight-stationary and output-stationary passes
in narrow, exact and raw integer arithmetic, and the ABFT verdict. -/

namespace Sys2Proof.Machine

/-! ### Sums of blocks -/

/-- The exact sum of products, in units of 2^−32. -/
def dot (a b : List Int) : Int := (List.zipWith (· * ·) a b).foldl (· + ·) 0

/-- One block of R66: the shifted exact sum is added to the accumulator with one rounding. -/
def accNarrow (acc : Word) (a w : NBlk) : Word :=
  if a.zero || w.zero then acc
  else toF32 ((f32 acc).add (FV.ofInt (dot a.es w.es) (-32 - a.k - w.k)))

/-- One block of R53: exact products of BF16 activations and weight elements. -/
def accExact (acc : Word) (a : List FV) (w : NBlk) : Word :=
  if w.zero then acc
  else
    let p := (List.zipWith (fun x y => x.mul (FV.ofInt y (-16))) a w.es).foldl FV.add (.fin false 0 0)
    toF32 ((f32 acc).add (p.mul (.fin false 1 (-(w.k : Int)))))

/-- One block of R68: the sum is added to the I32 word with saturation; the flag of an addition that saturated.  Every pass
reads a zero block of a loaded column as one (R75). -/
def accRaw (acc : Word × Bool) (a : List Int) (w : NBlk) : Word × Bool :=
  if w.zero then acc
  else
    let z := acc.1.toInt + dot a w.es / 2 ^ 32
    (BitVec.ofInt 32 (satInt 32 z), acc.2 || satInt 32 z != z)

/-! ### The identities of R79 -/

/-- The sums of the elements of several vectors, index by index: C[i] or A[i]. -/
def sumAt (n : Nat) (vs : List (List Int)) : List Int :=
  (List.range n).map fun i => (vs.map fun v => v.getD i 0).foldl (· + ·) 0

/-- Both identities of R79 hold on the exact sums of one block: `a` the activation vectors, `w` the weight columns, `c` the
column sums as the load formed them. -/
def abftHolds (a w : List (List Int)) (c : List Int) : Bool :=
  (a.all fun r => (w.map (dot r)).foldl (· + ·) 0 == dot r c) &&
  w.all fun v => (a.map fun r => dot r v).foldl (· + ·) 0 == dot (sumAt 32 a) v

/-- A finite BF16 value in units of 2^−133, its smallest step. -/
def bf16Int (cd : Nat) : Int :=
  match fBF16.dec cd with
  | .fin s m e => (if s then -1 else 1) * (m : Int) * 2 ^ (e + 133).toNat
  | _ => 0

/-! ### Weight loads (R75, R299) -/

def Matrix.wb (x : Matrix) (b : Nat) : WBuf := if b = 0 then x.wb0 else x.wb1
def Matrix.setWb (x : Matrix) (b : Nat) (w : WBuf) : Matrix :=
  { x with wb0 := if b = 0 then w else x.wb0, wb1 := if b = 0 then x.wb1 else w }

/-- Codes of column `n`, block `b`. -/
def WBuf.col (w : WBuf) (n b : Nat) : List Nat :=
  (List.range 32).map fun i => unpack w.fmt.toNat w.codes ((32 * b + i) * 64 + n)

def WBuf.block (w : WBuf) (n b : Nat) : NBlk := wtBlock w.fmt.toNat (w.col n b) (w.scales.getD (64 * b + n) 0)

/-- A loaded buffer, with the column sums of the checksum (R75, R79). -/
def mkWBuf (fmt kt : Nat) (codes scales : List Byte) : WBuf :=
  { loaded := true, fmt := BitVec.ofNat 4 fmt, kt := kt, codes := codes, scales := scales
    sums := (List.range kt).map fun i =>
      ((List.range 64).map fun n => (elem fmt (unpack fmt codes (i * 64 + n))).v).foldl (· + ·) 0
    ecc := .ok }

def WBuf.faulty (w : WBuf) : Bool :=
  (List.range (w.kt / 32)).any fun b => (List.range 64).any fun n => (w.block n b).fault

/-- The vat bytes that a WLDV reads: 16 B or 32 B of each of Kt rows (R299); an EMPTY vat reads as zero (R113). -/
def wldvCodes (c : Ctx) (q : QCmd) : List Byte :=
  let v := q.ra / 0x8000
  let n := if q.ldFmt = 0 then 16 else 32
  if (c.vat v).mode = 0 then List.replicate (n * q.ldKt) 0
  else (List.range q.ldKt).flatMap fun i =>
    SMap.getList 0 c.s.vatMem ((c.t.key * 96 + v) * 0x8000 + q.ra % 0x8000 + 64 * i) n

/-- The oldest issued weight load, or pass, of the matrix queue. -/
def Tile.mqRunning (x : Tile) (load : Bool) : Option QCmd := x.mq.find? fun q => q.st = .issued && q.isLoad == load

/-- The weights of the issued load become usable (R77). -/
def execWeightLoadComplete (t : PTile) (s : State) : Out :=
  .next (match (s.tile t).mqRunning true with
    | none => s
    | some q =>
      if q.op = .wld ∨ q.op = .wldv then
        s.onTile t (s.tileRuns t) fun c f =>
          let m := f.tile.mem
          let nb := q.ldKt * 8 * fmtBits q.ldFmt
          let codes := if q.op = .wld then m.read q.ra nb else wldvCodes c q
          let w := mkWBuf q.ldFmt q.ldKt codes (m.read q.rb (2 * q.ldKt))
          let f1 := (if q.op = .wld then f.readEcc c 1 q.ra nb else f).readEcc c 1 q.rb (2 * q.ldKt)
          let f2 := if w.faulty then f1.formatFault c 1 else f1
          (f2.set { f2.tile with mx := f2.tile.mx.setWb q.ldBuf w }).finish c .mq q.seq
      else s)

/-! ### Passes (R66–R74, R300, R301) -/

/-- What a pass gives: the words of its accumulator rows, their overflow flags, whether a format fault arose. -/
structure PassRes where
  words : List Word
  ovf : List Bool
  fault : Bool
  /-- An identity of R79 fails on the exact block sums. -/
  bad : Bool
deriving DecidableEq, Repr

/-- Bytes of the striped image of activation row `m` (R297, R300). -/
def wsRow (m : TileMem) (base s row : Nat) : List Byte :=
  ((List.range ((s + 63) / 64)).flatMap fun j => m.read (base + j * 0x20000 + 64 * row) 64).take s

def bf16s (bs : List Byte) (i0 : Nat) : List FV := (List.range 32).map fun i => fBF16.dec (unpack 8 bs (i0 + i))

/-- The starting word of an output. -/
def startWord (ovw : Bool) (x : Matrix) (row n : Nat) : Word := if ovw then 0 else SMap.get 0 x.acc (64 * row + n)

/-- A weight-stationary pass over M activation rows. -/
def wspRes (x : Tile) (q : QCmd) : PassRes :=
  let w := x.mx.wb q.wsBuf
  let nb := w.kt / 32
  let a := q.wsFmt
  let s := wsImage w.kt a q.wsFb
  let img (m : Nat) : List Byte := wsRow x.mem q.ra s m
  let blk (m b : Nat) : NBlk :=
    let bs := if q.wsFb then ((img m).drop (32 * b)).take 32 else ((img m).drop (4 * fmtBits a * b)).take (4 * fmtBits a)
    actBlock a q.wsFb bs ((x.mem.read (q.rb + 8 * m + b) 1).getD 0 0)
  let rawBlk (m b : Nat) : List Int :=
    (List.range 32).map fun i => (elem a (unpack a (img m) (32 * b + i))).v
  let cell (m n : Nat) : Word × Bool :=
    let st := startWord q.wsOvw x.mx (q.wsRow0 + m) n
    if q.wsRaw then
      (List.range nb).foldl (fun acc b => accRaw acc (rawBlk m b) (w.block n b)) (st, false)
    else if a = 8 then
      ((List.range nb).foldl (fun acc b => accExact acc (bf16s (img m) (32 * b)) (w.block n b)) st, false)
    else ((List.range nb).foldl (fun acc b => accNarrow acc (blk m b) (w.block n b)) st, false)
  { words := (List.range q.wsM).flatMap fun m => (List.range 64).map fun n => (cell m n).1
    ovf := (List.range q.wsM).map fun m => (List.range 64).any fun n => (cell m n).2
    fault := !q.wsRaw && a != 8 && (List.range q.wsM).any fun m => (List.range nb).any fun b => (blk m b).fault
    bad := (List.range nb).any fun b => !abftHolds
      ((List.range q.wsM).map fun m => if a = 8 then (List.range 32).map fun i => bf16Int (unpack 8 (img m) (32 * b + i))
        else if q.wsRaw then rawBlk m b else (blk m b).es)
      ((List.range 64).map fun n => (w.block n b).es) ((w.sums.drop (32 * b)).take 32) }

/-- The codes of vector `v` of a panel in group `g` (R301). -/
def panelCol (m : TileMem) (base fmt : Nat) (fb : Bool) (v g : Nat) : List Nat :=
  (List.range 32).map fun i =>
    let k := 32 * g + i
    if fb then (m.read (base + 64 * k + v) 1).foldl (fun _ b => b.toNat) 0
    else unpack fmt (m.read (base + k * 8 * fmtBits fmt) (8 * fmtBits fmt)) v

/-- Scale byte of vector `v` in group `g` of a panel whose scale bytes lie at `at_`. -/
def panelScale (m : TileMem) (at_ v g : Nat) : Byte := (m.read (at_ + 64 * g + v) 1).getD 0 0

/-- An activation block of a panel from its codes. -/
def panelBlock (fmt : Nat) (fb : Bool) (cs : List Nat) (sc : Byte) : NBlk :=
  actBlock fmt fb (if scW sc && fb then pack 5 cs else pack fmt (cs.map (· % 2 ^ fmtBits fmt))) sc

/-- An output-stationary pass: a 64 × 64 block of outputs. -/
def ospRes (x : Tile) (q : QCmd) : PassRes :=
  let ng := q.osKr / 32
  let na := panelScales q.ra q.osA q.osKr q.osFb
  let nw := panelScales q.rb q.osW q.osKr false
  let wt (n g : Nat) : NBlk :=
    wtBlock q.osW (panelCol x.mem q.rb q.osW false n g) (if q.osRaw then 0 else panelScale x.mem nw n g)
  let ac (v g : Nat) : List Nat := panelCol x.mem q.ra q.osA q.osFb v g
  let ab (v g : Nat) : NBlk := panelBlock q.osA q.osFb (ac v g) (panelScale x.mem na v g)
  let cell (v n : Nat) : Word × Bool :=
    let st := startWord q.osOvw x.mx (q.osRow0 + v) n
    if q.osRaw then
      (List.range ng).foldl (fun acc g => accRaw acc ((ac v g).map fun cd => (elem q.osA cd).v) (wt n g)) (st, false)
    else if q.osA = 8 then
      ((List.range ng).foldl (fun acc g => accExact acc ((ac v g).map fun cd => fBF16.dec cd) (wt n g)) st, false)
    else ((List.range ng).foldl (fun acc g => accNarrow acc (ab v g) (wt n g)) st, false)
  { words := (List.range 64).flatMap fun v => (List.range 64).map fun n => (cell v n).1
    ovf := (List.range 64).map fun v => (List.range 64).any fun n => (cell v n).2
    fault := (List.range ng).any fun g => (List.range 64).any fun v =>
      (!q.osRaw && q.osA != 8 && (ab v g).fault) || (!q.osRaw && (wt v g).fault) ||
      (q.osRaw && ((wt v g).fault))
    bad := (List.range ng).any fun g =>
      let ws := (List.range 64).map fun n => (wt n g).es
      !abftHolds ((List.range 64).map fun v => if q.osA = 8 then (ac v g).map bf16Int
        else if q.osRaw then (ac v g).map fun cd => (elem q.osA cd).v else (ab v g).es) ws (sumAt 32 ws) }

/-- Writes a pass's rows: FP32 or I32 values, and the overflow flags, which an overwrite pass clears (R62, R68). -/
def Matrix.writePass (x : Matrix) (row0 : Nat) (raw ovw : Bool) (r : PassRes) : Matrix :=
  { x with
    acc := SMap.setList 0 x.acc (64 * row0) r.words
    accInt := SMap.setRange false x.accInt row0 r.ovf.length (fun _ => raw)
    accOvf := SMap.setRange false x.accOvf row0 r.ovf.length
      (fun i => r.ovf.getD i false || (!ovw && SMap.get false x.accOvf (row0 + i)))
    accEcc := SMap.clear x.accEcc (64 * row0) (64 * (row0 + r.ovf.length))
    abftDue := x.abftDue + 1
    abftBad := x.abftBad ++ [r.bad] }

/-- The error marks that a pass meets (R63, R460): its buffer's, and in accumulate mode its rows'. -/
def Fx.passEcc (f : Fx) (c : Ctx) (wbUse : Option Nat) (row0 rows : Nat) (reads : Bool) : Fx :=
  let x := f.tile.mx
  let e := match wbUse with | none => Ecc.ok | some b => (x.wb b).ecc
  let rs := if reads then (List.range rows).map (row0 + ·) else []
  let f1 := f.count .accecc ((rs.map fun r => x.eccRow r .single).sum)
  let f2 := if e = .double then f1.ueReplay c 1 2 (wbUse.getD 0) else f1
  (rs.filter fun r => x.eccRow r .double ≠ 0).foldl (fun g r => g.ueReplay c 1 1 r) f2

/-- The error marks of the bytes that a pass reads. -/
def Fx.passReads (f : Fx) (c : Ctx) (q : QCmd) : Fx :=
  (q.reads f.tile 0).foldl (fun g r => match r with
    | .scr lo hi => g.readEcc c 1 (64 * lo) (64 * (hi + 1 - lo))
    | _ => g) f

/-- The last accumulator write of the issued pass; its ABFT verdict is then due (R77). -/
def execPassComplete (t : PTile) (s : State) : Out :=
  .next (match (s.tile t).mqRunning false with
    | none => s
    | some q =>
      if q.op = .wsp ∨ q.op = .osp then
        s.onTile t (s.tileRuns t) fun c f =>
          let w := decide (q.op = .wsp)
          let r := if w then wspRes f.tile q else ospRes f.tile q
          let row0 := if w then q.wsRow0 else q.osRow0
          let raw := if w then q.wsRaw else q.osRaw
          let ovw := if w then q.wsOvw else q.osOvw
          let f1 := (f.passReads c q).passEcc c (if w then some q.wsBuf else none) row0 r.ovf.length (!ovw)
          let f2 := if r.fault then f1.formatFault c 1 else f1
          (f2.set { f2.tile with mx := f2.tile.mx.writePass row0 raw ovw r }).finish c .mq q.seq
      else s)

/-- The ABFT verdict of the oldest pass arrives in the check report (R79–R81): an identity failed on the pass's own sums, or
the hardware's sums or its two adders differed (`mismatch`, log entry 60).  DESIGN CHOICE, log entry 60: one count a pass, and
DETAIL zero (R477 allows the counter value or zero). -/
def execAbftVerdict (t : PTile) (mismatch : Bool) (s : State) : Out :=
  .next (s.onTile t ((s.tile t).mx.abftDue != 0) fun c f =>
    let f1 := f.set { f.tile with mx := { f.tile.mx with
      abftDue := f.tile.mx.abftDue - 1, abftBad := f.tile.mx.abftBad.drop 1 } }
    if mismatch || f.tile.mx.abftBad.headD false then (f1.raise c 1 evtAbft 0 .recov true).count .abft 1 else f1)

end Sys2Proof.Machine
end

