-- ==== Sys2Proof/Machine/Vat.lean ====
section
/-! DEFINITION. The vats (R105–R133, R306–R309): the alignment of an input, plane drives and conversions with their
digital correction, the combination and rounding of the outputs, the per-product check, load drive and
substitutes. -/

namespace Sys2Proof.Machine

/-! ### Numbers in fixed point -/

/-- Calibration of one converter of a lane in one bin (R121): gain field, offset in eighths of a code, density field. -/
structure Cal where
  gain : Nat
  off : Int
  dens : Nat
deriving DecidableEq, Repr

def Lane.cal (l : Lane) (bin col : Nat) : Cal :=
  { gain := (SMap.get 0 l.gain (bin * 520 + col)).toNat
    off := (SMap.get 0 l.offset (bin * 520 + col)).toInt
    dens := (SMap.get 0 l.dens col).toNat }

/-- The correction of R120 in sixteenths of a count: U4.12 gain for data columns, U6.10 for check converters. -/
def Cal.correct (k : Cal) (data : Bool) (code pc : Nat) : Int :=
  rneShiftZ ((if data then 2 else 8) * (k.gain : Int) * (8 * (code : Int) - k.off) - (k.dens : Int) * pc) 12

/-- The code of converter `col` (0–511 data, 512–519 check) in conversion `n` of use `nonce`. -/
def convCode (nonce n col : Nat) : Nat :=
  if col < 512 then (Config.dataCode nonce (n * 520 + col)).toNat else (Config.checkCode nonce (n * 520 + col)).toNat

/-- The calibration that a product uses: that of the lane when its first plane drive began, before `swaps` further swaps
(R158). -/
def Lane.asOf (l : Lane) (swaps : Nat) : Lane :=
  if swaps < l.swaps then { l with gain := l.prev.gain, offset := l.prev.offset, dens := l.prev.dens } else l

/-- One corrected conversion. -/
def Lane.conv (l : Lane) (nonce n col pc : Nat) : Int := (l.cal l.bin.toNat col).correct (decide (col < 512)) (convCode nonce n col) pc

/-! ### The product of R114 -/

/-- y[col][p] of R114, conversions 2p and 2p + 1 of the product. -/
def LevalIn.y (i : LevalIn) (l : Lane) (nonce col p : Nat) : Int :=
  let pc := i.pop p 0 512
  if pc = 0 then 0
  else if pc ≤ 256 then l.conv nonce (2 * p) col pc
  else l.conv nonce (2 * p) col (i.pop p 0 256) + l.conv nonce (2 * p + 1) col (i.pop p 256 512)

def sumZ (l : List Int) : Int := l.foldl (· + ·) 0

/-- c(p) and cb(b) of R114. -/
def planeW (planes p : Nat) : Int := if p + 1 = planes then -(2 ^ p) else 2 ^ p
def sliceW (b : Nat) : Int := if b = 3 then -8 else 2 ^ b

def vatCols (mode : BitVec 2) : Nat := if mode = 2 then 256 else 128

/-- Yh[n] in sixteenths of a count. -/
def LevalIn.yh (i : LevalIn) (l : Lane) (nonce : Nat) (v : Vat) (n : Nat) : Int :=
  if v.kw.getD n 0 = 31 then 0
  else sumZ ((List.range i.planes).map fun p => planeW i.planes p *
    (if v.mode = 2 then i.y l nonce (2 * n) p - i.y l nonce (2 * n + 1) p
     else sumZ ((List.range 4).map fun b => sliceW b * i.y l nonce (4 * n + b) p)))

/-- The checksum result C, from the checksum converters 512–515. -/
def LevalIn.chk (i : LevalIn) (l : Lane) (nonce : Nat) (mode : BitVec 2) : Int :=
  sumZ ((List.range i.planes).map fun p => planeW i.planes p *
    (if mode = 2 then i.y l nonce 512 p - i.y l nonce 513 p + i.y l nonce 514 p - i.y l nonce 515 p
     else sumZ ((List.range 4).map fun b => sliceW b * i.y l nonce (512 + b) p)))

/-- The tolerance constant T0 of R128. -/
def tolT0 (mode : BitVec 2) (wide : Bool) : Int :=
  if mode = 2 then (if wide then 34047 else 2128) else (if wide then 198181 else 12386)

/-- The check sums of a product (R128). -/
def LevalIn.verd (i : LevalIn) (l : Lane) (nonce : Nat) (v : Vat) (ovr : Nat) (win : Bool) : Verd :=
  let ys := (List.range (vatCols v.mode)).map fun n => i.yh l nonce v n
  let c := i.chk l nonce v.mode
  { d := if i.zero then 0 else sumZ ys - c
    a := if i.zero then 0 else sumZ (ys.map fun y => (y.natAbs : Int))
    c := if i.zero then 0 else c
    t0 := tolT0 v.mode i.wide, zero := i.zero, ovr := !i.zero && ovr != 0, win := win }

/-- The outputs of R118; +0.0 in a zero column and under R117. -/
def LevalIn.outs (i : LevalIn) (l : Lane) (nonce : Nat) (v : Vat) (sop : Word) : List Word :=
  (List.range (vatCols v.mode)).map fun n =>
    if i.zero || v.kw.getD n 0 = 31 then 0
    else toF32 ((FV.ofInt (i.yh l nonce v n) (-4 - (i.kv : Int) - (v.kw.getD n 0).toNat)).mul (f32 sop))

/-- A check passes (R123, R128): in sixteenths, with the threshold rounded to one sixteenth. -/
def Verd.pass (x : Verd) : Bool :=
  x.zero || (!x.ovr && (x.d.natAbs : Int) ≤ rneThr (x.a + x.c.natAbs) + 16 * x.t0)
where
  /-- 0.005 z to the nearest integer, ties to even. -/
  rneThr (z : Int) : Int :=
    let q := z / 200
    let r := z % 200
    if 100 < r ∨ (r = 100 ∧ q % 2 = 1) then q + 1 else q

/-! ### Completion of a product -/

/-- The words as bytes. -/
def wordBytes (ws : List Word) : List Byte := ws.flatMap fun w => leBytes 4 w.toNat

/-- The outputs of a product take the ports of `n` rows up to its completion; a row whose bank a unit of higher priority takes waits,
one slip, and lane 1 loses to a row of lane 0 (R125, R192). -/
def Fx.outPorts (f : Fx) (c : Ctx) (q : QCmd) (n : Nat) : Fx :=
  let x := f.tile
  let l := serveRows (x.takenBy q.rank) (x.sc.cyc.toNat - n) ((List.range n).map fun d => [bankOf (q.leOut + 64 * d)])
  let f1 := (l.filter (·.waits)).foldl (fun g _ => g.slip c 5 (q.op.unit q.lane) q.pc) f
  (f1.set (f1.tile.take q.rank l)).arbitrate c

/-- The tile's part of the completion of an LEVAL: outputs, counters, the format fault of R306, the mark of R130. -/
def Fx.levalDone (f : Fx) (c : Ctx) (q : QCmd) (ovr : Nat) : Fx :=
  let v := c.vat q.leVat
  let l := (c.lane q.lane).asOf q.swaps
  let i := levalIn f.tile.mem q.ra q.leFb
  let unit := 3 + q.lane
  let f1 := (f.outPorts c q (levalBytes v.mode / 64)).readEcc c unit q.ra ((if q.leFb then 512 else 256) + 16)
  let f2 := if i.fault then f1.formatFault c unit else f1
  let f3 := if i.zero then f2.count .zero 1
    else ((f2.count .split i.splits).count .wide (if i.wide then 1 else 0)).count .ovr ovr
  let x := f3.tile
  let win := q.win || c.site.window.isSome
  let f4 := { f3 with
    tile := { x with
      mem := x.mem.write q.leOut (wordBytes (i.outs l c.s.nonce v (BitVec.ofNat 32 q.rc)))
      rp := { x.rp with rep := { x.rp.rep with invalid := x.rp.rep.invalid || win } } }
    used := f3.used + 1 }
  f4.finish c .lq q.seq

/-- The lane's part: its most recent vat, the check sums that await their verdict. -/
def Lane.levalDone (l : Lane) (i : LevalIn) (nonce : Nat) (v : Vat) (vat ovr swaps : Nat) (win : Bool) : Lane :=
  { l with
    lastVat := BitVec.ofNat 7 vat
    since := true
    ovr := l.ovr || (!i.zero && ovr != 0)
    verdicts := l.verdicts ++ [i.verd (l.asOf swaps) nonce v ovr win] }

/-- The last output of the lane's product is written (R124). -/
def execLevalComplete (t : PTile) (lane : Fin 2) (overRange : Nat) (s : State) : Out :=
  .next (match (s.tile t).laneRunning lane.val with
    | none => s
    | some q =>
      if q.op = .leval ∧ q.sub = false ∧ s.tileRuns t = true then
        (s.onTile t true fun c f => f.levalDone c q overRange).setLane t lane
          (((s.onTile t true fun c f => f.levalDone c q overRange).lane t lane).levalDone
            (levalIn (s.tile t).mem q.ra q.leFb) s.nonce (s.vat (t.key * 96 + q.leVat)) q.leVat overRange
            q.swaps (q.win || (s.site t.site).window.isSome))
      else s)

/-! ### The per-product check (R128–R130) -/

/-- Bars a bin for a reason (R129, R162): the supervisor's marks and the lane's. -/
def Bin.bar (b : Bin) (why : BitVec 2) : Bin :=
  { b with barred := true, barwhy := why, due := true, lbarred := true, ldue := true }

def Lane.getBin (l : Lane) (b : Nat) : Bin := SMap.get Bin.init l.bins b
def Lane.setBin (l : Lane) (b : Nat) (x : Bin) : Lane := { l with bins := SMap.set Bin.init l.bins b x }

/-- The stage of the tile's stage counter is the stage that its partition has replayed in this step. -/
def State.inReplay (s : State) (t : PTile) : Bool :=
  match (s.tile t).pl.part with
  | none => false
  | some p => (s.part p).couch.replayed && (s.part p).couch.replayTag == some (s.tile t).sc.stagecnt

/-- A verdict reaches the lane: CHKFAIL; a failure in the replay, of a lane whose check had failed before it, bars the bin of the stage (R129). -/
def Lane.verdict (l : Lane) (pass replay : Bool) : Lane :=
  { l with
    verdicts := l.verdicts.drop 1
    chkfail := l.chkfail || !pass
    failedChk := l.failedChk || (!pass && !replay)
    bins := if !pass && replay && l.failedChk then SMap.set Bin.init l.bins l.bin.toNat ((l.getBin l.bin.toNat).bar 2)
      else l.bins }

def execProductVerdict (t : PTile) (lane : Fin 2) (s : State) : Out :=
  .next (match (s.lane t lane).verdicts with
    | [] => s
    | v :: _ =>
      if (s.site t.site).up then
        (s.onTile t true fun c f =>
          if v.pass then f
          else (f.raise c (3 + lane.val) evtVatCheck 0 (if v.win then .none else .recov) true).count .check 1).setLane t lane
            (((s.lane t lane).verdict v.pass (s.inReplay t)).redrive (s.tile t).clk lane.val)
      else s)

/-! ### Load drive (R306) -/

def execLoadDriveEnd (t : PTile) (lane : Fin 2) (s : State) : Out :=
  .next (match (s.tile t).laneRunning lane.val with
    | none => s
    | some q =>
      if q.op = .ldrive ∧ (s.lane t lane).drive = .ending ∧ (s.site t.site).up = true then
        (s.setLane t lane ((s.lane t lane).rest (s.tile t).clk lane.val)).onTile t true fun c f => f.finish c .lq q.seq
      else s)

/-! ### Substitutes (R308, R309) -/

/-- The substitute that is next starts on the matrix core; one whose vat another access holds, or has asked for before, waits for it,
a slip of cause 6 (R131). -/
def execSubstituteStart (t : PTile) (lane : Fin 2) (s : State) : Out :=
  .next (match (s.tile t).nextSub with
    | none => s
    | some q =>
      if q.lane = lane.val ∧ (s.tile t).mx.sub = none ∧ (s.tile t).running .mq = none ∧ s.tileRuns t = true then
        if !((⟨t, s⟩ : Ctx).vatWaits (s.tile t) t q.leVat q).isEmpty then
          s.onTile t true fun c f => f.vatSlip c .lq q (c.vatWaits f.tile t q.leVat q)
        else (s.onTile t true fun _ f => f.set { f.tile with mx := { f.tile.mx with sub := some lane } }).setLane t lane
          { s.lane t lane with drive := .on }
      else s)

/-- Output `n` of a product on the digital narrow path over the vat's weights (R66, R308). -/
def subOut (s : State) (m : TileMem) (q : QCmd) (key : Nat) (n : Nat) : Word :=
  let v := s.vat key
  let fmt := if v.mode = 2 then 0 else 1
  let w := if q.leFb then 32 else 16
  let a (j : Nat) : NBlk := actBlock 1 q.leFb (m.read (q.ra + w * j) w) ((m.read (q.ra + 16 * w + j) 1).getD 0 0)
  let wt (j : Nat) : NBlk := wtBlock fmt ((List.range 32).map fun i =>
      unpack fmt (SMap.getList 0 s.vatMem (key * 0x8000 + 64 * (32 * j + i)) 64) n)
    (BitVec.ofNat 8 (v.kw.getD n 0).toNat)
  let acc := (List.range 16).foldl (fun acc j => accNarrow acc (a j) (wt j)) (0 : Word)
  fmul acc (BitVec.ofNat 32 q.rc)

/-- A substitute writes its outputs; its ABFT verdict is due (R308). -/
def execSubstituteComplete (t : PTile) (lane : Fin 2) (s : State) : Out :=
  .next (match (s.tile t).nextSub with
    | none => s
    | some q =>
      if q.lane = lane.val ∧ (s.tile t).mx.sub = some lane ∧ s.tileRuns t = true then
        (s.setLane t lane ((s.lane t lane).rest (s.tile t).clk lane.val)).onTile t true fun c f =>
          let key := t.key * 96 + q.leVat
          let f1 := f.readEcc c (3 + q.lane) q.ra ((if q.leFb then 512 else 256) + 16)
          let f2 := if (levalIn f.tile.mem q.ra q.leFb).fault then f1.formatFault c (3 + q.lane) else f1
          let x := f2.tile
          let outs := (List.range (vatCols (s.vat key).mode)).map (subOut s f.tile.mem q key)
          (f2.set { x with
            mem := x.mem.write q.leOut (wordBytes outs)
            mx := { x.mx with sub := none, abftDue := x.mx.abftDue + 1, abftBad := x.mx.abftBad ++ [false] } }).finish c .lq q.seq
      else s)

end Sys2Proof.Machine
end

