-- ==== Sys2Proof/Machine/Sizing.lean ====
section
/-! DEFINITION. Sizing (R145–R182): sizing slots, check vectors, passes with the FP64 procedure of R156 and the
limits of R157, acceptance, rejection and quarantine, ages and bars, warm-up. -/

namespace Sys2Proof.Machine

/-! ### FP64 (R156) -/

def fFP64 : FFmt := ⟨11, 52⟩

/-- One rounding to FP64. -/
def r64 (v : FV) : FV := fFP64.dec (fFP64.enc v)

def add64 (a b : FV) : FV := r64 (a.add b)
def sub64 (a b : FV) : FV := r64 (a.add b.neg)
def mul64 (a b : FV) : FV := r64 (a.mul b)

/-- Quotient of finite values, the divisor not zero, rounded once: 200 more bits and a sticky bit. -/
def div64 : FV → FV → FV
  | .fin s m e, .fin s' m' e' =>
    let n := m * 2 ^ 200
    r64 (.fin (s != s') (2 * (n / m') + (if n % m' = 0 then 0 else 1)) (e - e' - 201))
  | _, _ => .nan

def int64 (z : Int) : FV := r64 (FV.ofInt z 0)

/-- Nearest integer, ties to even. -/
def FV.rne : FV → Int
  | .fin s m e => rneInt s m e
  | _ => 0

/-! ### The pass of R154–R157 -/

/-- New values of one converter, and whether they meet the limits that need no current value. -/
structure NewCal where
  gain : Int
  off : Int
  dens : Int
  ok : Bool
deriving DecidableEq, Repr

/-- The procedure of R156 on the four sums of 24 codes, with the absolute and residual limits of R157.  The field values take
their types: u16, and S4.3 or S8.3 for the offset (R7). -/
def newCal (data : Bool) (sz sl sh sd : Nat) : NewCal :=
  let u : Int := if data then 1 else 64
  let F : Int := if data then 4096 else 1024
  let mean (n : Nat) : FV := div64 (int64 n) (int64 24)
  let cZ := mean sz
  let A := sub64 (mean sh) cZ
  let B := sub64 (mean sd) cZ
  let q := sub64 (mul64 (int64 4) A) (mul64 (int64 3) B)
  if !((FV.fin false 0 0).lt q) then ⟨0, 0, 0, false⟩
  else
    let g := div64 (int64 (384 * u)) q
    let d := div64 (sub64 (mul64 g B) (int64 (128 * u))) (int64 256)
    let gf : Int := (BitVec.ofInt 16 (mul64 g (int64 F)).rne).toNat
    let off := (mul64 cZ (int64 8)).rne.bmod (if data then 2 ^ 8 else 2 ^ 12)
    let df : Int := (BitVec.ofInt 16 (mul64 d (int64 65536)).rne).toNat
    let r := sub64 (sub64 (mul64 (div64 (int64 gf) (int64 F)) (sub64 (mean sl) (div64 (int64 off) (int64 8))))
      (div64 (mul64 (int64 128) (int64 df)) (int64 65536))) (int64 (128 * u))
    let rl : Int := if data then 2 else 128
    { gain := gf, off := off, dens := df
      ok := !(d.lt (.fin false 0 0)) && 14746 ≤ gf && gf ≤ 18022 &&
        (if data then -16 ≤ off && off ≤ 16 else -32 ≤ off && off ≤ 32) &&
        0 ≤ df && df ≤ (if data then 262 else 16777) && !((int64 rl).lt r) && !(r.lt (int64 (-rl))) }

/-- The largest steps from the values in use (R157). -/
def NewCal.near (n : NewCal) (data : Bool) (k : Cal) : Bool :=
  1000 * (n.gain - k.gain).natAbs ≤ 3 * k.gain && (n.off - k.off).natAbs ≤ (if data then 2 else 4) &&
    (n.dens - k.dens).natAbs ≤ (if data then 32 else 2048)

/-- The new values of every converter from the sums of a pass, keyed converter × 4 + pattern. -/
def passCals (sums : SMap Nat) : List NewCal :=
  (List.range 520).map fun col => newCal (decide (col < 512)) (SMap.get 0 sums (4 * col)) (SMap.get 0 sums (4 * col + 1))
    (SMap.get 0 sums (4 * col + 2)) (SMap.get 0 sums (4 * col + 3))

/-- A pass is plausible (R157). -/
def Lane.plausible (l : Lane) (b : Nat) (ns : List NewCal) : Bool :=
  (List.range 520).all fun col =>
    let n := ns.getD col ⟨0, 0, 0, false⟩
    n.ok && (!(l.getBin b).held || n.near (decide (col < 512)) (l.cal b col))

/-- A quarantine (R159): QCOUNT saturates at 255, no pass runs.  The passes in progress on the lane's bins are dropped and counted in no
SZ_CNT_DISCARD, of which the spec says nothing: DESIGN CHOICE, log entry 26.  A closing check vector that the lane owes stays owed (R166). -/
def Lane.quarantine (l : Lane) : Lane :=
  { l with
    quar := true, succ := 0, qcount := satAdd l.qcount 1, lifting := false
    bins := SMap.mapVals Bin.init (fun _ b => { b with pass := none }) l.bins }

/-- Acceptance of a pass (R158, R161, R171); the old values stay for the product that began before the swap. -/
def Lane.accept (l : Lane) (b : Nat) (ns : List NewCal) : Lane :=
  let x := l.getBin b
  let n := min 2 (x.accepted + 1)
  { l with
    bins := SMap.set Bin.init l.bins b { x with
      held := true, count := x.count + 1, wrap := x.wrap || x.count == 0xFFFFFFFF, barred := false, barwhy := 0
      lbarred := false, accepted := n, warm := x.warm || n == 2, due := !(x.warm || n == 2)
      ldue := !(x.warm || n == 2), pass := none, unstamped := true }
    gain := SMap.setList 0 l.gain (520 * b) (ns.map fun n => BitVec.ofInt 16 n.gain)
    offset := SMap.setList 0 l.offset (520 * b) (ns.map fun n => BitVec.ofInt 12 n.off)
    dens := SMap.setList 0 l.dens 0 (ns.map fun n => BitVec.ofInt 16 n.dens)
    prev := ⟨l.gain, l.offset, l.dens⟩, swaps := l.swaps + 1
    succ := 0 }

/-- Rejection of a pass (R159): the third successive one quarantines the lane. -/
def Lane.reject (l : Lane) (b : Nat) : Lane :=
  let x := l.getBin b
  let y := { l with
    bins := SMap.set Bin.init l.bins b { x with rej := satAdd x.rej 1, pass := none, accepted := if x.warm then 2 else 0 }
    succ := l.succ + 1 }
  if 3 ≤ l.succ + 1 then y.quarantine else y

/-- Every bin has completed warm-up (R180). -/
def Lane.warmed (l : Lane) : Bool := [0, 1, 2, 3].all fun b => (l.getBin b).warm

/-- Every bin has completed warm-up and none is barred: no warm-up is owed (R171, R173). -/
def Lane.warmedUp (l : Lane) : Bool := l.warmed && [0, 1, 2, 3].all fun b => !(l.getBin b).barred

/-- A lane that warm-up runs on after a TILE reset leaves quarantine once every bin is warm (R174). -/
def Lane.lift (l : Lane) : Lane :=
  { l with
    quar := l.quar && !(l.lifting && l.warmed), lifting := l.lifting && !l.warmed, rewarm := l.rewarm && !l.warmedUp }

/-- The outcome of a pass on a lane. -/
def Lane.judge (l : Lane) (b : Nat) (sums : SMap Nat) : Lane :=
  if l.plausible b (passCals sums) then (l.accept b (passCals sums)).lift else l.reject b

/-- The record of a quarantine (R159): made by the supervisor, its SOURCE names the tile and the lane. -/
def quarRecord (s : State) (t : PTile) (lane : Fin 2) : BbxRec :=
  s.sup.recordOf evtSizingQuarantine t.site.val (t.key % 256) (3 + lane.val) (s.tile t).pl.part

/-- The report of an acceptance on its way to the supervisor (R158, R160), on VC0 with the tile's other reports: no rule names its channel
(DESIGN CHOICE, log entry 25). -/
def acceptedFlit (s : State) (t : PTile) (lane : Fin 2) (b : Fin 4) : Flit :=
  mkFlit 0 t.port0 s.net.supAt (s.tile t).pl.part t.key (.accepted lane b)

/-- A lane's pass for bin `b` ends with these sums: acceptance with its report, or rejection. -/
def State.judgePass (s : State) (t : PTile) (lane : Fin 2) (b : Fin 4) (sums : SMap Nat) (used : Nat) : State :=
  let l := s.lane t lane
  let ok := l.plausible b.val (passCals sums)
  let y := l.judge b.val sums
  { s with
    lanes := SMap.set Lane.init s.lanes (laneKey t lane) (y.redrive (s.tile t).clk lane.val)
    net := s.net.send (if ok then [acceptedFlit s t lane b] else [])
    bbx := s.bbx.appendAll (if !ok && 2 ≤ l.succ then [quarRecord s t lane] else [])
    nonce := s.nonce + used }

/-! ### Check vectors (R164–R167) -/

/-- The expected counts of R165: converters 512–519 are C0–C3 and F0–F3. -/
def cvExpected (v : Vat) (planeA : Bool) (k : Nat) : Int :=
  match k with
  | 0 | 1 | 2 | 3 => ((if planeA then v.ta else v.tb).getD k 0 : Nat)
  | 4 => 256
  | 5 => 0
  | 6 => if planeA then 128 else 0
  | _ => if planeA then 256 else 128

/-- A check vector passes: every corrected value lies within 0.005 E + 24 counts of its expected count (R166). -/
def Lane.checkVector (l : Lane) (nonce : Nat) (v : Vat) : Bool :=
  [true, false].all fun a => (List.range 8).all fun k =>
    let e := cvExpected v a k
    let y := l.conv nonce (if a then 0 else 1) (512 + k) 256
    25 * (y - 16 * e).natAbs ≤ 2 * e + 9600

/-- Runs the check vector that the lane owes; in a supply-warning window its verdict is invalid (R167, R130). -/
def Lane.runCv (l : Lane) (nonce : Nat) (v : Vat) (win : Bool) : Lane :=
  if l.since then { l with since := false, cvs := l.cvs ++ [win || l.checkVector nonce v] } else l

/-- The vat of the lane's most recent product. -/
def State.lastVat (s : State) (t : PTile) (lane : Fin 2) : Vat := s.vat (t.key * 96 + (s.lane t lane).lastVat.toNat)

/-! ### Sizing slots (R145–R147, R153–R155) -/

/-- The lane stands in a sizing slot of its stage that it has not run. -/
def Lane.inSlot (l : Lane) : Bool := l.slotClock / 16 % 32 == 31 && l.slotsRun ≤ l.slotClock / 16 / 32

/-- A vat of the tile owes an acceptance product. -/
def State.owesTest (s : State) (t : PTile) : Bool :=
  (List.range 96).any fun v => (s.vat (t.key * 96 + v)).testDue && (s.vat (t.key * 96 + v)).mode != 3

/-- The lane may run an acceptance product (R169). -/
def Lane.qualifies (l : Lane) : Bool := !l.quar && (l.getBin l.bin.toNat).held && !(l.getBin l.bin.toNat).lbarred

/-- Adds the six conversions of one slot to a pass, in the order Z, L, H, D (R154). -/
def Pass.step (p : Pass) (nonce : Nat) : Pass :=
  { p with
    slots := p.slots + 1
    sums := (List.range 520).foldl (fun m col => (List.range 6).foldl (fun m k =>
      let key := 4 * col + (6 * p.slots + k) % 4
      SMap.set 0 m key (SMap.get 0 m key + convCode nonce (2 + k) col)) m) p.sums }

/-- The conversions of a slot that measures: every pass ages, the pass of the stage's bin goes on or starts, and in a
supply-warning window it is discarded (R154, R155). -/
def Lane.measure (l : Lane) (nonce : Nat) (win : Bool) : Lane :=
  let aged := SMap.mapVals Bin.init (fun _ b => { b with pass := b.pass.map fun p => { p with total := p.total + 1 } }) l.bins
  let x := SMap.get Bin.init aged l.bin.toNat
  let p : Option Pass := match x.pass with
    | some p => some p
    | none => (if x.ldue then some (Pass.mk 0 1 []) else none)
  let p' := p.bind fun p => if p.slots < 16 then (if win then none else some (p.step nonce)) else some p
  { l with bins := SMap.set Bin.init aged l.bin.toNat { x with pass := p' } }

/-- A slot whose conversions give way to an acceptance product, or are those of a quarantined lane. -/
def Lane.skip (l : Lane) (acc : Bool) : Lane :=
  { l with
    accSlot := acc
    bins := SMap.mapVals Bin.init (fun _ b => { b with pass := b.pass.map fun p => { p with total := p.total + 1 } }) l.bins }

/-- A window discards the pass that the slot measures; a pass with its sixteen slots has ended and is not in progress. -/
def Lane.losesPass (l : Lane) : Bool :=
  match (l.getBin l.bin.toNat).pass with
  | some p => p.slots < 16
  | none => (l.getBin l.bin.toNat).ldue

/-- The stage that runs keeps the lane active (R150, R152). -/
def StageClock.keeps (c : StageClock) (lane : Fin 2) : Bool := c.shared || (c.active.getD (c.no - 1) 0).getLsbD lane.val

/-- Only a lane that is active in the stage runs its sizing slots (R153).  A lane that is quarantined with a product since its last check
vector runs that vector in its next sizing slot (R166), and none later (R165): DESIGN CHOICE, log entry 26. -/
def execSizingSlot (t : PTile) (lane : Fin 2) (s : State) : Out :=
  let l := s.lane t lane
  let win := (s.site t.site).window.isSome
  .next (if (s.site t.site).up && (s.site t.site).arith && (s.tile t).clk.running && (s.tile t).clk.keeps lane && l.inSlot then
      let l1 := { l.runCv s.nonce (s.lastVat t lane) win with slotsRun := l.slotClock / 16 / 32 + 1 }
      let acc := s.owesTest t && l1.qualifies
      let y := if l1.quar || acc then l1.skip acc else l1.measure s.nonce win
      (s.onTile t true fun _ f =>
        { (f.invalidate (win && l.since)).count .discard (if win && !l1.quar && !acc && l1.losesPass then 1 else 0) with
          used := 1 }).setLane t lane y
    else s)

/-- A check vector at the end of a stage that the tile marks (R166). -/
def execClosingCheckVector (t : PTile) (lane : Fin 2) (s : State) : Out :=
  let l := s.lane t lane
  let win := (s.site t.site).window.isSome
  .next (if ((s.tile t).sc.wait = .send ∨ (s.tile t).sc.wait = .stepend) ∧ (s.tile t).quiet .lq = true ∧ l.since = true ∧
        s.tileRuns t = true then
      (s.onTile t true fun _ f => { f.invalidate win with used := 1 }).setLane t lane
        (l.runCv s.nonce (s.lastVat t lane) win)
    else s)

/-- The verdict of the lane's oldest check vector (R166, R167); a second failure, in the replay, quarantines it. -/
def execCheckVectorVerdict (t : PTile) (lane : Fin 2) (s : State) : Out :=
  let l := s.lane t lane
  let again := l.failedCv && s.inReplay t
  .next (match l.cvs with
    | [] => s
    | ok :: r =>
      if (s.site t.site).up then
        let s1 := (s.onTile t true fun c f =>
          if ok then f else (f.raise c (3 + lane.val) evtCheckVector 0 .recov true).count .chkvec 1).setLane t lane
            (if !ok && again then { l with cvs := r, failedCv := true }.quarantine.redrive (s.tile t).clk lane.val
              else { l with cvs := r, failedCv := l.failedCv || !ok })
        { s1 with bbx := if !ok && again then s1.bbx.append (quarRecord s t lane) else s1.bbx }
      else s)

/-! ### The end of a pass (R154–R160) -/

def execSizingPassResult (t : PTile) (lane : Fin 2) (bin : Fin 4) (s : State) : Out :=
  .next (match ((s.lane t lane).getBin bin.val).pass with
    | some p =>
      if p.slots = 16 ∧ (s.site t.site).up = true then s.judgePass t lane bin p.sums 0 else s
    | none => s)

def execSizingPassDiscard (t : PTile) (lane : Fin 2) (bin : Fin 4) (s : State) : Out :=
  let l := s.lane t lane
  .next (match (l.getBin bin.val).pass with
    | some p =>
      if 16384 ≤ p.total ∧ p.slots < 16 then
        { s with
          lanes := SMap.set Lane.init s.lanes (laneKey t lane) (l.setBin bin.val { l.getBin bin.val with pass := none })
          ctrs := ctrAdd s.ctrs t.site .discard 1 }
      else s
    | none => s)

/-! ### The vat domain stops (R155, R506, R533) -/

/-- The passes in progress on a lane, and the lane without them. -/
def Lane.passes (l : Lane) : Nat := (l.bins.filter fun e => e.2.pass.isSome).length

def Lane.stopPasses (l : Lane) : Lane :=
  { l with bins := SMap.mapVals Bin.init (fun _ b => { b with pass := none }) l.bins }

/-- The lanes of a site. -/
def onLanes (i : Nat) (k : Nat) : Bool := k / 512 == i

/-- The vat domain of the site stops: every pass in progress is discarded and counts. -/
def State.stopVats (s : State) (i : Fin 64) : State :=
  { s with
    lanes := SMap.mapVals Lane.init (fun k l => if onLanes i.val k then l.stopPasses else l) s.lanes
    ctrs := ctrAdd s.ctrs i .discard ((s.lanes.filter fun e => onLanes i.val e.1).map fun e => e.2.passes).sum }

/-- Changes one bin of a lane. -/
def State.setBin (s : State) (t : PTile) (lane : Fin 2) (b : Fin 4) (x : Bin) : State :=
  s.setLane t lane ((s.lane t lane).setBin b.val x)

/-- The supervisor stamps an acceptance with its counter (R160). -/
def execAcceptanceReport (t : PTile) (lane : Fin 2) (bin : Fin 4) (s : State) : Out :=
  let b := (s.lane t lane).getBin bin.val
  .next (if b.unstamped && s.net.ready (fun f => f.src == t.key && f.msg == .accepted lane bin) then
      { s with
        lanes := SMap.set Lane.init s.lanes (laneKey t lane)
          ((s.lane t lane).setBin bin.val { b with unstamped := false, ts := s.sup.counter })
        net := s.net.drop fun f => f.src == t.key && f.msg == .accepted lane bin }
    else s)

/-! ### Age (R161–R163) -/

/-- A due or bar message on its way to the lane, on VC2 with the supervisor's writes: R162 and R236 name no channel for it (DESIGN CHOICE,
log entry 25). -/
def sizingFlit (s : State) (t : PTile) (lane : Fin 2) (b : Fin 4) (bar : Bool) (n : Word) : Flit :=
  mkFlit 2 s.net.supAt t.port0 none 0 (.sizing lane b bar n)

/-- The bin's age, in ticks of 10 ns. -/
def State.binAge (s : State) (b : Bin) : Nat := s.sup.counter.toNat - b.ts.toNat

def execBinDue (t : PTile) (lane : Fin 2) (bin : Fin 4) (s : State) : Out :=
  let b := (s.lane t lane).getBin bin.val
  .next (if b.held && !b.unstamped && !b.due && 10000000 ≤ s.binAge b then
      { s with
        lanes := SMap.set Lane.init s.lanes (laneKey t lane) ((s.lane t lane).setBin bin.val { b with due := true })
        net := s.net.send [sizingFlit s t lane bin false b.count] }
    else s)

def execBinBarred (t : PTile) (lane : Fin 2) (bin : Fin 4) (s : State) : Out :=
  let b := (s.lane t lane).getBin bin.val
  .next (if b.held && !b.unstamped && !b.barred && 49900000 ≤ s.binAge b then
      { s with
        lanes := SMap.set Lane.init s.lanes (laneKey t lane)
          ((s.lane t lane).setBin bin.val { b with due := true, barred := true, barwhy := 1 })
        net := s.net.send [sizingFlit s t lane bin true b.count] }
    else s)

/-- A due or bar message arrives, in its order among the supervisor's writes on VC2; one whose count is not the bin's is ignored (R163,
R237). -/
def execDueBarMessage (t : PTile) (lane : Fin 2) (bin : Fin 4) (bar : Bool) (count : Word) (s : State) : Out :=
  let b := (s.lane t lane).getBin bin.val
  .next (if s.net.inOrder (·.isWrite t.port0) t.port0 (.sizing lane bin bar count) then { s with
    lanes := SMap.set Lane.init s.lanes (laneKey t lane)
      (if b.count = count then
          ((s.lane t lane).setBin bin.val { b with ldue := true, lbarred := b.lbarred || bar }).redrive (s.tile t).clk lane.val
        else s.lane t lane)
    net := s.net.drop fun f => f.arrived t.port0 && f.msg == .sizing lane bin bar count }
    else s)

/-! ### Warm-up (R171–R174) -/

/-- The sums of a pass whose 24 conversions of each pattern are all fresh readings. -/
def warmSums (nonce : Nat) : SMap Nat :=
  (List.range 2080).foldl (fun m key => SMap.set 0 m key
    (((List.range 24).map fun k => convCode nonce (4 * k + key % 4) (key / 4)).sum)) []

end Sys2Proof.Machine
end

