-- ==== Sys2Proof/Machine/Dma.lean ====
section
/-! DEFINITION. The DMA engine's copies (R193–R195, R212, R310), the loft controllers (R199–R207), configuration
writes at a tile (R238), page tables, their edits and invalidations (R208–R212, R366–R370). -/

namespace Sys2Proof

/-- The grants that form a partition's page pool. -/
def Furnish.poolGrants (fu : Furnish) (f : FurnPart) : List Grant :=
  let gs := fu.grants.filter (·.part = f.part)
  f.pool.filterMap fun k => gs[k]?

/-- A frame, site × 2^18 + offset ÷ 64 KiB, lies in the partition's page pool. -/
def Furnish.inPool (fu : Furnish) (f : FurnPart) (n : Nat) : Bool :=
  (fu.poolGrants f).any fun g => g.site.val == n / 2 ^ 18 && g.base ≤ n % 2 ^ 18 * 65536 && n % 2 ^ 18 * 65536 < g.base + g.size

end Sys2Proof

namespace Sys2Proof.Machine

/-! ### The loft -/

/-- Key of a loft byte and of a loft line. -/
def loftKey (site off : Nat) : Nat := site * 2 ^ 34 + off
def loftLine (site off : Nat) : Nat := (site * 2 ^ 34 + off) / 64

/-- The repair row that holds an offset: row, bank and channel (R199, R205). -/
def loftRow (site off : Nat) : Nat := site * 2 ^ 23 + off / 2 ^ 20 * 512 + off / 64 % 512

/-- The lines that `n` bytes at `off` touch, by line key. -/
def linesOf (site off n : Nat) : List Nat :=
  if n = 0 then [] else (List.range ((off + n - 1) / 64 + 1 - off / 64)).map (loftLine site off + ·)

def State.loftRead (s : State) (site off n : Nat) : List Byte := SMap.getList 0 s.loft (loftKey site off) n

/-- The frame that holds an offset. -/
def frameOf (site off : Nat) : Nat := site * 2 ^ 18 + off / 0x10000

/-- Rows to enter in the repair log as pending (R205). -/
def Flash.pend (f : Flash) (rows : List Nat) : Flash :=
  { f with loftPending := (f.loftPending ++ rows.map fun r => (r / 2 ^ 23, r % 2 ^ 23)).dedup }

/-- A node of the prefix tree holds the frame. -/
def Part.treeHolds (x : Part) (frame : Nat) : Bool := x.nodes.any fun n => n.pages.any (·.2 == frame)

/-- A slot holds the frame as its own, or the tree does. -/
def Part.held (x : Part) (frame : Nat) : Bool := x.maps.any (fun m => m.own && m.frame == frame) || x.treeHolds frame

/-- The frames kept under R460 that no slot and no node holds. -/
def Part.loose (x : Part) : List Nat := x.kept.filter fun k => !x.held k

/-- The frames of a partition's pool that are kept after an uncorrectable error in them (R460).  One that a slot or the tree holds is
counted there until they give it up. -/
def Part.keep (x : Part) (pool : Nat → Bool) (fs : List Nat) : Part :=
  let new := fs.dedup.filter fun f => pool f && !x.kept.contains f
  let n := (new.filter fun f => !x.held f).length
  { x with kept := x.kept ++ new, used := x.used + n, free := x.free - n }

/-- The frames of a partition's page pool. -/
def State.inPool (s : State) (p : Fin 32) (frame : Nat) : Bool :=
  match s.furnish, s.furnPart p with | some fu, some f => fu.inPool f frame | _, _ => false

/-! ### The copy in the engine -/

def Tile.phase (x : Tile) (p : DmaPh) : Tile := { x with dma := { x.dma with ph := p } }

/-- The part's accesses are done. -/
def Tile.served (x : Tile) : Tile := { x with dma := { x.dma with ph := .served, since := none } }

/-- The DCOPY in the engine. -/
def Tile.copying (x : Tile) : Option QCmd := (x.running .dq).filter fun q => q.op == .dcopy

/-- What the banks of `n` bytes at `off` answer: refused, wait for wake or change, or served. -/
def TileMem.answers (m : TileMem) (off n : Nat) : BankAns :=
  if m.bankDead (banksOf off n) then .off
  else match m.bankWaits (banksOf off n) with | w :: _ => .wait w | [] => .go

/-- The banks whose ports the tile's units other than the DMA take in cycle `n` (R192, R193). -/
def Tile.takenByUnits (x : Tile) (n : Nat) : List Nat :=
  x.taken3 n ++ x.usedAt 4 n ++
    (x.lq.filter fun e => e.st = .issued && e.lane = 1).flatMap fun e => banksAt n (e.accesses x x.taken3)

/-- No other unit of the tile addresses in this cycle the banks of `n` bytes at `off`: the DMA may take their ports (R193). -/
def Tile.portFree (x : Tile) (off n : Nat) : Bool :=
  (banksOf off n).all fun b => !(x.takenByUnits x.sc.cyc.toNat).contains b

/-- The banks answer, and their ports are free. -/
def Tile.dmaGo (x : Tile) (off n : Nat) : Bool := x.mem.answers off n == .go && x.portFree off n

/-- A refused part ends the copy: it completes, and its fault stands in the report. -/
def Fx.dmaRefuse (f : Fx) (c : Ctx) (q : QCmd) : Fx :=
  (f.bankOff c 5 (q.detail .dq)).set (f.bankOff c 5 (q.detail .dq)).tile.served

/-- The own banks serve the access, or it is refused, or it waits with a slip (R190, R191); while another unit takes a port it waits without
one (R193). -/
def Fx.ownBank (f : Fx) (c : Ctx) (q : QCmd) (n : Nat) (go : Fx → Fx) : Fx :=
  match f.tile.mem.answers (partOwn f.tile q) n with
  | .off => f.dmaRefuse c q
  | .wait w =>
    (f.set { f.tile.atOwnBank c.t with mem := f.tile.mem.wakeAll (banksOf (partOwn f.tile q) n) }).slipCmd c .dq q [w]
  | .go => if f.tile.portFree (partOwn f.tile q) n then go f else f.set (f.tile.atOwnBank c.t)

/-! ### Remote scratchpads (R193–R195) -/

/-- The access of the current part is served at a remote scratchpad: the data moves, with the errors it meets. -/
def Fx.remoteMove (f : Fx) (c : Ctx) (q : QCmd) (dst : Tile) : Fx :=
  let x := f.tile
  let n := partLen x q
  let far := adTileOff (q.farAddr x) + x.dma.pos
  if q.outward x then
    let g := f.readEcc c 5 (partOwn x q) n
    let h := if (dst.mem.mergeErrs far n .double).isEmpty then g
      else g.raise c 5 evtSramUe (BitVec.ofNat 64 (q.farAddr x)) .hardware false
    h.set h.tile.served
  else
    let g := if (dst.mem.uncorrectable far n).isEmpty then f
      else f.raise c 5 evtSramUe (BitVec.ofNat 64 (q.farAddr x)) .hardware false
    let h := g.writeScr c 5 (partOwn x q) (dst.mem.read far n)
    h.set h.tile.served

/-- The remote tile after the access. -/
def Tile.remoteServed (d : Tile) (x : Tile) (q : QCmd) : Tile :=
  let n := partLen x q
  let far := adTileOff (q.farAddr x) + x.dma.pos
  let m := (d.mem.correctedAll (d.mem.mergeErrs far n .single)).suspectAll (d.mem.mergeErrs far n .double)
  if q.outward x then { d with mem := m.write far (x.mem.read (partOwn x q) n) }
  else { d with mem := (d.mem.correctedAll (d.mem.correctable far n)).suspectAll (d.mem.uncorrectable far n) }

/-- Corrected errors of the remote scratchpad, counted on its site. -/
def remoteCe (d : Tile) (x : Tile) (q : QCmd) : Nat :=
  let far := adTileOff (q.farAddr x) + x.dma.pos
  (if q.outward x then d.mem.mergeErrs far (partLen x q) .single else d.mem.correctable far (partLen x q)).length

/-- The part's request or data has been taken at its far end, which sends the responses of a read. -/
def State.answered (s : State) (t : PTile) (x : Tile) (q : QCmd) : State :=
  { s with net := (s.net.dataTaken t.key).send (partAnswer s.map t x q) }

/-- An access of a copy at another tile's scratchpad.  One that meets a bank in OFF is logged and marked at the tile whose DMA sends it:
DESIGN CHOICE, log entry 17. -/
def execRemoteScrAccess (t dst : PTile) (s : State) : Out :=
  let x := s.tile t
  let d := s.tile dst
  .next (match x.copying with
    | none => s
    | some q =>
      let a := q.farAddr x
      let far := adTileOff a + x.dma.pos
      let n := partLen x q
      if x.dma.ph = .access ∧ adSpace a = 0 ∧ physOf s.map (adC a) (adR a) = dst ∧ t ≠ dst ∧
          (s.site t.site).up = true ∧ (s.site dst.site).up = true ∧ s.net.dataDue t.key = false then
        match x.mem.answers (partOwn x q) n, d.mem.answers far n with
        | .go, .go =>
          if !x.portFree (partOwn x q) n then s.onTile t true fun c f => f.ownBank c q n id
          else if !d.portFree far n then s.setTile t { x with dma := x.dma.atBank dst.key d.sc.cyc.toNat }
          else
            let s1 := (s.answered t x q).onTile t true fun c f => f.remoteMove c q d
            { s1 with
              tiles := SMap.set Tile.init s1.tiles dst.key (d.remoteServed x q)
              ctrs := ctrAdd s1.ctrs dst.site .scrCe (remoteCe d x q) }
        | .go, .off => s.onTile t true fun c f => f.dmaRefuse c q
        | .go, .wait w =>
          (s.onTile t true fun c f => f.slipCmd c .dq q [w]).setTile dst
            { d with mem := d.mem.wakeAll (banksOf far n) }
        | _, _ => s.onTile t true fun c f => f.ownBank c q n id
      else s)

/-- The accesses that the DMA's present part makes of a bank: one for each 64 B row of a copy, of a DPRESS or of a DMCAST. -/
def Tile.dmaRows (x : Tile) : Nat :=
  match x.running .dq with
  | none => 0
  | some q => if q.op = .dcopy then (partLen x q + 63) / 64 else q.c.toNat

/-- Where and from which cycle an access of the DMA of `x` waits at a bank, while one has not been counted. -/
def Tile.dmaSince (x : Tile) : Option (Nat × Nat) := if x.dma.waited < x.dmaRows then x.dma.since else none

/-- The wait of the access or delivery that stands at a bank of tile `bank` for tile `t`, in arith cycles of the bank's
tile: a DMA access of `t`; or, where `t` is `bank`, the oldest delivery of a tree that waits there (R193). -/
def State.dmaWaited (s : State) (t bank : PTile) : Nat :=
  match (s.tile t).dmaSince with
  | some (k, n) => if k = bank.key then (s.tile bank).sc.cyc.toNat - n else 0
  | none =>
    match s.net.flits.find? fun f => t == bank && f.bankWait.isSome && f.arrived bank.port0 with
    | some f => (s.tile bank).sc.cyc.toNat - f.bankWait.getD 0
    | none => 0

/-- The first delivery that waits at a tile's bank is counted: its wait starts anew past any limit. -/
def countWait (bank : PTile) : List Flit → List Flit
  | [] => []
  | f :: r => if f.bankWait.isSome && f.arrived bank.port0 then { f with bankWait := none } :: r else f :: countWait bank r

/-- An access of the present part has been counted.  The rows of a part arrive together and wait from then on, each for itself. -/
def Dma.counted (d : Dma) : Dma := { d with waited := d.waited + 1 }

/-- A DMA access or a delivery has waited past its partition's limit at a bank of tile `bank` (R193): a slip, once for each
access, and SITE_SCR_DMAWAIT of the bank's site.  The slip of an access to another tile's bank is the issuing tile's, whose DMA access
it is: DESIGN CHOICE, log entry 35. -/
def execDmaWaitLimit (t bank : PTile) (s : State) : Out :=
  .next (if (s.site t.site).up = true ∧ (⟨t, s⟩ : Ctx).dmaWait < s.dmaWaited t bank then
      let s1 := s.onTile t true fun c f =>
        let g := f.slip c 9 5 (match f.tile.running .dq with | some q => q.pc | none => f.tile.sc.pc)
        if (s.tile t).dmaSince.isSome then
          g.set { g.tile with dma := g.tile.dma.counted }
        else g
      { s1 with
        ctrs := ctrAdd s1.ctrs bank.site .dmawait 1
        net := if (s.tile t).dmaSince.isSome then s1.net else { s1.net with flits := countWait bank s1.net.flits } }
    else s)

/-! ### Loft accesses (R200, R201, R207) -/

/-- Lines of a list with a given error mark. -/
def State.loftMarks (s : State) (ls : List Nat) (e : Ecc) : List Nat := ls.filter fun k => SMap.get Ecc.ok s.loftEcc k == e

/-- A record of the loft controller (unit 8): the wafer address of a line in error. -/
def loftRecord (s : State) (site : Fin 64) (p : Option (Fin 32)) (line : Nat) : BbxRec :=
  (s.site site).record s.sup site 8 p evtLoftUe (BitVec.ofNat 64 (2 * 2 ^ 60 + site.val * 2 ^ 54 + line * 64 % 2 ^ 34))

/-- A read of the lines `ls` of a site by a step of partition `p` counts its errors, logs each uncorrectable line, and enters
its row in the repair log; the partition keeps its frame (R201, R205, R460). -/
def State.loftErrs (s : State) (site : Fin 64) (p : Option (Fin 32)) (ls : List Nat) : State :=
  let ue := s.loftMarks ls .double
  { s with
    ctrs := ctrAdd (ctrAdd s.ctrs site .loftCe (s.loftMarks ls .single).length) site .loftUe ue.length
    bbx := s.bbx.siteLogAll site (ue.map (loftRecord s site p))
    flash := s.flash.pend (ue.map fun l => loftRow site.val (l * 64 % 2 ^ 34))
    parts := match p with
      | none => s.parts
      | some p => if ue.isEmpty then s.parts else SMap.set Part.init s.parts p.val
          ((s.part p).keep (s.inPool p) (ue.map fun l => frameOf site.val (l * 64 % 2 ^ 34))) }

/-- A tile's step meets the uncorrectable lines of a loft read (R460). -/
def Fx.loftUe (f : Fx) (c : Ctx) (site off : Nat) (bad : Bool) : Fx :=
  if bad then f.raise c 5 evtLoftUe (BitVec.ofNat 64 (2 * 2 ^ 60 + site * 2 ^ 54 + off)) .hardware false else f

/-- Lines of which `n` bytes at `off` cover a part: a write reads, merges and writes them (R200). -/
def partLines (site off n : Nat) : List Nat :=
  if n = 0 then []
  else ((if off % 64 = 0 then [] else [loftLine site off]) ++
    (if (off + n) % 64 = 0 then [] else [loftLine site (off + n - 1)])).dedup

/-- The channels of a queued access: of the present part of the tile that waits for it. -/
def State.queuedOn (s : State) (e : Nat × Nat) : List Nat :=
  let x := SMap.get Tile.init s.tiles e.2
  match x.copying with
  | none => []
  | some q => match partLoft x q with | some (_, off) => channelsOf off (partLen x q) | none => []

/-- Accesses of a site queued ahead of tile key `k` on one of the channels `chs` (R207). -/
def State.loftAhead (s : State) (site k : Nat) (chs : List Nat) : Bool :=
  (s.loftQ.takeWhile fun e => !(e.1 == site && e.2 == k)).any fun e => e.1 == site && (s.queuedOn e).any chs.contains

/-- An access of the part reaches the controller.  A read is queued; a write too, while an access is queued ahead of it on its
channels, and the row's next command for it serves it.  A write served: lines covered in part are read and merged, and every line
written has a correct code word (R200, R207). -/
def execLoftAccess (site : Fin 64) (t : PTile) (s : State) : Out :=
  let x := s.tile t
  .next (match x.copying with
    | none => s
    | some q =>
      match partLoft x q with
      | none => s
      | some (k, off) =>
        if (x.dma.ph = .access ∨ (x.dma.ph = .loftQueued ∧ q.outward x = true)) ∧ k = site.val ∧ (s.site site).up = true ∧ (s.site site).selfref = false ∧
            s.net.dataDue t.key = false then
          let n := partLen x q
          if q.outward x = true ∧ s.loftAhead site.val t.key (channelsOf off n) = true then
            (if x.dma.ph = .loftQueued then s
            else { s.setTile t (x.phase .loftQueued) with loftQ := s.loftQ ++ [(site.val, t.key)] })
          else if q.outward x then
            match x.dmaGo (partOwn x q) n with
            | true =>
              let s1 := (s.answered t x q).onTile t true fun c f =>
                let g := (f.readEcc c 5 (partOwn x q) n).loftUe c site.val off
                  !(s.loftMarks (partLines site.val off n) .double).isEmpty
                g.set g.tile.served
              let s2 := s1.loftErrs site x.pl.part (partLines site.val off n)
              { s2 with
                loft := SMap.setList 0 s2.loft (loftKey site.val off) (x.mem.read (partOwn x q) n)
                loftQ := s2.loftQ.erase (site.val, t.key)
                loftEcc := SMap.modifyAll Ecc.ok (fun _ _ => .ok) (linesOf site.val off n) s2.loftEcc }
            | false => s.onTile t true fun c f => f.ownBank c q n id
          else
            let s1 := s.onTile t true fun _ f => f.set (f.tile.phase .loftQueued)
            { s1 with loftQ := s1.loftQ ++ [(site.val, t.key)], net := s1.net.dataTaken t.key }
        else s)

/-- A read at the head of each of its channels' queues completes: data with ECC (R201, R207, R460); in a supply-warning window of the site
the result is invalid (R521). -/
def execLoftReadDone (site : Fin 64) (t : PTile) (s : State) : Out :=
  let x := s.tile t
  .next (match x.copying with
    | none => s
    | some q =>
      match partLoft x q with
      | none => s
      | some (k, off) =>
        if x.dma.ph = .loftQueued ∧ q.outward x = false ∧ k = site.val ∧ (s.site site).up = true ∧ (s.site t.site).up = true ∧
            s.loftQ.contains (site.val, t.key) = true ∧
            s.loftAhead site.val t.key (channelsOf off (partLen x q)) = false then
          let n := partLen x q
          let ls := linesOf site.val off n
          match x.dmaGo (partOwn x q) n with
          | true =>
            let s1 := (s.answered t x q).onTile t true fun c f =>
              let g := ((f.invalidate (s.site site).window.isSome).loftUe c site.val off !(s.loftMarks ls .double).isEmpty).writeScr c 5
                (partOwn x q) (s.loftRead site.val off n)
              g.set g.tile.served
            { s1.loftErrs site x.pl.part ls with loftQ := s1.loftQ.erase (site.val, t.key) }
          | false => s.onTile t true fun c f => f.ownBank c q n id
        else s)

/-! ### Refresh and patrol scrub (R202, R204, R205) -/

/-- Offset of line `n` of a channel in the scrub's order. -/
def scrubOff (n : Nat) (ch : Fin 16) : Nat := n % 2 ^ 24 * 1024 + ch.val * 64

/-- A row with a corrected error on patrol: one more pass, unless this pass has counted already. -/
def hitRow (m : SMap Nat) (row pass : Nat) : SMap Nat :=
  let v := SMap.get 0 m row
  if v / 4 = pass + 1 then m else SMap.set 0 m row ((pass + 1) * 4 + min 3 (v % 4 + 1))

/-- A site's passes begin again: the rows keep how many passes have hit them. -/
def passesAgain (m : SMap Nat) (site : Fin 64) : SMap Nat :=
  SMap.mapVals 0 (fun k v => if k / 2 ^ 23 = site.val then v % 4 else v) m

/-- The two patrol reads of one refresh slot. -/
def execLoftRefreshSlot (site : Fin 64) (ch : Fin 16) (s : State) : Out :=
  let st := s.site site
  let n := SMap.get 0 st.scrubAt ch.val
  let at' := SMap.set 0 st.scrubAt ch.val (n + 2)
  let ls := [n, n + 1].map fun k => loftLine site.val (scrubOff k ch)
  let ce := s.loftMarks ls .single
  let ue := s.loftMarks ls .double
  let rowOf (l : Nat) : Nat := loftRow site.val (l * 64 % 2 ^ 34)
  let hits := ce.foldl (fun m l => hitRow m (rowOf l) (n / 2 ^ 24)) s.loftHits
  .next (if st.up && !st.selfref then
      { s with
        sites := SMap.set Site.init s.sites site.val { st with
          scrubAt := at'
          scrub := satAdd (0 : Word) (((List.range 16).map fun k => SMap.get 0 at' k / 2 ^ 24).foldl min (n + 2)) }
        loftEcc := SMap.modifyAll Ecc.ok (fun _ _ => .ok) ce s.loftEcc
        loftHits := hits
        ctrs := ctrAdd (ctrAdd s.ctrs site .loftCe ce.length) site .loftUe ue.length
        bbx := s.bbx.siteLogAll site (ue.map (loftRecord s site none))
        flash := s.flash.pend ((ce.map rowOf).filter (fun r => SMap.get 0 hits r % 4 = 3) ++ ue.map rowOf) }
    else s)

/-! ### The end of a copy or part (R310) -/

/-- VAT space bytes; an EMPTY vat reads as zero (R113). -/
def State.vatBytes (s : State) (key off n : Nat) : List Byte :=
  (List.range n).map fun i =>
    if (s.vat (key * 96 + (off + i) / 0x8000)).mode = 0 then 0
    else SMap.get 0 s.vatMem ((key * 96 + (off + i) / 0x8000) * 0x8000 + (off + i) % 0x8000)

/-- The next part starts, or the copy completes. -/
def Fx.partDone (f : Fx) (c : Ctx) (q : QCmd) : Fx :=
  let x := f.tile
  let pos := x.dma.pos + partLen x q
  if q.len ≤ pos then (f.set { x with dma := { x.dma with ph := .idle, pos := 0 } }).finish c .dq q.seq
  else (f.set { x with dma := { x.dma with pos := pos } }).dmaPart c q

/-- The last byte of the current part is written or acknowledged, its responses have arrived; a read of VAT space takes its
bytes, once it has the vat, and one of another tile's vats sends them. -/
def execDcopyComplete (t : PTile) (s : State) : Out :=
  let x := s.tile t
  .next (match x.copying with
    | none => s
    | some q =>
      let a := q.farAddr x
      if x.dma.ph = .served ∧ (s.site t.site).up = true ∧ s.net.dataDue t.key = false then
        ({ s with net := s.net.dataTaken t.key } : State).onTile t true fun c f => f.partDone c q
      else if x.dma.ph = .vatWait ∧ (s.site t.site).up = true then s.onTile t true fun c f => f.dmaPart c q
      else if x.dma.ph = .access ∧ adSpace a = 1 ∧ (s.site t.site).up = true ∧ s.net.dataDue t.key = false then
        let far := physOf s.map (adC a) (adR a)
        let bs := s.vatBytes far.key (adTileOff a + x.dma.pos) (partLen x q)
        (if far = t ∨ x.dmaGo (partOwn x q) (partLen x q) = false then s else s.answered t x q).onTile t true
          fun c f => f.ownBank c q (partLen x q) fun g =>
            let h := g.writeScr c 5 (partOwn x q) bs
            if far = t then h.partDone c q else h.set h.tile.served
      else s)

/-! ### Page tables (R208–R211) -/

/-- A page-table entry (R209). -/
structure Pte where
  v : Bool
  w : Bool
  rsv : Bool
  ver : BitVec 16
  site : Nat
  addr : Nat
deriving DecidableEq, Repr

def decPte (n : Nat) : Pte :=
  { v := n.testBit 63, w := n.testBit 62, rsv := n / 2 ^ 56 % 64 != 0 || n % 4096 != 0, ver := BitVec.ofNat 16 (n / 2 ^ 40)
    site := n / 2 ^ 34 % 64, addr := n / 4096 % 2 ^ 22 * 4096 }

def State.pte (s : State) (site off : Nat) : Pte := decPte (leVal (s.loftRead site off 8))

/-- The index of a page in the table that an entry of a level stands in (R208). -/
def levelIndex (h : BitVec 16) (v : Nat) : Nat → Nat
  | 0 => h.toNat
  | 1 => v / 2 ^ 18 % 1024
  | 2 => v / 2 ^ 9 % 512
  | _ => v % 512

/-- The places of the entries of a page from the root table's down to the level's (R208), the deepest first; none where a
table on the way is not valid or has reserved bits set. -/
def State.entriesTo (s : State) (rs ro : Nat) (h : BitVec 16) (v : Nat) : Nat → Option (List (Nat × Nat))
  | 0 => some [(rs, ro + 8 * h.toNat)]
  | n + 1 =>
    match s.entriesTo rs ro h v n with
    | some (e :: r) =>
      let x := s.pte e.1 e.2
      if x.v && !x.rsv then some ((x.site, x.addr + 8 * levelIndex h v (n + 1)) :: e :: r) else none
    | _ => none

/-- The place of the level-3 entry of a page. -/
def State.leafAt (s : State) (rs ro : Nat) (h : BitVec 16) (v : Nat) : Option (Nat × Nat) :=
  (s.entriesTo rs ro h v 3).bind List.head?

/-- The entries that a walk reads, as far as it goes. -/
def State.walkReads (s : State) (rs ro : Nat) (h : BitVec 16) (v : Nat) : List (Nat × Nat) :=
  (([3, 2, 1].findSome? fun n => s.entriesTo rs ro h v n)).getD [(rs, ro + 8 * h.toNat)]

/-- The root table of partition `p` as the registers of a site give it (R216). -/
def State.rootOf (s : State) (site : Fin 64) (p : Fin 32) : Nat × Nat :=
  let lo := (SMap.get 0 s.roots (rootKey site p)).toNat
  let hi := (SMap.get 0 s.roots (rootKey site p + 1)).toNat
  (fld hi 7 2, fld hi 1 0 * 2 ^ 32 + lo / 4096 * 4096)

/-- The walk of R208–R210: the translation, or a fault. -/
def State.walk (s : State) (site : Fin 64) (p : Fin 32) (h : BitVec 16) (v : Nat) : Option TlbEntry :=
  match s.leafAt (s.rootOf site p).1 (s.rootOf site p).2 h v with
  | none => none
  | some (ls, lo) =>
    let e := s.pte ls lo
    if e.v && !e.rsv && e.addr % 0x10000 == 0 then some ⟨h, v, e.site, e.addr, e.w, e.ver⟩ else none

/-- The error counts, records and repairs of the lines of a list of entries, site by site (R201), read for a step of `p` or by
the supervisor. -/
def State.entryErrs (s : State) (p : Option (Fin 32)) : List (Nat × Nat) → State
  | [] => s
  | e :: r => (s.loftErrs (Fin.ofNat 64 e.1) p [loftLine e.1 e.2]).entryErrs p r

/-- The entries that an edit of a level reads under the root table of the partition, as far as they are valid. -/
def State.editReads (s : State) (e : PageEdit) : List (Nat × Nat) :=
  match s.furnPart e.part with
  | none => []
  | some f =>
    let r := s.rootOf (Fin.ofNat 64 ((f.sites.head?).getD 0)) e.part
    (((List.range (e.level.val + 1)).reverse.findSome? fun n => s.entriesTo r.1 r.2 e.handle e.vpage n)).getD []

/-- A walk ends: the translation is entered and used, or EVT_SEQ_FAULT (R210, R212).  Its reads of the tables have the code of
every loft read: an uncorrectable one ends the copy as in a read of data (R201, R460). -/
def execTlbMissWalkDone (t : PTile) (s : State) : Out :=
  let x := s.tile t
  .next (match x.copying, x.dma.ph, x.pl.part with
    | some q, .walk h v, some p =>
      let es := s.walkReads (s.rootOf t.site p).1 (s.rootOf t.site p).2 h v
      let bad := !(s.loftMarks (es.map fun e => loftLine e.1 e.2) .double).isEmpty
      if (s.site t.site).up then
        (s.entryErrs (some p) es).onTile t true fun c f =>
          let g := f.set { x with dma := { x.dma with ph := .idle, pos := 0 } }
          if bad then (g.raise c 5 evtLoftUe (BitVec.ofNat 64 (q.farAddr x)) .hardware false).finish c .dq q.seq
          else match s.walk t.site p h v with
            | some e => f.translate c q e (q.outward x)
            | none => (g.raise c 5 evtSeqFault (BitVec.ofNat 64 (q.farAddr x)) .hardware false).finish c .dq q.seq
      else s
    | _, _, _ => s)

/-! ### Configuration writes at a tile or router (R238, R284, R326, R330, R461) -/

def Tile.config (x : Tile) : CfgWrite → Tile
  | .istore w ws => { x with mem := { x.mem with
      istore := SMap.setList 0 x.mem.istore w.toNat (ws.take (16384 - w.toNat))
      istoreEcc := SMap.clear x.mem.istoreEcc w.toNat (w.toNat + ws.length) } }
  | .entry pc => { x with sc := { x.sc with entry := pc &&& 0xFFFC } }
  | .budgets st => { x with clk := { x.clk with budgets := st } }
  | .tree _ _ => x
  | .scratch off bs => { x with mem := x.mem.write off bs }
  | .place c r p => { x with pl := { x.pl with c := c, r := r, part := p } }
  | .watchdog n => { x with clk := { x.clk with wdLimit := n } }
  | .seqRoot _ _ _ => x

/-- Supervisor writes on their way (R238). -/
def cfgFlits (n : Net) (p : Fin 32) (ws : List (Nat × CfgWrite)) : List Flit :=
  ws.map fun e => mkFlit 2 n.supAt (PTile.ofKey e.1).port0 (some p) 0 (.cfg e.2)

/-- Writes of the supervisor leave for tiles of a partition; each is outstanding until its tile has acknowledged it (R387). -/
def State.sendWrites (s : State) (p : Fin 32) (ws : List (Nat × CfgWrite)) : State :=
  { s with
    net := s.net.send (cfgFlits s.net p ws)
    parts := SMap.set Part.init s.parts p.val { s.part p with outWrites := (s.part p).outWrites ++ ws } }

/-- A write of the supervisor for the partition is still in the network on VC2. -/
def Net.writing (n : Net) (p : Fin 32) : Bool :=
  n.flits.any fun f => f.part == some p && match f.msg with | .cfg _ | .tlbInval _ _ | .edit _ => true | _ => false

def ackFlit (n : Net) (t : PTile) (p : Option (Fin 32)) (m : Msg) : Flit := mkFlit 2 t.port0 n.supAt p t.key m

/-- Writes a tree entry: the current use bit of a new entry is 0. -/
def treesWith (m : SMap TreeEntry) (key : Nat) (w : CfgWrite) : SMap TreeEntry :=
  match w with | .tree id e => SMap.set TreeEntry.init m (key * 256 + id.toNat) e | _ => m

def rootsWith (m : SMap Word) (site : Fin 64) (w : CfgWrite) : SMap Word :=
  match w with
  | .seqRoot p lo hi => SMap.set 0 (SMap.set 0 m (rootKey site p) (lo &&& 0xFFFFF001)) (rootKey site p + 1) (hi &&& 0xFF)
  | _ => m

/-- The partition, if there is one, runs no stage. -/
def State.resting (s : State) : Option (Fin 32) → Bool
  | none => true
  | some p => (s.part p).couch.gap

/-- The partition that owns a tree entry. -/
def treeOwner (e : TreeEntry) : Option (Fin 32) := if e.v then some (Fin.ofNat 32 e.part.toNat) else none

/-- The writes that R239, R284 and R331 allow only while a partition runs no stage: for a tree entry the one that the entry names
and the one whose entry it replaces, else the tile's. -/
def State.inGap (s : State) (t : PTile) : CfgWrite → Bool
  | .tree id e => s.resting (treeOwner e) && s.resting (treeOwner (SMap.get TreeEntry.init s.net.trees (t.key * 256 + id.toNat)))
  | .istore _ _ | .entry _ | .scratch _ _ => s.resting (s.tile t).pl.part
  | _ => true

/-- The ranks that reach a press entry of router `t` from the routers beside it, under the tables as they stand (R242). -/
def inputRanks (m : SMap TreeEntry) (t : PTile) (id : BitVec 8) (e : TreeEntry) : List (BitVec 4) :=
  (List.range 10).filterMap fun p =>
    if p = 0 || !e.pmask.getLsbD p then none
    else match joined t (Fin.ofNat 10 p) with
      | .router c r =>
        let d := SMap.get TreeEntry.init m ((tileAt c r).key * 256 + id.toNat)
        if d.v && !d.kind && d.part == e.part && d.port.toNat == opposite p then some d.rank else none
      | _ => none

/-- No two inputs of the entry have one rank. -/
def ranksDiffer (m : SMap TreeEntry) (t : PTile) (id : BitVec 8) : Bool :=
  let e := SMap.get TreeEntry.init m (t.key * 256 + id.toNat)
  !e.v || e.kind || (inputRanks m t id e).dedup.length == (inputRanks m t id e).length

/-- The supervisor does not refuse the write: an entry with reserved bits set, or one that gives two inputs of its own router's
entry, or of the entry that its output leads to, one rank, is not written (R242). -/
def State.mayWrite (s : State) (t : PTile) : CfgWrite → Bool
  | .tree id e =>
    let m := treesWith s.net.trees t.key (.tree id e)
    let up := match joined t (Fin.ofNat 10 e.port.toNat) with | .router c r => [tileAt c r] | _ => []
    e.resv == 0 && (t :: up).all fun r => ranksDiffer m r id
  | _ => true

/-- The write `m` arrives: what the banks take of it, `w`, takes effect in the tile, and its acknowledgement leaves. -/
def State.configured (s : State) (t : PTile) (m w : CfgWrite) : State :=
  { s with
    tiles := SMap.set Tile.init s.tiles t.key ((s.tile t).config w)
    roots := rootsWith s.roots t.site w
    net := { (s.net.drop fun f => f.arrived t.port0 && f.msg == .cfg m) with
      trees := treesWith s.net.trees t.key w
      flits := (s.net.drop fun f => f.arrived t.port0 && f.msg == .cfg m).flits ++
        [ackFlit s.net t (s.tile t).pl.part .cfgAck] } }

/-- What the banks do with a write into the scratchpad (R188–R191): it waits, one slip, while a bank wakes; in a bank in OFF
it is not performed; the words that it covers in part are read and merged. -/
def State.configScratch (s : State) (t : PTile) (off n : Nat) : BankAns × State :=
  let m := (s.tile t).mem
  match m.answers off n with
  | .go => (.go, s.onTile t true fun c f => f.mergeEcc c 5 off n)
  | .off => (.off, s.onTile t true fun c f => f.bankOff c 5 (f.tile.sc.pc.toNat * 2 ^ 32))
  | .wait w => (.wait w, s.onTile t true fun c f =>
      let g := if m.wakeAll (banksOf off n) = m then f else f.slip c w 5 f.tile.sc.pc
      g.set { g.tile with mem := g.tile.mem.wakeAll (banksOf off n) })

/-- A supervisor write arrives in its order on VC2 (R238), takes effect and is acknowledged. -/
def execConfigWrite (t : PTile) (w : CfgWrite) (s : State) : Out :=
  .next (if (s.site t.site).up = true ∧ s.net.inOrder (·.isWrite t.port0) t.port0 (.cfg w) = true ∧
      s.inGap t w = true ∧ s.mayWrite t w = true then
      match w with
      | .scratch off bs =>
        match s.configScratch t off bs.length with
        | (.go, s1) => s1.configured t w w
        | (.off, s1) => s1.configured t w (.scratch off [])
        | (.wait _, s1) => s1
      | _ => s.configured t w w
    else s)

/-! ### Edits (R211, R366–R370) -/

/-- Flits of the supervisor on VC2 to every tile of a partition. -/
def toTiles (s : State) (p : Fin 32) (m : Msg) : List Flit :=
  (s.tilesOf p).map fun k => mkFlit 2 s.net.supAt (PTile.ofKey k).port0 (some p) 0 m

/-- A TLB invalidation arrives in its order on VC2 and is acknowledged. -/
def execTlbInvalidation (t : PTile) (handle : BitVec 16) (vpage : Nat) (s : State) : Out :=
  .next (if (s.site t.site).up = true ∧ s.net.inOrder (·.isWrite t.port0) t.port0 (.tlbInval handle vpage) = true then
      { s with
        tiles := SMap.set Tile.init s.tiles t.key { s.tile t with dma := { (s.tile t).dma with
          tlb := (s.tile t).dma.tlb.filter fun e => !(e.handle = handle && e.vpage = vpage) } }
        net := (s.net.drop fun f => f.arrived t.port0 && f.msg == .tlbInval handle vpage).send
          [ackFlit s.net t (s.tile t).pl.part (.invalAck handle)] }
    else s)

/-- The handle is in the tile's walk table, or the table has overflowed (R366). -/
def Dma.walking (d : Dma) (h : BitVec 16) : Bool := d.walkOvf || d.walks.contains h

/-- A walk over the handle's pages may still read them: the handle is in the walk table, and the tile's stage runs or its DMA queue has
work (R366, R367). -/
def Tile.walking (x : Tile) (h : BitVec 16) : Bool := x.dma.walking h && (x.clk.running || !x.dq.isEmpty)

/-- An edit notice arrives: acknowledged at once with the TLB entries of the handle discarded, or held until SEND. -/
def execEditNotice (t : PTile) (handle : BitVec 16) (s : State) : Out :=
  let x := s.tile t
  let n := s.net.drop fun f => f.arrived t.port0 && f.msg == .edit handle
  .next (if (s.site t.site).up = true ∧ s.net.inOrder (·.isWrite t.port0) t.port0 (.edit handle) = true then
      if x.walking handle then
        { s with
          tiles := SMap.set Tile.init s.tiles t.key { x with dma := { x.dma with held := x.dma.held ++ [handle] } }
          ctrs := ctrAdd s.ctrs t.site .hold 1
          net := n }
      else
        { s with
          tiles := SMap.set Tile.init s.tiles t.key { x with dma := { x.dma with
            tlb := x.dma.tlb.filter fun e => e.handle != handle } }
          net := n.send [editAckFlit s t x.pl.part handle] }
    else s)

/-- The new value of an entry: the edit's V, W, SITE and ADDR, with the version after the old one's; the reserved bits are
zero, in a level-3 entry ADDR[15:12] too, and an entry above has W = 1 (R209). -/
def editWord (level : Fin 4) (old : Pte) (e : BitVec 64) : Nat :=
  (if e.getLsbD 63 then 2 ^ 63 else 0) + (if level ≠ 3 ∨ e.getLsbD 62 = true then 2 ^ 62 else 0) +
    (old.ver + 1).toNat * 2 ^ 40 + (if level = 3 then fld e.toNat 39 16 * 2 ^ 16 else fld e.toNat 39 12 * 2 ^ 12)

/-- The entry that an edit names, under the root table of the partition; none where a table above it is not valid. -/
def State.editAt (s : State) (e : PageEdit) : Option (Nat × Nat) :=
  match s.furnPart e.part with
  | none => none
  | some f =>
    let site : Fin 64 := Fin.ofNat 64 ((f.sites.head?).getD 0)
    (s.entriesTo (s.rootOf site e.part).1 (s.rootOf site e.part).2 e.handle e.vpage e.level.val).bind List.head?

/-- The edit changes the mapping of the page. -/
def PageMap.hit (m : PageMap) (e : PageEdit) : Bool := e.level == 3 && m.handle == e.handle && m.vpage == e.vpage

/-- The page frames that the removal of an entry gives back: that of a slot's own page, unless the tree has taken it (R420). -/
def Part.gives (x : Part) (e : PageEdit) : Nat :=
  if !e.entry.getLsbD 63 && x.maps.any (fun m => m.hit e && m.own && !x.treeHolds m.frame) then 1 else 0

/-- The frame that a level-3 entry names. -/
def editFrame (e : PageEdit) : Nat := fld e.entry.toNat 39 34 * 2 ^ 18 + fld e.entry.toNat 33 16

/-- The mapping of a page behind the edits of a queue: gone, or with the frame of the last. -/
def PageMap.after (es : List PageEdit) (m : PageMap) : Option PageMap :=
  match (es.filter m.hit).getLast? with
  | none => some m
  | some e => if e.entry.getLsbD 63 then some { m with frame := editFrame e, out := false } else none

/-- Applies edits in order to the loft. -/
def applyEdits (s : State) (m : SMap Byte) : List PageEdit → SMap Byte
  | [] => m
  | e :: r =>
    match s.editAt e with
    | none => applyEdits s m r
    | some (site, off) =>
      let old := decPte (leVal (SMap.getList 0 m (loftKey site off) 8))
      applyEdits s (SMap.setList 0 m (loftKey site off) (leBytes 8 (editWord e.level old e.entry))) r

/-- The removal of a mapped page's entry. -/
def PageMap.removal (m : PageMap) (p : Fin 32) : PageEdit := ⟨p, m.handle, 3, m.vpage, 0⟩

/-- The lofts without the entries of the partitions' mapped pages: the supervisor removes them where every slot ends at once. -/
def State.unmapped (s : State) (ps : List (Fin 32)) : SMap Byte :=
  applyEdits s s.loft (ps.flatMap fun p => (s.part p).maps.map (·.removal p))

/-- The partition with the mapping that an edit makes of a page that had none. -/
def Part.noted (x : Part) (e : PageEdit) : Part :=
  if e.level == 3 && e.entry.getLsbD 63 && !x.maps.any (·.hit e) then
    { x with maps := x.maps ++ [⟨e.handle, e.vpage, editFrame e, e.entry.getLsbD 62, false⟩] }
  else x

/-- An edit is made: of an entry that was not valid at once (R368), of another through the handle's edit queue with notices to every
tile (R367). -/
def State.makeEdit (s : State) (e : PageEdit) : State :=
  let x := s.part e.part
  match s.editAt e with
  | none => s
  | some (site, off) =>
    if (s.pte site off).v then
      { s with
        parts := SMap.set Part.init s.parts e.part.val { x with editQs :=
          match (x.editQs.find? fun q => q.handle = e.handle && !q.applied) with
          | some _ => x.editQs.map fun q => if q.handle = e.handle && !q.applied then
              { q with edits := q.edits ++ [e], waiting := s.tilesOf e.part, frames := q.frames + x.gives e } else q
          | none => x.editQs ++ [⟨e.handle, [e], s.tilesOf e.part, x.gives e, false, []⟩] }
        net := s.net.send (toTiles s e.part (.edit e.handle)) }
    else { s with loft := applyEdits s s.loft [e], parts := SMap.set Part.init s.parts e.part.val (x.noted e) }

/-- The supervisor edits a page table; its reads of the tables have the code of every loft read (R201). -/
def State.pageEdit (s : State) (e : PageEdit) : State := (s.entryErrs none (s.editReads e)).makeEdit e

def execPageTableEdit (e : PageEdit) (s : State) : Out := .next (s.pageEdit e)

/-- Acknowledgements of a kind that have reached the supervisor from tile `k`. -/
def Net.acks (n : Net) (k : Nat) (m : Msg) : Nat :=
  (n.flits.filter fun f => f.arrived n.supAt && f.src == k && f.msg == m).length

/-- The network without the acknowledgements that have reached the supervisor. -/
def Net.takeAcks (n : Net) (ks : List Nat) (m : Msg) : Net :=
  { n with flits := n.flits.filter fun f => !(f.arrived n.supAt && ks.contains f.src && f.msg == m) }

/-- The page lies under the entry that an edit changes (R208). -/
def editCovers (e : PageEdit) (v : Nat) : Bool :=
  match e.level with
  | 0 => true
  | 1 => v / 2 ^ 18 == e.vpage / 2 ^ 18
  | 2 => v / 2 ^ 9 == e.vpage / 2 ^ 9
  | 3 => v == e.vpage

/-- The pages that an edit affects (R211): the one that it names, and those under its entry of which some tile holds a
translation. -/
def State.affectedPages (s : State) (e : PageEdit) (ts : List Nat) : List Nat :=
  (e.vpage :: (ts.flatMap fun k => ((SMap.get Tile.init s.tiles k).dma.tlb.filter fun x =>
    x.handle == e.handle && editCovers e x.vpage).map (·.vpage))).dedup

/-- Every tile has acknowledged every notice: the edits apply in queue order and the invalidations go out. -/
def execEditApply (p : Fin 32) (handle : BitVec 16) (s0 : State) : Out :=
  let s := match ((s0.part p).editQs.find? fun q => q.handle = handle && !q.applied) with
    | none => s0
    | some q => q.edits.foldl (fun s e => s.entryErrs none (s.editReads e)) s0
  let x := s.part p
  .next (match (x.editQs.find? fun q => q.handle = handle && !q.applied) with
    | none => s0
    | some q =>
      if q.waiting.all (fun k => q.edits.length ≤ s.net.acks k (.editAck handle)) then
        let vs := (q.edits.flatMap fun e => s.affectedPages e q.waiting).dedup
        { s with
          loft := applyEdits s s.loft q.edits
          parts := SMap.set Part.init s.parts p.val { x with
            editQs := x.editQs.map fun r => if r.handle = handle && !r.applied then
              { r with applied := true, invals := vs } else r }
          net := (s.net.takeAcks q.waiting (.editAck handle)).send (vs.flatMap fun v => toTiles s p (.tlbInval handle v)) }
      else s0)

/-- The slot holds the handle (R343); 0xFFFF stands for no draft (R386). -/
def Slot.holds (y : Slot) (h : BitVec 16) : Bool := y.ht == h || (y.hd == h && y.hd != 0xFFFF)

/-- The slot of a partition that holds a handle. -/
def State.slotWith (s : State) (p : Fin 32) (h : BitVec 16) : Option (Nat × Slot) :=
  (s.slotsOf p).find? fun e => e.2.holds h

/-- The frames of a queue leave the slot's counts: written ones first, then reserved ones. -/
def Slot.gaveBack (y : Slot) (n : Nat) : Nat × Nat := (min n y.used, min (n - min n y.used) y.rsv)

/-- The frames that the edits of a queue take out of use but that stay used, being kept (R460). -/
def Part.staying (x : Part) (es : List PageEdit) : Nat :=
  (x.maps.filter fun m => m.own && x.kept.contains m.frame && !x.treeHolds m.frame && (m.after es).isNone).length

/-- Every tile has acknowledged the invalidations: the frames return to the free pool (R370), but for those kept. -/
def execFrameRelease (p : Fin 32) (handle : BitVec 16) (s : State) : Out :=
  let x := s.part p
  .next (match (x.editQs.find? fun q => q.handle = handle && q.applied) with
    | none => s
    | some q =>
      if q.waiting.all (fun k => q.invals.length ≤ s.net.acks k (.invalAck handle)) then
        let n := match s.slotWith p handle with | none => (0, 0) | some e => e.2.gaveBack q.frames
        let k := min (x.staying q.edits) (n.1 + n.2)
        { s with
          parts := SMap.set Part.init s.parts p.val { x with
            editQs := x.editQs.erase q, maps := x.maps.filterMap (PageMap.after q.edits)
            used := x.used - n.1 + k, rsv := x.rsv - n.2, free := x.free + (n.1 + n.2 - k) }
          slots := match s.slotWith p handle with
            | none => s.slots
            | some e => SMap.set Slot.init s.slots e.1 { e.2 with used := e.2.used - n.1, rsv := e.2.rsv - n.2 }
          net := s.net.takeAcks q.waiting (.invalAck handle) }
      else s)

end Sys2Proof.Machine
end

