-- ==== Sys2Proof/Machine/Formats.lean ====
section
/-! DEFINITION. The byte layouts of what crosses the device's borders or stands in its flash: CRC-32, signature blocks and the device's
own signatures (R574, R577), certificates (R575), manifests (R425), frame headers and the keys of a session (R546, R552), the
flash (R567). -/

namespace Sys2Proof.Machine

/-! ### CRC-32 -/

/-- One step of the CRC-32 of IEEE 802.3, bit by bit in the reflected form. -/
def crcBit (c : BitVec 32) : BitVec 32 := if c.getLsbD 0 then (c >>> 1) ^^^ 0xEDB88320#32 else c >>> 1

def crcByte (c : BitVec 32) (b : Byte) : BitVec 32 := (List.range 8).foldl (fun c _ => crcBit c) (c ^^^ b.setWidth 32)

/-- The CRC-32 of IEEE 802.3 over bytes. -/
def crc32 (bs : List Byte) : BitVec 32 := ~~~(bs.foldl crcByte 0xFFFFFFFF)

/-- `n` big-endian bytes of a value. -/
def beBytes (n : Nat) (v : Nat) : List Byte := (leBytes n v).reverse

end Sys2Proof.Machine

namespace Sys2Proof

open Machine

/-! ### Signatures (R574, R577) -/

/-- The bytes of a signature block: r, s, the length of the HSS signature, the HSS signature. -/
def SigBlock.bytes (b : SigBlock) : List Byte := beBytes 48 b.r ++ beBytes 48 b.s ++ leBytes 4 b.hss.length ++ b.hss

end Sys2Proof

namespace Sys2Proof.Machine

/-- Bytes of a signature of the device's HSS key. -/
def hssSize : Nat := 3532

/-- The device's block over bytes, with leaf `leaf` (R449, R552, R589). -/
def deviceBlock (seed leaf : Nat) (bs : List Byte) : SigBlock :=
  { r := Config.ecdsaR seed (Config.sha384 bs), s := Config.ecdsaS seed (Config.sha384 bs)
    hss := (List.range hssSize).map (Config.hssByte seed leaf bs) }

/-- The digest of the device identity key's public key (R574). -/
def Ident.idKey (d : Ident) : Nat := Config.pubDigest d.seed

/-- The device's HSS public key, 52 bytes: two levels, LMS_SHA256_M24_H20 with LMOTS_SHA256_N24_W4 (R574). -/
def Ident.hssKey (d : Ident) : List Byte :=
  beBytes 4 2 ++ beBytes 4 0x0D ++ beBytes 4 0x07 ++ beBytes 16 (Config.lmsId d.seed) ++ beBytes 24 (Config.lmsRoot d.seed)

/-! ### Certificates (R575) -/

/-- The seed whose key pair the die manifest's entry holds. -/
def Ident.manifestSeed (d : Ident) (i : Nat) : Nat := SMap.get i d.dieManifest i

/-- Entry `i` of the die manifest: index, kind, a reserved byte, the digest of the die's public key. -/
def Ident.dieEntry (d : Ident) (i : Nat) : List Byte :=
  leBytes 2 i ++ [Config.dieKind i, 0] ++ leBytes 48 (Config.pubDigest (d.manifestSeed i))

/-- What the device certificate binds, in the order of R575; its signature block covers it. -/
def Ident.certBody (d : Ident) : List Byte :=
  leBytes 48 d.certs.device.ecdsa ++ d.certs.device.hss ++ leBytes 16 d.certs.ordering ++ leBytes 4 d.certs.stepping ++
    leBytes 16 d.certs.serial ++ (List.range 202).flatMap d.dieEntry

/-- The device certificate digest: SHA-384 of the whole device certificate. -/
def Ident.certDigest (d : Ident) : Nat := Config.sha384 (d.certBody ++ d.certs.device.block.bytes)

end Sys2Proof.Machine

namespace Sys2Proof

open Machine

/-! ### Manifests (R425) -/

/-- An entry of the shard table, 64 bytes; its reserved bytes are 2–3 and 8–15. -/
def ShardEntry.bytes (e : ShardEntry) : List Byte :=
  leBytes 2 e.index ++ e.reserved.take 2 ++ leBytes 4 e.length ++ (e.reserved.drop 2).take 8 ++ leBytes 48 e.digest

/-- The header, 256 bytes; its reserved bytes are 11, 86–87 and 144–255. -/
def Manifest.header (m : Manifest) : List Byte :=
  m.magic ++ leBytes 2 m.fmtver ++ leBytes 1 m.kind ++ m.reserved.take 1 ++ leBytes 4 m.sigoff ++ leBytes 48 m.pubkey ++
    leBytes 16 m.pkgid ++ leBytes 4 m.svn ++ leBytes 2 m.nshard ++ (m.reserved.drop 1).take 2 ++ leBytes 8 m.total ++ leBytes 48 m.base ++
    (m.reserved.drop 3).take 112

/-- The signed bytes: bytes 0 to SIGOFF − 1. -/
def Manifest.signed (m : Manifest) : List Byte := m.header ++ m.shards.flatMap (·.bytes)

/-- The whole manifest. -/
def Manifest.bytes (m : Manifest) : List Byte := m.signed ++ m.sig.block.bytes

/-- ASCII "QZPKGMF1". -/
def pkgMagic : List Byte := [0x51, 0x5A, 0x50, 0x4B, 0x47, 0x4D, 0x46, 0x31]

/-- The parameters of the device's HSS signatures (R574). -/
def ownLevels : List HssLevel := List.replicate 2 ⟨.sha256_192, 20, .sha256_192, 4⟩

/-- The manifest of an adapter package that the device forms and signs with leaf `leaf`, over its shards (R425, R449). -/
def ownManifest (seed leaf base pkgid svn : Nat) (shards : List (List Byte)) : Manifest :=
  let m : Manifest :=
    { magic := pkgMagic, fmtver := 1, kind := 3, sigoff := 256 + 64 * shards.length, pubkey := Config.pubDigest seed, pkgid := pkgid
      svn := svn, nshard := shards.length, total := (shards.map List.length).sum, base := base, reserved := List.replicate 115 0
      shards := shards.zipIdx.map fun e => ⟨e.2, e.1.length, Config.sha384 e.1, List.replicate 10 0⟩
      sig := ⟨true, true, ⟨0, 0, []⟩, ownLevels⟩, digest := 0 }
  let m1 : Manifest := { m with sig := { m.sig with block := deviceBlock seed leaf m.signed } }
  { m1 with digest := Config.sha384 m1.bytes }

/-- The fields fit their places in the header and in the table. -/
def Manifest.fits (m : Manifest) : Bool :=
  m.magic.length == 8 && m.fmtver < 2 ^ 16 && m.kind < 2 ^ 8 && m.sigoff < 2 ^ 32 && m.pubkey < 2 ^ 384 && m.pkgid < 2 ^ 128 &&
    m.svn < 2 ^ 32 && m.nshard < 2 ^ 16 && m.total < 2 ^ 64 && m.base < 2 ^ 384 && m.reserved.length == 115 &&
    m.shards.all fun e => e.index < 2 ^ 16 && e.length < 2 ^ 32 && e.digest < 2 ^ 384 && e.reserved.length == 10

end Sys2Proof

namespace Sys2Proof.Machine

/-- The shards of an adapter package that the device forms: the descriptor, then the factors, a shard for each target. -/
def adapterShards (id : BitVec 16) (version rank : Nat) (ts : List ExportTarget) : List (List Byte) :=
  Config.payload 0x100 (id.toNat :: version :: rank :: ts.flatMap fun t => [t.tensor.toNat, t.scale.toNat]) :: ts.map (·.factor)

def AdapterPackage.shards (g : AdapterPackage) : List (List Byte) := adapterShards g.id g.version g.rank g.targets

/-! ### Attestation reports (R590, R591) -/

/-- The 64 mapping tables in site order: of each site's logical tiles row by row the physical tile. -/
def mapTables (m : SMap Nat) : List Byte :=
  (List.range 64).flatMap fun i => (List.range 128).flatMap fun j =>
    leBytes 2 (physOf m (16 * (i % 8) + j % 16) (8 * (i / 8) + j / 16)).key

/-- Item `(kind, partition, id, SVN or version, digest)`, 64 bytes. -/
def itemBytes (e : Nat × Nat × Nat × Nat × Nat) : List Byte :=
  leBytes 1 e.1 ++ leBytes 1 e.2.1 ++ leBytes 2 e.2.2.1 ++ leBytes 4 e.2.2.2.1 ++ List.replicate 8 0 ++ leBytes 48 e.2.2.2.2

/-- SIGOFF of a report. -/
def AttestReport.sigoff (r : AttestReport) : Nat := 512 + 64 * r.items.length

/-- Bytes 0 to SIGOFF − 1: ASCII "QZATTRP1" first. -/
def AttestReport.signed (r : AttestReport) : List Byte :=
  ([0x51, 0x5A, 0x41, 0x54, 0x54, 0x52, 0x50, 0x31] : List Byte) ++ leBytes 2 1 ++ leBytes 2 0 ++ leBytes 4 r.sigoff ++ leBytes 32 r.nonce.toNat ++
    leBytes 48 r.cert ++ leBytes 8 r.ts.toNat ++ leBytes 48 (match r.firmware with | none => 0 | some f => f.digest) ++
    leBytes 1 r.fwRun ++ leBytes 1 r.furnRun ++ leBytes 1 r.fwFuse ++ leBytes 1 r.furnFuse ++
    leBytes 1 ((if r.furnB then 2 else 0) + if r.fwB then 1 else 0) ++ leBytes 3 0 ++
    leBytes 48 (match r.furnish with | none => 0 | some f => f.digest) ++ leBytes 48 (Config.sha384 (mapTables r.map)) ++
    leBytes 8 r.next ++ leBytes 4 r.items.length ++ List.replicate 244 0 ++ r.items.flatMap itemBytes

/-- The whole report, with its signature block (R577). -/
def AttestReport.bytes (r : AttestReport) : List Byte := r.signed ++ (deviceBlock r.seed r.leaf r.signed).bytes

/-! ### Phiwin frames (R546, R547) -/

/-- The fields of a frame's header that its rules read. -/
structure FrameHeader where
  type : Nat
  flags : Nat
  session : Nat
  seq : Word
  ack : Word
  credit : Nat
  len : Nat
  epoch : Word
deriving DecidableEq, Repr

/-- Bytes 0–27. -/
def FrameHeader.front (h : FrameHeader) : List Byte :=
  [1] ++ leBytes 1 h.type ++ leBytes 1 h.flags ++ [0] ++ leBytes 4 h.session ++ leBytes 4 h.seq.toNat ++ leBytes 4 h.ack.toNat ++
    leBytes 2 h.credit ++ leBytes 2 h.len ++ leBytes 4 h.epoch.toNat ++ leBytes 4 0

/-- The 32 bytes: HCRC stands behind the rest. -/
def FrameHeader.bytes (h : FrameHeader) : List Byte := h.front ++ leBytes 4 (crc32 h.front).toNat

/-- Little-endian bytes `a` to `a + n − 1` of a header. -/
def field (bs : List Byte) (a n : Nat) : Nat := leVal ((bs.drop a).take n)

def FrameHeader.parse (bs : List Byte) : FrameHeader :=
  { type := field bs 1 1, flags := field bs 2 1, session := field bs 4 4, seq := BitVec.ofNat 32 (field bs 8 4)
    ack := BitVec.ofNat 32 (field bs 12 4), credit := field bs 16 2, len := field bs 18 2, epoch := BitVec.ofNat 32 (field bs 20 4) }

/-- The message types that a node sends to the device (R547). -/
def nodeTypes : List Nat := [0x02, 0x04, 0x05, 0x10, 0x14, 0x20, 0x23, 0x30, 0x3F]

/-- The frame is not dropped under R546: VER, a TYPE that a node sends, the reserved bits and bytes, LEN, HCRC, and the tag of an encrypted
one. -/
def frameOk (bs : List Byte) (tagOk : Bool) : Bool :=
  let h := FrameHeader.parse bs
  bs.length == 32 && field bs 0 1 == 1 && nodeTypes.contains h.type && h.flags / 16 == 0 && field bs 3 1 == 0 && field bs 24 4 == 0 &&
    h.len ≤ 8192 && field bs 28 4 == (crc32 (bs.take 28)).toNat && (h.flags / 2 % 2 == 0 || tagOk)

/-- Bytes of a queued frame: header, tag and payload of R546–R548; a report and a package as they stand in their layouts. -/
def Frame.bytes : Frame → Nat
  | .tokens _ _ ts => 48 + 16 + 4 * ts.length
  | .admitted .. => 48 + 18
  | .status .. => 48 + 14
  | .reply _ _ d => 48 + 2 + 4 * d.length
  | .telemetry d => 48 + 4 * d.length
  | .bbxData l => 48 + 32 * l.length
  | .resumeReply _ l _ => 48 + 33 + 8 * l.length
  | .report r => 48 + 512 + 64 * r.items.length + 100 + hssSize
  | .keyUpdate _ => 48 + 4
  | .package g => 48 + 256 + 64 * g.manifest.nshard + 100 + hssSize + g.manifest.total
  | .fragment i n f => if i + 1 < n then 48 + 8192 else f.bytes - 8192 * (n - 1)

/-- The frames in which a message is sent: fragments of 8,192 B where it is longer (R547). -/
def fragments (f : Frame) : List Frame :=
  if f.bytes ≤ 48 + 8192 then [f]
  else
    let n := (f.bytes - 48 + 8191) / 8192
    (List.range n).map fun i => .fragment i n f

/-- TYPE of a frame (R547). -/
def Frame.type : Frame → Nat
  | .admitted .. => 0x11
  | .tokens .. => 0x12
  | .status .. => 0x13
  | .reply .. | .report .. | .package .. => 0x21
  | .telemetry .. => 0x22
  | .bbxData .. => 0x24
  | .resumeReply .. => 0x31
  | .keyUpdate .. => 0x05
  | .fragment _ _ f => f.type

/-- FLAGS of a frame: encrypted; the last fragment of its message; a retransmission. -/
def Frame.flags (f : Frame) (again : Bool) : Nat :=
  2 + (match f with | .fragment i n _ => if i + 1 < n then 0 else 4 | _ => 4) + (if again then 8 else 0)

/-- The payload of a TOKENS frame (R548), the report (R590), the package (R425); that of another as no rule lays it out. -/
def Frame.payload : Frame → List Byte
  | .tokens id k ts => leBytes 8 id.toNat ++ leBytes 4 k ++ leBytes 2 ts.length ++ [0, 0] ++ ts.flatMap fun w => leBytes 4 w.toNat
  | .report r => r.bytes
  | .package g => g.manifest.bytes ++ g.shards.flatten
  | f => Config.payload f.type [f.bytes]

/-- The header with which a session's frame of sequence number `seq` and epoch `epoch` leaves (R546). -/
def Session.header (x : Session) (n : Nat) (f : Frame) (seq epoch : Word) (again : Bool) : FrameHeader :=
  { type := f.type, flags := f.flags again, session := n, seq := seq, ack := x.rxSeq, credit := x.grant, len := f.bytes - 48, epoch := epoch }

/-! ### The keys of a session (R552) -/

/-- The secret of an epoch: each from the one before. -/
def epochSecret (secret : Nat) : Nat → Nat
  | 0 => Config.hkdf secret 0
  | e + 1 => Config.hkdf (epochSecret secret e) 0

/-- The 32 B key and the 4 B salt of a direction (true: device to node) in an epoch. -/
def Session.key (x : Session) (out : Bool) (epoch : Nat) : Nat := Config.hkdf (epochSecret x.secret epoch) (if out then 1 else 2) % 2 ^ 256
def Session.salt (x : Session) (out : Bool) (epoch : Nat) : Nat := Config.hkdf (epochSecret x.secret epoch) (if out then 3 else 4) % 2 ^ 32

/-- The GCM nonce of a frame: salt, EPOCH and SEQ, 4 B each. -/
def Session.gcmNonce (x : Session) (out : Bool) (epoch seq : Word) : List Byte :=
  leBytes 4 (x.salt out epoch.toNat) ++ leBytes 4 epoch.toNat ++ leBytes 4 seq.toNat

/-- A frame as it leaves: the header, and the ciphertext of the payload with its tag; the header is the associated data. -/
def Session.wire (x : Session) (n : Nat) (f : Frame) (seq epoch : Word) (again : Bool) : List Byte :=
  let h := (x.header n f seq epoch again).bytes
  h ++ Config.gcm (x.key true epoch.toNat) (x.gcmNonce true epoch seq) h f.payload

/-! ### The flash (R567) -/

/-- The regions of the flash. -/
inductive FlashRegion where
  | firmware (b : Bool) | furnish (b : Bool) | repairLog | lmsState | reserved | blackBox | tail
deriving DecidableEq, Repr

/-- Offset and size of a region; the tail runs to the end of a part of 128 MiB or more. -/
def FlashRegion.place : FlashRegion → Nat × Nat
  | .firmware b => (if b then 0x1000000 else 0, 0x1000000)
  | .furnish b => (if b then 0x2100000 else 0x2000000, 0x100000)
  | .repairLog => (0x2200000, 0x400000)
  | .lmsState => (0x2600000, 0x200000)
  | .reserved => (0x2800000, 0x800000)
  | .blackBox => (0x3000000, 0x1000000)
  | .tail => (0x4000000, 0x4000000)

/-- The supervisor writes the region; the reserved ones are never written. -/
def FlashRegion.written : FlashRegion → Bool
  | .reserved | .tail => false
  | _ => true

/-! ### The LMS state region (R584, R586) -/

/-- Bytes 0 to 59 of a reservation record: magic "QZLMSRV1", sequence number, LIMIT, zeros (R584). -/
def LmsRecord.bytes (r : LmsRecord) : List Byte :=
  [0x51, 0x5A, 0x4C, 0x4D, 0x53, 0x52, 0x56, 0x31] ++ leBytes 8 r.seq ++ leBytes 8 r.limit ++ List.replicate 36 0

/-- A record is valid when its CRC matches. -/
def LmsRecord.valid (r : LmsRecord) : Bool := r.crc == crc32 r.bytes

def LmsRecord.init : LmsRecord := ⟨0, 0, 0⟩

/-- Where record `i` stands in the flash (R567, R584). -/
def LmsRecord.place (i : Nat) : Nat := FlashRegion.lmsState.place.1 + 64 * i

/-- The state: the newest valid record, with its place; before the first record, none. -/
def Flash.lmsState (f : Flash) : Option (Nat × LmsRecord) :=
  f.lms.foldl (fun a e => if e.2.valid && (match a with | none => true | some b => Nat.blt b.2.seq e.2.seq) then some e else a) none

/-- The first place from `a` on that no record takes: places follow in order, one half behind the other. -/
def freePlace (m : SMap LmsRecord) : Nat → Nat → Nat
  | 0, a => a
  | n + 1, a => if SMap.has m a then freePlace m n ((a + 1) % 32768) else a

/-- Where the next record goes. -/
def Flash.lmsAt (f : Flash) : Nat := freePlace f.lms 32768 (match f.lmsState with | none => 0 | some e => e.1)

/-- At a start, and where a supervisor takes over, LIMIT is that of the state and the next leaf is LIMIT (R586); the index moves back at no
reset (R588). -/
def Ident.readLms (d : Ident) (f : Flash) : Ident :=
  match f.lmsState with
  | none => { d with lmsNext := d.lmsLimit }
  | some e => { d with lmsSeq := max d.lmsSeq e.2.seq, lmsLimit := max d.lmsLimit e.2.limit, lmsNext := max d.lmsLimit e.2.limit }

end Sys2Proof.Machine
end

