-- ==== Sys2Proof/Machine/Ending.lean ====
section
/-! DEFINITION. How slots end (R406, R407, R420, R421, R462, R475): the frames of a session, the terminal status of a
slot, the closing of partitions, the freeze that a device-fatal event calls for; the routes of the network (R227)
by which an event at a link names partitions. -/

namespace Sys2Proof.Machine

/-! ### Frames to a node (R549, R555, R556) -/

/-- TOKENS, STATUS and ADMIT frames leave whatever credit the node advertises (R550). -/
def Frame.urgent : Frame → Bool
  | .admitted .. | .tokens .. | .status .. => true
  | _ => false

/-- A frame can be sent now: the session is not lost, the window of 1,024 frames has room (R549), and no frame before it waits; for
a frame that is not urgent, within the credit too (R550). -/
def Session.canSend (x : Session) (urgent : Bool) : Bool :=
  x.lost.isNone && x.unacked.length < 1024 &&
    (if urgent then !x.queued.any Frame.urgent else x.queued.isEmpty && x.unacked.length < x.credit)

/-- The device's own KEY_UPDATE is due, and the window and the credit have room for it (R550): before SEQ has advanced 2^31 frames past the start of the epoch,
with two windows to spare (R552; the place is the model's choice, log entry 47). -/
def Session.keyDue (x : Session) : Bool := 2 ^ 31 - 2048 ≤ (x.seq - x.epochStart).toNat && x.unacked.length < min 1024 x.credit

/-- A KEY_UPDATE that is due is sent, and the next frame begins the new epoch. -/
def Session.rekey (x : Session) : Session :=
  if x.keyDue then
    { x with
      unacked := x.unacked ++ [.keyUpdate (x.epoch + 1)], epochs := x.epochs ++ [x.epoch], seq := x.seq + 1, epoch := x.epoch + 1
      epochStart := x.seq + 1 }
  else x

/-- A frame for a session: sent and kept until acknowledged, or queued behind the window, the credit or during grace. -/
def Session.push (x : Session) (now : Nat) (f : Frame) : Session :=
  if x.canSend f.urgent then
    ({ x with
      unacked := x.unacked ++ [f], epochs := x.epochs ++ [x.epoch], seq := x.seq + 1
      ackAt := if x.unacked.isEmpty then now else x.ackAt } : Session).rekey
  else { x with queued := x.queued ++ [f] }

/-- The supervisor's time, in cycles of the reference counter. -/
def State.now (s : State) : Nat := s.sup.counter.toNat

/-- What serving sends through: the time, slots, sessions, the ports' counts. -/
structure Serv where
  now : Nat
  slots : SMap Slot
  sessions : SMap Session
  phw : SMap PhwPort
deriving DecidableEq, Repr

def State.serv (s : State) : Serv := ⟨s.now, s.slots, s.sessions, s.phw⟩

def Serv.session (x : Serv) (n : Nat) : Option Session := (x.sessions.find? fun e => e.1 = n).map (·.2)

/-- A frame sent on a port (R570). -/
def PhwPort.sent (x : PhwPort) (n : Nat) : PhwPort := { x with txfr := satAdd x.txfr n }

/-- Sends a frame to a session; a session that is gone receives none. -/
def Serv.push (x : Serv) (n : Nat) (f : Frame) : Serv :=
  match x.session n with
  | none => x
  | some y => { x with
      sessions := SMap.set Session.init x.sessions n (y.push x.now f)
      phw := if !y.canSend f.urgent then x.phw
        else SMap.set PhwPort.init x.phw y.port.val ((SMap.get PhwPort.init x.phw y.port.val).sent ((y.push x.now f).unacked.length - y.unacked.length)) }

def Serv.pushAll (x : Serv) : List (Nat × Frame) → Serv
  | [] => x
  | (n, f) :: r => (x.push n f).pushAll r

/-- Keeps a terminal status among the session's 4,096 newest (R419). -/
def Session.keepStatus (x : Session) (id : BitVec 64) (st : Status) : Session :=
  { x with kept := ((id, st) :: x.kept).take 4096 }

def Serv.keepStatus (x : Serv) (n : Nat) (id : BitVec 64) (st : Status) : Serv :=
  match x.session n with
  | none => x
  | some y => { x with sessions := SMap.set Session.init x.sessions n (y.keepStatus id st) }

/-- A terminal status is sent, and kept for a later cancel (R419, R421). -/
def Serv.sendStatus (x : Serv) (n : Nat) (id : BitVec 64) (st : Status) : Serv := (x.keepStatus n id st).push n (.status id st)

/-- The request id of a slot. -/
def Slot.reqId (x : Slot) : BitVec 64 := match x.q with | none => 0 | some q => q.id

def Slot.live (x : Slot) : Bool := x.st == .prefill || x.st == .decode

/-- The slot at its terminal status: what the couch has handed to the port stays released. -/
def Slot.ended (x : Slot) (code detail : BitVec 8) (now : Nat) : Slot :=
  { x with
    st := .ended
    status := some ⟨code, detail, x.handed⟩
    statusSent := x.portQ.isEmpty
    tEnd := now }

/-- Ends the slot with key `k`, if it is live: its status leaves behind its last released token (R421). -/
def Serv.endSlot (x : Serv) (now : Nat) (code detail : BitVec 8) (k : Nat) : Serv :=
  let y := SMap.get Slot.init x.slots k
  if y.live then
    let st : Status := ⟨code, detail, y.handed⟩
    let a : Serv := { x with slots := SMap.set Slot.init x.slots k (y.ended code detail now) }
    if y.portQ.isEmpty then a.sendStatus y.session y.reqId st else a
  else x

def Serv.endSlots (x : Serv) (now : Nat) (code detail : BitVec 8) : List Nat → Serv
  | [] => x
  | k :: r => (x.endSlot now code detail k).endSlots now code detail r

/-- Keys of the live slots of the partitions. -/
def State.liveSlots (s : State) (ps : List (Fin 32)) : List Nat :=
  (s.slots.filter fun e => e.2.live && ps.any fun p => e.1 / 128 == p.val).map (·.1)

/-- Ends every live slot of the partitions. -/
def State.endServ (s : State) (ps : List (Fin 32)) (code detail : BitVec 8) : Serv :=
  s.serv.endSlots s.now code detail (s.liveSlots ps)

/-- Live slots of one partition. -/
def State.liveCount (s : State) (p : Fin 32) : Nat := (s.liveSlots [p]).length

/-! ### Closing partitions (R406, R475) -/

/-- A PARTITION reset is to follow; the step's tokens are withheld (R406). -/
def Part.reset' (x : Part) : Part :=
  { x with resetDue := true, couch := { x.couch with released := true, dirty := true } }

/-- The partition is closed by an audit mismatch (R475). -/
def Part.close (x : Part) : Part := { x.reset' with open_ := false }

def mapParts (m : SMap Part) (ps : List (Fin 32)) (f : Fin 32 → Part → Part) : SMap Part :=
  ps.foldl (fun m p => SMap.set Part.init m p.val (f p (SMap.get Part.init m p.val))) m

/-- An audit mismatch closes partitions: FAULT 0x04 to their slots, a PARTITION reset to follow; SUP_AUDIT records the
kind and the partition (R475, R487). -/
def State.closeParts (s : State) (ps : List (Fin 32)) (kind : BitVec 3) : State :=
  let v := s.endServ ps 5 4
  { s with
    slots := v.slots, sessions := v.sessions, phw := v.phw
    parts := mapParts s.parts ps fun _ x => x.close
    sup := { s.sup with
      auditKind := kind
      auditPart := match ps with | [] => s.sup.auditPart | p :: _ => BitVec.ofNat 5 p.val } }

/-- R406: every live slot of the partition ends with the status of R407, and a PARTITION reset follows. -/
def State.endStep (s : State) (p : Fin 32) (code detail : BitVec 8) : State :=
  let v := s.endServ [p] code detail
  { s with
    slots := v.slots, sessions := v.sessions, phw := v.phw
    parts := SMap.set Part.init s.parts p.val
      { (s.part p).reset' with ended := satAdd (s.part p).ended (s.liveCount p) } }

/-- Slots that an event ends outside a step (R524, R533): they do not count as ended under R406 (R615). -/
def State.endOutside (s : State) (p : Fin 32) (code detail : BitVec 8) : State :=
  let v := s.endServ [p] code detail
  { s with slots := v.slots, sessions := v.sessions, phw := v.phw, parts := SMap.set Part.init s.parts p.val (s.part p).reset' }

/-! ### Device-fatal events (R462, R478) -/

/-- A freeze is called for, with its event; ignored while frozen. -/
def Bbx.callFreeze (b : Bbx) (ev : BitVec 16) : Bbx :=
  if b.frozen || b.freezeDue then b else { b with freezeDue := true, freezeEvent := ev }

/-- R462: the record, the freeze, the end of every live slot of the device; the reset follows. -/
def State.fatal (s : State) (ev : BitVec 16) (detail : BitVec 64) (code dt : BitVec 8) : State :=
  let v := s.endServ allParts code dt
  { s with
    slots := v.slots, sessions := v.sessions, phw := v.phw
    bbx := (s.bbx.append (s.sup.record ev none 0 detail)).callFreeze ev }

/-! ### Whose routes use a link (R246, R250) -/

/-- The sites in whose stores the partition may operate: those of its tiles, of its semaphore ranges, and of the ranges shared to it
(R260). -/
def State.storeSites (s : State) (p : Fin 32) : List Nat :=
  (s.sitesOf p ++ match s.furnish with
    | none => []
    | some f => (f.ranges.filter fun r => r.part = p || r.share.getLsbD p.val).map (·.site.val)).dedup

/-- Where the loft channels of the sites on which the partition is granted loft join the network. -/
def State.loftPlaces (s : State) (p : Fin 32) : List (Nat × Nat) :=
  match s.furnish with
  | none => []
  | some f => (f.grants.filter (·.part = p)).flatMap fun g =>
      (List.range 16).map fun ch => ((loftAt g.site (Fin.ofNat 16 ch)).1, (loftAt g.site (Fin.ofNat 16 ch)).2.1)

/-- Where what a partition's tiles reach beside each other joins the network: the stores of its sites and ranges, the loft channels of the
sites where it is granted loft, the supervisor. -/
def State.outposts (s : State) (p : Fin 32) : List (Nat × Nat) :=
  (s.storeSites p).map (fun k => ((storeAt (Fin.ofNat 64 k)).1, (storeAt (Fin.ofNat 64 k)).2.1)) ++
  s.loftPlaces p ++
  [(s.net.supAt.1, s.net.supAt.2.1)]

/-- Where the endpoints of a partition join the network: its tiles and those. -/
def State.endpoints (s : State) (p : Fin 32) : List (Nat × Nat) :=
  (s.tilesOf p).map (fun k => ((PTile.ofKey k).col, (PTile.ofKey k).row)) ++ s.outposts p

/-- The partition's routes use the link that leaves (c, r) by a port. -/
def State.usesLink (s : State) (p : Fin 32) (c r port : Nat) : Bool :=
  (s.tilesOf p).any fun k => (s.endpoints p).any fun e =>
    (pathOf s.net.badRouters (PTile.ofKey k).place e).contains (c, r, port) ||
    (pathOf s.net.badRouters e (PTile.ofKey k).place).contains (c, r, port)

/-- The partitions whose routes use a link. -/
def State.linkUsers (s : State) (c r port : Nat) : List (Fin 32) := allParts.filter fun p => s.usesLink p c r port

/-! ### Who an event on a site affects (R519) -/

/-- A route of the partition passes a router that satisfies `q`. -/
def State.routesMeet (s : State) (p : Fin 32) (q : PTile → Bool) : Bool :=
  (s.tilesOf p).any fun k => (s.endpoints p).any fun e =>
    (pathOf s.net.badRouters (PTile.ofKey k).place e ++ pathOf s.net.badRouters e (PTile.ofKey k).place).any fun l =>
      q (tileAt l.1 l.2.1) || q (tileAt (beyond l.1 l.2.1 l.2.2).1 (beyond l.1 l.2.1 l.2.2).2)

/-- The program installed in a partition. -/
def Part.program (x : Part) : Option Program := if x.isExact then x.exact else x.narrow

/-- The links on the routes of the partition's installed step program: its transfers between tiles, by its link-load records and trees, and
those between its tiles and the stores, loft channels and supervisor that they may reach, which the program does not list. -/
def State.programRoutes (s : State) (p : Fin 32) : List (Nat × Nat × Nat) :=
  match (s.part p).loaded, (s.part p).program, s.furnPart p with
  | true, some g, some f =>
    Program.tileRoutes g ⟨f, s.map, s.net.badRouters⟩ ++ (s.tilesOf p).flatMap fun k => (s.outposts p).flatMap fun e =>
      pathOf s.net.badRouters (PTile.ofKey k).place e ++ pathOf s.net.badRouters e (PTile.ofKey k).place
  | _, _, _ => []

/-- A route of the partition's step program passes a router of the site. -/
def State.routesBy (s : State) (p : Fin 32) (site : Fin 64) : Bool :=
  (s.programRoutes p).any fun l => (tileAt l.1 l.2.1).site == site ||
    (tileAt (beyond l.1 l.2.1 l.2.2).1 (beyond l.1 l.2.1 l.2.2).2).site == site

/-- The partition stands on the site: a tile, a loft grant, a semaphore range or its supervisor structures (R519). -/
def State.standsOn (s : State) (p : Fin 32) (site : Fin 64) : Bool :=
  (s.sitesOf p).contains site.val || match s.furnish, s.furnPart p with
    | some fu, some f => fu.grants.any (fun g => g.part = p && g.site = site) || fu.ranges.any (fun r => r.part = p && r.site = site) ||
        f.supSite == site
    | _, _ => false

def State.standing (s : State) (site : Fin 64) : List (Fin 32) := allParts.filter fun p => s.standsOn p site

/-- The partitions that an event on a site affects (R519). -/
def State.affected (s : State) (site : Fin 64) : List (Fin 32) := allParts.filter fun p => s.standsOn p site || s.routesBy p site

/-- A throttled site affects the partition (R532). -/
def State.throttles (s : State) (p : Fin 32) : Bool := allSites.any fun i => (s.site i).tstate == 1 && (s.affected i).contains p

end Sys2Proof.Machine
end

