-- ==== Sys2Proof/Machine/SemStore.lean ====
section
/-! DEFINITION. The semaphore stores (R259–R273): the performance of an operation, waiters and their release,
deferred operations, acknowledgements at the tile and their timeout. -/

namespace Sys2Proof.Machine

/-! ### Operation and acknowledgement words (R262, R263) -/

def semOpOf (w : BitVec 64) : Nat := w.toNat / 2 ^ 60
def semTag (w : BitVec 64) : BitVec 16 := w.extractLsb' 44 16
def semIdx (w : BitVec 64) : BitVec 10 := w.extractLsb' 32 10
def semN (w : BitVec 64) : Word := w.extractLsb' 0 32
def semRsv (w : BitVec 64) : Bool := (w.toNat / 2 ^ 42) % 4 != 0

/-- The word with the OP code of its row. -/
def setSemOp (op : Nat) (w : BitVec 64) : BitVec 64 := BitVec.ofNat 64 (op * 2 ^ 60 + w.toNat % 2 ^ 60)

/-- Status codes of R264. -/
inductive SemSt where
  | ok | deferred | fence | overflow | order | full | badop
deriving DecidableEq, Repr

def SemSt.code : SemSt → Nat
  | .ok => 0 | .deferred => 1 | .fence => 2 | .overflow => 3 | .order => 4 | .full => 5 | .badop => 6

/-- The acknowledgement word. -/
def ackWord (st : SemSt) (tag : BitVec 16) (idx : BitVec 10) (v : Word) : BitVec 64 :=
  BitVec.ofNat 64 (st.code * 2 ^ 60 + tag.toNat * 2 ^ 44 + idx.toNat * 2 ^ 32 + v.toNat)

/-! ### The procedure of R265 -/

/-- The comparison of a waiter's target: signed in count mode, by serial number in sequence mode. -/
def Sem.satisfied (e : Sem) (n : Word) : Bool := if e.seq then (e.value - n).toNat < 2 ^ 31 else !e.value.slt n

/-- `apply` of R265 on the entry's value: the new value and the status. -/
def Sem.applied (e : Sem) (add : Bool) (n : Word) : Word × SemSt :=
  if e.seq then (if add then e.value + n else e.value - n, .ok)
  else
    let t : Int := e.value.toInt + (if add then n.toInt else -n.toInt)
    let c : Int := min (max t (-(2 ^ 31 - 1))) (2 ^ 31 - 1)
    (BitVec.ofInt 32 c, if c = t then .ok else .overflow)

/-- What the store does with an operation. -/
inductive SemAct where
  /-- Acknowledge at once with this status and value. -/
  | answer (st : SemSt) (v : Word)
  /-- The entry takes a new state, then acknowledge. -/
  | change (e : Sem) (st : SemSt)
  | hold
  | wait
deriving DecidableEq, Repr

/-- The tests of R265 in their order.  `p`: the source partition; `nd`, `nw`: its deferred operations and waiters on
the store; `quota`: its waiter quota. -/
def semPerform (e : Sem) (w : BitVec 64) (p : Option (Fin 32)) (nd nw quota : Nat) : SemAct :=
  let mine := match p with | none => false | some p => e.owner.toNat = p.val || e.share.getLsbD p.val
  let op := semOpOf w
  if e.owner = 63 || !mine then .answer .fence 0
  else if op = 0 || 4 < op || semRsv w then .answer .badop e.value
  else if op ≤ 2 then
    if !e.seq && semN w == 0x80000000 then .answer .badop e.value
    else if e.share ≠ 0 then (if 64 ≤ nd then .answer .full e.value else .hold)
    else if 2 ^ 15 ≤ (semTag w - e.tag).toNat then .answer .order e.value
    else
      let e1 := if semTag w = e.tag then e else { e with snap := e.value, tag := semTag w }
      let r := e1.applied (op = 1) (semN w)
      .change { e1 with value := r.1 } r.2
  else if op = 4 then .answer .ok e.value
  else if e.satisfied (semN w) then .answer .ok e.value
  else if quota ≤ nw then .answer .full e.value
  else .wait

/-- A change in the owner's step `n`, with the mark of R270: the operations of one step have carried two tags.  The mark stays until
a later step takes SNAP anew. -/
def SemAct.marked (a : SemAct) (old : Sem) (n : Nat) : SemAct :=
  match a with
  | .change e st =>
    .change { e with
      mixed := if old.step = some n then old.mixed || e.tag != old.tag else old.mixed && e.tag == old.tag
      step := some n } st
  | b => b

/-- Reads of uncorrectable entries: each is EVT_SRAM_UE, and a notice to every partition that the entry concerns (R259, R458,
R460); `p`: the partition of the operation, if there is one. -/
structure SemRead where
  site : Fin 64
  idx : BitVec 10
  p : Option (Fin 32)
deriving DecidableEq, Repr

/-- A waiter whose target the entry's value meets. -/
def Waiter.isReady (x : Waiter) (site : Fin 64) (idx : BitVec 10) (e : Sem) : Bool :=
  x.site == site && x.index == idx && e.satisfied x.n

/-- The acknowledgement of a released waiter. -/
def releaseFlit (e : Sem) (x : Waiter) : Flit :=
  mkFlit 0 (storeAt x.site) x.src.port0 (some x.part) x.src.key (.semAck (ackWord .ok x.tag x.index e.value))

/-- Releases of the waiters that a change satisfies, oldest first. -/
def releases (ws : List Waiter) (site : Fin 64) (idx : BitVec 10) (e : Sem) : List Flit :=
  (ws.filter fun x => x.isReady site idx e).map (releaseFlit e)

def semKey (site : Fin 64) (idx : BitVec 10) : Nat := site.val * 1024 + idx.toNat

/-- Adds to a partition's audit sum on a site (R273). -/
def addAudit (parts : SMap Part) (owner : BitVec 6) (site : Fin 64) (d : Word) : SMap Part :=
  if owner.toNat < 32 then
    let x := SMap.get Part.init parts owner.toNat
    SMap.set Part.init parts owner.toNat
      { x with auditSum := SMap.set 0 x.auditSum site.val (SMap.get 0 x.auditSum site.val + d) }
  else parts

/-- The waiter quota of a partition at a site (R260).  One that may operate on a shared entry there and has no quota from the furnish waits
for none: DESIGN CHOICE, log entry 21. -/
def State.quota (s : State) (p : Fin 32) (site : Fin 64) : Nat :=
  match s.furnish.bind fun f => f.quotas.find? fun q => q.part = p && q.site = site with
  | none => 0 | some q => q.quota

/-- A record of the semaphore store (unit 9). -/
def State.storeRecord (s : State) (site : Fin 64) (p : Option (Fin 32)) (ev : BitVec 16) (d : BitVec 64) : BbxRec :=
  (s.site site).record s.sup site 9 p ev d

/-- A notice that starts beside a site's store (unit 9). -/
def storeNotice (n : Net) (site : Fin 64) (p : Fin 32) (k : NoticeKind) (ev : BitVec 16) : Flit :=
  mkFlit 0 (storeAt site) n.supAt (some p) 0 (.notice ⟨k, 0, ev, none, none, none⟩)

/-- The partitions that an uncorrectable entry concerns (R460): the owner and those in SHARE. -/
def Sem.concerned (e : Sem) : List (Fin 32) :=
  allParts.filter fun p => e.owner.toNat = p.val || e.share.getLsbD p.val

/-- The first step of the partition that the couch has not finished. -/
def Couch.openStep (c : Couch) : Nat := if c.fresh then 0 else if c.released then c.step.toNat + 1 else c.step.toNat

/-- The couch has finished with step `n`, by release or by ending its slots (R268). -/
def Part.stepClosed (x : Part) (n : Nat) : Bool := n < x.couch.openStep

def State.semUe (s : State) (x : SemRead) : State :=
  let e := s.sem x.site x.idx
  { s with
    net := s.net.send (e.concerned.map fun q => storeNotice s.net x.site q .hardware evtSramUe)
    bbx := s.bbx.siteLog x.site (s.storeRecord x.site x.p evtSramUe (BitVec.ofNat 64 (3 * 2 ^ 60 + x.site.val * 2 ^ 54 + x.idx.toNat))) }

def State.semUes (s : State) : List SemRead → State
  | [] => s
  | x :: r => (s.semUe x).semUes r

/-- The uncorrectable entries that a sweep of entries satisfying `q` reads: key and entry. -/
def uncorrectableSems (m : SMap Sem) (q : Nat → Sem → Bool) (p : Option (Fin 32)) : List SemRead :=
  (m.filter fun e => e.2.ecc = .double && q e.1 e.2).map fun e => ⟨Fin.ofNat 64 (e.1 / 1024), BitVec.ofNat 10 (e.1 % 1024), p⟩

/-- The flit of an operation from a tile to a store. -/
def semOpFlit (site : Fin 64) (src : PTile) (w : BitVec 64) (f : Flit) : Bool :=
  f.isFor 0 (storeAt site) && f.src == src.key && f.msg == .semOp w

/-- One operation arrives at a store and is performed (R265, R266).  Its step is that in which its tile stands: a tile closes no step
before the store has acknowledged its operations (R292). -/
def State.semOp (s : State) (site : Fin 64) (src : PTile) (w : BitVec 64) : State :=
  let p := (s.tile src).pl.part
  let idx := semIdx w
  let e := s.sem site idx
  let nd := (s.deferred.filter fun d => d.site = site && some d.part == p).length
  let nw := (s.waiters.filter fun x => x.site = site && some x.part == p).length
  let quota := match p with | none => 0 | some p => s.quota p site
  let now := (s.tile src).sc.step.toNat
  let act := (semPerform e w p nd nw quota).marked e now
  let ack (st : SemSt) (v : Word) : Flit :=
    mkFlit 0 (storeAt site) src.port0 p src.key (.semAck (ackWord st (semTag w) idx v))
  let n := s.net.drop (semOpFlit site src w)
  let st := match act with | .answer st _ => st | .change _ st => st | .hold => .deferred | .wait => .ok
  let e' := match act with | .change e' _ => e' | _ => e
  ({ s with
    sems := match act with | .change e' _ => SMap.set Sem.unowned s.sems (semKey site idx) e' | _ => s.sems
    parts := match act with | .change e' _ => addAudit s.parts e.owner site (e'.value - e.value) | _ => s.parts
    waiters := match act with
      | .change e' _ => s.waiters.filter fun x => !x.isReady site idx e'
      | .wait => s.waiters ++ (match p with | none => [] | some p => [⟨site, idx, semN w, semTag w, p, src⟩])
      | _ => s.waiters
    deferred := match act, p with | .hold, some p => s.deferred ++ [⟨site, p, w, now⟩] | _, _ => s.deferred
    net := n.send ((match act with
      | .answer st v => [ack st v]
      | .change e' st => [ack st e'.value]
      | .hold => [ack .deferred e.value]
      | .wait => []) ++ (match act with | .change e' _ => releases s.waiters site idx e' | _ => []))
    ctrs := match st with
      | .fence => ctrAdd s.ctrs site .semFence 1
      | .overflow | .order | .full | .badop => ctrAdd s.ctrs site .semError 1
      | _ => s.ctrs
    sites := match act with
      | .wait => SMap.set Site.init s.sites site.val { s.site site with
          waitHigh := max (s.site site).waitHigh ((s.waiters.filter fun x => x.site = site).length + 1) }
      | _ => s.sites } : State).semUes (if e.ecc = .double then [⟨site, idx, p⟩] else [])

/-- The store can perform the operation: its site is up (R259: it is powered from the network island), and the operation has arrived
in its tile's order (R237, R266). -/
def State.storeTakes (s : State) (site : Fin 64) (src : PTile) (w : BitVec 64) : Bool :=
  (s.site site).up && s.net.ready (semOpFlit site src w)

def execSemOpAdd (site : Fin 64) (src : PTile) (op : BitVec 64) (s : State) : Out :=
  .next (if s.storeTakes site src (setSemOp 1 op) then s.semOp site src (setSemOp 1 op) else s)
def execSemOpSub (site : Fin 64) (src : PTile) (op : BitVec 64) (s : State) : Out :=
  .next (if s.storeTakes site src (setSemOp 2 op) then s.semOp site src (setSemOp 2 op) else s)
def execSemOpWaitGe (site : Fin 64) (src : PTile) (op : BitVec 64) (s : State) : Out :=
  .next (if s.storeTakes site src (setSemOp 3 op) then s.semOp site src (setSemOp 3 op) else s)
def execSemOpRead (site : Fin 64) (src : PTile) (op : BitVec 64) (s : State) : Out :=
  .next (if s.storeTakes site src (setSemOp 4 op) then s.semOp site src (setSemOp 4 op) else s)

/-! ### Deferred operations (R268) -/

/-- What the performance of deferred operations changes. -/
structure SemFx where
  sems : SMap Sem
  waiters : List Waiter
  parts : SMap Part
  flits : List Flit
  /-- The uncorrectable entries read. -/
  ues : List SemRead
deriving DecidableEq, Repr

/-- Performs one deferred operation: `apply` alone, then the releases. -/
def SemFx.one (x : SemFx) (d : Deferred) : SemFx :=
  let idx := semIdx d.word
  let e := SMap.get Sem.unowned x.sems (semKey d.site idx)
  let e' := { e with value := (e.applied (semOpOf d.word = 1) (semN d.word)).1 }
  { sems := SMap.set Sem.unowned x.sems (semKey d.site idx) e'
    waiters := x.waiters.filter fun y => !y.isReady d.site idx e'
    parts := addAudit x.parts e.owner d.site (e'.value - e.value)
    flits := x.flits ++ releases x.waiters d.site idx e'
    ues := if e.ecc = .double then x.ues ++ [⟨d.site, idx, some d.part⟩] else x.ues }

/-- Performs the deferred operations of `p` whose step is finished, in arrival order. -/
def State.performDeferred (s : State) (p : Fin 32) : State :=
  let go := s.deferred.filter fun d => d.part = p && (s.part p).stepClosed d.step
  let r := go.foldl SemFx.one ⟨s.sems, s.waiters, s.parts, [], []⟩
  ({ s with
    sems := r.sems
    waiters := r.waiters
    parts := r.parts
    deferred := s.deferred.filter fun d => !(d.part = p && (s.part p).stepClosed d.step)
    net := s.net.send r.flits } : State).semUes r.ues

def execSemDeferredPerform (p : Fin 32) (s : State) : Out := .next (s.performDeferred p)

/-! ### At the issuing tile (R264, R272, R313) -/

/-- The semaphore command that an acknowledgement completes: the oldest that waits on that store and entry with that
tag. -/
def ackFor (x : Tile) (site : Fin 64) (ack : BitVec 64) : Option QCmd :=
  x.sq.find? fun q => q.st = .issued && semSite q.ra == site && q.ra % 1024 == (semIdx ack).toNat && q.tag == semTag ack

/-- The reaction to a status (R264): FENCE is a deckle fault with EVT_SEM_FENCE, the others EVT_SEM_ERROR; each is
logged at most once per tile per step and not replayed. -/
def Fx.semStatus (f : Fx) (c : Ctx) (q : QCmd) (st : Nat) : Fx :=
  if st < 2 then f
  else if st = 2 then (f.raise c 6 evtDeckle (BitVec.ofNat 64 (q.detail .sq)) .program true).raise c 6 evtSemFence
    (BitVec.ofNat 64 (q.detail .sq)) .program true
  else f.raise c 6 evtSemError (BitVec.ofNat 64 (q.detail .sq)) .program true

/-- The flit of an acknowledgement from a store to a tile. -/
def semAckFlit (t : PTile) (site : Fin 64) (ack : BitVec 64) (f : Flit) : Bool :=
  f.isFor 0 t.port0 && f.origin == ((storeAt site).1, (storeAt site).2.1) && f.msg == .semAck ack

/-- An acknowledgement arrives, in its store's order (R237): an SREAD writes its register, the status is reacted to, the command
completes. -/
def execSemAckArrival (t : PTile) (site : Fin 64) (ack : BitVec 64) (s : State) : Out :=
  .next (match ackFor (s.tile t) site ack with
    | none => s
    | some q =>
      if (s.site t.site).up = true ∧ s.net.ready (semAckFlit t site ack) = true then
        let s1 := s.onTile t true fun c f =>
          let x := f.tile
          let f1 := if q.op = .sread then f.set { x with sc := x.sc.setReg q.f3 (semN ack) } else f
          (f1.semStatus c q (ack.toNat / 2 ^ 60)).finish c .sq q.seq
        { s1 with net := s1.net.drop (semAckFlit t site ack) }
      else s)

/-- An ADD, SUB or READ has waited 4,096 net cycles (R272): EVT_SEM_NOACK, recoverable; each such operation is
reported once. A WAIT_GE has no timeout. -/
def timedOut (x : Tile) : Option QCmd :=
  x.sq.find? fun q => q.st = .issued && q.op ≠ .swait && 4096 ≤ q.age && !q.slipped.contains 0x100

def execSemAckTimeout (t : PTile) (s : State) : Out :=
  .next (match timedOut (s.tile t) with
    | none => s
    | some q => s.onTile t (s.site t.site).up fun c f =>
      (f.set { f.tile with sq := updCmd q.seq (fun e => { e with slipped := e.slipped ++ [0x100] }) f.tile.sq }).raise
        c 6 evtSemNoack 0 .recov false)

end Sys2Proof.Machine
end

