-- ==== Sys2Proof/Machine/Pool.lean ====
section
/-! DEFINITION. The page pool and the prefix tree of a partition (R392, R413–R417, R420), the reference counts of
adapter slots (R443–R446), and what a partition keeps when a slot becomes FREE. -/

namespace Sys2Proof

def ceilDiv (a b : Nat) : Nat := (a + b - 1) / b

/-- The page size Pb of R347 and the summary size S1 of R371. -/
def Descriptor.pb (d : Descriptor) : Nat := 8896 * d.kvHeads
def Descriptor.s1 (d : Descriptor) : Nat := 256 * d.kvHeads

/-- Frames that `np` pages, `n1` level-1 and `n2` level-2 summaries fill, in every layer range (R392). -/
def Descriptor.frames (d : Descriptor) (np n1 n2 : Nat) : Nat :=
  d.layers * (ceilDiv (np * d.pb) 65536 + ceilDiv (n1 * d.s1) 65536 + ceilDiv (n2 * d.s1) 65536)

/-- The reservation of a model for `lres` positions (R392). -/
def Descriptor.need (d : Descriptor) (lres : Nat) : Nat := d.frames (ceilDiv lres 64) (ceilDiv lres 64) (ceilDiv lres 64 / 64)

/-- Frames with a byte written when `lc` positions are committed and `fl` more are in flight (R372, R377, R378). -/
def Descriptor.written (d : Descriptor) (lc fl : Nat) : Nat := d.frames (ceilDiv (lc + fl) 64) (lc / 64) (lc / 4096)

/-- Page frames wholly covered by the pages of `m` blocks. -/
def Descriptor.shared (d : Descriptor) (m : Nat) : Nat := d.layers * (m * d.pb / 65536)

end Sys2Proof

namespace Sys2Proof.Machine

def Part.model (x : Part) (id : BitVec 16) : Option ModelInfo := x.models.find? (·.id = id)

/-- Frames of a model's key/value space, by `g`; none for a model that is not resident. -/
def Part.framesOf (x : Part) (id : BitVec 16) (g : Descriptor → Nat) : Nat :=
  match x.model id with | none => 0 | some m => g m.desc

/-- The mapping of a page of a handle. -/
def Part.mapOf (x : Part) (h : BitVec 16) (v : Nat) : Option PageMap := x.maps.find? fun m => m.handle == h && m.vpage == v

def Part.adapter (x : Part) (k : Nat) : AdSlot := SMap.get AdSlot.init x.adapters k

/-- The CURRENT slot of an adapter id. -/
def Part.current (x : Part) (id : BitVec 16) : Option Nat :=
  (x.adapters.find? fun e => e.2.st == .current && e.2.id == id).map (·.1)

/-! ### The prefix tree (R413–R416) -/

/-- The key of a request's nodes, as a node without a path. -/
def Part.keyOf (x : Part) (model : BitVec 16) (adapt : Option (Fin 64)) (exact : Bool) (seed : BitVec 64) : PNode :=
  ⟨0, model, adapt.map fun k => ((x.adapter k.val).id, (x.adapter k.val).version), exact, seed, [], 0, 0, [], 0⟩

def PNode.sameKey (a b : PNode) : Bool :=
  a.model == b.model && a.adapter == b.adapter && a.exact == b.exact && a.seed == b.seed

/-- The whole blocks of a token list. -/
def blocksOf (l : List Word) : List (List Word) := (List.range (l.length / 64)).map fun i => (l.drop (64 * i)).take 64

/-- The node of a key and path. -/
def Part.node (x : Part) (key : PNode) (path : List (List Word)) : Option PNode :=
  x.nodes.find? fun n => n.sameKey key && n.path == path

/-- How many of the first `n` blocks the tree holds, in turn from the root. -/
def Part.depth (x : Part) (key : PNode) (bs : List (List Word)) : Nat → Nat
  | 0 => 0
  | n + 1 => if ((List.range (n + 1)).all fun i => (x.node key (bs.take (i + 1))).isSome) then n + 1 else x.depth key bs n

/-- The ids of the nodes of the first `m` blocks. -/
def Part.pathNodes (x : Part) (key : PNode) (bs : List (List Word)) (m : Nat) : List Nat :=
  (List.range m).filterMap fun i => (x.node key (bs.take (i + 1))).map (·.id)

/-- A node that no slot references and that has no child (R416: leaves before their parents). -/
def Part.leaf (x : Part) (n : PNode) : Bool :=
  n.refs == 0 && !x.nodes.any fun c => c.sameKey n && c.path.length == n.path.length + 1 && c.path.take n.path.length == n.path

/-- The evictable leaf least recently matched. -/
def Part.victim (x : Part) : Option PNode :=
  (x.nodes.filter x.leaf).foldl (fun a n => match a with
    | none => some n
    | some b => if n.matched < b.matched then some n else some b) none

/-- The partition without some nodes: their frames return to the free pool, but for those kept (R460). -/
def Part.dropNodes (x : Part) (q : PNode → Bool) : Part :=
  let f := ((x.nodes.filter q).map (·.frames)).sum
  let k := min f (((x.nodes.filter q).flatMap (·.pages)).filter fun e => x.kept.contains e.2).length
  { x with nodes := x.nodes.filter fun n => !q n, used := x.used - f + k, free := x.free + (f - k) }

/-- No slot references the node or one below it, so that eviction can come to it, leaves before their parents (R416). -/
def Part.mayGo (x : Part) (n : PNode) : Bool :=
  x.nodes.all fun c => c.refs == 0 || !(c.sameKey n && c.path.take n.path.length == n.path)

/-- Frames that eviction can free (R390, R416). -/
def Part.evictable (x : Part) : Nat :=
  let ns := x.nodes.filter x.mayGo
  (ns.map (·.frames)).sum - ((ns.flatMap (·.pages)).filter fun e => x.kept.contains e.2).length

/-- Evicts until `need` frames are free; `fuel` bounds the nodes. -/
def Part.evict : Nat → Part → Nat → Part
  | 0, x, _ => x
  | k + 1, x, need =>
    if need ≤ x.free then x
    else match x.victim with
      | none => x
      | some v => Part.evict k (x.dropNodes fun n => n.id == v.id) need

/-- References to the nodes with the given ids rise or fall by 1. -/
def Part.refNodes (x : Part) (ids : List Nat) (up : Bool) (now : Nat) : Part :=
  { x with nodes := x.nodes.map fun n => if ids.contains n.id then
      { n with refs := if up then n.refs + 1 else n.refs - 1, matched := if up then now else n.matched } else n }

/-! ### Adapter slots (R443–R446) -/

/-- An OLD slot that no request holds becomes FREE, and the tree's nodes of that version go (R445). -/
def Part.retireOld (x : Part) (k : Nat) : Part :=
  let a := x.adapter k
  if a.st = .old ∧ a.count = 0 then
    { (x.dropNodes fun n => n.adapter == some (a.id, a.version)) with adapters := SMap.set AdSlot.init x.adapters k AdSlot.init }
  else x

/-- The lowest FREE slot. -/
def Part.freeAdapter (x : Part) : Option Nat := (List.range 64).find? fun k => (x.adapter k).st == .free

/-- The oldest pending install starts in a FREE slot (R444). -/
def Part.startPending (x : Part) : Part :=
  match x.pend, x.freeAdapter with
  | p :: r, some k => { x with pend := r, adapters := SMap.set AdSlot.init x.adapters k ⟨.filling, p.id, p.version, 0, p.digest⟩ }
  | _, _ => x

/-- As many of the oldest pending installs start as FREE slots are there. -/
def Part.startAllPending (x : Part) : Part := x.pend.foldl (fun x _ => x.startPending) x

/-- A request's slot gives up its adapter slot (R445). -/
def Part.unbind (x : Part) : Option (Fin 64) → Part
  | none => x
  | some k =>
    let a := x.adapter k.val
    (({ x with adapters := SMap.set AdSlot.init x.adapters k.val { a with count := a.count - 1 } } : Part).retireOld
      k.val).startPending

/-- The frames of a slot's own that stay used when it gives up the others, being kept (R460). -/
def Part.stays (x : Part) (y : Slot) : Nat :=
  min (y.rsv + y.used) (x.maps.filter fun m => y.holds m.handle && m.own && x.kept.contains m.frame && !x.treeHolds m.frame).length

/-- What the partition takes back when slot `y` becomes FREE (R420). -/
def Part.releaseSlot (x : Part) (y : Slot) : Part :=
  (({ x with
    free := x.free + (y.rsv + y.used - x.stays y), rsv := x.rsv - y.rsv, used := x.used - y.used + x.stays y
    maps := x.maps.filter fun m => !y.holds m.handle } : Part).refNodes y.nodes false 0).unbind y.adapt

def Part.releaseAll (x : Part) : List Slot → Part
  | [] => x
  | y :: r => (x.releaseSlot y).releaseAll r

/-! ### Conservation (R417, R473) -/

/-- Pages: free + reserved + used = total, and reserved + used = the slots' frames, the tree's and those kept beside them. -/
def Part.pagesOk (x : Part) (slots : List Slot) : Bool :=
  x.free + x.rsv + x.used == x.total &&
    x.rsv + x.used == (slots.map fun y => y.rsv + y.used).sum + (x.nodes.map (·.frames)).sum + x.loose.length

end Sys2Proof.Machine
end

