-- ==== Sys2Proof/Machine/Network.lean ====
section
/-! DEFINITION. The network (R224–R250): hops with credits and hop CRC, arrivals with end-to-end CRC, press and
multicast trees, injection into them, credits and their audit; the semaphore audit of R273. -/

namespace Sys2Proof.Machine

/-! ### Links (R236, R248) -/

def vcDepth (vc : Nat) : Nat := if vc = 0 then 4 else if vc = 1 then 8 else 16

/-- Key of a link direction's channel: sending router, its port, the channel. -/
def linkKey (router port vc : Nat) : Nat := (router * 10 + port) * 4 + vc

def Net.link (n : Net) (k : Nat) : LinkCnt := SMap.get LinkCnt.init n.links k

/-- Credits available at the sender. -/
def LinkCnt.avail (x : LinkCnt) (vc : Nat) : Nat := vcDepth vc - x.aOff.toNat

/-- A flit crosses the link: a credit is taken, S and R count. -/
def LinkCnt.cross (x : LinkCnt) : LinkCnt := { x with s := x.s + 1, aOff := x.aOff + 1, r := x.r + 1 }

/-- The receiver frees a buffer slot and returns its credit. -/
def LinkCnt.free (x : LinkCnt) : LinkCnt := { x with c := x.c + 1 }

def freeVia (m : SMap LinkCnt) : Option Nat → SMap LinkCnt
  | none => m
  | some k => SMap.set LinkCnt.init m k (SMap.get LinkCnt.init m k).free

/-! ### Hops (R226–R228, R236, R246) -/

/-- The port by which a flit leaves the router where it waits: that of its one path (R227, R228), or of the path from there
where the routers declared bad since have moved it; none at its destination. -/
def Net.outPort (n : Net) (f : Flit) : Option Nat :=
  if f.col = f.dcol ∧ f.row = f.drow then none
  else match (pathOf n.badRouters f.origin (f.dcol, f.drow)).find? fun l => l.1 == f.col && l.2.1 == f.row with
    | some l => some l.2.2
    | none => ((pathOf n.badRouters (f.col, f.row) (f.dcol, f.drow)).head?).map (·.2.2)

/-- The flits that wait at (c, r) for an output channel, oldest first. -/
def Net.waiting (n : Net) (c r port : Nat) (vc : Vc) : List Flit :=
  n.flits.filter fun f => f.vc == vc && f.col == c && f.row == r && n.outPort f == some port

/-- The first of the numbers that a list holds, in the cyclic order of `n` numbers that begins at `k`. -/
def inTurn (n k : Nat) (l : List Nat) : Option Nat := ((List.range n).map fun i => (k + i) % n).find? l.contains

/-- Whose turn it is on an output channel that has a credit: the oldest flit of the next input in port order (R236). -/
def Net.next (n : Net) (c r port : Nat) (vc : Vc) : Option Flit :=
  let k := linkKey (tileAt c r).key port vc.val
  let l := n.waiting c r port vc
  if (n.link k).avail vc.val = 0 then none
  else (inTurn 10 (SMap.get 0 n.turns k) (l.map (·.inPort))).bind fun q => l.find? (·.inPort == q)

/-- The channel that an output port serves next: VC0 before all others, those in turn (R236). -/
def Net.nextVc (n : Net) (c r port : Nat) : Option Nat :=
  if (n.next c r port 0).isSome then some 0
  else (inTurn 3 (SMap.get 0 n.vcTurns ((tileAt c r).key * 10 + port))
    ((([1, 2, 3] : List Vc).filter fun v => (n.next c r port v).isSome).map fun v => v.val - 1)).map (· + 1)

/-- The flit that crosses into router `r` by `port` next, if it is one of channel `vc`. -/
def Net.crossing (n : Net) (r : PTile) (port : Fin 10) (vc : Vc) : Option Flit :=
  match joined r port with
  | .router c w => if n.nextVc c w (opposite port.val) = some vc.val then n.next c w (opposite port.val) vc else none
  | _ => none

/-- The turns after an output has served flit `f` of a channel. -/
def Net.served (n : Net) (c r port : Nat) (f : Flit) : Net :=
  { n with
    turns := SMap.set 0 n.turns (linkKey (tileAt c r).key port f.vc.val) ((f.inPort + 1) % 10)
    vcTurns := if f.vc = 0 then n.vcTurns else SMap.set 0 n.vcTurns ((tileAt c r).key * 10 + port) (f.vc.val % 3) }

/-- Replaces the oldest flit that satisfies `q`. -/
def replFlit (q : Flit → Bool) (g : List Flit) : List Flit → List Flit
  | [] => []
  | f :: r => if q f then g ++ r else f :: replFlit q g r

/-- A record of a router (unit 7): port, channel and tile. -/
def routerRecord (s : State) (r : PTile) (p : Option (Fin 32)) (ev : BitVec 16) (port vc : Nat) : BbxRec :=
  (s.site r.site).record s.sup r.site 7 p ev
    (BitVec.ofNat 64 (port * 2 ^ 12 + vc * 2 ^ 10 + 16 * r.y.val + r.x.val))

/-- A notice that starts at a router. -/
def routerNotice (s : State) (r : PTile) (p : Fin 32) (k : NoticeKind) (ev : BitVec 16) : Flit :=
  mkFlit 0 r.port0 s.net.supAt (some p) r.key (.notice ⟨k, 0, ev, none, none, none⟩)

/-- The notice of a hop CRC failure, which names the link (R246). -/
def linkNotice (s : State) (r : PTile) (link : Nat) : Flit :=
  mkFlit 0 r.port0 s.net.supAt none r.key (.notice ⟨.recorded, 0, evtNetHcrc, none, some link, none⟩)

/-- The flit is for a tile outside its partition (R16). -/
def State.fenced (s : State) (r : PTile) (f : Flit) : Bool :=
  f.part.isSome && f.dcol == r.col && f.drow == r.row && f.dport == 0 && (s.tile r).pl.part != f.part &&
    match f.msg with | .tree _ _ _ _ _ _ => false | _ => true

/-- A rejected flit: the fence counter, EVT_DECKLE against its partition, a notice of a fatal program error. -/
def deckleNotice (s : State) (r : PTile) (p : Option (Fin 32)) : List Flit :=
  match p with | none => [] | some p => [routerNotice s r p .program evtDeckle]

/-- A part's data or request has reached the scratchpad it is for: the access arrives at a bank of tile `r` (R193). -/
def State.reachesBank (s : State) (r : PTile) (f : Flit) : SMap Tile :=
  let x := SMap.get Tile.init s.tiles f.src
  if f.dcol = r.col ∧ f.drow = r.row ∧ f.dport = 0 ∧ f.isData f.src = true ∧ x.dma.ph = .access ∧ f.src ≠ r.key then
    SMap.set Tile.init s.tiles f.src { x with dma := x.dma.atBank r.key (s.tile r).sc.cyc.toNat }
  else s.tiles

/-- One hop: the flit whose turn it is crosses the link into `r` by `port`; it needs a credit. -/
def execFlitHop (r : PTile) (port : Fin 10) (vc : Vc) (crcOk : Bool) (s : State) : Out :=
  .next (match s.net.crossing r port vc with
    | none => s
    | some f =>
      if (s.site r.site).up = false then s
      else
        let k := linkKey (tileAt f.col f.row).key (opposite port.val) vc.val
        let n := s.net.served f.col f.row (opposite port.val) f
        let m := SMap.set LinkCnt.init (freeVia n.links f.via) k (SMap.get LinkCnt.init (freeVia n.links f.via) k).cross
        if !crcOk then
          { s with
            net := { n with flits := replFlit (· == f) [] n.flits ++ [linkNotice s r k], links := freeVia m (some k) }
            ctrs := ctrAdd s.ctrs r.site .hcrc 1
            bbx := s.bbx.siteLog r.site (routerRecord s r f.part evtNetHcrc port.val vc.val) }
        else if s.fenced r f then
          { s with
            net := { n with flits := replFlit (· == f) [] n.flits ++ deckleNotice s r f.part, links := freeVia m (some k) }
            ctrs := ctrAdd s.ctrs r.site .netFence 1
            bbx := s.bbx.siteLog r.site (routerRecord s r f.part evtDeckle port.val vc.val) }
        else
          let here := f.dcol == r.col && f.drow == r.row
          let tree := match f.msg with | .tree _ _ _ _ _ _ => true | _ => false
          let g := { f with col := r.col, row := r.row, inPort := port.val,
                            via := if here && !tree then none else some k
                            inval := f.inval || (s.site r.site).window.isSome || (s.site (tileAt f.col f.row).site).window.isSome }
          { s with
            tiles := s.reachesBank r f
            net := { n with
              flits := replFlit (· == f) [g] n.flits
              links := if here && !tree then freeVia m (some k) else m } })

/-- An end-to-end mismatch at a tile, of what came by a port and a channel (R247, R477). -/
def Fx.netE2e (f : Fx) (c : Ctx) (port vc : Nat) : Fx :=
  (f.raise c 7 evtNetE2e (BitVec.ofNat 64 (port * 2 ^ 12 + vc * 2 ^ 10 + 16 * c.t.y.val + c.t.x.val)) .recov true).count .e2e 1

/-- The last flit of a transfer arrives at a tile; a CRC-32 that does not match is EVT_NET_E2E (R247).  What has crossed a site in a
supply-warning window is invalid (R521). -/
def execTransferArrival (t : PTile) (crcOk : Bool) (s : State) : Out :=
  let g := s.net.flits.find? fun f => f.arrived t.port0 && f.msg == .data true
  .next (if (s.site t.site).up then
      let s1 := s.onTile t true fun c f =>
        let f1 := f.invalidate (g.any (·.inval))
        if crcOk then f1 else f1.netE2e c ((g.map (·.inPort)).getD 0) ((g.map (·.vc.val)).getD 1)
      { s1 with net := s1.net.drop fun f => f.arrived t.port0 && f.msg == .data true }
    else s)

/-! ### Trees (R240–R244) -/

def Net.tree (n : Net) (r : PTile) (id : BitVec 8) : TreeEntry := SMap.get TreeEntry.init n.trees (r.key * 256 + id.toNat)

/-- The fields of a tree flit. -/
structure TreeFlit where
  id : BitVec 8
  rank : BitVec 4
  use : Bool
  index : Nat
  words : List Word
  ovf : Bool
  /-- It, or an input of it, crossed a site in a supply-warning window (R521). -/
  inval : Bool
deriving DecidableEq, Repr

def Flit.asTree (f : Flit) : Option TreeFlit :=
  match f.msg with | .tree id rank use index words ovf => some ⟨id, rank, use, index, words, ovf, f.inval⟩ | _ => none

/-- A tree flit that stands at router `r`, entered by `port`, in an entry of the kind. -/
def Net.treeAt (n : Net) (r : PTile) (port : Nat) (multicast : Bool) (f : Flit) : Bool :=
  match f.asTree with
  | none => false
  | some x => f.col == r.col && f.row == r.row && f.dcol == r.col && f.drow == r.row && f.inPort == port &&
      (!(n.tree r x.id).v || (n.tree r x.id).kind == multicast)

/-- The ports of a mask. -/
def maskPorts (m : BitVec 10) : List Nat := (List.range 10).filter m.getLsbD

/-- A flit from router `r` of partition `p` out of `port` into the next router's entry.  In the output's round robin it counts under
the output port's own number, R236 naming no input port for what a press unit or a multicast entry sends (DESIGN CHOICE, log entry
75). -/
def treeFlit (r : PTile) (port : Nat) (p : BitVec 5) (x : TreeFlit) : Flit :=
  let b := beyond r.col r.row port
  { vc := 3, col := r.col, row := r.row, inPort := port, dcol := b.1, drow := b.2, dport := opposite port,
    part := some (Fin.ofNat 32 p.toNat), src := r.key, via := none, origin := r.place, bankWait := none, inval := x.inval
    msg := .tree x.id x.rank x.use x.index x.words x.ovf }

/-- Local delivery of a flit (R240, R242, R244): a row of the tile's scratchpad through the DMA port; an overflow bit
counts in PRESSOVF. -/
def Fx.deliver (f : Fx) (c : Ctx) (e : TreeEntry) (x : TreeFlit) : Fx :=
  let off := (e.lrow.toNat + x.index) * 64
  let g := (f.invalidate x.inval).set { (f.invalidate x.inval).tile with sc := { f.tile.sc with
    pressovf := if x.ovf then satAdd f.tile.sc.pressovf 1 else f.tile.sc.pressovf } }
  if 0x200000 < off + 64 then g.deckle c 7 0
  else if f.tile.mem.bankDead [bankOf off] then g.bankOff c 7 (g.tile.sc.pc.toNat * 2 ^ 32)
  else g.writeScr c 7 off (wordBytes x.words)

/-- One press addition: FP32 with one rounding, or I32 with saturation. -/
def pressAdd (int32 : Bool) (a b : Word) : Word × Bool :=
  if int32 then (BitVec.ofInt 32 (satInt 32 (a.toInt + b.toInt)), decide (satInt 32 (a.toInt + b.toInt) ≠ a.toInt + b.toInt))
  else (fadd a b, false)

/-- The sum of the inputs in ascending rank (R241), and how many additions saturated. -/
def pressSum (int32 : Bool) (ins : List PressIn) : List Word × Nat :=
  let q := ins.insertionSort fun a b => a.rank.toNat ≤ b.rank.toNat
  let col (e : Nat) : Word × Nat :=
    match q with
    | [] => (0, 0)
    | x :: r => r.foldl (fun (acc : Word × Nat) y =>
        let z := pressAdd int32 acc.1 (y.words.getD e 0)
        (z.1, acc.2 + if z.2 then 1 else 0)) (x.words.getD e 0, 0)
  ((List.range 16).map fun e => (col e).1, ((List.range 16).map fun e => (col e).2).sum)

/-- What the press unit does with an input. -/
inductive PressAct where
  | drop | wait | hold | clash | sum (x : TreeFlit) (sat : Nat)
deriving DecidableEq, Repr

/-- The inputs of one index that are in the buffer. -/
def Net.inputs (n : Net) (r : PTile) (id : BitVec 8) (index : Nat) : List PressIn :=
  n.press.filter fun y => y.router == r.key && y.id == id && y.index == index

def TreeFlit.asInput (x : TreeFlit) (r : PTile) (port : Nat) : PressIn :=
  ⟨r.key, port, x.id, x.rank, x.use, x.index, x.words, x.ovf, x.inval⟩

/-- The checks of R242, the use bit, the buffer of 32 flits, and the sum when every input of the index is there. -/
def Net.pressAct (n : Net) (r : PTile) (port : Nat) (p : Option (Fin 32)) (x : TreeFlit) : PressAct :=
  let e := n.tree r x.id
  let ins := n.inputs r x.id x.index ++ [x.asInput r port]
  if !e.v || p.map (·.val) != some e.part.toNat || !e.pmask.getLsbD port then .drop
  else if x.use != e.use || 32 ≤ (n.press.filter fun y => y.router == r.key).length then .wait
  else if (maskPorts e.pmask).all fun q => ins.any fun y => y.port == q then
    if (ins.map (·.rank)).dedup.length < ins.length then .clash
    else .sum ⟨x.id, e.rank, e.use, x.index, (pressSum e.ty ins).1, ins.any (·.ovf) || (pressSum e.ty ins).2 != 0, ins.any (·.inval)⟩
      (pressSum e.ty ins).2
  else .hold

/-- The entry after a flit index is done: the use bit toggles after the last (R241). -/
def afterIndex (e : TreeEntry) (index : Nat) : TreeEntry :=
  if index = e.nflit.toNat then { e with use := !e.use } else e

/-- The drop of a tree flit at a router: fence counter, record, notice. -/
def State.treeDrop (s : State) (r : PTile) (port : Nat) (q : Flit → Bool) (f : Flit) : State :=
  { s with
    net := { s.net with
      flits := replFlit q [] s.net.flits ++ deckleNotice s r f.part
      links := freeVia s.net.links f.via }
    ctrs := ctrAdd s.ctrs r.site .netFence 1
    bbx := s.bbx.siteLog r.site (routerRecord s r f.part evtDeckle port 3) }

/-- The local delivery of a flit must wait: its bank wakes from RET or changes (R190, R244). -/
def State.deliveryWaits (s : State) (r : PTile) (e : TreeEntry) (x : TreeFlit) : Bool :=
  let off := (e.lrow.toNat + x.index) * 64
  decide (off + 64 ≤ 0x200000) && match (s.tile r).mem.answers off 64 with | .wait _ => true | _ => false

/-- The delivery waits in its flit, from its arrival at the bank on, a slip, and the bank wakes (R190). -/
def State.holdDelivery (s : State) (r : PTile) (q : Flit → Bool) (f : Flit) (e : TreeEntry) (x : TreeFlit) : State :=
  let g : Flit := { f with bankWait := some (f.bankWait.getD (s.tile r).sc.cyc.toNat) }
  let off := (e.lrow.toNat + x.index) * 64
  let s1 := s.onTile r true fun c h =>
    let h1 := match f.bankWait, h.tile.mem.answers off 64 with
      | none, .wait w => h.slip c w 5 h.tile.sc.pc
      | _, _ => h
    h1.set { h1.tile with mem := h1.tile.mem.wakeAll [bankOf off] }
  { s1 with net := { s1.net with flits := replFlit q [g] s1.net.flits } }

/-- A press flit reaches the press unit of router `r` (R241–R244).  A wrong CRC of the input, or an adder that differs from its
duplicate, is an end-to-end mismatch at the router's tile (R247, log entry 62). -/
def execPressInput (r : PTile) (port : Fin 10) (checks : PressChecks) (s : State) : Out :=
  let q := s.net.treeAt r port.val false
  .next (match s.net.flits.find? q with
    | none => s
    | some f =>
      match f.asTree with
      | none => s
      | some x =>
        if (s.site r.site).up = false then s
        else
          let e := s.net.tree r x.id
          let ek := r.key * 256 + x.id.toNat
          let s0 := s.onTile r (!checks.crc) fun c g => g.netE2e c port.val f.vc.val
          match s.net.pressAct r port.val f.part x with
          | .drop => s.treeDrop r port.val q f
          | .wait => s
          | .hold => { s0 with net := { s0.net with
              flits := replFlit q [] s0.net.flits
              links := freeVia s0.net.links f.via
              press := s0.net.press ++ [x.asInput r port.val] } }
          | .clash => { s0 with
              net := { s0.net with
                flits := replFlit q [] s0.net.flits ++ deckleNotice s r f.part
                links := freeVia s0.net.links f.via
                press := s0.net.press.filter fun y => !(y.router == r.key && y.id == x.id && y.index == x.index)
                trees := SMap.set TreeEntry.init s0.net.trees ek (afterIndex e x.index) }
              ctrs := ctrAdd s0.ctrs r.site .netFence (s.net.inputs r x.id x.index).length.succ
              bbx := s0.bbx.siteLog r.site (routerRecord s r f.part evtDeckle port.val 3) }
          | .sum y sat =>
            if e.port = 0 && s.deliveryWaits r e y then s.holdDelivery r q f e y
            else
              let s1 := s0.onTile r true fun c g =>
                let g1 := if checks.adder then g else g.netE2e c port.val f.vc.val
                let g2 := g1.count .pressovf sat
                if e.port = 0 then g2.deliver c e y else g2
              { s1 with net := { s1.net with
                flits := replFlit q [] s1.net.flits ++ (if e.port = 0 then [] else [treeFlit r e.port.toNat e.part y])
                links := freeVia s1.net.links f.via
                press := s1.net.press.filter fun z => !(z.router == r.key && z.id == x.id && z.index == x.index)
                trees := SMap.set TreeEntry.init s1.net.trees ek (afterIndex e x.index) } })

/-- A multicast flit: checked, and copied to every output of its entry (R242, R243). -/
def execMulticastFlit (r : PTile) (port : Fin 10) (s : State) : Out :=
  let q := s.net.treeAt r port.val true
  .next (match s.net.flits.find? q with
    | none => s
    | some f =>
      match f.asTree with
      | none => s
      | some x =>
        if (s.site r.site).up = false then s
        else
          let e := s.net.tree r x.id
          if !e.v || f.part.map (·.val) != some e.part.toNat || e.port.toNat != port.val then s.treeDrop r port.val q f
          else
            if e.pmask.getLsbD 0 && s.deliveryWaits r e x then s.holdDelivery r q f e x
            else
            let s1 := s.onTile r true fun c g => if e.pmask.getLsbD 0 then g.deliver c e x else g
            { s1 with net := { s1.net with
              flits := replFlit q [] s1.net.flits ++
                ((maskPorts e.pmask).filter (· != 0)).map fun p => treeFlit r p e.part { x with rank := 0 }
              links := freeVia s1.net.links f.via } })

/-! ### Injection (R311) -/

/-- Uses of an entry that the local tile has injected and that are not done: whose last flit waits at the router, or is held in
its press unit (R241, R244). -/
def Net.pendingUses (n : Net) (r : PTile) (id : BitVec 8) (last : Nat) : Nat :=
  (n.flits.filter fun f => f.inPort == 0 && f.dcol == r.col && f.drow == r.row && f.col == r.col && f.row == r.row &&
    match f.asTree with | some x => x.id == id && x.index == last | none => false).length +
  (n.press.filter fun y => y.router == r.key && y.port == 0 && y.id == id && y.index == last).length

/-- The flits of a DPRESS or DMCAST: consecutive rows into the own router's entry. -/
def treeInject (s : State) (t : PTile) (q : QCmd) : List Flit :=
  let x := s.tile t
  let id := BitVec.ofNat 8 q.rb
  let n := q.c.toNat
  let use := (s.net.tree t id).use != ((s.net.pendingUses t id (n - 1)) % 2 == 1)
  (List.range n).map fun i =>
    mkFlit 3 t.port0 t.port0 x.pl.part t.key
      (.tree id (if q.op = .dpress then BitVec.ofNat 4 (fld q.rb 11 8) else 0) use i
        ((List.range 16).map fun e => x.mem.read32 (q.ra + 64 * i + 4 * e)) false)

/-- The last flit of a DPRESS or DMCAST has been injected, in a cycle in which no other unit takes its row's bank (R193). -/
def execTreeInjectionComplete (t : PTile) (s : State) : Out :=
  .next (match (s.tile t).running .dq with
    | none => s
    | some q =>
      if (q.op = .dpress ∨ q.op = .dmcast) ∧ (s.site t.site).up = true ∧
          (q.c.toNat = 0 ∨ (s.tile t).portFree (q.ra + 64 * (q.c.toNat - 1)) 64 = true) then
        s.onTile t true fun c f =>
          let g := f.readEcc c 5 q.ra (64 * q.c.toNat)
          { g with flits := g.flits ++ treeInject s t q }.finish c .dq q.seq
      else s)

/-! ### Credits and their audit (R248–R250, R258) -/

/-- A credit returns to the sender; it does not pass an echo that is ahead of it. -/
def LinkCnt.credit (x : LinkCnt) : LinkCnt :=
  if x.c = x.g ∨ x.echo = some x.g then x else { x with g := x.g + 1, aOff := x.aOff - 1 }

def execCreditReturn (r : PTile) (port : Fin 10) (vc : Vc) (s : State) : Out :=
  let k := linkKey r.key port.val vc.val
  .next { s with net := { s.net with links := SMap.set LinkCnt.init s.net.links k (s.net.link k).credit } }

/-- The sender's local check A + (S − G) = depth. -/
def LinkCnt.balanced (x : LinkCnt) : Bool := x.s - x.g == x.aOff

/-- NET_AUDIT_LAST of a failed check (R258). -/
def auditWord (check vc port tile : Nat) : Word :=
  BitVec.ofNat 32 (2 ^ 31 + check * 2 ^ 24 + vc * 2 ^ 22 + port * 2 ^ 18 + tile)

/-- The sending router of a link key, its port and channel. -/
def linkRouter (k : Nat) : PTile := PTile.ofKey (k / 40)
def linkPort (k : Nat) : Nat := k / 4 % 10

/-- A failed audit check on a link: counter, NET_AUDIT_LAST, record, and the partitions that use the link close. -/
def State.auditFail (s : State) (k check : Nat) (exp found : Nat) : State :=
  let r := linkRouter k
  let s1 := s.closeParts (s.linkUsers r.col r.row (linkPort k)) 1
  { s1 with
    net := { s1.net with links := SMap.set LinkCnt.init s1.net.links k { s1.net.link k with failed := true } }
    ctrs := ctrAdd s.ctrs r.site .netAudit 1
    sites := SMap.set Site.init s.sites r.site.val { s.site r.site with
      auditLast := auditWord check (k % 4) (linkPort k) (16 * r.y.val + r.x.val) }
    bbx := s.bbx.siteLog r.site ((s.site r.site).record s.sup r.site 7 none evtCreditAudit
      (BitVec.ofNat 64 (exp * 2 ^ 32 + found))) }

def State.auditFails (s : State) (check : Nat) : List (Nat × Nat × Nat) → State
  | [] => s
  | (k, e, f) :: r => (s.auditFail k check e f).auditFails check r

/-- Links whose local check fails: key, expected depth, what A + (S − G) gives. -/
def Net.unbalanced (n : Net) : List (Nat × Nat × Nat) :=
  n.links.filterMap fun e => if e.2.balanced then none
    else some (e.1, vcDepth (e.1 % 4), (vcDepth (e.1 % 4) + 2 ^ 16 - e.2.aOff.toNat + (e.2.s - e.2.g).toNat) % 2 ^ 16)

/-- The audit reaches the senders of the links that `q` selects: the local check, and a marker with S in order on the channel. -/
def State.startAudit (s : State) (q : Nat → Bool) : State :=
  ({ s with net := { s.net with
    links := SMap.mapVals LinkCnt.init (fun k x => if q k then { x with marker := some x.s } else x) s.net.links } } : State).auditFails 0
      (s.net.unbalanced.filter fun e => q e.1)

/-- The supervisor starts an audit of every link. -/
def execCreditAuditStart (s : State) : Out := .next (s.startAudit fun _ => true)

/-- R at the marker's place in the channel's order: the flits sent behind the marker, which carries S = `m`, are not counted. -/
def LinkCnt.atMarker (x : LinkCnt) (m : BitVec 16) : BitVec 16 := x.r - (x.s - m)

def execAuditMarker (r : PTile) (port : Fin 10) (vc : Vc) (s : State) : Out :=
  let k := linkKey r.key port.val vc.val
  let x := s.net.link k
  .next (match x.marker with
    | none => s
    | some m =>
      let s1 := { s with net := { s.net with
        links := SMap.set LinkCnt.init s.net.links k { x with marker := none, echo := some x.c } } }
      if x.atMarker m = m then s1 else s1.auditFail k 1 m.toNat (x.atMarker m).toNat)

/-- The echo carries a count that the credits received have reached or passed, or no credit is on its way before it. -/
def LinkCnt.echoed (x : LinkCnt) (e : BitVec 16) : Bool := (x.g - e).toNat < 2 ^ 15 || x.c == x.g

/-- The echo arrives behind the credits returned before it. -/
def execAuditEcho (r : PTile) (port : Fin 10) (vc : Vc) (s : State) : Out :=
  let k := linkKey r.key port.val vc.val
  let x := s.net.link k
  .next (match x.echo with
    | none => s
    | some e =>
      if x.echoed e then
        let s1 := { s with net := { s.net with links := SMap.set LinkCnt.init s.net.links k { x with echo := none } } }
        if x.g = e then s1 else s1.auditFail k 2 e.toNat x.g.toNat
      else s)

/-! ### The semaphore audit (R273) -/

/-- The sum over a partition's entries on a site of VALUE − INIT, mod 2^32. -/
def State.semSum (s : State) (site : Fin 64) (p : Fin 32) : Word :=
  (s.sems.filter fun e => e.1 / 1024 = site.val && e.2.owner.toNat = p.val).foldl
    (fun a e => a + (e.2.value - e.2.init)) 0

/-- The partitions whose entries on the site do not match their audit sums. -/
def State.semBad (s : State) (site : Fin 64) : List (Fin 32) :=
  allParts.filter fun p => s.semSum site p != SMap.get 0 (s.part p).auditSum site.val

def semAuditRecords (s : State) (site : Fin 64) (ps : List (Fin 32)) : List BbxRec :=
  ps.map fun p => s.storeRecord site (some p) evtSemAudit
    (BitVec.ofNat 64 ((SMap.get 0 (s.part p).auditSum site.val).toNat * 2 ^ 32 + (s.semSum site p).toNat))

/-- The store sweeps its entries: each uncorrectable one is an event of its own, and a mismatch counts, is recorded and closes
the partition (R273, R460). -/
def State.sweepSems (s0 : State) (site : Fin 64) : State :=
  let s := s0.semUes (uncorrectableSems s0.sems (fun k _ => k / 1024 == site.val) none)
  let ps := s.semBad site
  if ps = [] then s
  else
    let s1 := s.closeParts ps 2
    { s1 with
      ctrs := ctrAdd s.ctrs site .semAudit ps.length
      bbx := s.bbx.siteLogAll site (semAuditRecords s site ps) }

def execSemAudit (site : Fin 64) (s : State) : Out := .next (if (s.site site).up then s.sweepSems site else s)

end Sys2Proof.Machine
end

