-- ==== Sys2Proof/Machine/TileReset.lean ====
section
/-! DEFINITION. The TILE reset (R174, R189, R190, R197, R286) over one tile and over the tiles of a partition; the
draining of a partition's traffic (R405). -/

namespace Sys2Proof.Machine

/-- Spare rows for the rows that failed the march test (R196, R197): the counts of spare rows used, and the rows
remapped.  A bank whose 32 spare rows are used remaps no more; its row stays suspect, and its tile fails (R198). -/
def repairRows (used : SMap Nat) : List Nat → SMap Nat × List Nat
  | [] => (used, [])
  | r :: rs =>
    let b := bankOf (64 * r)
    let n := SMap.get 0 used b
    if n < 32 then
      let x := repairRows (SMap.set 0 used b (n + 1)) rs
      (x.1, r :: x.2)
    else repairRows used rs

/-- A vat is marked bad in the repair log (R133). -/
def Flash.badVat (f : Flash) (k : Nat) : Flash := { f with badVats := if f.badVats.contains k then f.badVats else f.badVats ++ [k] }

/-- The columns of a vat replaced in the field, and `n` more of them (R133). -/
def Flash.repaired (f : Flash) (k : Nat) : Nat := match f.vatRepairs.find? (·.1 == k) with | none => 0 | some e => e.2

def Flash.vatCols (f : Flash) (k n : Nat) : Flash :=
  { f with vatRepairs := if n = 0 then f.vatRepairs else (k, f.repaired k + n) :: f.vatRepairs.filter (·.1 != k) }

/-- The suspect rows that the march test fails. -/
def TileMem.failing (m : TileMem) (failed : List Nat) : List Nat := m.suspects.filter failed.contains

/-- The scratchpad after its reset: tested, zeroed, every bank ON (R189, R190, R197). -/
def TileMem.reset (m : TileMem) (failed : List Nat) : TileMem :=
  let x := repairRows m.spareRows (m.failing failed)
  { m with
    scr := [], banks := [], scrEcc := []
    suspects := (m.failing failed).filter fun r => !x.2.contains r
    onceBad := m.onceBad.filter fun r => !x.2.contains r
    spareRows := x.1 }

/-- A bank of the scratchpad needs a 33rd spare row (R198). -/
def TileMem.spent (m : TileMem) (failed : List Nat) : Bool :=
  (repairRows m.spareRows (m.failing failed)).2.length < (m.failing failed).length

/-- R286. -/
def Scalar.reset (c : Scalar) : Scalar :=
  { Scalar.init with pc := c.entry, entry := c.entry, cyc := c.cyc, stopped := c.stopped }

def Tile.reset (x : Tile) (failed : List Nat) : Tile :=
  { x with
    sc := x.sc.reset, mq := [], vq := [], lq := [], dq := [], sq := []
    mem := x.mem.reset failed
    mx := { x.mx with abftDue := 0, abftBad := [], sub := none }
    dma := Dma.init
    clk := { StageClock.init with budgets := x.clk.budgets, active := x.clk.active, shared := x.clk.shared, wdLimit := x.clk.wdLimit }
    rp := ⟨Report.clean, [], false⟩
    ports := []
    pl := { x.pl with lockstepUpset := false, failed := x.pl.failed || x.mem.spent failed } }

/-- A PARTITION reset rewrites the instruction store, and a core that an uncorrectable word stopped issues again (R284,
R460). -/
def Tile.rewritten (x : Tile) : Tile :=
  { x with sc := { x.sc with stopped := false }, mem := { x.mem with istoreEcc := [] } }

/-- A bin of a quarantined lane, cleared: it holds no values and has no history, and its counts and wrap mark stand, which R181 resets at
other kinds alone (R174, R613). -/
def Bin.cleared (b : Bin) : Bin := { Bin.init with count := b.count, rej := b.rej, wrap := b.wrap }

/-- The lane at its tile's reset: no command, no verdict due, no test; the bins of a quarantined lane are cleared (R174), and warm-up
runs on it.  On a shared die it stays in load drive (R152). -/
def Lane.tileReset (l : Lane) (shared : Bool) : Lane :=
  { l with
    drive := if shared then .on else .off
    verdicts := [], cvs := [], since := false, failedChk := false, failedCv := false, accSlot := false
    underTest := false
    bins := if l.quar then SMap.mapVals Bin.init (fun _ b => b.cleared) l.bins else l.bins
    rewarm := l.rewarm || l.quar
    lifting := l.quar }

/-- The rows of an event's list that belong to tile `k`. -/
def rowsOf (rows : List (PTile × Nat)) (k : Nat) : List Nat := (rows.filter fun e => e.1.key = k).map (·.2)

def resetTiles (m : SMap Tile) (rows : List (PTile × Nat)) (ks : List Nat) : SMap Tile :=
  SMap.modifyAll Tile.init (fun k x => x.reset (rowsOf rows k)) ks m

def laneKeys (ks : List Nat) : List Nat := ks.flatMap fun k => [2 * k, 2 * k + 1]

def resetLanes (tiles : SMap Tile) (m : SMap Lane) (ks : List Nat) : SMap Lane :=
  SMap.modifyAll Lane.init (fun k l => l.tileReset (SMap.get Tile.init tiles (k / 2)).clk.shared) (laneKeys ks) m

/-- The remaps that go to the repair log (R197). -/
def rowRemaps (m : SMap Tile) (rows : List (PTile × Nat)) (ks : List Nat) : List (Nat × Nat) :=
  ks.flatMap fun k =>
    let x := SMap.get Tile.init m k
    (repairRows x.mem.spareRows (x.mem.failing (rowsOf rows k))).2.map fun r => (k, r)

/-- Warm-up starts on the sites of tiles with a quarantined lane. -/
def warmSites (m : SMap Site) (lanes : SMap Lane) (now : BitVec 64) (ks : List Nat) : SMap Site :=
  SMap.modifyAll Site.init (fun _ x => { x with warmFrom := now })
    ((ks.filter fun k => (SMap.get Lane.init lanes (2 * k)).quar || (SMap.get Lane.init lanes (2 * k + 1)).quar).map
      (· / 256)).dedup m

/-- TILE resets of the tiles with keys `ks`. -/
def State.resetTiles (s : State) (rows : List (PTile × Nat)) (ks : List Nat) : State :=
  { s with
    tiles := Sys2Proof.Machine.resetTiles s.tiles rows ks
    lanes := resetLanes s.tiles s.lanes ks
    sites := warmSites s.sites s.lanes s.sup.counter ks
    flash := { s.flash with rowRepairs := s.flash.rowRepairs ++ rowRemaps s.tiles rows ks } }

/-! ### Draining (R405, R497) -/

/-- Traffic of the partition's stages: what a replay discards. -/
def Flit.isWork (f : Flit) : Bool :=
  match f.msg with | .semOp _ | .semAck _ | .data _ | .tree _ _ _ _ _ _ => true | _ => false

/-- What a replay discards besides, of the tiles with keys `ks` that it restarts: their check reports and their notices of
recoverable events. -/
def Flit.isStale (f : Flit) (ks : List Nat) : Bool :=
  ks.contains f.src && match f.msg with | .report _ _ => true | .notice n => n.kind == .recoverable | _ => false

/-- What a PARTITION reset discards: everything of the partition but black-box copies and counter messages. -/
def Flit.isReset (f : Flit) : Bool := match f.msg with | .bbx _ | .counter | .freeze => false | _ => true

/-- Buffer slots freed by discarded flits. -/
def freeAll (m : SMap LinkCnt) : List Flit → SMap LinkCnt
  | [] => m
  | f :: r => freeAll (freeVia m f.via) r

/-- Discards the flits of partition `p` that satisfy `q`; use bits and partial sums return to their initial state. -/
def Net.drain (n : Net) (p : Fin 32) (q : Flit → Bool) : Net :=
  let out (f : Flit) : Bool := f.part == some p && q f
  { n with
    flits := n.flits.filter fun f => !out f
    links := freeAll n.links (n.flits.filter out)
    trees := SMap.mapVals TreeEntry.init (fun _ e => if e.part.toNat = p.val then { e with use := false } else e) n.trees
    press := n.press.filter fun x => (SMap.get TreeEntry.init n.trees (x.router * 256 + x.id.toNat)).part.toNat != p.val }

end Sys2Proof.Machine
end

