-- ==== Sys2Proof/Machine/Programs.lean ====
section
/-! DEFINITION. Step programs (R321–R342): the checks of R322 and R329, relocation of trees (R240, R245) and patches
(R339, R340), installation (R341) and the change between the two programs of a partition (R393). -/

namespace Sys2Proof

open Sys2Proof.Machine

/-! ### Where a program stands -/

/-- The nominal sites of the partition, row-major and each once (R339). -/
def Ground.sites (x : Ground) : List Nat := x.f.sites.dedup

/-- Relative site of tile `n`. -/
def Ground.relSite (x : Ground) (n : Nat) : Nat :=
  let site := (8 * x.f.bx + n % (8 * x.f.bw)) / 16 + 8 * ((8 * x.f.byy + n / (8 * x.f.bw)) / 8)
  x.sites.findIdx (· == site)

/-- The relative index of a tile's nominal place. -/
def Ground.nominalPlace (x : Ground) (n : Nat) : PTile :=
  nominal (8 * x.f.bx + n % (8 * x.f.bw)) (8 * x.f.byy + n / (8 * x.f.bw))

/-- The number of tiles. -/
def Ground.count (x : Ground) : Nat := 64 * x.f.bw * x.f.bh

/-! ### The checks of R321, R322, R325, R331 -/

/-- The limits of R321: 1 to 1,024 stages, up to 256 images of at most 16,384 words, one image index for each tile, and in the
stage table the indices of the stage's own records; and the positions in flight of R377: 1 to 32 in a prefill step, γ at most 8. -/
def Program.formOk (g : Program) : Bool :=
  1 ≤ g.stages.length && g.stages.length ≤ 1024 && g.images.length ≤ 256 && g.images.all (·.length ≤ 16384) &&
  g.tileTable.length == 64 * g.bw * g.bh && g.tileTable.all (· < g.images.length) &&
  g.stages.zipIdx.all (fun e => e.1.links.all fun i => match g.links[i]? with | none => false | some r => r.stage == e.2) &&
  (g.stages.all fun e => e.active.all fun l => l.1 < 64 * g.bw * g.bh) && 1 ≤ g.kp && g.kp ≤ 32 && g.gamma ≤ 8

/-- R322. -/
def Program.shapeOk (g : Program) (f : FurnPart) : Bool :=
  g.bw == f.bw && g.bh == f.bh && g.bwMode == f.bwMode && g.power == f.power

/-- R325. -/
def Program.budgetsOk (g : Program) : Bool := g.stages.all fun x => x.budget ≤ 12500

/-- The stages of a region's lifetime, as intervals (R330). -/
def Region.life (r : Region) (n : Nat) : List (Nat × Nat) :=
  if r.first ≤ r.last then [(r.first, r.last)] else [(r.first, n - 1), (0, r.last)]

def Region.meets (a b : Region) (n : Nat) : Bool :=
  a.image == b.image && a.offset < b.offset + b.length && b.offset < a.offset + a.length &&
    (a.life n).any fun x => (b.life n).any fun y => x.1 ≤ y.2 && y.1 ≤ x.2

/-- Whole banks. -/
def Region.offOk (r : Region) : Bool := r.kind != .off || (r.offset % 0x20000 == 0 && r.length % 0x20000 == 0)

def pairsOk {α : Type} (q : α → α → Bool) : List α → Bool
  | [] => true
  | a :: r => r.all (q a) && pairsOk q r

/-- R331. -/
def Program.memOk (g : Program) : Bool :=
  g.memPlan.all (fun r => r.offset + r.length ≤ 0x200000 && r.offset % 64 == 0 && r.length % 64 == 0 && r.offOk) &&
    pairsOk (fun a b => !a.meets b g.stages.length) g.memPlan

/-! ### Power plans (R333, R334, R336); powers in 1/100 W -/

def PowerRow.power (r : PowerRow) : Nat :=
  30 * r.tiles + 400 * r.mx4 + 320 * r.mx8 + 240 * r.mxbf + 90 * r.vec + 35 * r.lanes + 160 * r.loft

/-- Lanes of other partitions' tiles on a site: the load drive that R152 keeps there. -/
def otherLanes (fu : Furnish) (map : SMap Nat) (p : Fin 32) (site : Nat) : Nat :=
  2 * ((fu.parts.filter (·.part != p)).flatMap fun f => f.tiles.filter fun cr => named map cr.1 cr.2 && (physOf map cr.1 cr.2).site.val == site).length

/-- Lanes of the partition's own tiles on a site. -/
def Ground.lanesOn (x : Ground) (site : Nat) : Nat :=
  2 * (x.f.tiles.filter fun cr => named x.map cr.1 cr.2 && (physOf x.map cr.1 cr.2).site.val == site).length

/-- The rows of one stage and window. -/
def Program.window (g : Program) (r : PowerRow) : List PowerRow :=
  g.powerPlan.filter fun x => x.stage == r.stage && x.window == r.window

def sumN (l : List Nat) : Nat := l.foldl (· + ·) 0

/-- The most that `k` tiles of a site draw in a row of its plan: the plan does not say which of its busy units are theirs (log
entry 63).  Loft channels stay. -/
def PowerRow.moved (r : PowerRow) (k : Nat) : PowerRow :=
  let a := min k r.mx4
  let b := min (k - a) r.mx8
  { r with
    tiles := min k r.tiles, mx4 := a, mx8 := b, mxbf := min (k - a - b) r.mxbf, vec := min k r.vec
    lanes := min (2 * k) r.lanes, loft := 0 }

/-- Tiles of nominal site `a` that are mapped to spares of another site `b`. -/
def Ground.movedTiles (x : Ground) (a b : Nat) : Nat :=
  if a = b then 0
  else ((List.range x.count).filter fun n => (x.nominalPlace n).site.val == a && (x.tile n).site.val == b).length

/-- A row's units but its lanes. -/
def PowerRow.unlit (r : PowerRow) : PowerRow := { r with lanes := 0 }

/-- The lanes at work on a shared die: all of the partition's lanes there, by the load drive that R152 keeps, once each. -/
def Ground.litLanes (x : Ground) (rows : List PowerRow) (site : Nat) : Nat := max (x.lanesOn site) (sumN (rows.map (·.lanes)))

/-- The power of the partition's own units on a site in the window of `r`: the plan's rows of that site, and the units of tiles
that spares of the site hold (R333); on a shared die the load drive of R152 stands for the rows' lanes. -/
def Program.sitePower (g : Program) (x : Ground) (shared : Bool) (r : PowerRow) (site : Nat) : Nat :=
  let own := (g.window r).filter fun y => x.sites.getD y.site 64 == site
  let all := own ++ (g.window r).map fun y => y.moved (x.movedTiles (x.sites.getD y.site 64) site)
  if shared then sumN (all.map fun y => y.unlit.power) + 35 * x.litLanes own site else sumN (all.map (·.power))

/-- The sites on which the partition's tiles stand, and those of its plan. -/
def Ground.allSites (x : Ground) : List Nat := (x.sites ++ (List.range x.count).map fun n => (x.tile n).site.val).dedup

/-- No site exceeds 290 W. -/
def Program.sitesOk (g : Program) (fu : Furnish) (x : Ground) : Bool :=
  x.allSites.all fun site =>
    let others := otherLanes fu x.map x.f.part site
    g.powerPlan.all fun r => g.sitePower x (others != 0) r site + 35 * others ≤ 29000

/-- A site on which lanes of other partitions stand too. -/
def Ground.sharedSite (x : Ground) (fu : Furnish) (site : Nat) : Bool := otherLanes fu x.map x.f.part site != 0

/-- The lanes that the partition keeps in load drive on its shared dies (R152). -/
def Ground.sharedLanes (x : Ground) (fu : Furnish) : Nat := sumN ((x.allSites.filter (x.sharedSite fu)).map x.lanesOn)

/-- Tiles of nominal site `a` that stand on dies that are not shared. -/
def Ground.ownTiles (x : Ground) (fu : Furnish) (a : Nat) : Nat :=
  ((List.range x.count).filter fun n => (x.nominalPlace n).site.val == a && !x.sharedSite fu (x.tile n).site.val).length

/-- The power of rows of the plan over all sites, each unit once: the lanes of tiles on shared dies count with the load drive there, as
work (R152, R334); of a row's busy lanes as many as its tiles on other dies have can be theirs (log entry 63). -/
def rowsPower (fu : Furnish) (x : Ground) (rows : List PowerRow) : Nat :=
  sumN (rows.map fun y => ({ y with lanes := min y.lanes (2 * x.ownTiles fu (x.sites.getD y.site 64)) } : PowerRow).power)

/-- Windows of 2,500 arith cycles in a stage. -/
def Program.windows (g : Program) (st : Nat) : Nat :=
  max 1 (((g.stages.getD st ⟨0, 0, 0, [], [], []⟩).budget + 2499) / 2500)

/-- R334 in static power, R336 in governed power. -/
def Program.powerOk (g : Program) (fu : Furnish) (x : Ground) : Bool :=
  g.sitesOk fu x && match g.power with
    | .static => (⟨0, 0, 0, 0, 0, 0, 0, 0, 0, 0⟩ :: g.powerPlan).all fun r =>
        rowsPower fu x (g.window r) + 35 * x.sharedLanes fu ≤ 100 * x.f.share
    | .governed => (List.range g.stages.length).all fun st =>
        64 * (rowsPower fu x (g.powerPlan.filter (·.stage == st)) + 35 * x.sharedLanes fu * g.windows st) ≤
          100 * x.f.share * x.f.g64 * g.windows st

/-! ### Trees (R239, R240, R242, R245) -/

/-- One contribution to a router's entry: its router key, an input or output port, the port of the other kind, and the
rank that its output or input takes. -/
structure TreeBit where
  router : Nat
  mask : Option Nat
  port : Option Nat
  rank : Nat
deriving DecidableEq, Repr

/-- What an edge asks of the routers along it: the port out at its sender, the port in at its receiver. -/
def edgeBits (multicast : Bool) (rank : Nat) : List (Nat × Nat × Nat) → List TreeBit
  | [] => []
  | (c, r, p) :: rest =>
    let here := (tileAt c r).key
    let there := (tileAt (beyond c r p).1 (beyond c r p).2).key
    (if multicast then [⟨here, some p, none, 0⟩, ⟨there, none, some (opposite p), 0⟩]
      else [⟨here, none, some p, rank⟩, ⟨there, some (opposite p), none, rank⟩]) ++ edgeBits multicast rank rest

/-- What the nodes themselves ask: the local input or delivery, and the port of the root. -/
def TreeDesc.nodeBits (d : TreeDesc) (x : Ground) : List TreeBit :=
  d.nodes.zipIdx.flatMap fun e =>
    (match e.1.localRank with | none => [] | some k => [⟨(d.router x e.2).key, some 0, none, k⟩]) ++
    (match e.1.parent with | none => [⟨(d.router x e.2).key, none, some 0, 0⟩] | some _ => [])

def TreeDesc.bits (d : TreeDesc) (x : Ground) : List TreeBit :=
  d.nodeBits x ++ ((d.edges x).flatMap fun e =>
    edgeBits d.multicast (match d.nodes[e.1]? with | none => 0 | some v => v.rank) e.2)

/-- The ranks of a node's inputs (R242). -/
def TreeDesc.inRanks (d : TreeDesc) (n : Nat) : List Nat :=
  (d.nodes.filter fun v => v.parent == some n).map (·.rank) ++
    match (d.nodes[n]?).bind (·.localRank) with | none => [] | some r => [r]

/-- No two inputs of equal rank, at a node of the description or at an entry where edges meet on the way (R242); every field within its width, and every router leads out by one port. -/
def TreeDesc.ok (d : TreeDesc) (x : Ground) : Bool :=
  let bs := d.bits x
  (d.multicast || (List.range d.nodes.length).all fun n => (d.inRanks n).dedup.length == (d.inRanks n).length) &&
  d.nodes.all (fun v => v.rank < 16 && v.col < 8 * x.f.bw && v.row < 8 * x.f.bh) &&
  1 ≤ d.nflit && d.nflit ≤ 4096 && d.lrow + d.nflit ≤ 0x8000 &&
  (d.multicast || bs.all fun a => bs.all fun b => a.router != b.router || a.mask.isNone || b.mask.isNone || a.mask == b.mask ||
    a.rank != b.rank) &&
  bs.all fun a => bs.all fun b => a.router != b.router || a.port.isNone || b.port.isNone || a.port == b.port

/-- The entry of one router of a tree.  Where edges merge at a router that is no node of the description, the RANK of its output is the
greatest of those that merge: DESIGN CHOICE, log entry 75. -/
def TreeDesc.entry (d : TreeDesc) (p : Fin 32) (bs : List TreeBit) (router : Nat) : TreeEntry :=
  let mine := bs.filter (·.router == router)
  { v := true, kind := d.multicast, ty := d.int32, part := BitVec.ofNat 5 p.val
    rank := BitVec.ofNat 4 (if d.multicast then 0 else (mine.filter (·.port.isSome)).foldl (fun a b => max a b.rank) 0)
    pmask := BitVec.ofNat 10 (((mine.filterMap (·.mask)).dedup.map fun q => 2 ^ q).sum)
    port := BitVec.ofNat 4 ((mine.findSome? (·.port)).getD 0)
    resv := 0, nflit := BitVec.ofNat 12 (d.nflit - 1), lrow := BitVec.ofNat 15 d.lrow, use := false }

/-- A tree's entries at key router × 256 + id. -/
def TreeDesc.entries (d : TreeDesc) (x : Ground) (id : Nat) : List (Nat × TreeEntry) :=
  (((d.bits x).map (·.router)).dedup).map fun k => (k * 256 + id, d.entry x.f.part (d.bits x) k)

/-- The tables without the partition's entries. -/
def treesWithout (m : SMap TreeEntry) (p : Fin 32) : SMap TreeEntry := m.filter fun e => e.2.part.toNat != p.val

/-- The routers that the program's trees use, with the tree's place in the list. -/
def Program.treeRouters (g : Program) (x : Ground) : List (Nat × Nat) :=
  g.trees.zipIdx.flatMap fun e => (((e.1.bits x).map (·.router)).dedup).map fun k => (k, e.2)

/-- The id of the first tree: the least base whose ids are free at every router that the trees use (the spec gives no
choice of ids). -/
def Program.treeBase (g : Program) (m : SMap TreeEntry) (x : Ground) : Option Nat :=
  let o := treesWithout m x.f.part
  let rs := g.treeRouters x
  (List.range 256).find? fun b => b + g.trees.length ≤ 256 &&
    rs.all fun e => SMap.get TreeEntry.init o (e.1 * 256 + b + e.2) == TreeEntry.init

def Program.treesOk (g : Program) (m : SMap TreeEntry) (x : Ground) : Bool :=
  g.trees.all (·.ok x) && (g.treeBase m x).isSome

def putTrees (m : SMap TreeEntry) : List (Nat × TreeEntry) → SMap TreeEntry
  | [] => m
  | e :: r => putTrees (SMap.set TreeEntry.init m e.1 e.2) r

/-- The tables with the program's trees in place of the partition's old ones. -/
def Program.writeTrees (g : Program) (m : SMap TreeEntry) (x : Ground) : SMap TreeEntry :=
  putTrees (treesWithout m x.f.part)
    (g.trees.zipIdx.flatMap fun e => e.1.entries x ((g.treeBase m x).getD 0 + e.2))

/-! ### The link-load summary (R337, R338) -/

/-- The load of one record on one link: the link, its aligned windows of 16 net cycles, the flits in each. -/
structure LinkLoad where
  stage : Nat
  link : Nat × Nat × Nat
  w0 : Nat
  w1 : Nat
  n : Nat
deriving DecidableEq, Repr

def LinkRec.load (r : LinkRec) (rate : Nat) (l : Nat × Nat × Nat) : LinkLoad := ⟨r.stage, l, r.t0 / 16, r.t1 / 16, min r.flits rate⟩

/-- One hop on the mesh plane between two tiles. -/
def meshNear (a b : PTile) : Bool := (a.col == b.col && (a.row == b.row + 1 || b.row == a.row + 1)) ||
  (a.row == b.row && (a.col == b.col + 1 || b.col == a.col + 1))

/-- Flits in 16 net cycles: 8 between logical neighbours of a neighbour-mode partition that the nominal map puts one mesh hop
apart, a rate that they keep where a remap separates them (R234, R338). -/
def LinkRec.rate (r : LinkRec) (x : Ground) : Nat :=
  if x.f.bwMode == .neighbour && meshNear (x.nominalPlace r.src) (x.nominalPlace r.dst) then 8 else 2

def LinkRec.loads (r : LinkRec) (g : Program) (x : Ground) : List LinkLoad :=
  if 0x8000 ≤ r.dst then
    ((g.trees.filter (·.num == r.dst % 256)).flatMap fun d => (d.edges x).flatMap (·.2)).map (r.load 2)
  else
    let a := x.tile r.src
    let b := x.tile r.dst
    (pathOf x.bad a.place b.place).map (r.load (r.rate x))

/-- The record's own form. -/
def LinkRec.formOk (r : LinkRec) (n : Nat) : Bool :=
  1 ≤ r.vc && r.vc ≤ 3 && 1 ≤ r.flits && !r.resv && r.t0 ≤ r.t1 &&
    (if 0x8000 ≤ r.dst then r.src == 0xFFFF else r.src < n && r.dst < n)

/-- No window of a link carries more than 12 flits. -/
def Program.linksOk (g : Program) (x : Ground) : Bool :=
  let ls := g.links.flatMap (·.loads g x)
  g.links.all (·.formOk (64 * x.f.bw * x.f.bh)) &&
  ls.all fun a => sumN ((ls.filter fun b => b.stage == a.stage && b.link == a.link && b.w0 ≤ a.w0 && a.w0 ≤ b.w1).map (·.n)) ≤ 12

/-! ### Semaphores and patches (R329, R339, R340) -/

/-- The site and index of a partition-relative semaphore number, with its mode. -/
def semAt : List SemRange → Nat → Option (Fin 64 × Nat × Bool)
  | [], _ => none
  | r :: rs, n => if n < r.count then some (r.site, r.first + n, r.seq) else semAt rs (n - r.count)

def Furnish.rangesOf (fu : Furnish) (p : Fin 32) : List SemRange := fu.ranges.filter (·.part = p)

def Program.semsOk (g : Program) (fu : Furnish) (p : Fin 32) : Bool :=
  g.sems.all fun e => match semAt (fu.rangesOf p) e.1 with | none => false | some y => y.2.2 == e.2

/-- The grants of a partition on a site, in furnish order. -/
def Furnish.grantsOn (fu : Furnish) (p : Fin 32) (site : Nat) : List Grant :=
  fu.grants.filter fun g => g.part = p && g.site.val == site

/-- The load bin of an active-lane count (R150). -/
def binOf (a : Nat) : BitVec 2 := if a ≤ 64 then 0 else if a ≤ 128 then 1 else if a ≤ 192 then 2 else 3

/-- The load of a stage on a site: the lanes there that it keeps active, by where their tiles stand (R150, R151). -/
def Program.loadOn (g : Program) (x : Ground) (site st : Nat) : Nat :=
  (((g.stages.getD st ⟨0, 0, 0, [], [], []⟩).active.dedup).filter fun e => (x.tile e.1).site.val == site).length

/-- The bin of a stage for tile `n`: that of the lanes the stage keeps active on the tile's die; on a shared die that of every
lane mapped there (R150–R152). -/
def Program.binAt (g : Program) (fu : Furnish) (x : Ground) (n st : Nat) : BitVec 2 :=
  let site := (x.tile n).site.val
  let others := otherLanes fu x.map x.f.part site
  binOf (if others = 0 then g.loadOn x site st else others + x.lanesOn site)

/-- The lanes of tile `n` that each stage keeps active. -/
def Program.activeOf (g : Program) (n : Nat) : List (BitVec 2) :=
  g.stages.map fun e => (if e.active.contains (n, 0) then 1 else 0) + (if e.active.contains (n, 1) then 2 else 0)

/-- V of a patch record for tile `n` (R339); none if the partition does not have what it names. -/
def Patch.value' (h : Patch) (g : Program) (fu : Furnish) (trees : SMap TreeEntry) (x : Ground) (n : Nat) : Option Nat :=
  let v := h.value.toNat
  match h.kind with
  | 1 =>
    let c := v / 65536 % 128
    let r := v / 256 % 64
    if c < 8 * x.f.bw ∧ r < 8 * x.f.bh then some ((8 * x.f.bx + c) * 2 ^ 53 + (8 * x.f.byy + r) * 2 ^ 47) else none
  | 2 =>
    match x.sites[v / 65536 % 64]? with
    | none => none
    | some site => match (fu.grantsOn x.f.part site)[v % 16]? with
      | none => none
      | some q => some (site * 2 ^ 54 + q.base)
  | 3 => (semAt (fu.rangesOf x.f.part) (v % 65536)).map fun y => y.1.val * 2 ^ 20 + y.2.1
  | 4 =>
    let i := g.trees.findIdx fun d => d.num == v % 256 && d.variant == v / 256 % 4
    if i < g.trees.length then (g.treeBase trees x).map (· + i) else none
  | 5 => some (g.binAt fu x n (v % 1024)).toNat
  | _ => none

/-- R340. -/
def Patch.ok (h : Patch) (g : Program) (fu : Furnish) (trees : SMap TreeEntry) (x : Ground) : Bool :=
  h.dstlo + h.width ≤ 26 && h.srclo + h.width ≤ 64 && 1 ≤ h.width &&
  (h.tile == 0xFFFF || g.tileTable[h.tile]? == some h.image) &&
  (h.value' g fu trees x (if h.tile == 0xFFFF then 0 else h.tile)).isSome

/-- Bits [DSTLO + WIDTH − 1 : DSTLO] of the word replaced by bits of V. -/
def Patch.apply (h : Patch) (w : Word) (v : Nat) : Word :=
  let mask := (2 ^ h.width - 1) * 2 ^ h.dstlo
  let f := v / 2 ^ h.srclo % 2 ^ h.width * 2 ^ h.dstlo
  (w &&& ~~~(BitVec.ofNat 32 mask)) ||| BitVec.ofNat 32 f

def patchAll (g : Program) (fu : Furnish) (trees : SMap TreeEntry) (x : Ground) (n : Nat) : List Patch → List Word → List Word
  | [], ws => ws
  | h :: r, ws =>
    let ws' := match h.value' g fu trees x n with
      | none => ws
      | some v => ws.set h.word (h.apply (ws.getD h.word 0) v)
    patchAll g fu trees x n r ws'

/-- The patched code image of tile `n`. -/
def Program.code (g : Program) (fu : Furnish) (trees : SMap TreeEntry) (x : Ground) (n : Nat) : List Word :=
  let im := g.tileTable.getD n 0
  patchAll g fu trees x n (g.patches.filter fun h => h.image == im && (h.tile == 0xFFFF || h.tile == n)) (g.images.getD im [])

/-- The checks of R321, R322 and R329 under a map. -/
def Program.ok (g : Program) (fu : Furnish) (trees : SMap TreeEntry) (x : Ground) : Bool :=
  g.formOk && g.shapeOk x.f && g.budgetsOk && g.memOk && g.powerOk fu x && g.linksOk x && g.treesOk trees x && g.semsOk fu x.f.part &&
    g.patches.all (·.ok g fu trees x)

/-- The stage-watchdog limit in net cycles: 2 G × the greatest budget, T_gap (4,000 net cycles), the greatest peer
extension; 5 arith cycles are 4 net cycles. -/
def Program.watchdog (g : Program) (g64 : Nat) : Nat :=
  let b := g.stages.foldl (fun a x => max a x.budget) 0
  let e := g.stages.foldl (fun a x => max a x.peerExt) 0
  (2 * g64 * b * 4 + 319) / 320 + 4000 + (4 * e + 4) / 5

end Sys2Proof

namespace Sys2Proof.Machine

def State.ground (s : State) (f : FurnPart) (map : SMap Nat) : Ground := ⟨f, map, s.net.badRouters⟩

/-- The checks in the present state, under a map. -/
def State.programOk (s : State) (p : Fin 32) (g : Program) (map : SMap Nat) : Bool :=
  match s.furnish, s.furnPart p with
  | some fu, some f => g.ok fu s.net.trees (s.ground f map)
  | _, _ => false

/-! ### Installation (R341, R461) -/

/-- G (R336), in 64ths: 1 where the partition's power is static. -/
def FurnPart.g (f : FurnPart) : Nat := match f.power with | .static => 64 | .governed => f.g64

/-- The tile with the program written into it: code with zeros beyond, entry, budgets, watchdog limit, place. -/
def Tile.load (x : Tile) (ws : List Word) (g : Program) (f : FurnPart) (n : Nat) (shared : Bool) : Tile :=
  { x with
    sc := { x.sc with entry := g.entry &&& 0xFFFC }
    mem := { x.mem with istore := SMap.setList 0 [] 0 (ws.take 16384), istoreEcc := [] }
    clk := { x.clk with budgets := g.stages, active := g.activeOf n, shared := shared, wdLimit := g.watchdog (FurnPart.g f) }
    pl := { x.pl with
      c := BitVec.ofNat 7 (8 * f.bx + n % (8 * f.bw)), r := BitVec.ofNat 6 (8 * f.byy + n / (8 * f.bw)), part := some f.part } }

def loadTiles (m : SMap Tile) (g : Program) (fu : Furnish) (trees : SMap TreeEntry) (x : Ground) : List Nat → SMap Tile
  | [] => m
  | n :: r =>
    loadTiles (SMap.set Tile.init m (x.tile n).key
      ((SMap.get Tile.init m (x.tile n).key).load (g.code fu trees x n) g x.f n
        (otherLanes fu x.map x.f.part (x.tile n).site.val != 0))) g fu trees x r

/-- Step 3 of R341 under a map: stores, budgets, trees. -/
def State.writeProgram (s : State) (p : Fin 32) (g : Program) (map : SMap Nat) : State :=
  match s.furnish, s.furnPart p with
  | some fu, some f =>
    { s with
      tiles := loadTiles s.tiles g fu s.net.trees (s.ground f map) (List.range (64 * f.bw * f.bh))
      net := { s.net with trees := g.writeTrees s.net.trees (s.ground f map) } }
  | _, _ => s

/-- A tile without a program: store, entry and budgets as they were before any. -/
def Tile.unload (x : Tile) : Tile :=
  { x with
    sc := { x.sc with entry := 0 }
    mem := { x.mem with istore := [], istoreEcc := [] }
    clk := { x.clk with budgets := [], active := [], wdLimit := 0 } }

/-- The partition keeps no part of a program (R341): its tiles and its entries of the press tables hold none. -/
def State.eraseProgram (s : State) (p : Fin 32) : State :=
  { s with
    tiles := SMap.modifyAll Tile.init (fun _ x => x.unload) (s.tilesOf p) s.tiles
    net := { s.net with trees := treesWithout s.net.trees p } }

/-- The lanes of the partition's tiles on shared dies are in load drive while it runs no stage (R152). -/
def State.driveIdle (s : State) (p : Fin 32) : State :=
  { s with
    lanes := SMap.modifyAll Lane.init (fun k l => l.idle (SMap.get Tile.init s.tiles (k / 2)).clk.shared)
      (laneKeys (s.tilesOf p)) s.lanes }

/-- Whether the dies of a partition that runs no stage are shared is settled again, with a program installed or not, and its lanes
there are in load drive (R152, R467). -/
def State.shareDie (s : State) (p : Fin 32) : State :=
  ({ s with
    tiles := SMap.modifyAll Tile.init
      (fun k x => { x with clk := { x.clk with shared := s.dieShared (Fin.ofNat 64 (k / 256)) } }) (s.tilesOf p) s.tiles } : State).driveIdle p

/-- The dies of every partition, at a start-up. -/
def State.shareDies (s : State) : State := allParts.foldl State.shareDie s

/-- Some tiles have failed: the partition's PARTITION reset replaces them, after the end of its slots if it serves (R198, R465). -/
def State.replaceDue (s : State) (p : Fin 32) : State :=
  if (s.part p).oos then s
  else if (s.part p).open_ then s.endStep p 5 1
  else { s with parts := SMap.set Part.init s.parts p.val (s.part p).reset' }

/-- A tile of the partition has failed. -/
def State.anyFailed (s : State) (p : Fin 32) : Bool := (s.tilesOf p).any fun k => (SMap.get Tile.init s.tiles k).pl.failed

/-- The partition runs no stage: closed, or in the gap. -/
def Part.idle (x : Part) : Bool := !x.open_ || x.couch.gap

/-- No slot of the partition is not FREE. -/
def State.allFree (s : State) (p : Fin 32) : Bool := (s.slotsOf p).all fun e => e.2.st == .free

/-- The failure of a program load (R438): the reason, the event. -/
def State.programFail (s : State) (p : Fin 32) (x : Part) : State :=
  { s with
    parts := SMap.set Part.init s.parts p.val { x with load := { x.load with reason := 6 } }
    bbx := s.bbx.append (s.sup.record evtLoadFail (some p) 0 0) }

/-- The supervisor's reply to a session. -/
def State.answer (s : State) (n : Nat) (f : Frame) : State :=
  let v := s.serv.pushAll ((fragments f).map fun g => (n, g))
  { s with slots := v.slots, sessions := v.sessions, phw := v.phw }

end Sys2Proof.Machine
end

