-- ==== Sys2Proof/Machine/Tables.lean ====
section
/-! DEFINITION. What the supervisor writes into SUP regions: the slot table (R386, R387) and the binding table (R431); and the BIN
patches that a remap calls for (R467). -/

namespace Sys2Proof.Machine

/-! ### The slot table -/

/-- The slot in PREFILL that was admitted first: the only one that takes the quota (R395). -/
def State.prefilling (s : State) (p : Fin 32) : Option Nat :=
  ((s.slotsOf p).filter fun e => e.2.st == .prefill).foldl (fun (a : Option (Nat × Nat)) e => match a with
    | none => some (e.1, e.2.order)
    | some b => if e.2.order < b.2 then some (e.1, e.2.order) else some b) none |>.map (·.1)

def Slot.drafting (y : Slot) : Bool := match y.q with | none => false | some q => q.draft.isSome

/-- Positions in flight in the next step (R386): γ + 1 or 1 in DECODE; the quota, cut to what is left, in PREFILL. -/
def Slot.inFlight (y : Slot) (g : Program) (first : Bool) : Nat :=
  match y.st with
  | .prefill => if first then min g.kp (y.lp - y.lc) else 0
  | .decode => if y.drafting then g.gamma + 1 else 1
  | _ => 0

def SlotSt.code : SlotSt → Nat
  | .free => 0 | .prefill => 1 | .decode => 2 | .ended => 3

/-- A record of 64 B (R386). -/
def Slot.record (y : Slot) (g : Program) (first : Bool) : List Byte :=
  let q := y.q.getD ⟨0, 0, 0, none, ⟨none, []⟩, 0, 0, 0, 0, [], 0, none, false, 0, false⟩
  let dr := y.drafting
  leBytes 1 y.st.code ++
  leBytes 1 ((if dr then 1 else 0) + (if y.effExact then 2 else 0) + (if y.masked then 4 else 0)) ++
  leBytes 1 (y.inFlight g first) ++ leBytes 1 (if dr && y.st == .decode then g.gamma else 0) ++
  leBytes 4 y.lc ++ leBytes 8 q.seed.toNat ++ leBytes 2 y.ht.toNat ++
  leBytes 2 (if dr then y.hd.toNat else 0xFFFF) ++ leBytes 2 q.model.toNat ++
  leBytes 2 (match y.adapt with | none => 0xFFFF | some k => k.val) ++
  leBytes 4 q.tau.toNat ++ leBytes 4 q.topP.toNat ++ leBytes 2 q.topK ++ leBytes 30 0

/-- The whole table of a partition. -/
def State.slotTable (s : State) (p : Fin 32) (g : Program) : List Byte :=
  (List.range 128).flatMap fun n =>
    (SMap.get Slot.init s.slots (p.val * 128 + n)).record g (s.prefilling p == some (p.val * 128 + n))

/-- The copies that the supervisor writes: one into every tile whose image declares the table. -/
def State.tableWrites (s : State) (p : Fin 32) : List (Nat × CfgWrite) :=
  match (s.part p).program, s.furnPart p with
  | some g, some f =>
    let t := s.slotTable p g
    (List.range (64 * f.bw * f.bh)).filterMap fun n =>
      (g.slotTable.find? fun e => e.2 == g.tileTable.getD n 256).map fun e =>
        ((Ground.tile (s.ground f s.map) n).key, .scratch e.1 t)
  | _, _ => []

/-- The supervisor writes the slot tables for the next step. -/
def State.writeTables (s : State) (p : Fin 32) : State :=
  { s.sendWrites p (s.tableWrites p) with
    slots := match (s.part p).program with
      | none => s.slots
      | some g => SMap.mapVals Slot.init
          (fun k y => if k / 128 = p.val then { y with nf := y.inFlight g (s.prefilling p == some k) } else y) s.slots }

/-! ### The binding table (R431)

The entry of swap-set position e and slice n is taken to be the 4-byte word e × 96 + n of the table (the rule gives the
entry's bits and no more; log entry 22). -/

def bindOff (g : Program) (entry slice : Nat) : Nat := g.bindTable + 4 * (96 * entry + slice)

/-- The entries of a model: tile index, offset, word. -/
def ModelInfo.binds (m : ModelInfo) (g : Program) : List (Nat × Nat × Word) :=
  (m.desc.slices.zip m.vats).map fun e =>
    (e.1.tile, bindOff g m.entry e.1.slice, BitVec.ofNat 32 (e.2 % 96 + e.1.mode.toNat * 256))

/-- The writes of some models' entries into the tiles' scratchpads; `clear` writes zeros. -/
def bindWrites (x : Ground) (g : Program) (clear : Bool) (ms : List ModelInfo) : List (Nat × CfgWrite) :=
  (ms.flatMap (·.binds g)).map fun e => ((x.tile e.1).key, .scratch e.2.1 (leBytes 4 (if clear then 0 else e.2.2.toNat)))

/-- The binding entries of some models of `p` written or cleared, on VC2 behind the weights themselves (R238). -/
def State.bindTiles (s : State) (p : Fin 32) (clear : Bool) (ms : List ModelInfo) : State :=
  match (s.part p).program, s.furnPart p with
  | some g, some f => s.sendWrites p (bindWrites (s.ground f s.map) g clear ms)
  | _, _ => s

/-! ### The gap's writes (R387, R467) -/

/-- The couch stands in a gap in which the next step's slot tables are due. -/
def Part.tablesDue (x : Part) : Bool := x.open_ && x.couch.gap && !x.resetDue && (x.couch.fresh || x.couch.released)

/-- The slot tables are written again where a change falls in the gap. -/
def State.refreshTables (s : State) (p : Fin 32) : State := if (s.part p).tablesDue then s.writeTables p else s

/-- The words of the instruction stores that the program's patches now give another value: BIN patches under the new load. -/
def State.binWrites (s : State) (g : Program) (fu : Furnish) (x : Ground) : List (Nat × CfgWrite) :=
  (List.range x.count).flatMap fun n =>
    let k := (x.tile n).key
    let m := (SMap.get Tile.init s.tiles k).mem.istore
    (g.code fu s.net.trees x n).zipIdx.filterMap fun e =>
      if SMap.get 0 m e.2 == e.1 then none else some (k, .istore (BitVec.ofNat 14 e.2) [e.1])

/-- In a gap the supervisor applies the BIN patches of a partition again whose die's load a remap has changed, as writes of single
words, and its load drive (R284, R467). -/
def State.rebin (s : State) (p : Fin 32) : State :=
  match (s.part p).binsDue && (s.part p).loaded && (s.part p).idle, (s.part p).program, s.furnish, s.furnPart p with
  | true, some g, some fu, some f =>
    let s1 := s.setPart p { s.part p with binsDue := false }
    (s1.sendWrites p (s1.binWrites g fu (s1.ground f s1.map))).shareDie p
  | _, _, _, _ => s

end Sys2Proof.Machine
end

