-- ==== Sys2Proof/Machine/Loads.lean ====
section
/-! DEFINITION. The loads of a partition (R432–R440): the queue and the load that runs, the vats it takes, and what changes in the
partition's vats and binding tables, which happens in gaps (R437): evictions, restorations, models that leave. -/

namespace Sys2Proof.Machine

/-! ### Vats of a load, and the queue of loads -/

/-- A vat set EMPTY and unbound (R438, R439). -/
def Vat.emptied (v : Vat) : Vat := { Vat.init with spares := v.spares, bad := v.bad }

def emptyVats (m : SMap Vat) (ks : List Nat) : SMap Vat := SMap.modifyAll Vat.init (fun _ v => v.emptied) ks m

/-- The codes of vats removed. -/
def emptyCodes (m : SMap Byte) (ks : List Nat) : SMap Byte := m.filter fun e => !ks.contains (e.1 / 0x8000)

/-- The entries of a partition's swap set (R428). -/
def Furnish.swapOf (fu : Furnish) (p : Fin 32) : List SwapEntry := fu.swap.filter (·.part = p)

def State.swapOf (s : State) (p : Fin 32) : List SwapEntry := match s.furnish with | none => [] | some fu => Furnish.swapOf fu p

def State.entryOf (s : State) (p : Fin 32) (e : Option Nat) : Option SwapEntry := e.bind fun e => (s.swapOf p)[e]?

def Package.isOf (k : Package) (w : SwapEntry) : Bool := k.pubkey == w.pubkey && k.pkgid == w.pkgid

/-- The loft of a site answers: its supplies are up, it does not sleep and is not in site-off (R499, R501, R533). -/
def Site.serves (x : Site) : Bool := x.up && !x.inReset && !x.sleep && x.tstate != 2

/-- Every site with power sleeps. -/
def State.allAsleep (s : State) : Bool := allSites.all fun i => !(s.site i).up || (s.site i).sleep || (s.site i).tstate == 2

/-- The peer-link and storage dies are off: in standby with every site asleep, or after the hard temperature limit (R509, R535). -/
def State.diesOff (s : State) : Bool := s.sup.trip || (s.sup.standby && s.allAsleep)

/-- The package stands whole in the cache: every shard has been fetched (R433). -/
def Package.whole (k : Package) : Bool := k.got == k.lens.length && k.desc.isSome

/-- A package of a swap-set entry with this manifest stands whole in the cache, in a loft that answers (R440). -/
def State.cacheHolds (s : State) (p : Fin 32) (m : ModelInfo) : Bool :=
  match s.entryOf p (some m.entry) with
  | none => false
  | some w => s.cache.packages.any fun k => k.isOf w && k.digest == m.digest && k.whole && (s.site (Fin.ofNat 64 k.site)).serves

/-- The package of a resident model stands whole in the cache, in a loft that answers (R440). -/
def State.hasPackage (s : State) (p : Fin 32) (id : BitVec 16) : Bool :=
  (s.part p).models.any fun m => m.id == id && s.cacheHolds p m

/-! ### The read under way -/

/-- The shard that the load fetches. -/
def Load.shardDue (l : Load) : Option ShardEntry := l.manifest.bind fun m => m.shards[l.shard.toNat]?

/-- The digest that the shard table gives it. -/
def Load.digestDue (l : Load) : Option Nat := l.shardDue.map (·.digest)

/-- The NVMe read commands that the read under way still waits for, where it goes to a drive: of at most 1 MiB each (R565); one for a
manifest. -/
def Load.cmdsDue (l : Load) : Nat :=
  (if l.state = 2 then match l.shardDue with | none => 0 | some e => max 1 ((e.length + 0xFFFFF) / 0x100000) else 1) - l.cmds

/-! ### The queue -/

/-- The load of an entry begins in state MANIFEST (R433). -/
def Load.begin (l : Load) (sw : List SwapEntry) (e : Nat) (who : List Nat) (now : Nat) : Load :=
  { l with
    state := 1, entry := some e, answer := who, model := match sw[e]? with | none => 0 | some w => w.model
    shard := 0, nshard := 0, retry := 0, src := 0, tries := 0, manifest := none, desc := none, vats := [], victims := []
    since := now, cmds := 0, badLines := [] }

/-- No load runs. -/
def Load.rests (l : Load) : Bool := l.state == 0 || l.state == 8

/-- The oldest waiting load starts, if none runs (R432). -/
def Load.next (l : Load) (sw : List SwapEntry) (now : Nat) : Load :=
  if l.rests then
    match l.queue with
    | [] => l
    | (e, who) :: r => { (l.begin sw e who now) with queue := r }
  else l

/-- A reset stops the load without recording a failure, and the loads that wait; they start once the partition reopens, the one that
ran only where its entry is START or AUTO (R498).  Victims in eviction go on leaving (R439); a restoration goes on (R438). -/
def Load.stop (l : Load) (sw : List SwapEntry) : Load :=
  let again := match l.entry with
    | none => []
    | some e => match sw[e]? with
      | none => []
      | some w => if w.start || w.auto then [(e, l.answer)] else []
  if l.rests then { l with queue := [], later := l.later ++ l.queue }
  else if l.state = 9 then { l with queue := [], later := l.later ++ l.queue, drop := l.drop ++ l.vats, vats := [] }
  else { l with
    state := 0, queue := [], later := again ++ l.later ++ l.queue, entry := none, answer := [], manifest := none, desc := none
    leaving := if l.state = 4 then l.leaving ++ l.victims else l.leaving
    drop := if 5 ≤ l.state.toNat then l.drop ++ l.vats else l.drop
    vats := [], victims := [] }

/-- The partition has reopened: the loads that a reset has stopped wait in the queue again. -/
def Load.resume (l : Load) : Load := { l with queue := l.queue ++ l.later, later := [] }

/-- A load of entry `e` waits. -/
def Load.waiting (l : Load) (e : Nat) : Bool := (l.queue ++ l.later).any (·.1 == e)

/-- A vat that is to hold a slice of a resident model again: bound, and not yet written (R465 step 6).  Weight-load writes fill it
and acceptance tests follow. -/
def Vat.taking (y x : Vat) : Vat := { y.emptied with mode := x.mode, kw := x.kw, part := x.part, model := x.model }

/-- A vat of a resident model that is not written, or is to be written again (R170, R465). -/
def Vat.filling (v : Vat) : Bool := v.part.isSome && !v.tested && !v.testDue

/-- Models of the partition whose vats are to be written again and whose packages have left the cache are fetched again (R440): each is
a load that ends once its package is there. -/
def State.fetchMissing (s : State) (p : Fin 32) : State :=
  let x := s.part p
  let ms := x.models.filter fun m => !s.cacheHolds p m && !x.load.waiting m.entry && !(!x.load.rests && x.load.entry == some m.entry) &&
    m.vats.any fun v => !(s.vat v).tested && !(s.vat v).testDue
  if ms.isEmpty then s
  else s.setPart p { x with load :=
    ({ x.load with queue := x.load.queue ++ ms.map fun m => (m.entry, []) } : Load).next (s.swapOf p) s.now }

/-! ### What a load changes in the partition, in its gaps (R437) -/

/-- EMPTY, good, unbound vats of a tile. -/
def freeVats (m : SMap Vat) (k : Nat) : List Nat :=
  ((List.range 96).map (k * 96 + ·)).filter fun v =>
    let x := SMap.get Vat.init m v
    x.mode == 0 && !x.bad && x.part.isNone

def State.setLoad (s : State) (p : Fin 32) (l : Load) : State :=
  { s with parts := SMap.set Part.init s.parts p.val { s.part p with load := l } }

/-- Vats for slices on tiles with keys `ks`: the lowest free ones, each once (R431). -/
def pickVats (free : Nat → List Nat) : List Nat → List Nat → Option (List Nat)
  | [], _ => some []
  | k :: ks, taken =>
    match (free k).find? fun v => !taken.contains v with
    | none => none
    | some v => (pickVats free ks (v :: taken)).map (v :: ·)

/-- The tiles of a descriptor's slices. -/
def State.sliceTiles (s : State) (p : Fin 32) (d : Descriptor) : List Nat :=
  match s.furnPart p with
  | none => []
  | some f => d.slices.map fun x => (Ground.tile (s.ground f s.map) x.tile).key

/-- The chosen vats take their modes and column shifts (R110); they stay unbound until the commit. -/
def openVats (m : SMap Vat) : List (Slice × Nat) → SMap Vat
  | [] => m
  | (x, k) :: r =>
    let v := SMap.get Vat.init m k
    openVats (SMap.set Vat.init m k { v.emptied with mode := x.mode, kw := x.kw }) r

/-- A load enters state WRITE (or goes on restoring) with its vats; a model without slices has nothing to write or to test. -/
def State.enterWrite (s : State) (p : Fin 32) (st : BitVec 4) (d : Descriptor) (vs : List Nat) : State :=
  let s1 := s.setLoad p { (s.part p).load with state := st, desc := some d, vats := vs }
  let s2 : State := { s1 with vats := openVats s1.vats (d.slices.zip vs), vatMem := emptyCodes s1.vatMem vs }
  if vs.isEmpty && st == 5 then s2.setLoad p { (s2.part p).load with state := 7 } else s2

/-- The models that leave: their binding entries cleared, their vats unbound (R439). -/
def State.leaveNow (s : State) (p : Fin 32) : State :=
  let l := (s.part p).load
  let ks := l.leaving.flatMap (·.vats)
  if l.leaving.isEmpty then s
  else ({ s.bindTiles p true l.leaving with vats := emptyVats s.vats ks, vatMem := emptyCodes s.vatMem ks } : State).setLoad p
    { l with leaving := [] }

/-- The vats that a failed or stopped load has written are EMPTY again (R438). -/
def State.dropNow (s : State) (p : Fin 32) : State :=
  let l := (s.part p).load
  if l.drop.isEmpty then s
  else ({ s with vats := emptyVats s.vats l.drop, vatMem := emptyCodes s.vatMem l.drop } : State).setLoad p { l with drop := [] }

/-- The eviction of the victims: their binding entries cleared, their vats unbound (R439); the load goes on in state WRITE. -/
def State.evictNow (s : State) (p : Fin 32) : State :=
  let l := (s.part p).load
  let ks := l.victims.flatMap (·.vats)
  match l.desc with
  | none => s
  | some d =>
    if l.state = 4 then
      ({ s.bindTiles p true l.victims with
        vats := emptyVats s.vats ks
        vatMem := emptyCodes s.vatMem ks } : State).enterWrite p 5 d l.vats
    else s

/-- The next victim is restored: written again into free vats from its package in the cache; a victim that does not fit, or whose package
is lost, stays absent (R438).  Without one the failed load is over. -/
def State.restore (s : State) (p : Fin 32) : List ModelInfo → State
  | [] =>
    let l : Load := { (s.part p).load with
      state := 8, entry := none, manifest := none, desc := none, vats := [], victims := [] }
    s.setLoad p (l.next (s.swapOf p) s.now)
  | m :: r =>
    match s.cacheHolds p m, pickVats (freeVats s.vats) (s.sliceTiles p m.desc) [] with
    | true, some vs =>
      let s1 := s.enterWrite p 9 m.desc vs
      s1.setLoad p { (s1.part p).load with victims := m :: r }
    | _, _ => ({ s with bbx := s.bbx.append (s.sup.record evtLoadRestore (some p) 0 0) } : State).restore p r

/-- The supervisor's work on vats and binding tables that waits for a gap, in order; a partition that runs no stage takes it at once
(R437).  A restoration that holds no vats yet takes them. -/
def State.gapWork (s : State) (p : Fin 32) : State :=
  if (s.part p).idle then
    let s1 := ((s.leaveNow p).dropNow p).evictNow p
    if (s1.part p).load.state = 9 ∧ (s1.part p).load.vats = [] ∧ (s1.part p).resetDue = false then s1.restore p (s1.part p).load.victims
    else s1
  else s

/-- Victims are restored from the next gap on (R438); without any the failed load is over. -/
def State.startRestore (s : State) (p : Fin 32) (vs : List ModelInfo) : State :=
  (if vs.isEmpty then s.restore p [] else s.setLoad p { (s.part p).load with state := 9, vats := [], victims := vs }).gapWork p

/-- A reset stops the loads of a partition, which runs no stage any more: what was to leave in a gap leaves at once (R439, R498). -/
def State.stopLoad (s : State) (p : Fin 32) : State :=
  let l := (s.part p).load.stop (s.swapOf p)
  let ks := l.drop ++ l.leaving.flatMap (·.vats)
  { s with
    vats := emptyVats s.vats ks
    vatMem := if ks.isEmpty then s.vatMem else emptyCodes s.vatMem ks
    parts := SMap.set Part.init s.parts p.val { s.part p with load := { l with drop := [], leaving := [] } } }

/-- A resident model whose package could not be fetched again, with slices that are to be written, is absent (R438, R440); its binding
entries and its vats follow in the next gap. -/
def State.lose (s : State) (p : Fin 32) (id : BitVec 16) : State :=
  let ms := (s.part p).models.filter fun m => m.id == id && m.vats.any fun v => (s.vat v).filling
  if ms.isEmpty then s
  else { s with
    parts := SMap.set Part.init s.parts p.val { (s.part p).dropNodes (fun n => n.model == id) with
      models := (s.part p).models.filter (·.id != id)
      load := { (s.part p).load with leaving := (s.part p).load.leaving ++ ms } } }

end Sys2Proof.Machine
end

