-- ==== Sys2Proof/Machine/Install.lean ====
section
/-! DEFINITION. The installation of a program in a partition that runs no stage (R341, R342), what happens where one of its steps
fails (R438), and the change between the two programs of a partition (R393). -/

namespace Sys2Proof.Machine

/-- The partition's counts after a load (R342). -/
def Part.programmed (x : Part) : Part :=
  { x with loaded := true, prev := none, terr := 0, lastErr := 0, halted := false, switching := none }

/-- The programs as they stand, for an install that fails. -/
def Part.asPrev (x : Part) (session : Option Nat) : Prev :=
  ⟨x.narrow, x.exact, x.badNarrow, x.badExact, x.isExact, x.loaded, session⟩

/-- The programs that an install found are the partition's again. -/
def Part.back (x : Part) (o : Prev) : Part :=
  { x with
    narrow := o.narrow, exact := o.exact, badNarrow := o.badNarrow, badExact := o.badExact, isExact := o.isExact
    loaded := o.loaded, prev := none, switching := none }

/-- Every acceptance test of the partition's resident models is done (R169). -/
def State.testsDone (s : State) (p : Fin 32) : Bool := (s.part p).models.all fun m => m.vats.all fun v => (s.vat v).tested

def State.answerSome (s : State) (n : Option Nat) (f : Frame) : State := match n with | none => s | some n => s.answer n f

/-- No lane of the partition owes a warm-up. -/
def State.lanesWarm (s : State) (p : Fin 32) : Bool := (laneKeys (s.tilesOf p)).all fun k => !(SMap.get Lane.init s.lanes k).rewarm

/-- Step 6 of R341, once the warm-up of step 4 and the tests of step 5 are done: LOADED, and the answer. -/
def State.endInstall (s : State) (p : Fin 32) : State :=
  match (s.part p).prev with
  | none => s
  | some o => if s.testsDone p && s.lanesWarm p then ((s.setPart p (s.part p).programmed).rebin p).answerSome o.session (.reply 0 0 []) else s

/-- A step of an install fails: the partition keeps no part of the new program, and the one before it, if there was one, is written back
(R341, R438). -/
def State.undoInstall (s : State) (p : Fin 32) (rows : List (PTile × Nat)) : State :=
  match (s.part p).prev with
  | none => s
  | some o =>
    let s1 := s.programFail p ((s.part p).back o)
    let s2 := match o.loaded, (s1.part p).program with
      | true, some g => ((s1.writeProgram p g s1.map).resetTiles rows (s1.tilesOf p)).shareDie p
      | _, _ => ((s1.eraseProgram p).resetTiles rows (s1.tilesOf p)).shareDie p
    (s2.bindTiles p false (s2.part p).models).answerSome o.session (.reply 1 6 [])

/-- Steps 3 to 6 of R341 for program `g` of a mode, over what stood before. -/
def State.install (s : State) (p : Fin 32) (g : Program) (exact : Bool) (rows : List (PTile × Nat)) (o : Prev) : State :=
  let s1 := ((s.writeProgram p g s.map).resetTiles rows (s.tilesOf p)).shareDie p
  let s2 := s1.setPart p { s1.part p with prev := some o, loaded := false, isExact := exact, binsDue := false }
  if s2.anyFailed p then (s2.undoInstall p []).replaceDue p
  else ((s2.bindTiles p false (s2.part p).models).refreshTables p).endInstall p

/-- The supervisor's earlier writes to the partition's tiles have arrived and been acknowledged: a program does not overtake them
(R238). -/
def State.writesDone (s : State) (p : Fin 32) : Bool := (s.part p).outWrites.isEmpty && !s.net.writing p

/-- A program change completes: the other program is installed, or the change fails and that program is unusable
(R393). -/
def execProgramChangeDone (p : Fin 32) (ok : Bool) (rows : List (PTile × Nat)) (s : State) : Out :=
  let x := s.part p
  .next (match (if s.writesDone p && x.prev.isNone then x.switching else none) with
    | none => s
    | some ex =>
      let o : Prev := { x.asPrev none with badExact := x.badExact || ex, badNarrow := x.badNarrow || !ex }
      let fail := s.programFail p (x.back o)
      match (if ex then x.exact else x.narrow) with
      | none => fail
      | some g =>
        if ok && s.programOk p g s.map && x.idle && s.allFree p then s.install p g ex rows o else fail)

end Sys2Proof.Machine
end

