-- ==== Sys2Proof/Machine/Partition.lean ====
section
/-! DEFINITION. The PARTITION reset (R261, R405, R473, R497, R498) with the spare remap of dead tiles (R231, R465,
R466), and the reopening of a partition (R387). -/

namespace Sys2Proof.Machine

/-! ### Slots leave (R420, R497 step 3) -/

/-- The frames that wait at the port follow on, one behind the other, from the positions sent (R474): those that do. -/
def Slot.following (y : Slot) : Nat → List TokFrame → List TokFrame
  | _, [] => []
  | n, f :: r => if f.k = n + 1 then f :: y.following (n + f.toks.length) r else []

/-- The port die sends the frames that wait for a slot, then its status if it is owed (R421); a frame out of continuity is not sent, nor
one behind it, and the request ends with FAULT 0x04 (R474). -/
def Serv.flush (x : Serv) (y : Slot) : Serv :=
  let fs := y.following y.sent y.portQ
  let a := x.pushAll (fs.map fun f => (y.session, .tokens y.reqId f.k f.toks))
  match y.status with
  | some st =>
    if y.statusSent then a
    else a.sendStatus y.session y.reqId
      (if fs.length = y.portQ.length then st else ⟨5, 4, y.sent + (fs.map (·.toks.length)).sum⟩)
  | none => a

/-- A record of EVT_AUDIT_TOKENS for each slot whose frames do not follow on. -/
def State.flushFaults (s : State) (ys : List (Nat × Slot)) : State :=
  let bad := ys.filter fun e => (e.2.following e.2.sent e.2.portQ).length != e.2.portQ.length
  { s with
    sup := { s.sup with
      auditTokens := satAdd s.sup.auditTokens bad.length, auditKind := if bad.isEmpty then s.sup.auditKind else 5
      auditPart := match bad.getLast? with | none => s.sup.auditPart | some e => BitVec.ofNat 5 (e.1 / 128) }
    bbx := bad.foldl (fun b e => b.append (s.sup.record evtAuditTokens (some (Fin.ofNat 32 (e.1 / 128))) 0
      (let n := e.2.sent + ((e.2.following e.2.sent e.2.portQ).map (·.toks.length)).sum
       let f := (e.2.portQ.getD (e.2.following e.2.sent e.2.portQ).length ⟨0, []⟩).k
       BitVec.ofNat 64 ((n + 1) % 2 ^ 32 * 2 ^ 32 + f % 2 ^ 32)))) s.bbx }

def Serv.flushAll (x : Serv) : List Slot → Serv
  | [] => x
  | y :: r => (x.flush y).flushAll r

/-- Every slot of the partitions ends, its frames return, and it is FREE. -/
def State.freeSlots (s0 : State) (ps : List (Fin 32)) (code detail : BitVec 8) : State :=
  let s := s0.flushFaults (s0.slots.filter fun e => ps.any fun p => e.1 / 128 == p.val)
  let v := s.endServ ps code detail
  let mine (e : Nat × Slot) : Bool := ps.any fun p => e.1 / 128 == p.val
  let w := v.flushAll ((v.slots.filter mine).map (·.2))
  { s with
    slots := v.slots.filter fun e => !mine e
    sessions := w.sessions, phw := w.phw
    loft := s.unmapped ps
    parts := mapParts s.parts ps fun p x =>
      { x.releaseAll ((v.slots.filter fun e => e.1 / 128 == p.val).map (·.2)) with maps := [] } }

/-! ### Credits at drain (R249, R250) -/

/-- The receiver has returned every credit that it owes; a credit too many stays. -/
def LinkCnt.settle (x : LinkCnt) : LinkCnt :=
  if (x.c - x.g).toNat < 2 ^ 15 then { x with g := x.c, aOff := x.aOff - (x.c - x.g), marker := none, echo := none }
  else { x with marker := none, echo := none }

/-- The check that a drained channel fails: its code in NET_AUDIT_LAST, what was expected and found. -/
def LinkCnt.drainFault (x : LinkCnt) (vc : Nat) : Option (Nat × Nat × Nat) :=
  if !x.balanced then some (0, vcDepth vc, (vcDepth vc + 2 ^ 16 - x.aOff.toNat + (x.s - x.g).toNat) % 2 ^ 16)
  else if x.r ≠ x.s then some (1, x.s.toNat, x.r.toNat)
  else if x.g ≠ x.c then some (2, x.c.toNat, x.g.toNat)
  else if x.aOff ≠ 0 then some (3, vcDepth vc, (vcDepth vc + 2 ^ 16 - x.aOff.toNat) % 2 ^ 16)
  else none

/-- A link direction inside the tiles with keys `ks`: both routers are among them. -/
def linkInside (ks : List Nat) (key : Nat) : Bool :=
  let r := linkRouter key
  let b := beyond r.col r.row (linkPort key)
  ks.contains r.key && ks.contains (tileAt b.1 b.2).key

/-- A channel whose credits are initialised while `n` flits of other partitions hold its buffers. -/
def LinkCnt.fresh (n : Nat) : LinkCnt := { LinkCnt.init with s := BitVec.ofNat 16 n, aOff := BitVec.ofNat 16 n, r := BitVec.ofNat 16 n }

/-- The flits that hold a buffer of a channel. -/
def Net.holding (n : Net) (k : Nat) : Nat := (n.flits.filter fun f => f.via == some k).length

/-- The links after the drain: those inside the partition's tiles settled, those of them that fail a check re-initialised, and with
them every failed link that the partition's routes use (`used`), wherever it lies (R249, R250). -/
def Net.settle (n : Net) (ks : List Nat) (used : Nat → Bool) : SMap LinkCnt :=
  SMap.mapVals LinkCnt.init (fun k x =>
    if linkInside ks k then
      (if x.failed || (x.settle.drainFault (k % 4)).isSome then LinkCnt.fresh (n.holding k) else x.settle)
    else if x.failed && used k then LinkCnt.fresh (n.holding k)
    else x) n.links

/-- The failed checks of the drained links. -/
def drainFaults (m : SMap LinkCnt) (ks : List Nat) : List (Nat × Nat × Nat × Nat) :=
  m.filterMap fun e => if linkInside ks e.1 then (e.2.settle.drainFault (e.1 % 4)).map fun x => (e.1, x) else none

def State.drainFails (s : State) : List (Nat × Nat × Nat × Nat) → State
  | [] => s
  | (k, c, e, f) :: r => (s.auditFail k c e f).drainFails r

/-- Steps 1 and 2 of R497: the audit of every link, those that drain at their final counts, the others as every 10 ms (R249); the
failures are recorded, then the links re-initialised. -/
def State.drained (s : State) (p : Fin 32) : State :=
  let n := s.net.drain p Flit.isReset
  let ks := s.tilesOf p
  let s1 := (({ s with net := n } : State).drainFails (drainFaults n.links ks)).startAudit fun k => !linkInside ks k
  { s1 with
    net := { s1.net with
      links := s1.net.settle ks fun k => s.usesLink p (linkRouter k).col (linkRouter k).row (linkPort k) } }

/-! ### Bad routers (R228, R468) -/

/-- Routers that failed their link tests are declared bad.  Every other partition whose routes cross one is closed, and takes the
detours at its PARTITION reset. -/
def State.closeRouters (s : State) (p : Fin 32) (rs : List PTile) : State :=
  let new := rs.filter fun r => !s.net.badRouters.contains r.key
  let ps := allParts.filter fun q => q != p && (s.furnPart q).isSome && !(s.part q).oos && s.routesMeet q new.contains
  let v := s.endServ ps 5 1
  { s with
    slots := v.slots, sessions := v.sessions, phw := v.phw
    parts := mapParts s.parts ps fun _ x => x.close
    net := { s.net with badRouters := s.net.badRouters ++ (new.map PTile.key).dedup } }

/-! ### Spare remap (R465, R466) -/

/-- A record of each tile found bad (R471). -/
def State.bringupLog (s : State) (l : List Nat) : State :=
  { s with bbx := s.bbx.appendAll (l.map fun k => s.sup.recordOf evtTileBadBringup (k / 256) (k % 256) 15 none) }

/-- Every physical tile that the mapping tables name. -/
def mappedKeys (map : SMap Nat) : List Nat :=
  ((List.range 8192).filter fun i => named map (i % 128) (i / 128)).map fun i => (physOf map (i % 128) (i / 128)).key

def State.isBad (s : State) (k : Nat) : Bool := s.flash.badTiles.contains k || (SMap.get Tile.init s.tiles k).pl.bad

/-- Keys of the 9,216 physical tiles. -/
def allTileKeys : List Nat := (List.range 64).flatMap fun i => (List.range 144).map fun j => i * 256 + j

/-- Good spare tiles that no mapping entry names. -/
def State.spares (s : State) : List Nat :=
  allTileKeys.filter fun k => !s.isBad k && (s.site (Fin.ofNat 64 (k / 256))).up && !(mappedKeys s.map).contains k

/-- Vats of a tile that hold slices. -/
def usedVats (m : SMap Vat) (k : Nat) : List Nat :=
  ((List.range 96).map (k * 96 + ·)).filter fun v => (SMap.get Vat.init m v).part.isSome

def absDiff (a b : Nat) : Nat := (a - b) + (b - a)

/-- Physical distance of two tiles: the sum of the column and the row differences (the model's choice, log entry 66). -/
def tileDist (a b : PTile) : Nat := absDiff a.col b.col + absDiff a.row b.row

/-- The mapping tables with logical tile (c, r) at the tile with key `k`. -/
def remapTo (map : SMap Nat) (c r k : Nat) : SMap Nat :=
  SMap.set 0 map (128 * r + c) (if (nominal c r).key = k then 0 else k + 1)

/-- The partition's program, where it has one installed or being installed, still passes R329 under a map (R465 step 5). -/
def State.programsOk (s : State) (p : Fin 32) (map : SMap Nat) : Bool :=
  !((s.part p).loaded || (s.part p).prev.isSome) || match (s.part p).program with | none => true | some g => s.programOk p g map

/-- The partition's program passes R334 or R336 under a map (R466). -/
def State.powerFits (s : State) (map : SMap Nat) (p : Fin 32) : Bool :=
  match s.furnish, s.furnPart p, (s.part p).program with
  | some fu, some f, some g => !(s.part p).loaded || g.powerOk fu (s.ground f map)
  | _, _, _ => true

/-- Every transfer of relative tile `n` in a program stays within the bound that the program assumes (R231): those of the
link-load summary, the tree edges that end at it, its VC0 messages to the attachments `vc0` and back, and its reads and writes of
the loft channels at `lofts`. -/
def Program.reaches (g : Program) (x : Ground) (n : Nat) (vc0 lofts : List (Nat × Nat)) : Bool :=
  let t := x.tile n
  let t0 := x.nominalPlace n
  g.links.all (fun r => 0x8000 ≤ r.dst || !(r.src == n || r.dst == n) ||
    withinBound x.bad r.vc (x.tile r.src).place (x.tile r.dst).place (x.nominalPlace r.src).place (x.nominalPlace r.dst).place) &&
  g.trees.all (fun d => d.nodes.all fun v => match v.parent.bind fun q => d.nodes[q]? with
    | none => true
    | some w =>
      let a := x.phys v.col v.row
      let b := x.phys w.col w.row
      let a0 := nominal (8 * x.f.bx + v.col) (8 * x.f.byy + v.row)
      let b0 := nominal (8 * x.f.bx + w.col) (8 * x.f.byy + w.row)
      !(a == t || b == t) || (if d.multicast then withinBound x.bad 3 b.place a.place b0.place a0.place
        else withinBound x.bad 3 a.place b.place a0.place b0.place)) &&
  vc0.all (fun e => withinBound x.bad 0 t.place e t0.place e && withinBound x.bad 0 e t.place e t0.place) &&
  lofts.all fun e => withinBound x.bad 1 t.place e t0.place e && withinBound x.bad 2 e t.place e t0.place &&
    withinBound x.bad 2 t.place e t0.place e

/-- R231 for logical tile (c, r) of the partition under a map, over both of its programs. -/
def State.inReach (s : State) (p : Fin 32) (c r : Nat) (map : SMap Nat) : Bool :=
  match s.furnPart p with
  | none => true
  | some f =>
    let vc0 := (s.net.supAt.1, s.net.supAt.2.1) :: (s.storeSites p).map fun i => ((storeAt (Fin.ofNat 64 i)).1, (storeAt (Fin.ofNat 64 i)).2.1)
    ((s.part p).narrow.toList ++ (s.part p).exact.toList).all fun g =>
      Program.reaches g (s.ground f map) ((r - 8 * f.byy) * (8 * f.bw) + (c - 8 * f.bx)) vc0 (s.loftPlaces p)

/-- The nearer of two tiles to tile `old`; of two at the same distance the first. -/
def nearer (old : Nat) (a : Option Nat) (k : Nat) : Option Nat :=
  match a with
  | none => some k
  | some b => if tileDist (PTile.ofKey k) (PTile.ofKey old) < tileDist (PTile.ofKey b) (PTile.ofKey old) then some k else some b

/-- The spare for logical tile (c, r), of partition `p` if it belongs to one, whose tile has key `old` (R11, R466).  It has EMPTY
vats for the slices of the old one.  On the die of the failed tile it is the one of the lowest key (both the model's choice, log
entry 66), whatever the checks of R329 say of it afterwards; on another die the nearest that meets R231 and keeps the power of
every partition there. -/
def State.spareFor (s : State) (p : Option (Fin 32)) (c r old : Nat) : Option Nat :=
  let fits := s.spares.filter fun k => (usedVats s.vats old).length ≤ (freeVats s.vats k).length
  match fits.find? (fun k => k / 256 == old / 256) with
  | some k => some k
  | none =>
    (fits.filter fun k =>
      let map := remapTo s.map c r k
      (match p with | none => true | some p => s.inReach p c r map) &&
        (p.toList ++ s.partsOn (Fin.ofNat 64 (k / 256))).all (s.powerFits map)).foldl (nearer old) none

/-- Slices that leave dead vats for others. -/
def moveVats (m : SMap Vat) : List (Nat × Nat) → SMap Vat
  | [] => m
  | (a, b) :: r =>
    let x := SMap.get Vat.init m a
    moveVats (SMap.set Vat.init (SMap.set Vat.init m b ((SMap.get Vat.init m b).taking x)) a { x.emptied with bad := x.bad }) r

def ModelInfo.moved (m : ModelInfo) (l : List (Nat × Nat)) : ModelInfo :=
  { m with vats := m.vats.map fun v => match (l.find? fun e => e.1 = v) with | none => v | some e => e.2 }

/-- DETAIL of EVT_REMAP: logical c and r, old and new physical tile (R477). -/
def remapDetail (c r old new : Nat) : BitVec 64 := BitVec.ofNat 64 ((c * 256 + r) * 2 ^ 48 + old * 2 ^ 16 + new)

/-- A dead tile leaves its place: declared bad, logged, without a partition; its lanes owe no warm-up. -/
def State.retireTile (s : State) (old : Nat) : State :=
  { s with
    tiles := SMap.set Tile.init s.tiles old { SMap.get Tile.init s.tiles old with
      pl := { (SMap.get Tile.init s.tiles old).pl with part := none, bad := true, failed := false } }
    lanes := SMap.modifyAll Lane.init (fun _ l => { l with rewarm := false, lifting := false, drive := .off }) (laneKeys [old]) s.lanes
    flash := { s.flash with badTiles := if s.flash.badTiles.contains old then s.flash.badTiles else s.flash.badTiles ++ [old] } }

/-- A lane of a tile that a mapping entry newly names: no values, a warm-up owed; its quarantines since POR stay counted
(R173, R180). -/
def Lane.mapped (l : Lane) : Lane := { Lane.init with rewarm := true, qcount := l.qcount }

/-- The logical tile moves to the spare with key `new`: map, place, vats, lanes that owe a warm-up. -/
def State.moveTile (s : State) (p : Option (Fin 32)) (c r old new : Nat) : State :=
  let l := (usedVats s.vats old).zip (freeVats s.vats new)
  let x := SMap.get Tile.init s.tiles new
  { s with
    map := remapTo s.map c r new
    tiles := SMap.set Tile.init s.tiles new { x.reset [] with
      pl := { (x.reset []).pl with c := BitVec.ofNat 7 c, r := BitVec.ofNat 6 r, part := p } }
    vats := moveVats s.vats l
    vatMem := emptyCodes s.vatMem (l.map (·.1))
    lanes := SMap.modifyAll Lane.init (fun _ l => l.mapped) (laneKeys [new]) s.lanes
    sites := SMap.modifyAll Site.init (fun _ x => { x with warmFrom := s.sup.counter }) [new / 256] s.sites
    parts := match p with
      | none => s.parts
      | some p => SMap.set Part.init s.parts p.val { s.part p with models := (s.part p).models.map (·.moved l) }
    sup := { s.sup with remaps := satAdd s.sup.remaps 1, remapLog := s.sup.remapLog ++ [(old, new)] }
    bbx := s.bbx.append (s.sup.record evtRemap p 0 (remapDetail c r old new)) }

/-- Steps 3 and 4 of R465 for the tiles that failed the test; the flag says that a spare was found for each.  An entry for which
none is left names no tile (R12; the value is the model's choice, log entry 67), and its partition goes out of service. -/
def State.remapAll (s : State) (p : Option (Fin 32)) : List (Nat × Nat × Nat) → State × Bool
  | [] => (s, true)
  | (c, r, old) :: rest =>
    let s1 := s.retireTile old
    match s1.spareFor p c r old with
    | none => (({ s1 with map := SMap.set 0 s1.map (128 * r + c) noTile } : State).remapAll p rest |>.1, false)
    | some k => (s1.moveTile p c r old k).remapAll p rest

/-- The verdicts of good testers on a tile, passes and fails: those of its mesh neighbours, one of each (R470; of two of one tester
the first counts, log entry 40). -/
def verdictsOn (vs : List (PTile × PTile × Bool)) (bad : List Nat) (t : Nat) : Nat × Nat :=
  let l := vs.filter fun v => v.2.1.key == t && !bad.contains v.1.key && tileDist v.1 v.2.1 == 1
  let of_ (k : Nat) : Bool := match l.find? (·.1.key == k) with | none => false | some v => v.2.2
  let ks := (l.map (·.1.key)).dedup
  ((ks.filter of_).length, (ks.filter fun k => !of_ k).length)

/-- R471 on the tiles that the verdicts name, evaluated anew with the verdicts of the tiles found bad left out, until nothing changes;
`fuel` bounds the rounds. -/
def badTiles (vs : List (PTile × PTile × Bool)) (ts : List Nat) : Nat → List Nat → List Nat
  | 0, bad => bad
  | n + 1, bad =>
    let bad' := ts.filter fun t => !(2 ≤ (verdictsOn vs bad t).1 && (verdictsOn vs bad t).2 < (verdictsOn vs bad t).1)
    if bad' = bad then bad else badTiles vs ts n bad'

/-- The tiles found bad.  A tile that the list does not name as tested passed its tests. -/
def foundBad (vs : List (PTile × PTile × Bool)) : List Nat :=
  let ts := (vs.map (·.2.1.key)).dedup
  badTiles vs ts (ts.length + 1) []

/-- A tile with key `k` is dead: declared bad already, found to fail, failing the test, or in need of a 33rd spare row (R133, R172,
R198, R465). -/
def State.isDead (s : State) (failed : List PTile) (rows : List (PTile × Nat)) (k : Nat) : Bool :=
  let x := SMap.get Tile.init s.tiles k
  s.isBad k || x.pl.failed || failed.any (fun t => t.key = k) || x.mem.spent (rowsOf rows k)

/-- The partition's tiles that the neighbour tests after a wake or a SUPPLY reset of its sites find bad (R471, R496, R508). -/
def State.retestBad (s : State) (p : Fin 32) (failed : TestFails) : List Nat :=
  if (s.part p).retest then (s.tilesOf p).filter fun k => !s.isBad k && (foundBad failed.verdicts).contains k else []

/-- The dead tiles of the partition, with their logical places: the neighbour test of R465 is of the tiles that the step's event records
name, and after a wake or a SUPPLY reset of a site of every mapped tile (R496, R508). -/
def State.deadTiles (s : State) (p : Fin 32) (failed : TestFails) (rows : List (PTile × Nat)) : List (Nat × Nat × Nat) :=
  match s.furnPart p with
  | none => []
  | some f => ((f.tiles.filter fun cr => named s.map cr.1 cr.2).map fun cr => (cr.1, cr.2, (physOf s.map cr.1 cr.2).key)).filter fun e =>
      s.isDead (failed.tiles.filter (s.part p).couch.named.contains) rows e.2.2 ||
        (s.retestBad p failed).contains e.2.2

/-- The sites whose load a remap has changed: those where the two maps place different tiles of partition `p`. -/
def loadSites (f : FurnPart) (m m' : SMap Nat) : List Nat :=
  (f.tiles.flatMap fun cr =>
    let a := (physOf m cr.1 cr.2).site.val
    let b := (physOf m' cr.1 cr.2).site.val
    if a = b then [] else [a, b]).dedup

/-- The partitions beside `p` on dies whose load its remap has changed apply their BIN patches and load drive again, at once
where they run no stage, else in their next gap (R467); one without a program installed has its load drive alone (R152). -/
def State.loadsMoved (s : State) (p : Fin 32) (old : SMap Nat) : State :=
  match s.furnPart p with
  | none => s
  | some f =>
    let is := loadSites f old s.map
    let qs := allParts.filter fun q => q != p && (s.sitesOf q).any is.contains
    let s1 := qs.foldl State.rebin { s with parts := mapParts s.parts qs fun _ x => { x with binsDue := x.loaded || x.prev.isSome } }
    (qs.filter fun q => !(s.part q).loaded && (s.part q).prev.isNone).foldl State.shareDie s1

/-- The re-run of R329 at a PARTITION reset, after its remap: a program that fails it is refused, one that is being installed goes back to
the one before it, which is checked too (R438). -/
def State.recheck (s : State) (p : Fin 32) : State :=
  let s1 := if s.programsOk p s.map then s else s.undoInstall p []
  if s1.programsOk p s1.map then s1
  else s1.programFail p { s1.part p with loaded := false }

/-! ### Semaphores (R261) -/

def Sem.reinit (e : Sem) : Sem := { e with value := e.init, tag := 0, snap := e.init, mixed := false, step := none, ecc := .ok }

/-- The owner's entries, its waiters and deferred operations. -/
def State.resetSems (s : State) (p : Fin 32) : State :=
  { s with
    sems := SMap.mapVals Sem.unowned (fun _ e => if e.owner.toNat = p.val then e.reinit else e) s.sems
    waiters := s.waiters.filter fun x => x.part != p
    deferred := s.deferred.filter fun x => x.part != p
    parts := SMap.set Part.init s.parts p.val { s.part p with auditSum := [] } }

/-! ### The reset -/

/-- Step 4: the program's code and trees written again, TILE resets, the binding table of the resident models. -/
def State.rebuilt (s : State) (p : Fin 32) (rows : List (PTile × Nat)) : State :=
  let s1 := match (s.part p).loaded || (s.part p).prev.isSome, (s.part p).program with
    | true, some g => s.writeProgram p g s.map
    | _, _ => s
  let s2 := s1.resetTiles rows (s.tilesOf p)
  let s3 : State := { s2 with tiles := SMap.modifyAll Tile.init (fun _ x => x.rewritten) (s.tilesOf p) s2.tiles }
  (s3.shareDie p).bindTiles p false (s3.part p).models

/-- What must be done before the partition opens: warm-up and acceptance tests owed, sites in reset or asleep (R173, R465). -/
def State.mayOpen (s : State) (p : Fin 32) : Bool :=
  s.lanesWarm p && s.testsDone p &&
  ((s.sitesOf p).all fun i => (s.site (Fin.ofNat 64 i)).up && !(s.site (Fin.ofNat 64 i)).inReset && !(s.site (Fin.ofNat 64 i)).sleep)

/-- The chunks of 64 MiB of a site's loft that no partition is granted: supervisor loft (R206). -/
def supChunks (fu : Option Furnish) (site : Fin 64) : List Nat :=
  (List.range 256).filter fun k => match fu with
    | none => true
    | some fu => fu.grants.all fun g => g.site != site || k * 2 ^ 26 < g.base || g.base + g.size ≤ k * 2 ^ 26

/-- A page of 4 KiB in the supervisor loft of a site, the first of `n`, for a free choice `a` of the supervisor; that page itself on a site
whose loft is granted whole. -/
def supPage (fu : Option Furnish) (site : Fin 64) (n : Nat) (a : BitVec 22) : BitVec 22 :=
  match supChunks fu site with
  | [] => a
  | c :: r => BitVec.ofNat 22 ((c :: r).getD (a.toNat / 2 ^ 14 % (r.length + 1)) c * 2 ^ 14 + a.toNat % 2 ^ 14 / n * n)

/-- The root table's place in the registers of the partition's sites: SEQ space is enabled (R208, R216). -/
def rootsOpen (fu : Option Furnish) (m : SMap Word) (p : Fin 32) (supSite : Fin 64) : List Nat → SMap Word
  | [] => m
  | i :: r =>
    let a := supPage fu supSite 128 (Config.rootPage p.val)
    let k := rootKey (Fin.ofNat 64 i) p
    rootsOpen fu (SMap.set 0 (SMap.set 0 m k (BitVec.ofNat 32 (a.toNat % 2 ^ 20 * 2 ^ 12 + 1))) (k + 1)
      (BitVec.ofNat 32 (supSite.val * 4 + a.toNat / 2 ^ 20))) p supSite r

/-- The partition opens, its step number 0, the slot tables of step 0 on their way (R387). -/
def State.openPart (s : State) (p : Fin 32) : State :=
  ({ s with
    parts := SMap.set Part.init s.parts p.val { s.part p with
      open_ := true, resetDue := false, couch := Couch.init
      models := (s.part p).models.map fun m => { m with gone := false }
      doze := (s.part p).doze && !(s.part p).waking, waking := false
      load := (s.part p).load.resume.next (s.swapOf p) s.now }
    roots := match s.furnPart p with
      | none => s.roots
      | some f => rootsOpen s.furnish s.roots p f.supSite (s.sitesOf p) } : State).gapWork p |>.writeTables p

/-- The partition stands closed and waits only to be ready. -/
def Part.waits (x : Part) : Bool := !x.open_ && !x.oos && !x.resetDue && !x.thermClosed && (!x.doze || x.waking)

/-- Start-up has loaded the partition's models. -/
def Part.startLoaded (x : Part) : Bool := x.load.rests && x.load.queue.isEmpty

/-- Partitions that wait and are ready open: at start-up those whose loads are done (R491), later those whose PARTITION reset has
left warm-up or acceptance tests to do (R465). -/
def State.openReady (s : State) : List (Fin 32) → State
  | [] => s
  | p :: r =>
    (if (s.part p).waits && (s.sup.phase == 12 || (s.part p).startLoaded) && s.mayOpen p then s.openPart p else s).openReady r

def State.furnished (s : State) : List (Fin 32) := match s.furnish with | none => [] | some f => f.parts.map (·.part)

/-- Step 10: the loads of the START entries begin (R432, R488). -/
def State.startLoads (s : State) : State :=
  s.furnished.foldl (fun s p => s.setLoad p ((s.part p).load.next (s.swapOf p) s.now)) s

/-- Step 11: partitions open; when each is open or out of service the ports announce and the device is ready. -/
def State.openAll (s : State) : State :=
  let s1 := s.openReady s.furnished
  if s1.furnished.all fun p => (s1.part p).open_ || (s1.part p).oos then
    { s1 with sup := { s1.sup with
        phase := 12
        bootTime := satAdd 0 ((s1.sup.counter - s1.sup.bootFrom).toNat / 1000000) } }
  else s1

/-- Installs whose tests are done end.  The warm-up of step 9 ends for every site before the loads of step 10 begin and any partition
opens (R171, R488). -/
def State.settleStart (s0 : State) : State :=
  let s := s0.furnished.foldl State.endInstall s0
  if s.sup.phase = 9 then
    if s.lanes.all fun e => !e.2.rewarm then (({ s with sup := { s.sup with phase := 10 } } : State).startLoads).openAll else s
  else if s.sup.phase = 10 then s.openAll
  else if s.sup.phase = 12 then s.openReady s.furnished
  else s

/-- The partition goes out of service (R469, R475). -/
def State.putOut (s : State) (p : Fin 32) : State :=
  { s with parts := SMap.set Part.init s.parts p.val { s.part p with oos := true, open_ := false, resetDue := false } }

/-- The fields of R422 and R342 that a PARTITION reset clears. -/
def Part.resetFields (x : Part) : Part :=
  { x with
    open_ := false, resetDue := true, halted := false, switching := none, terr := 0, lastErr := 0
    couch := Couch.init, editQs := [], outWrites := [] }

/-- The program with which a partition opens is the exact one where the furnish sets the partition to exact, else the narrow one
(R393). -/
def State.startsExact (s : State) (p : Fin 32) : Bool := match s.furnPart p with | none => false | some f => f.exact == .exact

/-- The fields cleared, the root registers of the partition with them (R216), and its loads stopped. -/
def State.clearPart (s0 : State) (p : Fin 32) : State :=
  let s := s0.stopLoad p
  { s with
    parts := SMap.set Part.init s.parts p.val { (s.part p).resetFields with
      isExact := s.startsExact p, binsDue := false, retest := false }
    roots := s.roots.filter fun e => e.1 % 64 / 2 ≠ p.val }

/-- The frames that slots hold as their own, those of the tree and the kept ones beside them, with repeats. -/
def Part.frames (x : Part) : List Nat :=
  ((x.maps.filter fun m => m.own && !x.treeHolds m.frame).map (·.frame)) ++ (x.nodes.flatMap (·.pages)).map (·.2) ++ x.loose

/-- Which identity of the page audit fails, expected and found: the total, the frames held, or a frame that stands in two places. -/
def State.pageFault (s : State) (p : Fin 32) : Option (Nat × Nat) :=
  let x := s.part p
  let held := sumN ((s.slotsOf p).map fun e => e.2.rsv + e.2.used) + sumN (x.nodes.map (·.frames)) + x.loose.length
  if x.free + x.rsv + x.used ≠ x.total then some (x.total, x.free + x.rsv + x.used)
  else if x.rsv + x.used ≠ held then some (x.rsv + x.used, held)
  else if x.frames.dedup.length ≠ x.frames.length then some (x.frames.dedup.length, x.frames.length)
  else none

/-- The audits of step 7 find the partition in order (R473): its pages, and its semaphore sums on every site.  No slot of it is
occupied by then. -/
def State.resetAudits (s : State) (p : Fin 32) : Bool :=
  (s.pageFault p).isNone && allSites.all fun i => s.semSum i p == SMap.get 0 (s.part p).auditSum i.val

/-- Every store sweeps its entries, those of the other partitions too (R273). -/
def State.sweepAll (s : State) : State := allSites.foldl (fun s i => if (s.site i).up then s.sweepSems i else s) s

/-- A failed audit of step 7: that of the pages has its event and its count (R475, R487), and the partition goes out of service. -/
def State.auditOut (s : State) (p : Fin 32) : State :=
  match s.pageFault p with
  | none => s.putOut p
  | some e =>
    let s1 := s.putOut p
    { s1 with
      sup := { s1.sup with
        auditPages := satAdd s1.sup.auditPages 1, auditKind := 3, auditPart := BitVec.ofNat 5 p.val }
      bbx := s1.bbx.append (s1.sup.record evtAuditPages (some p) 0
        (BitVec.ofNat 64 (e.1 % 2 ^ 32 * 2 ^ 32 + e.2 % 2 ^ 32))) }

/-- The partition opens at the end of its reset, or waits for what R173 and R465 leave to do. -/
def State.reopen (s : State) (p : Fin 32) : State :=
  if s.sup.phase == 12 && !(s.part p).thermClosed && s.mayOpen p then s.openPart p
  else (s.setPart p { s.part p with resetDue := false }).gapWork p

/-- A mapped tile that belongs to no partition is replaced at once: nothing runs on it. -/
def State.replaceFree (s : State) (t : PTile) : State :=
  let x := s.tile t
  if (physOf s.map x.pl.c.toNat x.pl.r.toNat).key = t.key ∧ named s.map x.pl.c.toNat x.pl.r.toNat = true then
    (s.remapAll none [(x.pl.c.toNat, x.pl.r.toNat, t.key)]).1
  else s.retireTile t.key

/-- A tile has failed: its partition's reset replaces it. -/
def State.failTile (s : State) (t : PTile) : State :=
  let s1 := s.setTile t { s.tile t with pl := { (s.tile t).pl with failed := true } }
  match (s.tile t).pl.part with
  | none => s1.replaceFree t
  | some p => (s1.undoInstall p []).replaceDue p

/-- Tiles that neighbour tests find bad outside the partition's own reset are declared bad, logged and handled (R465, R471): those of no
partition, mapped or spare, which are tested at any time (R457); and, where the partition's sites have woken, the tiles there of
partitions that are closed (R508). -/
def State.strayTests (s : State) (p : Fin 32) (vs : List (PTile × PTile × Bool)) : State :=
  let l := (foundBad vs).filter fun k => !s.isBad k && !(SMap.get Tile.init s.tiles k).pl.failed &&
    match (SMap.get Tile.init s.tiles k).pl.part with
    | none => true
    | some q => q != p && (s.part p).retest && (s.sitesOf p).contains (k / 256) && !(s.part q).open_
  (l.foldl (fun s k => s.failTile (PTile.ofKey k)) s).bringupLog l

/-- R497 with R465; `none` spare or a failed audit puts the partition out of service. -/
def State.partReset (s : State) (p : Fin 32) (failed : TestFails) (rows : List (PTile × Nat)) : State :=
  let s1 := (((((s.closeRouters p failed.routers).drained p).freeSlots [p] 5 1).strayTests p failed.verdicts).bringupLog
    (s.retestBad p failed)).clearPart p
  let r := s1.remapAll (some p) (s.deadTiles p failed rows)
  let s2 := ((((r.1.fetchMissing p).recheck p).rebuilt p rows).resetSems p).loadsMoved p s.map
  let s3 := s2.sweepAll
  if !r.2 then
    let s4 := s3.putOut p
    { s4 with bbx := s4.bbx.append (s4.sup.record evtRemapReach (some p) 0 0) }
  else if !s2.resetAudits p then s3.auditOut p
  else s3.reopen p

/-- The partition's reset is called for or under way, or the supervisor performs it on an open one. -/
def execPartitionReset (p : Fin 32) (failed : TestFails) (rows : List (PTile × Nat)) (s : State) : Out :=
  let x := s.part p
  .next (if (x.open_ || x.resetDue) && !x.oos &&
        (s.sitesOf p).all (fun i => (s.site (Fin.ofNat 64 i)).up && !(s.site (Fin.ofNat 64 i)).inReset) then
      s.partReset p failed rows
    else s)

/-! ### A TILE reset alone (R198) -/

/-- A TILE reset happens only while the tile runs no stage; a bank that it finds without a spare row makes the tile bad (R198). -/
def execTileReset (t : PTile) (rowsFailed : List Nat) (s : State) : Out :=
  .next (if (s.site t.site).up && !(s.tile t).clk.running then
      let s1 := s.resetTiles (rowsFailed.map fun r => (t, r)) [t.key]
      if (s.tile t).mem.spent (rowsOf (rowsFailed.map fun r => (t, r)) t.key) then s1.failTile t else s1
    else s)

end Sys2Proof.Machine
end

