-- ==== Sys2Proof/Machine/Sessions.lean ====
section
/-! DEFINITION. Messages from a session's node (R547, R549, R553, R555): how they are heard, authorised and answered.
The result codes of MGMT_REPLY are the model's own where no rule gives one (log entry 49). -/

namespace Sys2Proof.Machine

/-- Results of a management operation: done; failed with a REASON of R451; the model is RESIDENT; the load is queued;
PENDING; SUPERSEDED; already installed; busy; refused; LMS_EXHAUSTED; NOT_PERMITTED 0x01 (R553). -/
def rDone : Frame := .reply 0 0 []
def rFailed (reason : BitVec 4) : Frame := .reply 1 (reason.setWidth 8) []
def rResident : Frame := .reply 2 0 []
def rStarted : Frame := .reply 3 0 []
def rPending : Frame := .reply 4 0 []
def rSuperseded : Frame := .reply 5 0 []
def rInstalled : Frame := .reply 6 0 []
def rBusy : Frame := .reply 7 0 []
def rRefused : Frame := .reply 8 0 []
def rExhausted : Frame := .reply 9 0 []
def rNotPermitted : Frame := .reply 0x16 1 []

/-- The state in which a frame of session `n` has been accepted. -/
def State.heard (s : State) (n : Nat) (x : Session) : State :=
  { s with
    sessions := SMap.set Session.init s.sessions n { x with lastRx := s.now, rxSeq := x.rxSeq + 1 }
    phw := SMap.set PhwPort.init s.phw x.port.val { s.phwPort x.port with rxfr := satAdd (s.phwPort x.port).rxfr 1 } }

/-- A message of session `n`: it arrives only while the session stands and is not lost. -/
def State.onMsg (s : State) (n : Nat) (f : Session → State → State) : State :=
  match s.session n with
  | none => s
  | some x => if x.lost.isSome then s else f x (s.heard n x)

/-- A management operation that needs an authorisation (R553). -/
def State.mgmt (s : State) (n : Nat) (ok : Node → Bool) (f : State → State) : State :=
  s.onMsg n fun x s1 => if ok x.node then f s1 else s1.answer n rNotPermitted

def State.answerAll (s : State) (f : Frame) : List Nat → State
  | [] => s
  | n :: r => (s.answer n f).answerAll f r

end Sys2Proof.Machine
end

