-- ==== Sys2Proof/Machine/Models.lean ====
section
/-! DEFINITION. Models (R424–R440): triggers, manifests, shards, the checks of a descriptor, victims, the writing and
acceptance of vats (R107, R111, R112, R133, R164, R168–R170), the commit, the failed-load rules; program packages
(R441). -/

namespace Sys2Proof

/-- The 16 scale bytes of output column `n` of a vat-resident tensor's slices. -/
def Tensor.column (t : Tensor) (n : Nat) : List Byte := (t.scales.drop (16 * n)).take 16

/-- R109: the format I4 or T2, the 16 scale bytes of every column equal, zero codes in zero columns. -/
def Tensor.vatFits (t : Tensor) : Bool :=
  (t.fmt == 0 || t.fmt == 1) && t.scales.length % 16 == 0 &&
    ((List.range (t.scales.length / 16)).all fun n => (t.column n).all fun b => b == (t.column n).headD 0) && t.vatOk

/-- R427: R33, R42, R109, R346, R375, and no reserved encoding. -/
def Tensor.ok (t : Tensor) : Bool :=
  let e := t.scale.toNat / 2 ^ 23
  1 ≤ e && e ≤ 254 && t.scales.all (fun b => !b.getLsbD 7 && b.toNat / 32 % 4 == 0) && (!t.onVat || t.vatFits) && !t.reservedCode

/-- The column shifts of a slice on the vat path are those of its tensor's scale bytes, with zero columns beyond them (R109). -/
def Slice.ok (x : Slice) (ts : List Tensor) : Bool :=
  x.mode != 0 && x.rows ≤ 512 && (x.mode == 3 || match ts[x.tensor]? with
    | none => false
    | some t => t.onVat && t.fmt == (if x.mode = 2 then 0 else 1) && x.kw.length == Machine.vatCols x.mode &&
        x.kw.zipIdx.all fun e => e.1.toNat == (match (t.column (x.first + e.2)).head? with | none => 31 | some b => b.toNat % 32))

def Descriptor.ok (d : Descriptor) : Bool :=
  d.slices.all (·.ok d.tensors) && d.tensors.all (·.ok) && d.headWidth == 128 && d.keyFmt == 1 && d.valueFmt == 1 && 1 ≤ d.kvHeads && d.kvHeads ≤ 32 &&
    d.chainP ≤ d.chainT && d.chainP ≤ 256 && 3 ≤ d.chainW && d.chainW ≤ 16 && 1 ≤ d.chainG && d.chainG ≤ 16 &&
    d.chainP - 1 - d.chainW ≤ 64 * d.chainG

/-- The least security version that the furnish states for a package of a listed publisher (R426). -/
def Furnish.minSvn (fu : Furnish) (pubkey pkgid : Nat) : Nat :=
  match fu.publishers.find? fun q => q.pubkey == pubkey && q.pkgid == pkgid with | none => 0 | some q => q.minSvn

/-- The shard table: entries in order, each of at most 64 MiB, their lengths adding up to TOTAL (R424, R425). -/
def Manifest.tableOk (m : Manifest) : Bool :=
  m.shards.length == m.nshard && (m.shards.zipIdx.all fun e => e.1.index == e.2 && e.1.length ≤ 2 ^ 26 && e.1.reserved.all (· == 0)) &&
    m.total == (m.shards.map (·.length)).sum

/-- The header and the table of a package of a kind (R425): 1 to 65,535 shards, the signature block behind the table, BASE zero but for
an adapter. -/
def Manifest.formOk (m : Manifest) (kind : Nat) : Bool :=
  m.magic == pkgMagic && m.fmtver == 1 && m.kind == kind && 1 ≤ m.nshard && m.nshard ≤ 65535 && m.sigoff == 256 + 64 * m.nshard &&
    m.fits && m.reserved.all (· == 0) && m.tableOk && (kind == 3 || m.base == 0)

/-- The manifest is refused with this reason of R451 (R424–R426); the device's own keys, of digest `own`, are trusted for its exports (R580); `kind` is the kind of package that is due. -/
def Manifest.fault (m : Manifest) (fu : Furnish) (own kind : Nat) : Option (BitVec 4) :=
  if !(fu.publishers.any (fun q => q.pubkey == m.pubkey) || (kind == 3 && m.pubkey == own)) then some 2
  else if !m.sig.ok then some 1
  else if m.svn < fu.minSvn m.pubkey m.pkgid then some 3
  else if !m.formOk kind then some 5
  else none

end Sys2Proof

namespace Sys2Proof.Machine

/-! ### The package cache (R440) -/

/-- The package with this manifest: packages of one identifier and another manifest stand beside it. -/
def Package.isFor (k : Package) (m : Manifest) : Bool := k.pubkey == m.pubkey && k.pkgid == m.pkgid && k.digest == m.digest

/-- A package is held: its model is resident, or a victim, or being loaded. -/
def State.held (s : State) (k : Package) : Bool :=
  allParts.any fun p =>
    ((s.part p).models ++ (s.part p).load.victims).any (fun m => k.digest == m.digest && match s.entryOf p (some m.entry) with
      | none => false | some w => k.isOf w) ||
    match (s.part p).load.manifest with | none => false | some m => k.isFor m

/-- Loose packages leave, least recently used first, until `bytes` fit in `size`; `l` stands oldest first. -/
def makeRoom (held : Package → Bool) (size bytes : Nat) : List Package → List Package
  | [] => []
  | k :: r =>
    if ((k :: r).map (·.bytes)).sum + bytes ≤ size then k :: r
    else if held k then k :: makeRoom held (size - k.bytes) bytes r
    else makeRoom held size bytes r

/-- The cache with a package in front, or none where the held ones leave no room; a whole copy that it holds already stays. -/
def State.cached (s : State) (fu : Furnish) (k0 : Package) : Option Cache :=
  let mine (q : Package) : Bool := q.pubkey == k0.pubkey && q.pkgid == k0.pkgid && q.digest == k0.digest
  let k := match s.cache.packages.find? fun q => mine q && q.whole with | some q => q | none => k0
  let rest := s.cache.packages.filter fun q => !mine q
  let l := (makeRoom s.held fu.cacheBytes k.bytes rest.reverse).reverse
  if (l.map (·.bytes)).sum + k.bytes ≤ fu.cacheBytes then some ⟨k :: l⟩ else none

/-- Victims that may go: not pinned, no slot of theirs occupied, oldest admission first (R436). -/
def State.candidates (s : State) (p : Fin 32) : List ModelInfo :=
  ((s.part p).models.filter fun m =>
    (match s.entryOf p (some m.entry) with | none => true | some w => !w.pin) &&
    (s.slotsOf p).all fun e => match e.2.q with
      | none => true
      | some q => e.2.st == .free || (q.model != m.id && q.draft != some m.id)).insertionSort fun a b => a.lastAdmit ≤ b.lastAdmit

/-- The fewest victims that let the slices fit, with the vats chosen. -/
def fitWith (vats : SMap Vat) (tiles : List Nat) (cs : List ModelInfo) : Nat → Nat → Option (List ModelInfo × List Nat)
  | 0, _ => none
  | fuel + 1, n =>
    match pickVats (freeVats (emptyVats vats ((cs.take n).flatMap (·.vats)))) tiles [] with
    | some vs => some (cs.take n, vs)
    | none => fitWith vats tiles cs fuel (n + 1)

/-- A load fails with a reason. -/
def State.failLoad (s : State) (p : Fin 32) (reason : BitVec 4) : State :=
  let l := (s.part p).load
  let l1 : Load := { l with drop := if 5 ≤ l.state.toNat then l.drop ++ l.vats else l.drop, vats := [] }
  if l.state = 9 then
    ({ s.setLoad p l1 with bbx := s.bbx.append (s.sup.record evtLoadRestore (some p) 0 0) } : State).startRestore p l.victims.tail
  else
    let back := if l.state = 4 then [] else l.victims
    let s1 : State := { s with
      parts := SMap.set Part.init s.parts p.val { s.part p with
        models := if l.state = 4 then (s.part p).models ++ l.victims else (s.part p).models
        load := { l1 with reason := reason, answer := [] } }
      bbx := s.bbx.append (s.sup.record evtLoadFail (some p) 0 0) }
    (((s1.answerAll (rFailed reason) l.answer).lose p l.model).startRestore p back).settleStart

/-! ### Triggers and reads (R432–R436) -/

/-- A trigger for swap-set entry `e`: resident, joined, or queued; a load that has failed and restores its victims is joined by none. -/
def State.trigger (s : State) (p : Fin 32) (e : Nat) (who : List Nat) : State :=
  let x := s.part p
  if x.models.any (·.entry == e) then s.answerAll rResident who
  else if x.load.entry == some e && x.load.state != 0 && x.load.state != 8 && x.load.state != 9 then
    s.setLoad p { x.load with answer := x.load.answer ++ who }
  else if x.load.waiting e then
    let join (l : List (Nat × List Nat)) : List (Nat × List Nat) := l.map fun q => if q.1 == e then (q.1, q.2 ++ who) else q
    s.setLoad p { x.load with queue := join x.load.queue, later := join x.load.later }
  else s.setLoad p ({ x.load with queue := x.load.queue ++ [(e, who)] }.next (s.swapOf p) s.now)

/-- The entry of a model in the swap set. -/
def State.entryIndex (s : State) (p : Fin 32) (model : BitVec 16) : Option Nat :=
  (s.swapOf p).findIdx? (·.model == model)

/-- A load that never starts: the model is not in the swap set. -/
def State.noSwap (s : State) (session : Nat) (p : Fin 32) (model : BitVec 16) : State :=
  let l := (s.part p).load
  let s1 := s.setLoad p (if l.state = 0 ∨ l.state = 8 then { l with state := 8, reason := 9, model := model } else { l with reason := 9 })
  ({ s1 with bbx := s1.bbx.append (s1.sup.record evtLoadFail (some p) 0 0) } : State).answer session (rFailed 9)

def execModelLoad (session : Nat) (p : Fin 32) (model : BitVec 16) (s : State) : Out :=
  .next (s.mgmt session (·.management) fun s1 =>
    match s1.entryIndex p model with
    | none => s1.noSwap session p model
    | some e => s1.trigger p e [session])

/-- The site whose loft takes a package that the partition loads: its supervisor-structure site (R440, R505). -/
def State.cachePlace (s : State) (p : Fin 32) : Fin 64 := match s.furnPart p with | none => 0 | some f => f.supSite

/-- The source that the partition's load reads can answer: a drive that is enumerated, with the namespace and its read commands complete
(R565), a peer port that is up (R559), the package cache. -/
def State.answers (s : State) (p : Fin 32) (w : SwapEntry) : Bool :=
  match w.sources[(s.part p).load.src]? with
  | none => false
  | some .cache => true
  | some (.nvme k ns _) => (s.stoPort k).present && !s.diesOff && (s.stoPort k).spaces.any (·.id == ns) && (s.part p).load.cmdsDue = 0
  | some (.peer k) => (s.plkPort k).state == 3

/-- A manifest arrives (R426), where its source answers and the cache's loft does (R499): it is verified and the package gets its place in the cache. -/
def execManifestFetched (p : Fin 32) (m : Manifest) (s : State) : Out :=
  let l := (s.part p).load
  .next (match s.furnish, s.entryOf p l.entry with
    | some fu, some w =>
      if l.state ≠ 1 ∨ s.answers p w = false ∨ (s.site (s.cachePlace p)).serves = false then s
      else match m.fault fu s.ident.idKey 1 with
        | some r => s.failLoad p r
        | none =>
          if m.pubkey ≠ w.pubkey ∨ m.pkgid ≠ w.pkgid then s.failLoad p 2
          else if m.svn < w.minSvn then s.failLoad p 3
          else match s.cached fu ⟨m.pubkey, m.pkgid, m.svn, m.total, m.shards.map (·.length), 0, (s.cachePlace p).val, none, m.digest⟩ with
            | none => s.failLoad p 10
            | some c => { s.setLoad p { l with
                state := 2, manifest := some m, nshard := BitVec.ofNat 16 m.nshard, shard := 0, src := 0, tries := 0
                since := s.now, cmds := 0, badLines := [] } with
              cache := c }
    | _, _ => s)

/-- A read of the present shard fails (R434): four reads from each source, then the next one. -/
def State.readFails (s : State) (p : Fin 32) : State :=
  let l := (s.part p).load
  let n := match s.entryOf p l.entry with | none => 0 | some w => w.sources.length
  let l1 := { l with
    retry := satAdd l.retry 1
    src := if l.tries = 3 then l.src + 1 else l.src
    tries := if l.tries = 3 then 0 else l.tries + 1
    since := s.now
    cmds := 0 }
  if n ≤ l1.src then (s.setLoad p l1).failLoad p 4 else s.setLoad p l1

/-- Every shard is there: the descriptor is checked, vats and victims are chosen (R427, R436), and the victims leave
admission (R439); in the next gap they are evicted and the vats written (R437).  The package of a resident model was only to be fetched again (R440). -/
def State.checkLoad (s : State) (p : Fin 32) : State :=
  let l := (s.part p).load
  match l.desc with
  | none => s.failLoad p 5
  | some d =>
    if !d.ok then s.failLoad p 5
    else if (s.part p).models.any (·.id == l.model) then
      (s.setLoad p ({ l with state := 0, entry := none, answer := [], manifest := none, desc := none }.next (s.swapOf p) s.now)).answerAll
        rResident l.answer
    else
      let cs := s.candidates p
      match fitWith (emptyVats s.vats (l.drop ++ l.leaving.flatMap (·.vats))) (s.sliceTiles p d) cs (cs.length + 1) 0 with
      | none => s.failLoad p 7
      | some (vs, ks) =>
        let x := (s.part p).dropNodes fun n => vs.any fun m => m.id == n.model
        ({ s with parts := SMap.set Part.init s.parts p.val { x with
          models := x.models.filter fun m => !vs.any fun v => v.id == m.id
          load := { l with state := 4, vats := ks, victims := vs } } } : State).gapWork p

/-- The descriptor of a fetched package stays with it in the cache. -/
def State.keepDesc (s : State) (p : Fin 32) : State :=
  match (s.part p).load.manifest with
  | none => s
  | some m => { s with cache := ⟨s.cache.packages.map fun k =>
      if k.isFor m then { k with desc := (s.part p).load.desc } else k⟩ }

/-- One more shard of the package that the partition loads stands in the cache. -/
def State.gotShard (s : State) (p : Fin 32) : State :=
  match (s.part p).load.manifest with
  | none => s
  | some m => { s with cache := ⟨s.cache.packages.map fun k =>
      if k.isFor m then { k with got := max k.got (s.part p).load.shard.toNat } else k⟩ }

/-- The site whose loft holds the package that the partition loads. -/
def State.cacheSite (s : State) (p : Fin 32) : Fin 64 :=
  match (s.part p).load.manifest with
  | none => 0
  | some m => match s.cache.packages.find? (·.isFor m) with
    | none => 0
    | some k => Fin.ofNat 64 k.site



/-- A read of the present shard ends.  One from the package cache counts the loft errors that it meets, and an uncorrectable line
makes it a failed read, as a loft that does not answer does; what then arrives from another source replaces the copy there, with fresh
check bits (R201, R435). -/
def execShardReadComplete (p : Fin 32) (read : ShardRead) (desc : Option Descriptor) (s0 : State) : Out :=
  let l := (s0.part p).load
  let site := s0.cacheSite p
  let ls := if (s0.site site).serves then read.lines.map fun o => loftLine site.val o else []
  let s := s0.loftErrs site none ls
  let bad := s0.loftMarks ls .double
  let src := (s0.entryOf p l.entry).bind fun w => w.sources[l.src]?
  .next (if l.state ≠ 2 ∨ ((s0.entryOf p l.entry).any (s0.answers p)) = false ∨ (src ≠ some .cache ∧ (s0.site site).serves = false) then s0
    else if read.absent || l.digestDue != some read.digest || !bad.isEmpty || (src == some .cache && !(s0.site site).serves) then
      (s.setLoad p { l with badLines := (l.badLines ++ bad).dedup }).readFails p
    else
      let s1 := ({ s with loftEcc := SMap.modifyAll Ecc.ok (fun _ _ => .ok) l.badLines s.loftEcc } : State).setLoad p { l with
        desc := if l.shard = 0 then desc else l.desc, shard := l.shard + 1, src := 0, tries := 0, since := s.now, cmds := 0, badLines := [] }
      if l.shard + 1 = l.nshard then
        (((s1.setLoad p { (s1.part p).load with state := 3 }).gotShard p).keepDesc p).checkLoad p
      else s1.gotShard p)

/-- A failed read of the load: of a shard, or of the manifest, whose source is passed over. -/
def State.sourceFails (s : State) (p : Fin 32) : State :=
  let l := (s.part p).load
  if l.state = 2 then s.readFails p
  else
    let n := match s.entryOf p l.entry with | none => 0 | some w => w.sources.length
    if n ≤ l.src + 1 then s.failLoad p 4 else s.setLoad p { l with src := l.src + 1, since := s.now, cmds := 0 }

/-- 2 s in units of 10 ns. -/
def readLimit : Nat := 200000000

/-- No byte for 2 s from the request, or from the byte before: a failed read; of the manifest, the source does not answer. -/
def execShardReadTimeout (p : Fin 32) (s : State) : Out :=
  let l := (s.part p).load
  .next (if s.now < l.since + readLimit then s
    else if l.state = 1 ∨ l.state = 2 then s.sourceFails p
    else s)

/-! ### Writing vats (R107, R111, R112, R133, R164, R168) -/

def vatFmt (mode : BitVec 2) : Nat := if mode = 2 then 0 else 1

/-- The codes of one row of 64 B. -/
def rowCodes (mode : BitVec 2) (bs : List Byte) : List Nat := (List.range (vatCols mode)).map (unpack (vatFmt mode) bs)

/-- The count cells of a row (R107). -/
def rowCounts (mode : BitVec 2) (cs : List Nat) : List Nat :=
  match mode with
  | 1 => (List.range 4).map fun b => (cs.filter fun c => c.testBit b).length
  | 2 => [((cs.take 128).filter (· == 1)).length, ((cs.take 128).filter (· == 3)).length,
      ((cs.drop 128).filter (· == 1)).length, ((cs.drop 128).filter (· == 3)).length]
  | _ => [0, 0, 0, 0]

/-- The decoded weights of a row. -/
def rowWeights (mode : BitVec 2) (cs : List Nat) : List Int := cs.map fun c => sInt (if mode = 2 then 2 else 4) c

def addList (a b : List Int) (n : Nat) : List Int := (List.range n).map fun i => a.getD i 0 + b.getD i 0
def addNats (a b c : List Nat) : List Nat := (List.range 4).map fun i => a.getD i 0 + b.getD i 0 - c.getD i 0

/-- The vat after row `i` is programmed over the old row: counts, check totals, column sums. -/
def Vat.putRow (v : Vat) (i : Nat) (old new : List Byte) : Vat :=
  let o := rowCodes v.mode old
  let c := rowCodes v.mode new
  let d := addList (rowWeights v.mode c) ((rowWeights v.mode o).map (- ·)) (vatCols v.mode)
  let n := rowCounts v.mode c
  let m := rowCounts v.mode o
  { v with
    counts := SMap.setList 0 v.counts (4 * i) n
    ta := if i < 256 then addNats v.ta n m else v.ta
    tb := if i % 2 = 1 then addNats v.tb n m else v.tb
    sTop := if i < 256 then addList v.sTop d (vatCols v.mode) else v.sTop
    sBot := if i < 256 then v.sBot else addList v.sBot d (vatCols v.mode) }

def Vat.putRows (v : Vat) (mem : SMap Byte) (key : Nat) : Nat → List (List Byte) → Vat
  | _, [] => v
  | i, r :: rs => (v.putRow i (SMap.getList 0 mem (key * 0x8000 + 64 * i) 64) r).putRows mem key (i + 1) rs

/-- Whole rows of 64 B. -/
def rows64 (bs : List Byte) : List (List Byte) := (List.range (bs.length / 64)).map fun i => (bs.drop (64 * i)).take 64

/-- The partition whose load writes the vat. -/
def State.loadOf (s : State) (key : Nat) : Option (Fin 32) :=
  allParts.find? fun p => ((s.part p).load.state = 5 ∨ (s.part p).load.state = 6 ∨ (s.part p).load.state = 9) ∧
    (s.part p).load.vats.contains key = true

/-- Another EMPTY, good vat of the same tile takes the place of a bad one in the load, or the load fails with ACCEPT
(R133, R170). -/
def State.replaceVat (s : State) (p : Fin 32) (key : Nat) : State :=
  let l := (s.part p).load
  let bad := (s.vat key).emptied
  let s1 : State := { s with
    vats := SMap.set Vat.init s.vats key { bad with bad := true }
    vatMem := emptyCodes s.vatMem [key]
    flash := s.flash.badVat key }
  match l.desc, (freeVats s1.vats (key / 96)).find? (fun v => !l.vats.contains v) with
  | some d, some k =>
    let i := l.vats.findIdx (· == key)
    let s2 := s1.setLoad p { l with vats := l.vats.set i k }
    { s2 with vats := openVats s2.vats ((d.slices[i]?).toList.map fun x => (x, k)) }
  | _, _ => (s1.setLoad p { l with vats := l.vats.filter (· != key) }).failLoad p 8

/-- Every vat of the load is written: state ACCEPT. -/
def State.endWrite (s : State) (p : Fin 32) : State :=
  let l := (s.part p).load
  if l.state = 5 ∧ (l.vats.all fun k => (s.vat k).rows = 512) then s.setLoad p { l with state := 6 } else s

/-- A resident model's slice cannot stay in its vat: the vat is bad, and another one of the tile is to take the slice, as the binding
table says from then on (R431); where there is none, the tile fails (R133, R465).  DESIGN CHOICE, log entry 28: of several empty,
good vats of the tile the one with the lowest index takes it. -/
def State.moveBad (s : State) (key : Nat) : State :=
  let s1 : State := { s with flash := s.flash.badVat key, vatMem := emptyCodes s.vatMem [key] }
  match (freeVats s.vats (key / 96)).head?, (s.vat key).part with
  | some v, some p =>
    let ms := ((s.part p).models.filter fun m => m.vats.contains key).map (·.moved [(key, v)])
    let s2 : State := { s1 with
      vats := (let m := moveVats s.vats [(key, v)]; SMap.set Vat.init m key { SMap.get Vat.init m key with bad := true })
      parts := SMap.set Part.init s.parts p.val { s.part p with models := (s.part p).models.map (·.moved [(key, v)]) } }
    (s2.fetchMissing p).bindTiles p false ms
  | _, _ => ({ s1 with vats := SMap.set Vat.init s.vats key { (s.vat key).emptied with bad := true } } : State).failTile
      (PTile.ofKey (key / 96))

/-- Vats of the partition's load and models that have failed their tests twice are replaced in a gap (R170, R437). -/
def State.condemn (s : State) (p : Fin 32) : State :=
  if (s.part p).idle then
    ((s.part p).load.vats ++ (s.part p).models.flatMap (·.vats)).foldl (fun s k =>
      if (s.vat k).testFails = 2 then (if s.loadOf k = some p then s.replaceVat p k else s.moveBad k) else s) s
  else s

/-- The retries of a write (R112): a row whose readback differs is retried, up to three times. -/
def retriesOf (verify : List (Nat × Nat)) : Nat := (verify.map fun e => min 3 e.1).sum

/-- The columns that a write replaces (R112): those at fault where the third retry fails too, one at least. -/
def badColsOf (verify : List (Nat × Nat)) : Nat := (verify.map fun e => if 4 ≤ e.1 then max 1 e.2 else 0).sum

/-- Rows are programmed and verified. -/
def State.fillRows (s : State) (t : PTile) (key row : Nat) (codes : List Byte) (verify : List (Nat × Nat)) : State :=
  let v := s.vat key
  let rs := rows64 codes
  let w := v.putRows s.vatMem key row rs
  let n := if row ≤ v.rows then max v.rows (row + rs.length) else v.rows
  { s with
    vats := SMap.set Vat.init s.vats key { w with rows := n, testDue := n = 512, testA := false, gone := false, spares := v.spares + badColsOf verify }
    vatMem := SMap.setList 0 s.vatMem (key * 0x8000 + 64 * row) codes
    ctrs := ctrAdd s.ctrs t.site .wretry (retriesOf verify)
    flash := s.flash.vatCols key (badColsOf verify) }

/-- The rows of the slice that a vat of the partition's load or models takes: those beyond it are padding (R109). -/
def State.sliceRows (s : State) (p : Fin 32) (key : Nat) : Option Nat :=
  let l := (s.part p).load
  let of_ (d : Descriptor) (vs : List Nat) : Option Nat := (d.slices[vs.findIdx (· == key)]?).map (·.rows)
  if l.vats.contains key then l.desc.bind fun d => of_ d l.vats
  else ((s.part p).models.find? fun m => m.vats.contains key).bind fun m => of_ m.desc m.vats

/-- A code that is not zero in a zero column, or in a row that pads the slice (R109). -/
def padFault (v : Vat) (rows : Option Nat) (row : Nat) (rs : List (List Byte)) : Bool :=
  v.mode != 3 && rs.zipIdx.any fun e => (rowCodes v.mode e.1).zipIdx.any fun c =>
    c.1 != 0 && (v.kw.getD c.2 0 == 31 || match rows with | none => false | some n => n ≤ row + e.2)

/-- Rows of a load's vat. -/
def State.writeRows (s : State) (p : Fin 32) (t : PTile) (key row : Nat) (codes : List Byte) (verify : List (Nat × Nat)) : State :=
  (s.fillRows t key row codes verify).endWrite p

/-- A supervisor weight-load write of whole rows, in a gap window, behind every earlier VC2 write of the supervisor to the tile (R238); or one that writes a slice again after a remap or a failed
acceptance test (R170, R465). -/
def execWeightLoadWrite (t : PTile) (vat : Nat) (row : Nat) (codes : List Byte) (differs badCols : List Nat) (s0 : State) : Out :=
  let key := t.key * 96 + vat
  let verify := differs.zip badCols
  let s := allParts.foldl (fun s p => (s.gapWork p).condemn p) s0
  .next (if 96 ≤ vat ∨ codes.length % 64 ≠ 0 ∨ 512 < row + codes.length / 64 ∨ (s.site t.site).arith = false ∨
        (s.site t.site).sleep = true ∨ s.net.flits.any (·.isWrite t.port0) = true then s0
    else if (s.vat key).part.isSome && !(s.vat key).filling then
      { s with bbx := s.bbx.siteLog t.site ((s.site t.site).record s.sup t.site 10 (s.vat key).part evtDeckle 0) }
    else match (if (s.vat key).filling then (s.vat key).part else s.loadOf key) with
      | none => s0
      | some p =>
        if (s.part p).idle = false then s0
        else if (s.vat key).filling && !s.hasPackage p (s.vat key).model then s0
        else if (s.vat key).mode = 2 ∧ (rows64 codes).any (fun r => (rowCodes 2 r).contains 2) then
          let s1 : State := { s with
            ctrs := ctrAdd s.ctrs t.site .fmtfault 1
            bbx := s.bbx.siteLog t.site ((s.site t.site).record s.sup t.site 10 (some p) evtFormatFault 0) }
          if (s.vat key).filling then s1 else s1.failLoad p 5
        else if padFault (s.vat key) (s.sliceRows p key) row (rows64 codes) then
          (if (s.vat key).filling then s0 else s.failLoad p 5)
        else if 8 < (s.vat key).spares + badColsOf verify then
          let s1 : State := { s with ctrs := ctrAdd s.ctrs t.site .wretry (retriesOf verify) }
          (if (s.vat key).filling then s1.moveBad key else s1.replaceVat p key)
        else if (s.vat key).filling then s.fillRows t key row codes verify
        else s.writeRows p t key row codes verify)

/-! ### Acceptance (R169, R170) -/

/-- The input of test a or b. -/
def accInput (a : Bool) : LevalIn :=
  { levalIn TileMem.init 0 false with
    xs := List.replicate 256 3 ++ List.replicate 256 (if a then 3 else -3), dead := false, wide := false, fault := false }

/-- One test product meets its limits, in thousandths of a sixteenth of a count. -/
def accPass (l : Lane) (nonce : Nat) (v : Vat) (a : Bool) : Bool :=
  let i := accInput a
  ((List.range (vatCols v.mode)).all fun n =>
    v.kw.getD n 0 == 31 ||
      (let y := 3 * (if a then v.sTop.getD n 0 + v.sBot.getD n 0 else v.sTop.getD n 0 - v.sBot.getD n 0)
       1000 * (i.yh l nonce v n - 16 * y).natAbs ≤ 80 * y.natAbs + 16 * (if v.mode = 2 then 100352 else 802816))) &&
  (i.verd l nonce v 0 false).pass

/-- Every vat of a load is tested: state COMMIT. -/
def State.endAccept (s : State) (p : Fin 32) : State :=
  let l := (s.part p).load
  if l.state = 6 ∧ (l.vats.all fun k => (s.vat k).tested) then s.setLoad p { l with state := 7 } else s

/-- The outcome of a test product or readback on a vat; one that fails is written once again, and after a second failure replaced. -/
def State.acceptResult (s : State) (t : PTile) (key : Nat) (pass : Bool) : State :=
  let v := s.vat key
  if pass then
    let last := v.testA || v.mode = 3
    let w : Vat := { v with
      testA := !last, testDue := !last, tested := last
      sTop := if last then [] else v.sTop, sBot := if last then [] else v.sBot }
    let s1 : State := { s with vats := SMap.set Vat.init s.vats key w }
    match s1.loadOf key with | none => s1.settleStart | some p => s1.endAccept p
  else
    let s1 : State := { s with ctrs := ctrAdd s.ctrs t.site .accfail 1 }
    let s2 : State := { s1 with vats := SMap.set Vat.init s.vats key { v with
      testA := false, testDue := false, testFails := min 2 (v.testFails + 1), rows := 0 } }
    match (match s2.loadOf key with | some p => some p | none => v.part) with
    | some p => s2.condemn p
    | none => s2

/-- The test uses the load bin that the lane's last stage had; where the partition runs no stage the supervisor runs acceptance
stages in that bin (the model's choice, log entry 68: R169 names no bin for them). -/
def execVatAcceptanceTest (t : PTile) (lane : Fin 2) (vat : Nat) (readback : Bool) (s : State) : Out :=
  let key := t.key * 96 + vat
  let l := s.lane t lane
  let v := s.vat key
  .next (if 96 ≤ vat ∨ v.testDue = false ∨ (s.site t.site).arith = false ∨ (s.site t.site).sleep = true ∨
      (s.site t.site).up = false then s
    else if v.mode = 3 then s.acceptResult t key readback
    else if l.qualifies = true ∧ (l.accSlot = true ∨ (s.tile t).clk.running = false) then
      let s1 := s.setLane t lane { l with accSlot := false }
      ({ s1 with nonce := s.nonce + 1 } : State).acceptResult t key (accPass l s.nonce v (!v.testA))
    else s)

/-! ### Commit (R433, R437) -/

/-- The vats bound to the partition and the model (R110). -/
def bindVats (m : SMap Vat) (p : Fin 32) (id : BitVec 16) (ks : List Nat) : SMap Vat :=
  SMap.modifyAll Vat.init (fun _ v => { v with part := some p, model := id }) ks m

/-- The model of a load that commits. -/
def State.committed (s : State) (p : Fin 32) (m : ModelInfo) : State :=
  let s1 : State := { s with
    vats := bindVats s.vats p m.id m.vats
    parts := SMap.set Part.init s.parts p.val { s.part p with models := (s.part p).models ++ [m] } }
  s1.bindTiles p false [m]

/-- Loads that wait for an entry whose model is resident now are answered so (R432). -/
def State.joined (s : State) (p : Fin 32) (e : Nat) : State :=
  let l := (s.part p).load
  (s.setLoad p { l with queue := l.queue.filter (·.1 != e), later := l.later.filter (·.1 != e) }).answerAll rResident
    (((l.queue ++ l.later).filter (·.1 == e)).flatMap (·.2))

def execLoadCommit (p : Fin 32) (s : State) : Out :=
  let x := s.part p
  let l := x.load
  .next (match l.desc, l.entry, l.manifest with
    | some d, some e, some m =>
      if l.state = 7 ∧ x.idle = true then
        let s1 := s.committed p ⟨e, l.model, d, m.svn, 0, l.vats, m.digest, false⟩
        let s2 := s1.setLoad p ({ l with
          state := 0, loads := satAdd l.loads 1, entry := none, answer := [], manifest := none, desc := none, vats := []
          victims := [] }.next (s.swapOf p) s.now)
        (s2.answerAll rDone l.answer).settleStart
      else if l.state = 9 ∧ x.idle = true ∧ (l.vats.all fun k => (s.vat k).tested) then
        match l.victims with
        | [] => s
        | v :: r => (((s.committed p { v with vats := l.vats }).joined p v.entry).restore p r).settleStart
      else s
    | _, _, _ => s)

/-! ### Program packages (R441) -/

/-- The package of a narrow program and an exact one is refused with a reason of R451: the tests of R426 on its manifest, the same for
both, and of R434 on its shards, which arrive with the digests `read` after the reads of each source. -/
def State.packageFault (s : State) (narrow : Program) (exact : Option Program) (read : List Nat) : Option (BitVec 4) :=
  match s.furnish with
  | none => some 2
  | some fu => match narrow.pkg.fault fu s.ident.idKey 2 with
    | some r => some r
    | none =>
      if read != narrow.pkg.shards.map (·.digest) then some 4
      else if (match exact with | none => true | some g => g.pkg == narrow.pkg) then none else some 5

/-- A program package arrives (R424, R426): refused, it changes no program (R438); verified, it is to be installed, and admission pauses
until every slot is FREE. -/
def execProgramPackageLoad (session : Nat) (p : Fin 32) (narrow : Program) (exact : Option Program) (read : List Nat) (s : State) : Out :=
  .next (s.mgmt session (·.management) fun s1 =>
    match s1.packageFault narrow exact read with
    | some r => (({ s1 with bbx := s1.bbx.append (s1.sup.record evtLoadFail (some p) 0 0) } : State).setLoad p
        { (s1.part p).load with reason := r }).answer session (rFailed r)
    | none => s1.setPart p { s1.part p with pkg := some (narrow, exact, session) })

/-- The package's programs take the place of the old ones. -/
def Part.withPackage (x : Part) (a : Program) (b : Option Program) : Part :=
  { x with narrow := some a, exact := b, badNarrow := false, badExact := false, pkg := none }

/-- Every slot is FREE, no stage runs and the supervisor's earlier writes have been taken: the package is checked and installed, or fails with PROGRAM. -/
def execProgramInstall (p : Fin 32) (rows : List (PTile × Nat)) (s : State) : Out :=
  let x := s.part p
  .next (match x.pkg, s.furnPart p with
    | some (a, b, session), some f =>
      if !(x.idle && s.allFree p && s.writesDone p && x.prev.isNone) then s
      else
        let ex := f.exact == .exact
        let fail := (s.programFail p { x with pkg := none }).answer session (rFailed 6)
        match (if ex then b else some a) with
        | none => fail
        | some g =>
          if s.programOk p g s.map then
            (s.setPart p (x.withPackage a b)).install p g ex rows (x.asPrev (some session))
          else fail
    | _, _ => s)

end Sys2Proof.Machine
end

