-- ==== Sys2Proof/Machine/Adapters.lean ====
section
/-! DEFINITION. Adapters (R442–R446), tuning jobs (R447) and their updates (R448). -/

namespace Sys2Proof.Machine

/-- A target's factors have the shapes of R442: A input width × r, B r × output width. -/
def Target.ok (t : Target) (rank : Nat) : Bool := t.a.length == t.inWidth * rank && t.b.length == rank * t.outWidth

/-- A swap-set model of the partition has this manifest digest: one that is resident, or whose package stands in the cache. -/
def State.knowsBase (s : State) (p : Fin 32) (digest : Nat) : Bool :=
  (s.part p).models.any (·.digest == digest) ||
    (s.swapOf p).any fun w => s.cache.packages.any fun k => k.isOf w && k.digest == digest

/-- The package breaks R426, R434 or R442 with this reason. -/
def State.adapterFault (s : State) (p : Fin 32) (m : Manifest) (d : AdapterDesc) : Option (BitVec 4) :=
  match s.furnish, (s.part p).program with
  | some fu, some g =>
    match m.fault fu s.ident.idKey 3 with
    | some r => some r
    | none =>
      if d.read != m.shards.map (·.digest) then some 4
      else if 1 ≤ d.id ∧ d.id ≤ 65535 ∧ 1 ≤ d.version ∧ d.version < 2 ^ 32 ∧ 1 ≤ d.rank ∧ d.rank ≤ 64 ∧ d.rank ≤ g.adapterRank ∧
          (d.targets.all fun t => Target.ok t d.rank && g.factors.any (·.tensor == t.tensor)) = true ∧ s.knowsBase p m.base = true then none
      else some 5
  | _, _ => some 5

def Part.refuse (x : Part) : Part := { x with refused := satAdd x.refused 1 }

/-- The version of the CURRENT slot of an adapter id. -/
def Part.version (x : Part) (id : BitVec 16) : Nat :=
  match x.current id with | none => 0 | some k => (x.adapter k).version

/-- R444 steps 2 and 3. -/
def State.installAdapter (s : State) (session : Nat) (p : Fin 32) (d : AdapterDesc) (digest : Nat) : State :=
  let x := s.part p
  let id := BitVec.ofNat 16 d.id
  if (x.current id).isSome ∧ x.version id = d.version then s.answer session rInstalled
  else if d.version ≤ x.version id then (s.setPart p x.refuse).answer session (rFailed 3)
  else match x.freeAdapter with
    | some k =>
      (s.setPart p { x with adapters := SMap.set AdSlot.init x.adapters k ⟨.filling, id, d.version, 0, digest⟩ }).answer session rStarted
    | none =>
      let old := x.pend.filter (·.id == id)
      let s1 := s.setPart p { x with pend := (x.pend.filter fun q => q.id != id) ++ [⟨id, d.version, session, digest⟩] }
      (s1.answerAll rSuperseded (old.map (·.session))).answer session rPending

def execAdapterInstall (session : Nat) (p : Fin 32) (m : Manifest) (d : AdapterDesc) (s : State) : Out :=
  .next (s.mgmt session (·.management) fun s1 =>
    match s1.adapterFault p m d with
    | some r => (s1.setPart p (s1.part p).refuse).answer session (rFailed r)
    | none => s1.installAdapter session p d m.digest)

/-- The CURRENT slots of an id but `k` become OLD, and FREE where no request holds them. -/
def Part.supersede (x : Part) (id : BitVec 16) (k : Nat) : Part :=
  match (x.adapters.find? fun e => e.2.st == .current && e.2.id == id && e.1 != k) with
  | none => x
  | some e => (({ x with adapters := SMap.set AdSlot.init x.adapters e.1 { e.2 with st := .old } } : Part).retireOld e.1).startPending

/-- The partition's adapter grant (R443). -/
def State.adapterGrant (s : State) (p : Fin 32) : Option Grant :=
  match s.furnish, s.furnPart p with
  | some fu, some f => f.adapterGrant.bind fun k => (fu.grants.filter (·.part = p))[k]?
  | _, _ => none

/-- The site and offset of a slot's area: the adapter grant's base + k × A (R443); none where the partition has no
adapter grant or the area leaves it. -/
def State.adapterArea (s : State) (p : Fin 32) (slot : Nat) : Option (Nat × Nat) :=
  match s.adapterGrant p, (s.part p).program with
  | some r, some g => if (slot + 1) * g.adapterArea ≤ r.size then some (r.site.val, r.base + slot * g.adapterArea) else none
  | _, _ => none

/-- Supervisor writes to loft: the bytes, with fresh check bits. -/
def State.putLoft (s : State) (site off : Nat) (bs : List Byte) : State :=
  { s with
    loft := SMap.setList 0 s.loft (loftKey site off) bs
    loftEcc := SMap.modifyAll Ecc.ok (fun _ _ => .ok) (linesOf site off bs.length) s.loftEcc }

/-- The bytes of an area in loft, as many as the area holds (R437, R444 step 4). -/
def State.writeArea (s : State) (p : Fin 32) (slot : Nat) (area : List Byte) : State :=
  match s.adapterArea p slot, (s.part p).program with
  | some (i, off), some g => s.putLoft i off (area.take g.adapterArea)
  | _, _ => s

/-- The slot is the working slot of the partition's tuning job. -/
def Part.tunes (x : Part) (k : Nat) : Bool := match x.job with | none => false | some j => j.slot == k

/-- In one gap window the filled slot, whose area has been written, becomes CURRENT (R444 steps 4 and 5). -/
def execAdapterCommit (p : Fin 32) (slot : Fin 64) (area : List Byte) (s : State) : Out :=
  let x := s.part p
  let a := x.adapter slot.val
  .next (if a.st = .filling ∧ x.idle = true ∧ x.tunes slot.val = false then
      let y : Part := { x with
        adapters := SMap.set AdSlot.init x.adapters slot.val { a with st := .current }
        installed := satAdd x.installed 1 }
      (s.writeArea p slot.val area).setPart p (y.supersede a.id slot.val)
    else s)

/-- The CURRENT slot of the adapter becomes OLD (R446). -/
def execAdapterRetire (session : Nat) (p : Fin 32) (id : BitVec 16) (s : State) : Out :=
  .next (s.mgmt session (·.management) fun s1 => (s1.setPart p ((s1.part p).supersede id 64)).answer session rDone)

/-! ### Tuning (R447, R448) -/

/-- A factor lies inside the slot's area and the grant. -/
def factorFits (f : Factor) (area : Nat) (r : Grant) : Bool := f.at_ + 2 * f.count ≤ area && f.master + 4 * f.count ≤ r.size

/-- Element `i` of a factor's FP32 master. -/
def State.masterAt (s : State) (r : Grant) (f : Factor) (i : Nat) : Word :=
  BitVec.ofNat 32 (leVal (s.loftRead r.site.val (r.base + f.master + 4 * i) 4))

/-- The BF16 elements of a factor after an update: each master element rounded stochastically with the job's seed, the base model's
id, the factor's tensor id, the update's number and the element's index (R48, R50, R448). -/
def State.factorBytes (s : State) (r : Grant) (j : Job) (f : Factor) : List Byte :=
  (List.range f.count).flatMap fun i =>
    leBytes 2 (toHalf fBF16 true (rgen j.seed j.model f.tensor (BitVec.ofNat 32 j.done) (BitVec.ofNat 32 i)) (s.masterAt r f i))

/-- The factors of a slot written, one after the other; the reads of their masters have the code of every loft read (R201). -/
def State.putFactors (s : State) (r : Grant) (j : Job) (area : Nat) : List Factor → State
  | [] => s
  | f :: l =>
    (if factorFits f area r then
        (s.loftErrs r.site none (linesOf r.site.val (r.base + f.master) (4 * f.count))).putLoft r.site.val (r.base + j.slot * area + f.at_)
          (s.factorBytes r j f)
      else s).putFactors r j area l

/-- An update of the partition's tuning job: the step that has ended has left the FP32 masters in the grant, and the working slot
takes their rounded factors (R448).  Each step of the job's program that ends is one update (the model's choice, log entry 31). -/
def State.tune (s : State) (p : Fin 32) : State :=
  match (s.part p).job with
  | none => s
  | some j =>
    if j.done < j.steps && j.ready && !(s.part p).couch.fresh then
      let s1 := match (s.part p).program, s.adapterGrant p with
        | some g, some r => s.putFactors r j g.adapterArea g.factors
        | _, _ => s
      s1.setPart p { s1.part p with job := some { j with done := j.done + 1 } }
    else s

/-- Factors and masters of zero (R447). -/
def State.zeroFactors (s : State) (r : Grant) (k area : Nat) : List Factor → State
  | [] => s
  | f :: l =>
    (if factorFits f area r then
        (s.putLoft r.site.val (r.base + f.master) (List.replicate (4 * f.count) 0)).putLoft r.site.val (r.base + k * area + f.at_)
          (List.replicate (2 * f.count) 0)
      else s).zeroFactors r k area l

/-- Factors and masters from slot `k0`, which holds the starting package: its BF16 elements, and their values in FP32. -/
def State.copyFactors (s : State) (r : Grant) (k k0 area : Nat) : List Factor → State
  | [] => s
  | f :: l =>
    (if factorFits f area r then
        let bs := s.loftRead r.site.val (r.base + k0 * area + f.at_) (2 * f.count)
        let s1 := s.loftErrs r.site none (linesOf r.site.val (r.base + k0 * area + f.at_) (2 * f.count))
        (s1.putLoft r.site.val (r.base + f.master) ((List.range f.count).flatMap fun i =>
          [0, 0, bs.getD (2 * i) 0, bs.getD (2 * i + 1) 0])).putLoft r.site.val (r.base + k * area + f.at_) bs
      else s).copyFactors r k k0 area l

/-- The starting factors of a tuning job are written while the partition runs no stage (R437, R447). -/
def State.readyJob (s : State) (p : Fin 32) : State :=
  let x := s.part p
  match x.job with
  | none => s
  | some j =>
    if j.ready || !x.idle then s
    else
      let s1 := match x.program, s.adapterGrant p, j.start.bind fun n => x.current (BitVec.ofNat 16 n) with
        | some g, some r, some k0 => s.copyFactors r j.slot k0 g.adapterArea g.factors
        | some g, some r, none => s.zeroFactors r j.slot g.adapterArea g.factors
        | _, _, _ => s
      s1.setPart p { s1.part p with job := some { j with ready := true } }

/-- The job names a base model of the swap set, an adapter id, a rank within the program's shape, and a starting package that is
installed or none (R447; where its package comes from is the model's choice, log entry 31). -/
def State.jobOk (s : State) (p : Fin 32) (g : Program) (model id : BitVec 16) (rank : Nat) (start : Option Nat) : Bool :=
  (s.entryIndex p model).isSome && id != 0 && 1 ≤ rank && rank ≤ g.adapterRank && (s.part p).job.isNone &&
    match start with | none => true | some n => ((s.part p).current (BitVec.ofNat 16 n)).isSome

/-- A tuning job starts in a partition that the furnish sets to adapter tuning (R447); its working slot is the lowest FREE slot. -/
def execTuningJob (session : Nat) (p : Fin 32) (model id : BitVec 16) (rank : Nat) (seed : BitVec 64) (steps : Nat)
    (start : Option Nat) (source : TrainSource) (s : State) : Out :=
  .next (s.mgmt session (·.management) fun s1 =>
    match s1.furnPart p, (s1.part p).program with
    | some f, some g =>
      match (s1.part p).freeAdapter with
      | some k =>
        if f.tuning = true ∧ s1.jobOk p g model id rank start = true then
          ((s1.setPart p { s1.part p with
            adapters := SMap.set AdSlot.init (s1.part p).adapters k ⟨.filling, id, 0, 0, 0⟩
            job := some ⟨model, id, rank, seed, steps, session, start, source, k, 0, false⟩ }).readyJob p).answer session rDone
        else s1.answer session rRefused
      | none => s1.answer session rRefused
    | _, _ => s1.answer session rRefused)

end Sys2Proof.Machine
end

