-- ==== Sys2Proof/Machine/Sampling.lean ====
section
/-! DEFINITION. The choice of tokens: sampling (R408), the draws it makes (R409), draft and verify (R411). -/

namespace Sys2Proof.Machine

/-- The parameters of a request that sampling reads. -/
structure Samp where
  tau : Word
  topK : Nat
  topP : Word
  seed : BitVec 64
deriving DecidableEq, Repr

/-- The greatest value, equal values by the lower index, NaN below every number (R90). -/
def greedyFrom : List Word → Nat → Word × Nat → Nat
  | [], _, best => best.2
  | v :: r, i, best => greedyFrom r (i + 1) (if rankGt false v best.1 then (v, i) else best)

def greedy : List Word → Nat
  | [] => 0
  | v :: r => greedyFrom r 1 (v, 0)

/-- Each group of 64 scanned by R88, its lanes then added to the last value of the previous group; `fuel` bounds the
groups. -/
def cumulFrom : Nat → Option Word → List Word → List Word
  | 0, _, _ => []
  | n + 1, prev, w =>
    if w.isEmpty then []
    else
      let g := vscan ((w ++ List.replicate 64 0).take 64)
      let h := match prev with | none => g | some p => g.map fun x => fadd x p
      h.take (min 64 w.length) ++ cumulFrom n (some (h.getD 63 0)) (w.drop 64)

def cumul (w : List Word) : List Word := cumulFrom (w.length / 64 + 1) none w

def positiveFinite (w : Word) : Bool := isFinite w && flt 0 w

/-- The kept list of R408: indices, weights, cumulative sums, total; `alone`: it is the greedy token alone (R411). -/
structure Kept where
  idx : List Nat
  w : List Word
  c : List Word
  total : Word
  alone : Bool
deriving DecidableEq, Repr

/-- The least position whose element satisfies `q`. -/
def leastPos {α : Type} (q : α → Bool) (l : List α) : Option Nat := l.findIdx? q

/-- The list of R408 with its weights, cut by top_p. -/
def keptList (p : Samp) (z : List Word) : Kept :=
  let r := recip32 p.tau
  let y := z.map fun x => if (f32 x).isNan then negInf32 else fmul x r
  let all : List (Word × Word) := y.zipIdx.map fun e => (e.1, BitVec.ofNat 32 e.2)
  let l := if p.topK = 0 ∧ p.topP = 0x3F800000 then all
    else (rankSort all).take (if p.topK = 0 then 1024 else p.topK)
  let mx := l.foldl (fun m e => fmax m e.1) negInf32
  let w := l.map fun e => if e.1 = negInf32 ∨ !isFinite mx then (0 : Word) else exp32 (fsub e.1 mx)
  let c := cumul w
  let n := if flt p.topP 0x3F800000 then
      match leastPos (fun x => fle (fmul p.topP (c.getLastD 0)) x) c with
      | none => l.length
      | some j => j + 1
    else l.length
  let total := c.getD (n - 1) 0
  if positiveFinite total then ⟨(l.take n).map (·.2.toNat), w.take n, c.take n, total, false⟩
  else ⟨[greedy z], [0x3F800000], [0x3F800000], 0x3F800000, true⟩

/-- The uniform draw of R92 in lane 0 with idx0 = 0. -/
def draw (p : Samp) (model tensor : BitVec 16) (pos : Nat) : Word :=
  uniform (rgen p.seed model tensor (BitVec.ofNat 32 pos) 0)

/-- The inverse-CDF choice of R408. -/
def chooseBy (idx : List Nat) (c : List Word) (total u : Word) : Nat :=
  let t := fmul u total
  match leastPos (fun x => flt t x) c with
  | some j => idx.getD j 0
  | none => idx.getLastD 0

/-- R408. -/
def sample (p : Samp) (z : List Word) (model tensor : BitVec 16) (pos : Nat) : Nat :=
  if feq p.tau 0 then greedy z
  else
    let k := keptList p z
    if k.alone then greedy z else chooseBy k.idx k.c k.total (draw p model tensor pos)

/-- The weight of a token in a kept list; 0 outside it (R411). -/
def Kept.weight (k : Kept) (d : Nat) : Word :=
  match leastPos (· == d) k.idx with | none => 0 | some j => k.w.getD j 0

/-- The test of R411 on a draft token `d` for position `pos`. -/
def acceptDraft (p : Samp) (model : BitVec 16) (zt zd : List Word) (d pos : Nat) : Bool :=
  if feq p.tau 0 then d == greedy zt
  else
    let kp := keptList p zt
    let kq := keptList p zd
    let a := fmul (kp.weight d) kq.total
    let b := fmul (kq.weight d) kp.total
    flt (fmul (draw p model 0xFF01 pos) b) a

/-- The token that replaces a refused draft token at `pos` (R411). -/
def residual (p : Samp) (model : BitVec 16) (zt zd : List Word) (pos : Nat) : Nat :=
  if feq p.tau 0 then greedy zt
  else
    let kp := keptList p zt
    let kq := keptList p zd
    let rw := (kp.idx.zip kp.w).map fun e =>
      fmax 0 (fsub (fmul e.2 kq.total) (fmul (kq.weight e.1) kp.total))
    let c := cumul rw
    let total := c.getLastD 0
    if positiveFinite total then chooseBy kp.idx c total (draw p model 0xFF02 pos)
    else sample p zt model 0xFF00 pos

/-- R411 from draft `i` on: `zts` and `zds` are the logits of the target and the draft for positions `pos`, `pos` + 1,
…; the target has one more. -/
def verifyFrom (p : Samp) (model dmodel : BitVec 16) : List (List Word) → List (List Word) → Nat → List Nat
  | [], _, _ => []
  | zt :: _, [], pos => [sample p zt model 0xFF00 pos]
  | zt :: zts, zd :: zds, pos =>
    let d := sample p zd dmodel 0xFF03 pos
    if acceptDraft p model zt zd d pos then d :: verifyFrom p model dmodel zts zds (pos + 1)
    else [residual p model zt zd pos]

end Sys2Proof.Machine
end

