-- ==== Sys2Proof/Machine/Summary.lean ====
section
/-! DEFINITION. The summaries of key pages (R371) from the bytes of a KV page (R347–R350): what the supervisor puts into a slot's own
frames for shared pages. -/

namespace Sys2Proof.Machine

/-- The wide slot of head `h` that holds key block `g` of row `i`, in a page of `n` heads (R349). -/
def wideSlot (rd : Nat → Byte) (n h i g : Nat) : Option Nat :=
  (List.range 4).find? fun s =>
    let o := 8704 * n + 192 * h + 128 + 8 * s
    (rd o).toNat % 4 == 1 && (rd (o + 1)).toNat == i && (rd (o + 2)).toNat == g

/-- The decoded element of dim `d` of a key, without the tensor scale, in units of 2^−46: a block that fell back from its wide
slot (R350, R371). -/
def keyElem (rd : Nat → Byte) (n h i d : Nat) : Int :=
  let shifted (sc : Byte) (v : Int) : Int := if scZero sc then 0 else v * 2 ^ (30 - scK sc)
  match wideSlot rd n h i (d / 32) with
  | some s => shifted (rd (8704 * n + 192 * h + 131 + 8 * s)) (elem 5 (rd (8704 * n + 192 * h + 32 * s + d % 32)).toNat).v
  | none => shifted (rd (8192 * n + 512 * h + 8 * i + d / 32)) (elem 1 ((rd (4096 * h + 64 * i + d / 2)).toNat / 16 ^ (d % 2))).v

/-- The value of an F8A code in the same units. -/
def f8aUnits (c : Nat) : Int := (elem 6 c).v * 2 ^ 30

/-- The finite F8A codes that an encoder produces (R28, R29). -/
def f8aCodes : List Nat := (List.range 256).filter fun c => c % 128 != 127 && c != 128

/-- The first of a list's codes that none of the others is before in an order of their values. -/
def bestCode (before : Int → Int → Bool) (l : List Nat) : Nat :=
  match l with
  | [] => 0
  | c :: r => r.foldl (fun a b => if before (f8aUnits b) (f8aUnits a) then b else a) c

/-- The least F8A value not below `x`; the greatest not above it. -/
def f8aAbove (x : Int) : Nat := bestCode (fun a b => decide (a < b)) (f8aCodes.filter fun c => decide (x ≤ f8aUnits c))
def f8aBelow (x : Int) : Nat := bestCode (fun a b => decide (b < a)) (f8aCodes.filter fun c => decide (f8aUnits c ≤ x))

/-- The greatest and the least of a list of elements. -/
def greatest (l : List Int) : Int := l.foldl max (l.headD 0)
def least (l : List Int) : Int := l.foldl min (l.headD 0)

/-- The level-1 summary of a page of `n` heads: kmax and kmin of every dim of each head. -/
def pageSummary (rd : Nat → Byte) (n : Nat) : List Byte :=
  (List.range n).flatMap fun h =>
    let keys (d : Nat) : List Int := (List.range 64).map fun i => keyElem rd n h i d
    ((List.range 128).map fun d => BitVec.ofNat 8 (f8aAbove (greatest (keys d)))) ++
      (List.range 128).map fun d => BitVec.ofNat 8 (f8aBelow (least (keys d)))

/-- The level-2 summary over its pages' level-1 summaries: the maxima of their kmax, the minima of their kmin. -/
def groupSummary (n : Nat) (ls : List (List Byte)) : List Byte :=
  (List.range (256 * n)).map fun b =>
    let cs := ls.map fun l => (l.getD b 0).toNat
    BitVec.ofNat 8 (bestCode (fun x y => if b % 256 < 128 then decide (y < x) else decide (x < y)) cs)

end Sys2Proof.Machine
end

