-- ==== Sys2Proof/Machine/Pages.lean ====
section
/-! DEFINITION. The page tables that the supervisor builds at admission and takes down when a slot ends (R343, R345, R367,
R368, R392, R414, R420): which frame each page of a reservation gets, the entries written, what is copied of a shared prefix. -/

namespace Sys2Proof

/-- ceil(log2 n), for the layers of a model. -/
def log2Up (n : Nat) : Nat := ((List.range 28).find? fun k => n ≤ 2 ^ k).getD 28

/-- Pages of a layer range (R343). -/
def Descriptor.zPages (d : Descriptor) : Nat := 2 ^ (28 - log2Up d.layers)

/-- The first page of a layer's range, and of its two levels of summaries (R343, R371). -/
def Descriptor.layerPage (d : Descriptor) (l : Nat) : Nat := l * d.zPages
def Descriptor.sumPage (d : Descriptor) (l : Nat) : Nat := l * d.zPages + d.zPages / 2
def Descriptor.groupPage (d : Descriptor) (l : Nat) : Nat := l * d.zPages + d.zPages / 2 + d.zPages / 4

/-- The ranges of pages that a reservation of `lres` positions covers: first page and number (R392). -/
def Descriptor.ranges (d : Descriptor) (lres : Nat) : List (Nat × Nat) :=
  let np := ceilDiv lres 64
  (List.range d.layers).flatMap fun l =>
    [(d.layerPage l, ceilDiv (np * d.pb) 65536), (d.sumPage l, ceilDiv (np * d.s1) 65536),
      (d.groupPage l, ceilDiv (np / 64 * d.s1) 65536)]

/-- The pool's frames on a site: first frame and number of each range. -/
def Furnish.framesAt (fu : Furnish) (f : FurnPart) (site : Nat) : List (Nat × Nat) :=
  ((fu.poolGrants f).filter (·.site.val == site)).map fun g => (site * 2 ^ 18 + g.base / 65536, g.size / 65536)

end Sys2Proof

namespace Sys2Proof.Machine

/-! ### Which frame a page gets (R345) -/

/-- `n` consecutive frames that are free, the lowest of a site's ranges. -/
def runIn (free : Nat → Bool) (n : Nat) : List (Nat × Nat) → Option Nat
  | [] => none
  | (a, k) :: r =>
    match (List.range (k + 1 - n)).find? fun j => (List.range n).all fun i => free (a + j + i) with
    | some j => some (a + j)
    | none => runIn free n r

/-- The first site of a list that has such a run. -/
def runOn (free : Nat → Bool) (at_ : Nat → List (Nat × Nat)) (sites : List Nat) (n : Nat) : Option Nat :=
  sites.findSome? fun i => runIn free n (at_ i)

/-- Single frames, where no site has a run. -/
def singles (free : Nat → Bool) (at_ : Nat → List (Nat × Nat)) (sites : List Nat) : Nat → List Nat
  | 0 => []
  | n + 1 => match runOn free at_ sites 1 with
    | none => []
    | some a => a :: singles (fun k => free k && k != a) at_ sites n

/-- The frames of a run of `n` pages: consecutive ones on the first site that has them, from the site in turn on. -/
def runFrames (free : Nat → Bool) (at_ : Nat → List (Nat × Nat)) (sites : List Nat) (n : Nat) : List Nat :=
  match runOn free at_ sites n with
  | some a => (List.range n).map (a + ·)
  | none => singles free at_ sites n

/-- A list from its element number `k` on, and round. -/
def turned (l : List Nat) (k : Nat) : List Nat := l.drop (k % l.length) ++ l.take (k % l.length)

/-- A frame of the pool that is mapped, in the tree, or kept out of use. -/
def Part.holdsFrame (x : Part) (k : Nat) : Bool := x.maps.any (·.frame == k) || x.treeHolds k || x.kept.contains k

/-- The frames of a range of pages, run by run; a page that `l` maps already (a shared one) takes none. -/
def Part.mapRange (x : Part) (at_ : Nat → List (Nat × Nat)) (sites : List Nat) (h : BitVec 16) (l : List PageMap) (a n : Nat) :
    List PageMap :=
  (List.range (ceilDiv n 16)).foldl (fun l r =>
    let vs := ((List.range (min 16 (n - 16 * r))).map fun i => a + 16 * r + i).filter fun v =>
      !l.any fun m => m.handle == h && m.vpage == v
    let fs := runFrames (fun k => !x.holdsFrame k && !l.any (·.frame == k)) at_ (turned sites (h.toNat + r)) vs.length
    l ++ (vs.zip fs).map fun e => ⟨h, e.1, e.2, true, false⟩) l

/-- The pages of one handle. -/
def Part.mapModel (x : Part) (at_ : Nat → List (Nat × Nat)) (sites : List Nat) (h : BitVec 16) (id : BitVec 16) (lres : Nat)
    (l : List PageMap) : List PageMap :=
  match x.model id with
  | none => l
  | some m => (m.desc.ranges lres).foldl (fun l e => x.mapRange at_ sites h l e.1 e.2) l

/-- The pages of a slot that is admitted: those of the matched blocks, read-only, then those of its reservation. -/
def Part.slotMaps (x : Part) (fu : Furnish) (f : FurnPart) (y : Slot) (q : Request) : List PageMap :=
  let shared := ((x.nodes.filter fun n => y.nodes.contains n.id).flatMap (·.pages)).map fun e => ⟨y.ht, e.1, e.2, false, false⟩
  let l := x.mapModel (fu.framesAt f) f.sites.dedup y.ht q.model y.lres shared
  match q.draft with
  | none => l
  | some d => x.mapModel (fu.framesAt f) f.sites.dedup y.hd d y.lres l

/-! ### The entries (R208, R209, R368) -/

/-- A level-3 entry with V = 1. -/
def PageMap.entry (m : PageMap) : BitVec 64 :=
  BitVec.ofNat 64 (2 ^ 63 + (if m.own then 2 ^ 62 else 0) + m.frame / 2 ^ 18 * 2 ^ 34 + m.frame % 2 ^ 18 * 2 ^ 16)

/-- The page of a new table below an entry of a level, for a page of a handle, in the supervisor loft of its site (R206, R505). -/
def State.newTable (s : State) (sup : Fin 64) (p : Fin 32) (h : BitVec 16) (v : Nat) (level : Fin 4) : BitVec 22 :=
  supPage s.furnish sup (if level = 0 then 2 else 1)
    (Config.tablePage p.val h.toNat (level.val + 1) (if level = 0 then 0 else v / 2 ^ (27 - 9 * level.val)))

/-- An entry above a page's own, where it is not valid: a table of invalid entries in the supervisor's loft (1,024 in a level-1
table, 512 below). -/
def State.tableEdit (s : State) (p : Fin 32) (sup : Fin 64) (m : PageMap) (level : Fin 4) : State :=
  let e : PageEdit := ⟨p, m.handle, level, m.vpage,
    BitVec.ofNat 64 (3 * 2 ^ 62 + sup.val * 2 ^ 34 + (s.newTable sup p m.handle m.vpage level).toNat * 2 ^ 12)⟩
  match s.editAt e with
  | none => s
  | some (i, off) =>
    if (s.pte i off).v then s
    else
      let a := loftKey sup.val ((s.newTable sup p m.handle m.vpage level).toNat * 4096)
      ({ s with loft := s.loft.filter fun c => c.1 < a || a + (if level = 0 then 8192 else 4096) ≤ c.1 } : State).pageEdit e

/-- One page is mapped. -/
def State.mapPage (s : State) (p : Fin 32) (sup : Fin 64) (m : PageMap) : State :=
  ([0, 1, 2].foldl (fun s l => s.tableEdit p sup m l) s).pageEdit ⟨p, m.handle, 3, m.vpage, m.entry⟩

def State.mapPages (s : State) (p : Fin 32) (sup : Fin 64) : List PageMap → State
  | [] => s
  | m :: r => (s.mapPage p sup m).mapPages p sup r

/-! ### What is copied of a shared prefix (R345, R392) -/

/-- `n` bytes of a frame, or free ones where nothing holds a frame with them. -/
def State.frameBytes (s : State) (dst n : Nat) : Option Nat → List Byte
  | some f => SMap.getList 0 s.loft (f * 65536) n
  | none => (List.range n).map fun i => Config.sharedByte s.nonce (dst * 65536 + i)

/-- The lines that the first `n` bytes of a frame touch. -/
def frameLines (frame n : Nat) : List Nat := linesOf (frame / 2 ^ 18) (frame % 2 ^ 18 * 65536) n

/-- The error marks of a copy: an uncorrectable line stays uncorrectable where it is copied to (R454, R460). -/
def carryMarks (m : SMap Ecc) : List (Nat × Nat) → SMap Ecc
  | [] => m
  | (a, b) :: r => carryMarks (if SMap.get Ecc.ok m a == .double then SMap.set Ecc.ok m b .double else m) r

/-- The first `n` bytes of a page of handle `h` are copied from a frame; the reads of its lines have the code of every loft read
(R201). -/
def State.copyPage (s0 : State) (p : Fin 32) (h : BitVec 16) (v n : Nat) (src : Option Nat) : State :=
  match (s0.part p).mapOf h v with
  | none => s0
  | some m =>
    let s := match src with | none => s0 | some f => s0.loftErrs (Fin.ofNat 64 (f / 2 ^ 18)) none (frameLines f n)
    let s1 := s.putLoft (m.frame / 2 ^ 18) (m.frame % 2 ^ 18 * 65536) (s.frameBytes m.frame n src)
    { s1 with
      loftEcc := match src with | none => s1.loftEcc | some f => carryMarks s1.loftEcc ((frameLines f n).zip (frameLines m.frame n))
      nonce := if src.isSome then s.nonce else s.nonce + 1 }

/-- Summaries that fill `n` bytes from page `v` on. -/
def State.copySums (s : State) (p : Fin 32) (h : BitVec 16) (v n : Nat) (src : Nat → Option Nat) : State :=
  (List.range (ceilDiv n 65536)).foldl (fun s i => s.copyPage p h (v + i) (min 65536 (n - 65536 * i)) (src (v + i))) s

/-- The byte at an address of a handle, where it is mapped. -/
def State.seqByte (s : State) (p : Fin 32) (h : BitVec 16) (a : Nat) : Byte :=
  match (s.part p).mapOf h (a / 65536) with
  | none => 0
  | some m => SMap.get 0 s.loft (m.frame * 65536 + a % 65536)

/-- Bytes written at an address of a handle, page by page. -/
def State.putSeq (s : State) (p : Fin 32) (h : BitVec 16) (a : Nat) (bs : List Byte) : State :=
  let put (s : State) (a : Nat) (bs : List Byte) : State :=
    match (s.part p).mapOf h (a / 65536) with
    | none => s
    | some m => s.putLoft (m.frame / 2 ^ 18) (m.frame % 2 ^ 18 * 65536 + a % 65536) bs
  let n := 65536 - a % 65536
  put (put s a (bs.take n)) (a + n) (bs.drop n)

/-- The level-1 summary of page `j` of a layer (R371). -/
def State.summaryOf (s : State) (p : Fin 32) (h : BitVec 16) (d : Descriptor) (l j : Nat) : List Byte :=
  pageSummary (fun o => s.seqByte p h (d.layerPage l * 65536 + j * d.pb + o)) d.kvHeads

/-- A read of the first `n` bytes of page `v` of a handle meets its lines in error (R201). -/
def State.pageErrs (s : State) (p : Fin 32) (h : BitVec 16) (v n : Nat) : State :=
  match (s.part p).mapOf h v with
  | none => s
  | some m => s.loftErrs (Fin.ofNat 64 (m.frame / 2 ^ 18)) none (frameLines m.frame n)

/-- The lines of `n` bytes at an address of a handle. -/
def State.seqLines (s : State) (p : Fin 32) (h : BitVec 16) (a n : Nat) : List Nat :=
  (List.range ((a % 64 + n + 63) / 64)).filterMap fun i =>
    let b := a / 64 * 64 + 64 * i
    ((s.part p).mapOf h (b / 65536)).map fun m => loftLine (m.frame / 2 ^ 18) (m.frame % 2 ^ 18 * 65536 + b % 65536)

/-- A summary written that stands for `n` bytes at `src`: where a line of those is uncorrectable, so are the summary's lines, and a step
that reads it tells the couch (R454, R460). -/
def State.putSummary (s : State) (p : Fin 32) (h : BitVec 16) (src n a : Nat) (bs : List Byte) : State :=
  let bad := (s.seqLines p h src n).any fun l => SMap.get Ecc.ok s.loftEcc l == .double
  let s1 := s.putSeq p h a bs
  if bad then { s1 with loftEcc := SMap.modifyAll Ecc.ok (fun _ _ => .double) (s1.seqLines p h a bs.length) s1.loftEcc } else s1

/-- The summaries of the first `m` pages of a layer, from the pages themselves, each frame of which is read once. -/
def State.formSums (s0 : State) (p : Fin 32) (h : BitVec 16) (d : Descriptor) (l m : Nat) : State :=
  let s := (List.range (ceilDiv (m * d.pb) 65536)).foldl
    (fun s i => s.pageErrs p h (d.layerPage l + i) (min 65536 (m * d.pb - 65536 * i))) s0
  let one := (List.range m).map (s.summaryOf p h d l)
  let s1 := one.zipIdx.foldl (fun s e =>
    s.putSummary p h (d.layerPage l * 65536 + e.2 * d.pb) d.pb (d.sumPage l * 65536 + e.2 * d.s1) e.1) s
  (List.range (m / 64)).foldl (fun s g =>
    s.putSummary p h (d.sumPage l * 65536 + 64 * g * d.s1) (64 * d.s1) (d.groupPage l * 65536 + g * d.s1)
      (groupSummary d.kvHeads ((one.drop (64 * g)).take 64))) s1

/-- The slot that holds committed entries of the first `m` blocks, the one lowest in number whose pages are still mapped; not the slot
with key `k`. -/
def State.sharer (s : State) (p : Fin 32) (k : Nat) (key : PNode) (bs : List (List Word)) (m : Nat) : Option Slot :=
  ((s.slotsOf p).find? fun e => e.1 != k && 64 * m ≤ e.2.lc && (s.part p).maps.any (·.handle == e.2.ht) &&
    match e.2.q with
    | none => false
    | some q => ((s.part p).keyOf q.model e.2.adapt e.2.effExact q.seed).sameKey key &&
        ((blocksOf (e.2.prompt ++ e.2.toks)).take m == bs.take m)).map (·.2)

/-- The frame that holds the end of the last shared page and the start of a private one is copied, in every layer range, from the
tree's frame or a slot's, and the summaries of the shared pages from that slot's; where no slot with them is left they are formed
from the shared pages. -/
def State.copyShared (s : State) (p : Fin 32) (k : Nat) (y : Slot) (key : PNode) (d : Descriptor) : State :=
  let bs := blocksOf y.prompt
  let m := y.matched
  let from_ := s.sharer p k key bs m
  let slotFrame (v : Nat) : Option Nat := from_.bind fun z => ((s.part p).mapOf z.ht v).map (·.frame)
  let tree (v : Nat) : Option Nat := ((s.part p).nodes.findSome? fun n =>
    if n.sameKey key && (n.path.take m == bs.take m) then n.pages.find? (·.1 == v) else none).map (·.2)
  (List.range d.layers).foldl (fun s l =>
    let v := d.layerPage l + m * d.pb / 65536
    let s1 := if m * d.pb % 65536 = 0 then s
      else
        let src := match tree v with | some f => some f | none => slotFrame v
        s.copyPage p y.ht v (if src.isSome then 65536 else m * d.pb % 65536) src
    let held (base n : Nat) : Bool := (List.range (ceilDiv n 65536)).all fun i => (slotFrame (base + i)).isSome
    if from_.isSome && held (d.sumPage l) (m * d.s1) && held (d.groupPage l) (m / 64 * d.s1) then (s1.copySums p y.ht (d.sumPage l) (m * d.s1) slotFrame).copySums p y.ht (d.groupPage l) (m / 64 * d.s1) slotFrame
    else s1.formSums p y.ht d l m) s

/-- Admission maps every frame that the slot's reservation covers (R345). -/
def State.mapSlot (s : State) (q : Request) (k : Nat) (y : Slot) : State :=
  let p := q.part
  match s.furnish, s.furnPart p with
  | some fu, some f =>
    let l := (s.part p).slotMaps fu f y q
    let s1 := (s.setPart p { s.part p with maps := (s.part p).maps ++ l }).mapPages p f.supSite l
    match (s.part p).model q.model with
    | none => s1
    | some m => if y.matched = 0 then s1
        else s1.copyShared p k y ((s.part p).keyOf q.model y.adapt y.effExact q.seed) m.desc
  | _, _ => s

/-! ### The return of a slot's frames (R420) -/

def State.pageEdits (s : State) : List PageEdit → State
  | [] => s
  | e :: r => (s.pageEdit e).pageEdits r

/-- When the terminal status of the slot with key `k` is sent, the removals of its pages go into the edit queues.  Where a PARTITION
reset is due, it returns the frames. -/
def State.startReturn (s : State) (k : Nat) : State :=
  let p := Fin.ofNat 32 (k / 128)
  let y := SMap.get Slot.init s.slots k
  let mine (m : PageMap) : Bool := y.holds m.handle && !m.out
  if y.st = .ended ∧ y.statusSent = true ∧ (s.part p).resetDue = false ∧ (s.part p).maps.any mine = true then
    let s1 := s.pageEdits (((s.part p).maps.filter mine).map (·.removal p))
    s1.setPart p { s1.part p with maps := (s1.part p).maps.map fun m => if mine m then { m with out := true } else m }
  else s

def State.startReturns (s : State) : List Nat → State
  | [] => s
  | k :: r => (s.startReturn k).startReturns r

end Sys2Proof.Machine
end

