-- ==== Sys2Proof/Machine/Serving.lean ====
section
/-! DEFINITION. Admission (R385–R393), the bounds (R394–R396), cancellation (R418, R419), the port's token frames
(R473, R474, R548), deadlines (R397, R398), slots becoming FREE (R420). -/

namespace Sys2Proof.Machine

/-! ### Permission (R17, R388, R390, R393) -/

/-- The token ids of a request's whole prompt: the path of the node it names, then its own. -/
def Part.fullPrompt (x : Part) (q : Request) : List Word :=
  (match q.prompt.ref with
    | none => []
    | some i => match (x.nodes.find? (·.id == i)) with | none => [] | some n => n.path.flatten) ++ q.prompt.toks

/-- The key under which a request's blocks stand in the tree. -/
def Part.requestKey (x : Part) (q : Request) (exact : Bool) : PNode :=
  x.keyOf q.model ((q.adapter.bind x.current).map (Fin.ofNat 64)) exact q.seed

/-- The mode in which the request runs (R17). -/
def effMode (f : FurnPart) (q : Request) : Bool :=
  match f.exact with | .narrow => false | .exact => true | .perRequest => q.exact

/-- The limits of R388, the prefix reference of R414 under the mode in which the request runs, and the two limits on drafting. -/
def Part.paramsOk (x : Part) (exact : Bool) (q : Request) : Bool :=
  (if q.prompt.ref.isSome then true else !q.prompt.toks.isEmpty) && q.prompt.toks.length ≤ 2 ^ 24 &&
  1 ≤ q.maxNew && q.maxNew ≤ 2 ^ 24 && isFinite q.tau && fle 0 q.tau && q.topK ≤ 1024 &&
  flt 0 q.topP && fle q.topP 0x3F800000 && q.stops.length ≤ 8 && q.stops.all (fun w => 1 ≤ w.length && w.length ≤ 16) &&
  (match q.prompt.ref with
    | none => true
    | some i => match (x.nodes.find? (·.id == i)) with
      | none => false
      | some n => n.sameKey (x.requestKey q exact) && 64 * n.path.length < (x.fullPrompt q).length) &&
  (match q.draft with
    | none => true
    | some d => (match x.program with | none => true | some g => 1 ≤ g.gamma) &&
      match x.model q.model, x.model d with | some a, some b => a.desc.vocab == b.desc.vocab | _, _ => true)

/-- An active request of the session holds the id (R553). -/
def State.idInUse (s : State) (session : Nat) (id : BitVec 64) : Bool :=
  s.slots.any fun e => e.2.live && e.2.session == session && e.2.reqId == id

/-- The detail with which a request is not permitted, one to a partition that the furnish does not define too. -/
def State.refusal (s : State) (session : Nat) (n : Node) (q : Request) : Option (BitVec 8) :=
  let x := s.part q.part
  let f := s.furnPart q.part
  if !n.submit || (q.exact && !n.exact) then some 1
  else if f.any fun f => (f.exact == .narrow && q.exact) || (if effMode f q then x.badExact else x.badNarrow) then some 2
  else if !x.paramsOk (match f with | none => q.exact | some f => effMode f q) q || s.idInUse session q.id then some 4
  else if s.sup.pause.getLsbD q.part.val || x.doze || x.pkg.isSome || f.any (·.tuning) then some 3
  else none

/-! ### The bounds, in 64ths of an arith cycle (R394–R396) -/

/-- T_step and T_stage_max of the program; in a pipeline across a ream the sums over every segment stand in their place (R563). -/
def tStep (g : Program) (f : FurnPart) : Nat :=
  sumN (g.stages.map (·.budget)) * FurnPart.g f + 64 * 5000 + 64 * sumN (g.segments.map (·.1))
def tStageMax (g : Program) (f : FurnPart) : Nat :=
  g.stages.foldl (fun a x => max a x.budget) 0 * FurnPart.g f + 64 * 3000 + 64 * sumN (g.segments.map (·.2))
def boundT (g : Program) (f : FurnPart) : Nat := tStep g f + tStageMax g f + 64 * (5000 + 12500)

/-- T_admit + T_prefill + Bt. -/
def boundF (g : Program) (f : FurnPart) (wq u : Nat) : Nat :=
  64 * 125000 + (wq + 1) * (tStep g f + tStageMax g f) + (ceilDiv u g.kp - 1) * (tStep g f + tStageMax g f) + boundT g f

/-- In units of 10 ns, 25 arith cycles, rounded up. -/
def to10ns (x : Nat) : Nat := ceilDiv x 1600

/-- Prefill steps still owed to earlier slots. -/
def State.owedSteps (s : State) (p : Fin 32) (g : Program) : Nat :=
  sumN (((s.slotsOf p).filter fun e => e.2.st == .prefill).map fun e => ceilDiv (e.2.lp - e.2.lc) g.kp)

/-- A bound is beyond its class; all ones states no limit (R492). -/
def beyondLimit (b : Nat) (l : Word) : Bool := l != 0xFFFFFFFF && l.toNat < b

/-! ### What a request takes -/

/-- Attention chunks (R390, R362). -/
def Descriptor.chunksOf (d : Descriptor) (lres : Nat) : Nat :=
  let n := ceilDiv lres 64
  d.kvHeads * (if d.chainT < n then min 16 (ceilDiv n 16) else ceilDiv n 16)

/-- The models that a request runs. -/
def Part.descsOf (x : Part) (q : Request) : List Descriptor :=
  ((q.model :: q.draft.toList).filterMap x.model).map (·.desc)

/-- Frames of a request, without those shared through `m` blocks (R392). -/
def Part.needOf (x : Part) (q : Request) (lres m : Nat) : Nat :=
  sumN ((x.descsOf q).map fun d => d.need lres) - x.framesOf q.model fun d => d.shared m

/-- Own frames of a slot that hold something when `lc` positions are committed and `fl` more are in flight. -/
def Part.usedOf (x : Part) (q : Request) (lc fl m given : Nat) : Nat :=
  sumN ((x.descsOf q).map fun d => d.written lc fl) - (x.framesOf q.model fun d => d.shared m) - given

/-- Sequence handles that slots of the partition hold. -/
def State.handles (s : State) (p : Fin 32) : List (BitVec 16) := (s.slotsOf p).flatMap fun e => [e.2.ht, e.2.hd]

/-- The first free handle from `n` on; 0xFFFF means none (R386). -/
def State.freeHandle (s : State) (p : Fin 32) (n : Nat) : Nat :=
  ((List.range 300).map fun i => (n + i) % 0xFFFF).find? (fun h => !(s.handles p).contains (BitVec.ofNat 16 h)) |>.getD n

def State.freeSlot (s : State) (p : Fin 32) : Option Nat :=
  (List.range 128).find? fun n => (SMap.get Slot.init s.slots (p.val * 128 + n)).st == .free

/-- Slots not FREE in the device. -/
def State.occupied (s : State) : Nat := (s.slots.filter fun e => e.2.st != .free).length

/-- What a request is found to be before it is admitted. -/
structure Plan where
  slot : Nat
  lp : Nat
  lres : Nat
  m : Nat
  need : Nat
  chunks : Nat
  bf : Nat
  bt : Nat
deriving DecidableEq, Repr

/-- The decision of admission (R390). -/
inductive Decision where
  | reject (code detail : BitVec 8)
  /-- MODEL_ABSENT of a swap-set entry that may start its load, or is loading. -/
  | absent (start : Option Nat)
  /-- The program change to the other program starts. -/
  | change (exact : Bool)
  | accept (a : Plan)
deriving DecidableEq, Repr

/-- MODEL_ABSENT: which load starts or runs; one that has failed and restores its victims runs no more (R432, R438). -/
def State.absentModel (s : State) (p : Fin 32) (id : BitVec 16) : Decision :=
  match s.entryIndex p id with
  | none => .absent none
  | some e =>
    let l := (s.part p).load
    let loading := (l.entry == some e && l.state != 0 && l.state != 8 && l.state != 9) || l.waiting e
    match s.entryOf p (some e) with
    | none => .absent none
    | some w => if loading || w.auto then .absent (some e) else .absent none

/-- The tests of R390 from the length class on. -/
def State.fit (s : State) (q : Request) (f : FurnPart) (fu : Furnish) (g : Program) : Decision :=
  let p := q.part
  let x := s.part p
  let toks := x.fullPrompt q
  let lp := toks.length
  let lres := lp + q.maxNew + (if q.draft.isSome then g.gamma + 1 else 1) - 1
  let chunks := sumN ((x.descsOf q).map fun d => Descriptor.chunksOf d lres)
  let key := x.requestKey q (effMode f q)
  let m := match q.prompt.ref with
    | some i => ((x.nodes.find? (·.id == i)).map fun n => n.path.length).getD 0
    | none => x.depth key (blocksOf toks) ((lp - 1) / 64)
  let bf := to10ns (boundF g f (s.owedSteps p g) (lp - 64 * m))
  let bt := to10ns (boundT g f)
  let need := x.needOf q lres m
  if g.lengthClass < lres then .reject 0x13 2
  else match s.freeSlot p with
    | none => .reject 0x11 1
    | some n =>
      if 512 ≤ s.occupied then .reject 0x11 2
      else if g.q * g.attnTiles < sumN ((s.slotsOf p).map (·.2.chunks)) + chunks then .reject 0x13 3
      else if match fu.classes[q.cls.val]? with
          | none => false
          | some c => beyondLimit bf c.first || beyondLimit bt c.perToken then .reject 0x13 1
      else if x.free + (x.refNodes (x.pathNodes key (blocksOf toks) m) true 0).evictable < need then .reject 0x12 0
      else .accept ⟨n, lp, lres, m, need, chunks, bf, bt⟩

/-- R390 in its order. -/
def State.decide (s : State) (session : Nat) (n : Node) (q : Request) : Decision :=
  let p := q.part
  let x := s.part p
  match s.refusal session n q with
  | some d => .reject 0x16 d
  | none =>
    if x.thermClosed then .reject 0x13 6
    else match s.furnish, s.furnPart p, x.program with
      | some fu, some f, some g =>
        if x.oos || !x.loaded || x.resetDue || !x.open_ then .reject 0x13 8
        else match (q.model :: q.draft.toList).find? (fun id => (x.model id).isNone) with
          | some id => s.absentModel p id
          | none =>
            if (match q.adapter with | none => false | some a => (x.current a).isNone) then .reject 0x15 0
            else if x.halted then .reject 0x13 5
            else if s.throttles p then .reject 0x13 6
            else if x.switching.isSome then .reject 0x13 7
            else if effMode f q != x.isExact then
              if s.allFree p then .change (effMode f q) else .reject 0x13 4
            else s.fit q f fu g
      | _, _, _ => .reject 0x13 8

/-! ### The effect of a decision -/

/-- Target and draft handles of a new slot. -/
def State.newHandles (s : State) (q : Request) : Nat × Nat :=
  let h := s.freeHandle q.part (s.part q.part).nextHandle
  (h, if q.draft.isSome then s.freeHandle q.part (h + 1) else 0xFFFF)

/-- The slot of an accepted request (R343, R388, R414). -/
def State.newSlot (s : State) (session : Nat) (q : Request) (a : Plan) : Slot :=
  let x := s.part q.part
  let h := s.newHandles q
  let used := min a.need (x.usedOf q (64 * a.m) 0 a.m 0)
  { Slot.init with
    st := .prefill, q := some q, session := session, lc := 64 * a.m, lres := a.lres, lp := a.lp, order := x.nextOrder
    effExact := x.isExact, ht := BitVec.ofNat 16 h.1, hd := BitVec.ofNat 16 h.2
    adapt := (q.adapter.bind x.current).map (Fin.ofNat 64), prompt := x.fullPrompt q, matched := a.m
    rsv := a.need - used, used := used
    nodes := x.pathNodes (x.requestKey q x.isExact) (blocksOf (x.fullPrompt q)) a.m
    chunks := a.chunks, tArr := s.now, bf := a.bf, bt := a.bt }

/-- The partition with the request admitted: eviction, the reservation, the references (R414, R416, R417, R445). -/
def State.admitPart (s : State) (q : Request) (a : Plan) (y : Slot) : Part :=
  let x := (s.part q.part).refNodes y.nodes true s.now
  let e := Part.evict x.nodes.length x a.need
  let h := s.newHandles q
  { e with
    free := e.free - a.need, rsv := e.rsv + y.rsv, used := e.used + y.used
    adapters := match y.adapt with
      | none => e.adapters
      | some k => SMap.set AdSlot.init e.adapters k.val { e.adapter k.val with count := (e.adapter k.val).count + 1 }
    models := e.models.map fun m => if m.id == q.model || q.draft == some m.id then { m with lastAdmit := s.now + 1 } else m
    admitted := satAdd e.admitted 1
    nextOrder := e.nextOrder + 1
    nextHandle := ((if q.draft.isSome then h.2 else h.1) + 1) % 0xFFFF }

/-- A cancel takes effect on the slot with key `k` (R418). -/
def State.cancelSlot (s : State) (p : Fin 32) (k : Nat) : State :=
  let v := s.serv.endSlot s.now 4 0 k
  (({ s with
    slots := SMap.set Slot.init v.slots k { SMap.get Slot.init v.slots k with masked := true }
    sessions := v.sessions, phw := v.phw } : State).refreshTables p).startReturn k

/-- The live slot of a session's request. -/
def State.slotOf (s : State) (session : Nat) (id : BitVec 64) : Option Nat :=
  (s.slots.find? fun e => e.2.live && e.2.session == session && e.2.reqId == id).map (·.1)

/-- A slot of the session's request has ended and its status is still to be sent. -/
def State.ending (s : State) (session : Nat) (id : BitVec 64) : Bool :=
  s.slots.any fun e => e.2.st == .ended && !e.2.statusSent && e.2.session == session && e.2.reqId == id

/-- The answer to a cancel that names nothing (R419). -/
def unknownStatus (id : BitVec 64) : Frame := .status id ⟨0, 0, 0⟩

/-- A cancel of a decided request (R418, R419): it ends the live slot, is answered with the terminal status that the session keeps, or
with UNKNOWN. -/
def State.cancelOne (s : State) (session : Nat) (id : BitVec 64) : State :=
  match s.slotOf session id with
  | some k => s.cancelSlot (Fin.ofNat 32 (k / 128)) k
  | none =>
    match (s.session session).bind fun z => z.kept.find? fun e => e.1 == id with
    | some e => s.answer session (.status id e.2)
    | none => if s.ending session id then s else s.answer session (unknownStatus id)

/-- The cancels held for a request that is now decided: how many, and the session without them. -/
def State.takeHeld (s : State) (session : Nat) (id : BitVec 64) : Nat × State :=
  match s.session session with
  | none => (0, s)
  | some z =>
    ((z.heldCancels.filter (· == id)).length,
      { s with sessions := SMap.set Session.init s.sessions session { z with heldCancels := z.heldCancels.filter (· != id) } })

/-- An accepted request takes its slot; each cancel held for it takes effect at once, behind the ADMIT reply (R419). -/
def State.accepted (s : State) (session : Nat) (q : Request) (a : Plan) : State :=
  let y := s.newSlot session q a
  let k := q.part.val * 128 + a.slot
  let s1 := ({ s with
    parts := SMap.set Part.init s.parts q.part.val (s.admitPart q a y)
    slots := SMap.set Slot.init s.slots k y } : State).mapSlot q k y
  let h := ((s1.answer session (.admitted q.id 0x10 0 a.bf a.bt)).refreshTables q.part).takeHeld session q.id
  (List.range h.1).foldl (fun s _ => s.cancelOne session q.id) h.2

/-- A rejected request changes no slot, reservation or reference; each cancel held for it is answered (R389, R419). -/
def State.rejected (s : State) (session : Nat) (q : Request) (code detail : BitVec 8) : State :=
  let s1 := s.setPart q.part { s.part q.part with rejected := satAdd (s.part q.part).rejected 1 }
  let h := (s1.answer session (.admitted q.id code detail 0 0)).takeHeld session q.id
  (List.range h.1).foldl (fun s _ => s.answer session (unknownStatus q.id)) h.2

def State.decided (s : State) (session : Nat) (q : Request) : Decision → State
  | .reject c d => s.rejected session q c d
  | .absent none => s.rejected session q 0x14 2
  | .absent (some e) => (s.rejected session q 0x14 1).trigger q.part e []
  | .change ex =>
    let s1 := s.rejected session q 0x13 7
    s1.setPart q.part { s1.part q.part with switching := some ex }
  | .accept a => s.accepted session q a

/-- A request submit message is decided. -/
def execSubmit (session : Nat) (q : Request) (s : State) : Out :=
  .next (s.onMsg session fun x s1 => s1.decided session q (s1.decide session x.node q))

/-! ### Cancellation (R418, R419) -/

/-- The request waits for its admission decision. -/
def State.undecided (s : State) (session : Nat) (id : BitVec 64) : Bool :=
  s.pending.any fun c => match c with | .submit n q => n == session && q.id == id | _ => false

def execCancel (session : Nat) (id : BitVec 64) (s : State) : Out :=
  .next (s.onMsg session fun x s1 =>
    if (s1.slotOf session id).isNone && !(x.kept.any fun e => e.1 == id) && !s1.ending session id && s1.undecided session id then
      match s1.session session with
      | none => s1
      | some z => { s1 with sessions := SMap.set Session.init s1.sessions session { z with heldCancels := id :: z.heldCancels } }
    else s1.cancelOne session id)

/-! ### At the port (R421, R474, R548) -/

/-- The status of a slot leaves once its last token frame has left. -/
def Serv.statusAfter (x : Serv) (k : Nat) : Serv :=
  let y := SMap.get Slot.init x.slots k
  match y.status with
  | none => x
  | some st =>
    if y.statusSent || !y.portQ.isEmpty then x
    else ({ x with slots := SMap.set Slot.init x.slots k { y with statusSent := true } } : Serv).sendStatus y.session y.reqId st

/-- A frame for the session leaves at once: nothing queues before it (R397, R549). -/
def State.sendsNow (s : State) (n : Nat) : Bool := match s.session n with | none => false | some z => z.canSend true

/-- The oldest token frame of a slot is sent, or joins the session's queue; it leaves, and is stamped, when its first bit is sent
(R397). -/
def State.sendTokens (s : State) (k : Nat) (y : Slot) (f : TokFrame) (rest : List TokFrame) : State :=
  let v := s.serv.push y.session (.tokens y.reqId f.k f.toks)
  let y' : Slot := { y with
    sent := y.sent + f.toks.length, portQ := rest, tLast := if s.sendsNow y.session then s.now else y.tLast }
  let w := ({ v with slots := SMap.set Slot.init v.slots k y' } : Serv).statusAfter k
  ({ s with slots := w.slots, sessions := w.sessions, phw := w.phw } : State).startReturn k

/-- The request whose frames do not follow on ends with FAULT 0x04, one that has ended already too, unless its status has been sent:
what the port has sent is released (R474). -/
def State.endUnsent (s : State) (k : Nat) (y : Slot) : State :=
  let st : Status := ⟨5, 4, y.sent⟩
  let y' : Slot := { y with
    portQ := [], handed := y.sent, st := .ended, statusSent := true, tEnd := if y.live then s.now else y.tEnd
    status := if y.statusSent then y.status else some st }
  let v : Serv := { s.serv with slots := SMap.set Slot.init s.slots k y' }
  let w := if y.statusSent then v else v.sendStatus y.session y.reqId st
  { s with slots := w.slots, sessions := w.sessions, phw := w.phw }

/-- A frame out of continuity is not sent: FAULT 0x04, EVT_AUDIT_TOKENS, the partition closes (R474, R475). -/
def State.tokenFault (s : State) (p : Fin 32) (k : Nat) (y : Slot) (exp found : Nat) : State :=
  let s1 := (s.endUnsent k y).closeParts [p] 5
  { s1 with
    bbx := s1.bbx.append (s1.sup.record evtAuditTokens (some p) 0 (BitVec.ofNat 64 (exp % 2 ^ 32 * 2 ^ 32 + found % 2 ^ 32)))
    sup := { s1.sup with auditTokens := satAdd s1.sup.auditTokens 1 } }

/-- The port die takes the next token frame of a slot. -/
def execPortTokenFrame (p : Fin 32) (slot : Fin 128) (s : State) : Out :=
  let k := p.val * 128 + slot.val
  let y := s.slot p slot
  .next (match y.portQ with
    | [] => s
    | f :: rest => if f.k = y.sent + 1 then s.sendTokens k y f rest else s.tokenFault p k y (y.sent + 1) f.k)

/-! ### Deadlines (R397, R398, R556) -/

/-- D_k of the next token, by the supervisor counter. -/
def Slot.deadline (y : Slot) : Nat := if y.handed = 0 then y.tArr + y.bf else y.tLast + y.bt

/-- A token frame of the request. -/
def Frame.isTokens (f : Frame) (id : BitVec 64) : Bool := match f with | .tokens i _ _ => i == id | _ => false

/-- The deadline has come within T_egress (500 units of 10 ns) and the token has not been handed over; the deadline of a token runs once
the one before it has left, and none does during a session's grace (R397, R556). -/
def State.late (s : State) (y : Slot) : Bool :=
  y.live && y.portQ.isEmpty && y.deadline ≤ s.now + 500 &&
    match s.session y.session with | none => true | some z => z.lost.isNone && !z.queued.any (·.isTokens y.reqId)

/-- The slot with key `k` ends late: FAULT 0x03, the count, EVT_LATE (R398). -/
def State.expire (s : State) (p : Fin 32) (k : Nat) : State :=
  let v := s.serv.endSlot s.now 5 3 k
  { s with
    slots := v.slots, sessions := v.sessions, phw := v.phw
    parts := SMap.set Part.init s.parts p.val { s.part p with late := satAdd (s.part p).late 1 }
    bbx := s.bbx.append (s.sup.record evtLate (some p) (s.part p).couch.step 0) }

def execDeadlineExpiry (p : Fin 32) (slot : Fin 128) (s : State) : Out :=
  let k := p.val * 128 + slot.val
  .next (if s.late (s.slot p slot) then ((s.expire p k).refreshTables p).startReturn k else s)

/-! ### FREE (R420) -/

/-- An ended slot whose status has been sent and whose last frame has returned: no page of its handles is mapped and no edit of them
outstanding (R420). -/
def State.mayFree (s : State) (p : Fin 32) (y : Slot) : Bool :=
  y.st == .ended && y.statusSent && y.portQ.isEmpty && (s.part p).idle &&
    ((s.part p).editQs.all fun q => !y.holds q.handle) && (s.part p).maps.all fun m => !y.holds m.handle

def execSlotFree (p : Fin 32) (slot : Fin 128) (s : State) : Out :=
  let y := s.slot p slot
  .next (if s.mayFree p y then
      ({ s with
        slots := SMap.set Slot.init s.slots (p.val * 128 + slot.val) Slot.init
        parts := SMap.set Part.init s.parts p.val ((s.part p).releaseSlot y) } : State).refreshTables p
    else s)

end Sys2Proof.Machine
end

