-- ==== Sys2Proof/Machine/Couch.lean ====
section
/-! DEFINITION. The couch of a partition (R399–R407, R411, R412, R415, R421, R615): check reports, the release of a
step, the supervisor's writes and gate adds (R387), fault notices, the replay of a stage (R269, R320, R405). -/

namespace Sys2Proof

/-- Status and detail of R407 for an event that is not replayed. -/
def NoticeKind.status : NoticeKind → BitVec 8 × BitVec 8
  | .supply | .supplyEnd => (7, 0)
  | .thermalEnd => (6, 0)
  | .program => (5, 2)
  | _ => (5, 1)

def NoticeKind.replayable : NoticeKind → Bool
  | .recoverable | .recorded | .supply => true
  | _ => false

/-- A supply or thermal event (R526). -/
def NoticeKind.environment : NoticeKind → Bool
  | .supply | .supplyEnd | .thermalEnd => true
  | _ => false

/-- The supervisor itself records the event (R399): a link, a window, a site's reset or its thermal site-off. -/
def NoticeKind.bySupervisor : NoticeKind → Bool
  | .recorded | .supply | .supplyEnd | .thermalEnd => true
  | _ => false

/-- A report marks what no replay has covered; the results that a window marked invalid are covered by its event. -/
def Report.unclean (r : Report) (supply : Bool) : Bool := !r.recov.isEmpty || !r.fatal.isEmpty || (r.invalid && !supply)

/-- The status of R407 for what a report marks. -/
def Report.status (r : Report) : BitVec 8 × BitVec 8 :=
  if r.fatal.any fun e => e.toNat / 0x1000 == 4 then (5, 2) else (5, 1)

/-- A notice that names a link or a site is for no single partition. -/
def Notice.wide (n : Notice) : Bool := n.link.isSome || n.site.isSome

def Request.samp (q : Request) : Machine.Samp := ⟨q.tau, q.topK, q.topP, q.seed⟩

end Sys2Proof

namespace Sys2Proof.Machine

/-! ### Notices and recorded events (R401, R404, R406, R407) -/

/-- The stages of step `n` that a tile has begun: all of them where it has closed that step. -/
def Tile.begun (x : Tile) (n : BitVec 64) : Nat :=
  if x.clk.no = 0 ∧ x.sc.step = n + 1 then max 1 x.clk.budgets.length else x.clk.no

/-- The stage tag of the tile of `p` that has begun the most stages of the step: the stage of R404 for an event that
the supervisor records.  None while no tile has begun one. -/
def State.highestTag (s : State) (p : Fin 32) : Option (BitVec 16) :=
  ((s.tilesOf p).foldl (fun (a : Nat × Option (BitVec 16)) k =>
    let x := SMap.get Tile.init s.tiles k
    let n := x.begun (s.part p).couch.step
    if a.1 < n then (n, some x.sc.stagecnt) else a) (0, none)).2

/-- A tag names the replayed stage or one before it, by serial number. -/
def tagUpTo (tag r : BitVec 16) : Bool := (r - tag).toNat < 2 ^ 15

/-- A tile that an event record of the step names is tested at the next reset (R465). -/
def Couch.name (c : Couch) : Option PTile → Couch
  | none => c
  | some t => { c with named := if c.named.contains t then c.named else c.named ++ [t] }

/-- The attempt at a replay begins, or takes in one more event. -/
def Couch.attempt (c : Couch) (k : NoticeKind) (tag : Option (BitVec 16)) : Couch :=
  { c with replayDue := true, replayTag := tag, supplyEvent := c.supplyEvent || k == .supply }

/-- The step's first supply or thermal event fixes the status that a later one gives (R526). -/
def Couch.note (c : Couch) (k : NoticeKind) : Couch :=
  if c.gap || !k.environment then c else { c with first := some (c.first.getD k.status.1) }

/-- The code with which an event ends slots (R407, R526). -/
def Couch.code (c : Couch) (k : NoticeKind) : BitVec 8 := if k.environment then c.first.getD k.status.1 else k.status.1

/-- What the couch does with an event (R404, R406, R615). -/
inductive Judged where
  | ignore
  | attempt (tag : Option (BitVec 16))
  /-- The slots end; the flag says that a replay was spent (EVT_REPLAY_FAIL). -/
  | end_ (code detail : BitVec 8) (second : Bool)
  /-- A supply reset or a site-off in the gap: the slots end, outside R406 (R524, R533, R615). -/
  | endGap (code detail : BitVec 8)
deriving DecidableEq, Repr

/-- A tag names the stage of the attempt or one before it; the stage of an attempt that no tile had begun is the highest at its restart. -/
def upTo : Option (BitVec 16) → Option (BitVec 16) → Bool
  | some t, some r => tagUpTo t r
  | _, _ => true

/-- An event that the supervisor records in the gap touches no step, nor does a recoverable one; one before the restart belongs to the
attempt under way, if the supervisor recorded it or it names no later stage. -/
def Couch.judged (c : Couch) (k : NoticeKind) (tag : Option (BitVec 16)) : Judged :=
  if c.gap && k.bySupervisor then (if k.replayable then .ignore else .endGap k.status.1 k.status.2)
  else if !k.replayable then .end_ (c.code k) k.status.2 false
  else if c.gap then .ignore
  else if c.replayed then .end_ (c.code k) k.status.2 true
  else if !c.replayDue then .attempt tag
  else if k != .recoverable || upTo tag c.replayTag then .attempt c.replayTag
  else .end_ k.status.1 k.status.2 true

/-- An event reaches the couch of an open partition. -/
def State.judge (s : State) (p : Fin 32) (n : Notice) : State :=
  let x := s.part p
  if !x.open_ || x.resetDue then s
  else
    let c := (x.couch.name n.tile).note n.kind
    let tag := if n.kind = .recoverable then some n.tag else s.highestTag p
    match c.judged n.kind tag with
    | .ignore => s
    | .attempt r => s.setPart p { x with couch := c.attempt n.kind r }
    | .end_ code detail second =>
      let s1 := (s.setPart p { x with couch := c }).endStep p code detail
      { s1 with bbx := if second then
          s1.bbx.append (s1.sup.record evtReplayFail (some p) c.step 0)
        else s1.bbx }
    | .endGap code detail => s.endOutside p code detail

def State.judgeAll (s : State) (n : Notice) : List (Fin 32) → State
  | [] => s
  | p :: r => (s.judge p n).judgeAll n r

/-- The partitions that a notice concerns: those that the event on the site that it names affects (R520), those whose routes use the
link that it names (R246), else the one it comes for. -/
def State.concerns (s : State) (p : Fin 32) (n : Notice) : List (Fin 32) :=
  match n.site, n.link with
  | some i, _ => s.affected i
  | none, some k => s.linkUsers (linkRouter k).col (linkRouter k).row (linkPort k)
  | none, none => [p]

/-- The flit of a notice. -/
def Flit.isNotice (f : Flit) (p : Fin 32) (n : Notice) : Bool := f.part == (if n.wide then none else some p) && f.msg == .notice n

/-- The supervisor logs the warning of which a site tells it (R520). -/
def State.warned (s : State) (n : Notice) : State :=
  match n.site with
  | none => s
  | some _ => { s with bbx := s.bbx.append (s.sup.record evtSupplyWarn none 0 0) }

/-- A fault notice or a recorded event reaches the couch, in its order (R237); the notice's flit leaves the network. -/
def execFaultNotice (p : Fin 32) (n : Notice) (s : State) : Out :=
  .next (if s.net.ready (·.isNotice p n) then
      (({ s with net := s.net.drop fun f => f.arrived s.net.supAt && f.isNotice p n } : State).warned n).judgeAll n (s.concerns p n)
    else s)

/-! ### Check reports (R292, R328, R399) -/

/-- The step is over: the interval T_gap begins, and a step with a timing program error counts (R328). -/
def Part.stepOver (x : Part) (halt : Nat) : Part :=
  { x with
    terr := if x.couch.timing then satAdd x.terr 1 else x.terr
    lastErr := if x.couch.timing then x.couch.step else x.lastErr
    halted := x.halted || (x.couch.timing && halt != 0 && halt ≤ (satAdd x.terr 1).toNat)
    couch := { x.couch with gap := true } }

/-- A tile's report is taken into the summary. -/
def Couch.take (c : Couch) (t : PTile) (rep : Report) : Couch :=
  { c with
    reports := c.reports ++ [t.key]
    timing := c.timing || rep.timing
    dirty := c.dirty || rep.unclean c.supplyEvent }

/-- The step's last report ends it, unless a replay is due. -/
def State.stepOver (s : State) (p : Fin 32) : State :=
  let x := s.part p
  let halt := match s.furnPart p with | none => 0 | some f => f.slipHalt
  if x.couch.reports.length = (s.tilesOf p).length ∧ x.couch.replayDue = false then
    let y := x.stepOver halt
    { s with
      parts := SMap.set Part.init s.parts p.val y
      bbx := if y.halted && !x.halted then
          s.bbx.append (s.sup.record evtProgHalt (some p) x.couch.step (BitVec.ofNat 64 y.terr.toNat))
        else s.bbx }
  else s

/-- The flit of a tile's report. -/
def Flit.isReport (f : Flit) (p : Fin 32) (t : PTile) (rep : Report) : Bool :=
  f.part == some p && f.src == t.key && (match f.msg with | .report _ r => r == rep | _ => false)

/-- The notice of a supply-warning window. -/
def supplyNotice (site : Option (Fin 64)) : Notice := ⟨.supply, 0, evtSupplyWarn, none, none, site⟩

/-- Results that a window has marked are one event with the window (R521): a report that brings the marks before the notice of the window
has come stands for it. -/
def State.marked (s : State) (p : Fin 32) (rep : Report) : State :=
  if rep.invalid && !(s.part p).couch.supplyEvent then s.judge p (supplyNotice none) else s

def State.takeReport (s0 : State) (p : Fin 32) (t : PTile) (rep : Report) : State :=
  let s := s0.marked p rep
  let x := s.part p
  let s1 := ({ s with
    net := s.net.drop fun f => f.arrived s.net.supAt && f.isReport p t rep
    parts := SMap.set Part.init s.parts p.val { x with couch := x.couch.take t rep } } : State).stepOver p
  if rep.unclean x.couch.supplyEvent && !x.resetDue then s1.endStep p rep.status.1 rep.status.2 else s1

/-- The couch takes one report of each tile in a step, behind every earlier VC0 message of the tile to it (R237). -/
def State.reportDue (s : State) (p : Fin 32) (t : PTile) (rep : Report) : Bool :=
  let x := s.part p
  x.open_ && !x.couch.gap && !x.couch.reports.contains t.key && (s.tilesOf p).contains t.key && s.net.ready (·.isReport p t rep)

def execStependReport (p : Fin 32) (t : PTile) (rep : Report) (s : State) : Out :=
  .next (if s.reportDue p t rep then s.takeReport p t rep else s)

/-! ### Release (R400, R408, R411, R412, R421) -/

/-- A token stream ends with a stop sequence. -/
def endsWith (toks w : List Word) : Bool := w.length ≤ toks.length && toks.drop (toks.length - w.length) == w

/-- Releases the chosen tokens behind the stream `have_`, up to the first terminal status: what is released, and the
status (R421). -/
def releaseFrom (q : Request) (eos : Option Word) : List Word → List Word → List Word × Option (BitVec 8)
  | _, [] => ([], none)
  | have_, t :: r =>
    if eos == some t then ([], some 1)
    else
      let h := have_ ++ [t]
      if q.stops.any (endsWith h) then ([t], some 2)
      else if q.maxNew ≤ h.length then ([t], some 3)
      else
        let x := releaseFrom q eos h r
        (t :: x.1, x.2)

/-- The tokens that the step chooses for a slot (R408, R411): none in a prefill step but the last. -/
def Slot.chosen (y : Slot) (q : Request) (o : SlotLogits) : List Word :=
  match y.st with
  | .prefill =>
    if y.lp ≤ y.lc + y.nf then [BitVec.ofNat 32 (sample q.samp (o.target.getLastD []) q.model 0xFF00 y.lp)] else []
  | .decode =>
    (verifyFrom q.samp q.model (q.draft.getD 0) (o.target.take y.nf) (o.draft.take (y.nf - 1)) (y.lc + 1)).map (BitVec.ofNat 32)
  | _ => []

/-- Lc' (R412). -/
def Slot.committed (y : Slot) (n : Nat) : Nat := match y.st with | .prefill => y.lc + y.nf | _ => y.lc + n

/-- The output stages hold what the slot's step needs. -/
def Slot.outOk (y : Slot) (o : SlotLogits) : Bool :=
  match y.st with
  | .prefill => if y.lp ≤ y.lc + y.nf then 1 ≤ o.target.length else true
  | _ => y.nf ≤ o.target.length && y.nf - 1 ≤ o.draft.length

/-- Frames that the tree node of block `d` − 1 takes: those that its pages wholly cover and no earlier block did. -/
def Part.nodeFrames (x : Part) (id : BitVec 16) (d : Nat) : Nat := x.framesOf id (·.shared d) - x.framesOf id (·.shared (d - 1))

/-- Those frames, by page, as they are mapped for the handle of the slot that wrote them (R413). -/
def Part.nodePages (x : Part) (id h : BitVec 16) (d : Nat) : List (Nat × Nat) :=
  match x.model id with
  | none => []
  | some m => (List.range m.desc.layers).flatMap fun l =>
      let a := (d - 1) * m.desc.pb / 65536
      (List.range (d * m.desc.pb / 65536 - a)).filterMap fun i =>
        (x.mapOf h (m.desc.layerPage l + a + i)).map fun e => (e.vpage, e.frame)

/-- Blocks `a`, …, `a` + n − 1 enter the tree with one reference each (R415); a block that it holds already does not
enter again. Also the ids entered and their frames. -/
def Part.index (x : Part) (key : PNode) (h : BitVec 16) (bs : List (List Word)) (now : Nat) : Nat → Nat → Part × List Nat × Nat
  | _, 0 => (x, [], 0)
  | a, n + 1 =>
    let path := bs.take (a + 1)
    if (x.node key path).isSome then x.index key h bs now (a + 1) n
    else
      let f := x.nodeFrames key.model (a + 1)
      let y : Part := { x with
        nodes := x.nodes ++ [{ key with
          id := x.nextOrder, path := path, refs := 1, frames := f, pages := x.nodePages key.model h (a + 1), matched := now }]
        nextOrder := x.nextOrder + 1 }
      let r := y.index key h bs now (a + 1) n
      (r.1, x.nextOrder :: r.2.1, f + r.2.2)

/-- The slot after its release, before the page counts. -/
def Slot.advance (y : Slot) (lc : Nat) (rel : List Word) : Slot :=
  { y with
    st := if y.st = .prefill ∧ y.lp ≤ lc then .decode else y.st
    lc := lc
    toks := y.toks ++ rel
    handed := y.handed + rel.length
    portQ := if rel.isEmpty then y.portQ else y.portQ ++ [⟨y.handed + 1, rel⟩] }

/-- Committed pages move from reserved to used, and whole blocks of released tokens to the tree (R415, R417).  Positions that a drafted step
commits and whose tokens are withheld (DONE, STOP, LENGTH) are not indexed: DESIGN CHOICE, log entry 32. -/
def pageStep (x : Part) (y : Slot) (q : Request) (now : Nat) : Part × Slot :=
  let key := x.keyOf q.model y.adapt y.effExact q.seed
  let bs := blocksOf (y.prompt ++ y.toks)
  let d0 := max y.matched (y.nodes.length)
  let r := if q.noIndex then (x, [], 0) else x.index key y.ht bs now d0 (min (y.lc / 64) bs.length - d0)
  let own := y.rsv + y.used - r.2.2
  let used := min own (r.1.usedOf q y.lc 0 y.matched (y.given + r.2.2))
  ({ r.1 with rsv := r.1.rsv - y.rsv + (own - used), used := r.1.used - y.used + used + r.2.2 },
   { y with rsv := own - used, used := used, given := y.given + r.2.2, nodes := y.nodes ++ r.2.1 })

/-- The pages of a handle's range whose frames hold only positions from `a` on, of those up to `b` (R378). -/
def Descriptor.beyond (d : Descriptor) (a b : Nat) : List Nat :=
  (List.range d.layers).flatMap fun l =>
    let lo := ceilDiv (ceilDiv a 64 * d.pb) 65536
    (List.range (ceilDiv (ceilDiv b 64 * d.pb) 65536 - lo)).map fun i => d.layerPage l + lo + i

/-- The edits by which the frames behind the commit return from used to the reservation: their entries again, each with a new
version (R378). -/
def Part.returns (x : Part) (p : Fin 32) (id : BitVec 16) (h : BitVec 16) (a b : Nat) : List PageEdit :=
  match x.model id with
  | none => []
  | some m => (Descriptor.beyond m.desc a b).filterMap fun v => (x.mapOf h v).map fun e => ⟨p, h, 3, v, e.entry⟩

/-- Those of a slot, for its target and its draft. -/
def Part.slotReturns (x : Part) (p : Fin 32) (y : Slot) (q : Request) (a b : Nat) : List PageEdit :=
  x.returns p q.model y.ht a b ++ match q.draft with | none => [] | some d => x.returns p d y.hd a b

/-- The release of one slot with key `k`; a token that is late is never released (R398). -/
def State.release1 (s0 : State) (p : Fin 32) (outs : List SlotLogits) (k : Nat) : State :=
  let y := SMap.get Slot.init s0.slots k
  if s0.late y then (s0.expire p k).startReturn k
  else
  match y.q, outs.find? (·.slot.val == k % 128) with
  | some q, some o =>
    let cs := y.chosen q o
    let eos := ((s0.part p).model q.model).map (·.desc.eos)
    let rel := releaseFrom q eos y.toks cs
    let s := s0.pageEdits ((s0.part p).slotReturns p y q (y.committed cs.length) (y.lc + y.nf))
    let r := pageStep (s.part p) (y.advance (y.committed cs.length) rel.1) q s.now
    let v0 : Serv := { s.serv with slots := SMap.set Slot.init s.slots k r.2 }
    let v := match rel.2 with | none => v0 | some code => v0.endSlot s.now code 0 k
    ({ s with
      slots := v.slots, sessions := v.sessions, phw := v.phw
      parts := SMap.set Part.init s.parts p.val r.1 } : State).startReturn k
  | _, _ => s0

def State.releaseAll (s : State) (p : Fin 32) (outs : List SlotLogits) : List Nat → State
  | [] => s
  | k :: r => (s.release1 p outs k).releaseAll p outs r

/-- The slots with positions in flight. -/
def State.inFlight (s : State) (p : Fin 32) : List Nat := ((s.slotsOf p).filter fun e => e.2.live && 0 < e.2.nf).map (·.1)

/-- The peer ports from which the program's peer-receive stages take their data: those with a peer extension (R563). -/
def Program.recvPorts (g : Program) : List (Fin 8) := (g.stages.filter fun x => x.peerExt != 0).flatMap (·.ports)

/-- The sending partitions' verdicts for the step have arrived (R563). -/
def Part.heardPeers (x : Part) : Bool :=
  match x.program with
  | none => true
  | some g => (Program.recvPorts g).all x.couch.peers.contains

/-- The conditions of R400, with outputs for every slot that runs. -/
def State.mayRelease (s : State) (p : Fin 32) (outs : List SlotLogits) : Bool :=
  let x := s.part p
  x.open_ && x.couch.gap && !x.couch.released && !x.couch.fresh && !x.couch.dirty && !x.resetDue && x.heardPeers &&
    (s.inFlight p).all fun k => (outs.find? (·.slot.val == k % 128)).any fun o => (SMap.get Slot.init s.slots k).outOk o

/-- The step is finished with. -/
def State.finishStep (s : State) (p : Fin 32) : State :=
  s.setPart p { s.part p with couch := { (s.part p).couch with released := true, peers := [] } }

/-- The step's tokens are released; then the supervisor's work of the gap: BIN patches that a remap has left to do (R467), what loads change in vats and
binding tables (R437), vats that
have failed their tests (R170), the update of a tuning job (R448), the slot tables of the next step (R387). -/
def execCouchRelease (p : Fin 32) (outs : List SlotLogits) (s : State) : Out :=
  .next (if s.mayRelease p outs then
      (((((((s.releaseAll p outs (s.inFlight p)).finishStep p).rebin p).gapWork p).condemn p).tune p).readyJob p).writeTables p
    else s)

/-! ### Supervisor writes and the step gate (R387, R615) -/

/-- A list without its first element that satisfies `q`. -/
def dropFirst {α : Type} (q : α → Bool) : List α → List α
  | [] => []
  | a :: r => if q a then r else a :: dropFirst q r

/-- The flit of a tile's acknowledgement of a write. -/
def Flit.isCfgAck (f : Flit) (t : PTile) : Bool := f.src == t.key && f.msg == .cfgAck

/-- An acknowledgement arrives, in its order (R237): the tile's oldest write is done. -/
def execConfigWriteAck (p : Fin 32) (t : PTile) (s : State) : Out :=
  .next (if s.net.ready (·.isCfgAck t) then
      { s with
        net := s.net.drop fun f => f.arrived s.net.supAt && f.isCfgAck t
        parts := SMap.set Part.init s.parts p.val { s.part p with outWrites := dropFirst (fun e => e.1 == t.key) (s.part p).outWrites } }
    else s)

/-- A write is still on its way, or its acknowledgement is. -/
def Net.carries (n : Net) (e : Nat × CfgWrite) : Bool :=
  let t := PTile.ofKey e.1
  n.flits.any fun f => (f.dcol == t.col && f.drow == t.row && f.msg == .cfg e.2) || (f.src == e.1 && f.msg == .cfgAck)

/-- Writes whose flit was dropped are sent again. -/
def execConfigWriteResend (p : Fin 32) (s : State) : Out :=
  .next { s with net := s.net.send (cfgFlits s.net p ((s.part p).outWrites.filter fun e => !s.net.carries e)) }

/-- The step gates of a partition: the first entry of its first range on each of its sites. -/
def State.gates (s : State) (p : Fin 32) : List Deferred :=
  match s.furnish with
  | none => []
  | some fu => (s.sitesOf p).filterMap fun i =>
      (fu.ranges.find? fun r => r.part = p && r.site.val = i).map fun r =>
        ⟨r.site, p, semWord 1 0 r.first 1, 0⟩

/-- A step may begin: the tables are acknowledged and nothing holds the partition back.  While no slot is occupied and
no tuning job runs the supervisor holds the next step back (R461). -/
def State.mayStep (s : State) (p : Fin 32) : Bool :=
  let x := s.part p
  x.open_ && x.couch.gap && (x.couch.released || x.couch.fresh) && x.outWrites.isEmpty && !x.resetDue && x.loaded &&
    !x.binsDue && x.switching.isNone && x.prev.isNone && x.job.all (·.ready) && (!s.allFree p || (x.job.isSome && x.pkg.isNone))

/-- The couch opens the next step, step 0 if the partition has just opened; a peer's verdict for it may have come. -/
def Couch.nextStep (c : Couch) : Couch :=
  { Couch.init with step := if c.fresh then 0 else c.step + 1, fresh := false, gap := false, released := false, peers := c.peers }

/-- The stage watchdog starts again from zero at the gate add (R461). -/
def Tile.rewatch (x : Tile) : Tile := { x with clk := { x.clk with wdCount := 0, wdRunning := true } }

/-- The frames that a slot's positions in flight can fill are used while the step runs (R378, R417). -/
def State.fly1 (s : State) (p : Fin 32) (k : Nat) : State :=
  let y := SMap.get Slot.init s.slots k
  match y.q with
  | none => s
  | some q =>
    let used := min (y.rsv + y.used) ((s.part p).usedOf q y.lc y.nf y.matched y.given)
    { s with
      slots := SMap.set Slot.init s.slots k { y with used := used, rsv := y.rsv + y.used - used }
      parts := SMap.set Part.init s.parts p.val { s.part p with
        used := (s.part p).used - y.used + used, rsv := (s.part p).rsv - y.rsv + (y.rsv + y.used - used) } }

def State.fly (s : State) (p : Fin 32) : List Nat → State
  | [] => s
  | k :: r => (s.fly1 p k).fly p r

def State.gateAdd (s : State) (p : Fin 32) : State :=
  let r := (s.gates p).foldl SemFx.one ⟨s.sems, s.waiters, s.parts, [], []⟩
  ({ s with
    sems := r.sems
    waiters := r.waiters
    net := s.net.send r.flits
    tiles := SMap.modifyAll Tile.init (fun _ x => x.rewatch) (s.tilesOf p) s.tiles
    parts := SMap.set Part.init r.parts p.val
      { SMap.get Part.init r.parts p.val with couch := (s.part p).couch.nextStep } } : State).semUes r.ues

/-- A supply-warning window that affects the partition is open. -/
def State.inWindow (s : State) (p : Fin 32) : Bool := allSites.any fun i => (s.site i).window.isSome && (s.affected i).contains p

/-- A step that begins in an open window: its stage is to be replayed (R387, R521). -/
def State.beginInWindow (s : State) (p : Fin 32) : State := if s.inWindow p then s.judge p (supplyNotice none) else s

def execStepGateAdd (p : Fin 32) (s : State) : Out := .next (if s.mayStep p then ((s.fly p (s.inFlight p)).gateAdd p).beginInWindow p else s)

/-! ### Replay (R269, R320, R402, R405) -/

/-- The supervisor restarts a tile at the STAGE of its checkpoint: commands discarded, the checkpoint restored, the
marks of the stage cleared.  A tile that had closed its step opens it again. -/
def Tile.restart (x : Tile) : Tile :=
  let closed := x.clk.no = 0
  { x with
    sc := { x.sc with
      regs := x.sc.ckpt.regs, pc := x.sc.ckpt.pc, stagecnt := x.sc.ckpt.stagecnt, qdone := x.sc.ckpt.qdone
      step := if closed then x.sc.step - 1 else x.sc.step
      ready := [], wait := .none, blocked := [] }
    mq := [], vq := [], lq := [], dq := [], sq := []
    mx := { x.mx with abftDue := 0, abftBad := [], sub := none }
    dma := { x.dma with ph := .idle, pos := 0 }
    clk := { x.clk with no := (if closed then x.clk.budgets.length else x.clk.no) - 1, running := false, cycles := 0, held := 0 }
    rp := { x.rp with rep := { x.rp.rep with recov := [], invalid := false }, recovInStage := false } }

/-- The lane of a restarted tile: products and verdicts of the stage are discarded. -/
def Lane.restart (l : Lane) : Lane := { l with drive := .off, since := false, verdicts := [], cvs := [] }

/-- Tiles whose last STAGE is that of the replayed stage. -/
def State.stopped (s : State) (p : Fin 32) (r : BitVec 16) : List Nat :=
  (s.tilesOf p).filter fun k => (SMap.get Tile.init s.tiles k).sc.stagecnt == r

/-- An entry that R269 restores. -/
def Sem.restores (e : Sem) (p : Fin 32) (r : BitVec 16) : Bool := e.owner.toNat == p.val && e.share == 0 && e.tag == r

/-- VALUE := SNAP; undefined, a free value, where R270 was broken. -/
def Sem.restored (e : Sem) (nonce key : Nat) : Sem :=
  { e with value := if e.mixed then Config.undefinedValue nonce key else e.snap }

def restoreSems (m : SMap Sem) (p : Fin 32) (r : BitVec 16) (nonce : Nat) : SMap Sem :=
  SMap.mapVals Sem.unowned (fun k e => if e.restores p r then e.restored nonce k else e) m

/-- The audit sums follow the restored values (R273). -/
def restoreAudit (m : SMap Sem) (p : Fin 32) (r : BitVec 16) (nonce : Nat) (parts : SMap Part) : SMap Part :=
  (m.filter fun e => e.2.restores p r).foldl (fun ps e =>
    addAudit ps e.2.owner (Fin.ofNat 64 (e.1 / 1024)) ((e.2.restored nonce e.1).value - e.2.value)) parts

/-- The replayed stage (R404): the one that the first notice names, else the highest that a tile has begun by now. -/
def State.replayStage (s : State) (p : Fin 32) : Option (BitVec 16) :=
  match (s.part p).couch.replayTag with | some r => some r | none => s.highestTag p

/-- R405 in its order, for stage `r`. -/
def State.replayOf (s : State) (p : Fin 32) (r : BitVec 16) : State :=
  let ks := s.stopped p r
  let parts := restoreAudit s.sems p r s.nonce s.parts
  let x := SMap.get Part.init parts p.val
  ({ s with
    tiles := SMap.modifyAll Tile.init (fun _ x => x.restart) ks s.tiles
    lanes := SMap.modifyAll Lane.init (fun _ l => l.restart) (laneKeys ks) s.lanes
    loftQ := s.loftQ.filter fun e => !ks.contains e.2
    deferred := s.deferred.filter fun d => !(d.part == p && semTag d.word == r)
    net := s.net.drain p fun f => f.isWork || f.isStale ks
    waiters := s.waiters.filter fun w => w.part != p
    sems := restoreSems s.sems p r s.nonce
    nonce := s.nonce + 1
    parts := SMap.set Part.init parts p.val { x with
      replays := satAdd x.replays 1
      couch := { x.couch with replayDue := false, replayed := true, replayTag := some r, reports := x.couch.reports.filter fun k => !ks.contains k } } } : State).semUes
    (uncorrectableSems s.sems (fun _ e => e.restores p r) (some p))

/-- The replay of the stage; a step that ends with no stage begun has nothing to replay. -/
def State.replay (s : State) (p : Fin 32) : State :=
  match s.replayStage p with
  | some r => s.replayOf p r
  | none => (s.setPart p { s.part p with couch := { (s.part p).couch with replayDue := false } }).stepOver p

/-- The notice of a supply-warning window that affects the partition is on its way. -/
def State.warnComes (s : State) (p : Fin 32) : Bool :=
  s.net.flits.any fun f => match f.msg with
    | .notice n => n.site.any fun i => (s.affected i).contains p
    | _ => false

/-- A replay is due, its stage is known or none will begin, and no supply-warning window that affects the partition is open (R521) or yet
to be recorded. -/
def State.mayReplay (s : State) (p : Fin 32) : Bool :=
  let x := s.part p
  x.open_ && x.couch.replayDue && !x.resetDue && !s.inWindow p && !s.warnComes p &&
    ((s.replayStage p).isSome || x.couch.reports.length == (s.tilesOf p).length)

def execStageReplay (p : Fin 32) (s : State) : Out := .next (if s.mayReplay p then s.replay p else s)

/-! ### Stage overrun (R326, R327) -/

/-- The count is past the stage's budget, its peer extension and the cycles that the governor holds. -/
def StageClock.overrun (c : StageClock) : Bool :=
  c.running && match c.budgets[c.no - 1]? with
    | none => false
    | some b => b.budget + b.peerExt + c.held < c.cycles

def execStageOverrun (t : PTile) (s : State) : Out :=
  .next (s.onTile t ((s.tile t).clk.overrun && !(s.tile t).rp.logged.contains evtStageOverrun) fun c f =>
    let g := f.raise c 0 evtStageOverrun (BitVec.ofNat 64 (f.tile.sc.pc.toNat * 2 ^ 32 + f.tile.sc.slip1a.toNat)) .none true
    g.set { g.tile with rp := { g.tile.rp with rep := { g.tile.rp.rep with timing := true } } })

end Sys2Proof.Machine
end

