-- ==== Sys2Proof/Machine/Faults.lean ====
section
/-! DEFINITION. Faults, audits and the black box (R23, R457, R461–R464, R473–R482, R511). -/

namespace Sys2Proof.Machine

/-! ### Hung tiles and self-tests (R457, R461) -/

/-- A record about tile `t` made by unit `unit`, and the notice of a class T event to the couch. -/
def State.tileFault (s : State) (t : PTile) (unit : Nat) (ev : BitVec 16) (detail : BitVec 64) : State :=
  let x := s.tile t
  { s with
    bbx := s.bbx.siteLog t.site (Ctx.record ⟨t, s⟩ x unit ev detail)
    net := s.net.send (match x.pl.part with
      | none => []
      | some p => [noticeFlit s.net t (some p) ⟨.hardware, x.sc.stagecnt, ev, some t, none, none⟩]) }

/-- The watchdog reaches its limit; it raises its event once. -/
def execStageWatchdog (t : PTile) (s : State) : Out :=
  let x := s.tile t
  .next (if x.clk.wdRunning && x.clk.wdLimit ≤ x.clk.wdCount && (match x.pl.part with | none => false | some p => (s.part p).open_) then
      (s.setTile t { x with clk := { x.clk with wdRunning := false } }).tileFault t 7 evtTileHung (BitVec.ofNat 64 x.clk.wdCount)
    else s)

/-- A tile of a serving partition runs self-tests only in the gap; one that the gate add interrupts has no effect.  None runs
on a site that sleeps (R507) or whose clocks are stopped. -/
def State.mayTest (s : State) (t : PTile) : Bool :=
  (s.site t.site).up && (s.site t.site).arith && !(s.site t.site).sleep && match (s.tile t).pl.part with | none => true | some p => !(s.part p).open_ || (s.part p).couch.gap

/-- The unit codes that R477 lists: 13 and 14 are none. -/
def isUnit (u : BitVec 4) : Bool := u != 13 && u != 14

/-- A failed check comparator of a lane puts the lane's base region under test until its tile's reset (R18, log entry 64). -/
def Lane.suspect (l : Lane) : Lane := { l with underTest := true }

def State.selfTestFails (s : State) (t : PTile) : List (BitVec 4) → State
  | [] => s
  | u :: r =>
    let s1 := if isUnit u then s.tileFault t u.toNat evtSelftest 0 else s
    ({ s1 with
      lanes := SMap.modifyAll Lane.init (fun _ l => l.suspect)
        (if u = 3 then [t.key * 2] else if u = 4 then [t.key * 2 + 1] else []) s1.lanes } : State).selfTestFails t r

/-- Checkers that fail their self-test (R457): a spare tile, or one of a block in no partition, dies at the event (R465) and is
replaced at once, as is one that its neighbours' test finds bad (R471); a partition's tile is tested at its reset. -/
def execCheckerSelfTest (t : PTile) (found : SelfTest) (s : State) : Out :=
  .next (if s.mayTest t then
      let s1 := s.selfTestFails t found.fails
      let bad := (foundBad found.verdicts).contains t.key
      if (s.tile t).pl.part.isNone && !s.isBad t.key && (bad || found.fails.any isUnit) then
        (if bad then s1.bringupLog [t.key] else s1).failTile t
      else s1
    else s)

/-! ### The supervisors and the references (R23, R463, R464) -/

/-- Start-up runs, after a POR or a WARM. -/
def Sup.starting (u : Sup) : Bool := u.phase != 12 && u.phase != 15

/-- A WARM is requested; one that is due already absorbs it, and so does a start-up that runs (R498). -/
def Sup.requestWarm (u : Sup) (source : BitVec 4) : Sup :=
  if u.warmDue.isNone && (u.phase == 12 || u.phase == 15) then { u with warmDue := some source, warmAt := u.counter } else u

/-- The routers send what is addressed to the supervisor to the standby's attachment from now on, what is on its way too (R614). -/
def Net.toStandby (n : Net) : Net :=
  { n with
    atStandby := true
    flits := n.flits.map fun f => if f.dcol = 0 ∧ f.drow = 0 ∧ f.dport = 4 then { f with dcol := 127, drow := 71, dport := 2 } else f }

/-- No supervisor is left: the ports are dark and ALERT_N is low, as at a start at which both fail (R488). -/
def State.dark (s : State) : State :=
  { s with
    furnish := none, parts := [], slots := [], sessions := [], handshakes := []
    phw := SMap.mapVals PhwPort.init (fun _ x => { x with up := false }) s.phw
    plk := SMap.mapVals PlkPort.init (fun _ x => { x with state := 0, partner := 0 }) s.plk
    ident := { s.ident with signings := [] }
    sup := { s.sup with phase := 15, duty := 100 } }

/-- The standby can take over: the primary is the active supervisor, and the standby's die is not held off (R463, R576). -/
def State.hasStandby (s : State) : Bool := !s.sup.standbyActive && !s.ident.ringOff.getLsbD 1

/-- The primary stops, the standby takes over, skips the reserved leaves (R586) and carries out R462; a WARM follows.  The active
supervisor that fails with no other left leaves the device dark. -/
def execSupervisorFailure (s : State) : Out :=
  let s1 : State := { s with
    net := s.net.toStandby
    sup := { s.sup.requestWarm 3 with standbyActive := true }
    ident := s.ident.readLms s.flash }
  .next (if s.hasStandby then s1.fatal evtSupFail 0 5 1 else s.dark)

/-- The reference input fails: a switch to the other, or holdover with the arith clocks stopped. -/
def State.refFail (s : State) (i : Fin 2) : State :=
  let ok := s.sup.refOk.set i.val false
  let other : Fin 2 := if i = 0 then 1 else 0
  if ok.getD other.val false then
    if i = s.sup.refSel then
      let s1 : State := { s with sup := { s.sup with refOk := ok, refSel := other }, bbx := s.bbx.append (s.sup.record evtRefclkSwitch none 0 0) }
      s1.judgeAll ⟨.recorded, 0, evtRefclkSwitch, none, none, none⟩ allParts
    else { s with sup := { s.sup with refOk := ok } }
  else if s.sup.holdover then { s with sup := { s.sup with refOk := ok } }
  else
    let s1 : State := { s with
      sup := { s.sup with refOk := ok, holdover := true }
      sites := SMap.mapVals Site.init (fun _ x => { x with arith := false }) s.sites }
    (allSites.foldl State.stopVats s1).fatal evtRefclkLost 0 5 1

def execRefclkMonitorFail (input : Fin 2) (s : State) : Out := .next (s.refFail input)

/-- The arith clocks of a site run: it has power and neither sleeps nor is off. -/
def Site.mayClock (x : Site) : Bool := x.up && !x.sleep && x.tstate != 2

/-- An input has passed its monitor for 10 ms; after the loss of both, the WARM starts.  A start-up that runs absorbs the WARM (R498) and
goes on with its clocks. -/
def execRefclkRecovered (input : Fin 2) (s : State) : Out :=
  let u := { s.sup with refOk := s.sup.refOk.set input.val true }
  let v := u.requestWarm 4
  .next (if u.holdover then
      { s with
        sup := { v with holdover := false, refSel := input }
        sites := if v.warmDue.isSome then s.sites else SMap.mapVals Site.init (fun _ x => { x with arith := x.mayClock }) s.sites }
    else { s with sup := u })

/-! ### Conservation audits (R473, R475, R487) -/

/-- A slot that is not FREE holds one request, and a FREE one none. -/
def Slot.sound (y : Slot) : Bool := (y.st == .free) == y.q.isNone

def State.slotFault (s : State) (p : Fin 32) : Option (Nat × Nat) :=
  if 512 < s.occupied then some (512, s.occupied)
  else
    let n := ((s.slotsOf p).filter fun e => !e.2.sound).length
    if n = 0 then none else some (0, n)

/-- An audit mismatch: its record, the closing of the partition, the counts of SUP_AUDIT. -/
def State.auditBad (s : State) (p : Fin 32) (ev : BitVec 16) (kind : BitVec 3) (exp found : Nat) : State :=
  let s1 := s.closeParts [p] kind
  { s1 with
    bbx := s1.bbx.append (s1.sup.record ev (some p) (s.part p).couch.step (BitVec.ofNat 64 (exp % 2 ^ 32 * 2 ^ 32 + found % 2 ^ 32)))
    sup := { s1.sup with
      auditPages := if kind = 3 then satAdd s1.sup.auditPages 1 else s1.sup.auditPages
      auditSlots := if kind = 4 then satAdd s1.sup.auditSlots 1 else s1.sup.auditSlots
      auditTokens := if kind = 5 then satAdd s1.sup.auditTokens 1 else s1.sup.auditTokens } }

/-- The audit of pages and slots, in a gap window or while the partition is idle. -/
def execPageSlotAudit (p : Fin 32) (s : State) : Out :=
  let x := s.part p
  .next (if x.open_ && !x.resetDue && x.idle then
      let s1 := match s.pageFault p with | none => s | some e => s.auditBad p evtAuditPages 3 e.1 e.2
      match s.slotFault p with | none => s1 | some e => s1.auditBad p evtAuditSlots 4 e.1 e.2
    else s)

/-- Positions released by the couch and those sent or queued at the port differ. -/
def Slot.tokenFault (y : Slot) : Bool := y.handed != y.sent + sumN (y.portQ.map (·.toks.length))

/-- The slot of an open partition that the count finds wrong. -/
def State.tokenBad (s : State) (p : Fin 32) : Option Slot :=
  ((s.slotsOf p).find? fun e => e.2.st != .free && e.2.tokenFault).map (·.2)

def State.tokenAudit (s : State) : List (Fin 32) → State
  | [] => s
  | p :: r =>
    match s.tokenBad p with
    | none => s.tokenAudit r
    | some y =>
      if (s.part p).open_ && !(s.part p).resetDue then
        (s.auditBad p evtAuditTokens 5 y.handed (y.sent + sumN (y.portQ.map (·.toks.length)))).tokenAudit r
      else s.tokenAudit r

def execTokenCountAudit (s : State) : Out := .next (s.tokenAudit allParts)

/-! ### The black box (R476–R479) -/

/-- A site sends the oldest waiting copy on VC0. -/
def execBbxCopyForward (site : Fin 64) (s : State) : Out :=
  let g := s.bbx.ring site
  .next (match g.waiting with
    | [] => s
    | r :: rest =>
      if (s.site site).up then
        { s with
          bbx := { s.bbx with rings := SMap.set SiteRing.init s.bbx.rings site.val { g with waiting := rest } }
          net := s.net.send [mkFlit 0 (storeAt site) s.net.supAt none 0 (.bbx r)] }
      else s)

/-- The codes that R481 lists. -/
def isEvent (e : BitVec 16) : Bool :=
  let n := e.toNat % 4096
  match e.toNat / 4096 with
  | 1 => 2 ≤ n && n ≤ 9
  | 2 => 1 ≤ n && n ≤ 14
  | 3 => 1 ≤ n && n ≤ 6
  | 4 => 1 ≤ n && n ≤ 7
  | 5 => 1 ≤ n && n ≤ 2
  | 6 => 1 ≤ n && n ≤ 6
  | 7 => 1 ≤ n && n ≤ 4
  | _ => false

/-- A record as R477 lays it out: an event of R481, an origin, a tile and a unit that it lists, reserved bits zero (R6). -/
def BbxRec.sound (r : BbxRec) : Bool :=
  isEvent r.event && (r.source.extractLsb' 25 7).toNat ≤ 73 && isUnit (r.source.extractLsb' 13 4) && r.source.extractLsb' 1 6 == 0 &&
    ((r.source.extractLsb' 17 8).toNat < 144 || r.source.extractLsb' 17 8 == 0xFF)

/-- A copy arrives at the supervisor ring, in its order on VC0; its flit leaves the network. -/
def execBbxRecordArrival (r : BbxRec) (s : State) : Out :=
  .next (if BbxRec.sound r && s.net.ready (·.msg == .bbx r) then { s with
      bbx := s.bbx.append r
      net := s.net.drop fun f => f.arrived s.net.supAt && f.msg == .bbx r }
    else s)

/-- The supervisor's counter reaches the site (R477). -/
def execSiteCounterRefresh (site : Fin 64) (s : State) : Out :=
  .next (if (s.site site).up then s.setSite site { s.site site with ts := s.sup.counter } else s)

/-- A 1 written to SNAP: the record, and the freeze; ignored while FROZEN (R478, R482). -/
def Bbx.snap (b : Bbx) (u : Sup) : Bbx :=
  if b.frozen then b else (b.append (u.record evtFreezeReq none 0 0)).callFreeze evtFreezeReq

def execBbxSnap (s : State) : Out := .next { s with bbx := s.bbx.snap s.sup }

def Bbx.image (b : Bbx) (i : Nat) : Image := SMap.get Image.init b.images i

/-- The sequence number of the newest valid image; 0 where there is none. -/
def Bbx.newestSeq (b : Bbx) : Nat :=
  (List.range 8).foldl (fun a i => if (b.image i).valid then max a (b.image i).seq.toNat else a) 0

/-- The bytes of a record, little-endian (R477). -/
def BbxRec.bytes (r : BbxRec) : List Byte :=
  leBytes 8 r.ts.toNat ++ leBytes 4 r.source.toNat ++ leBytes 2 r.event.toNat ++ leBytes 2 r.tag.toNat ++ leBytes 8 r.step.toNat ++
    leBytes 8 r.detail.toNat

/-- Where image `i` stands in flash, and its size. -/
def Image.offset (i : Nat) : Nat := i * 0x200000

/-- Where it stands in the flash (R567). -/
def Image.place (i : Nat) : Nat := FlashRegion.blackBox.place.1 + Image.offset i

/-- The magic "QZBBXIM1" of an image's header. -/
def Image.magic : List Byte := [0x51, 0x5A, 0x42, 0x42, 0x58, 0x49, 0x4D, 0x31]

/-- Bytes 32 to the end of an image of 2 MiB: the rest of its header, zero, and its records. -/
def Image.body (g : Image) : List Byte :=
  let l := List.replicate 2016 0 ++ g.recs.flatMap BbxRec.bytes
  l ++ List.replicate (0x200000 - 32 - l.length) 0

/-- Bytes 0 to 31 of an image (R479). -/
def Image.header (g : Image) : List Byte :=
  Image.magic ++ leBytes 4 g.seq.toNat ++ leBytes 2 g.event.toNat ++ [0, 0] ++ leBytes 8 g.ts.toNat ++ leBytes 4 g.recs.length ++
    leBytes 4 g.crc.toNat

/-- An image with the CRC of its bytes. -/
def Image.sealed (g : Image) : Image := { g with crc := crc32 g.body, valid := true }

/-- The slot that a flush writes: one without a valid image, else that of the lowest sequence number (R479). -/
def Bbx.target (b : Bbx) : Nat :=
  match (List.range 8).find? fun i => !(b.image i).valid with
  | some i => i
  | none => (List.range 8).foldl (fun a i => if (b.image i).seq.toNat < (b.image a).seq.toNat then i else a) 0

/-- The records of the supervisor ring, oldest first. -/
def Bbx.ordered (b : Bbx) : List BbxRec :=
  if b.wrap then (List.range 65536).map fun i => SMap.get BbxRec.init b.recs ((b.next.toNat + i) % 65536)
  else (List.range b.next.toNat).map fun i => SMap.get BbxRec.init b.recs i

/-- Every site ring stopped, or resumed. -/
def freezeRings (m : SMap SiteRing) (on : Bool) : SMap SiteRing :=
  SMap.modifyAll SiteRing.init (fun _ g => { g with frozen := on }) (List.range 64) m

/-- No erased slot is left: the one of the lowest sequence number is erased in advance of the next flush, which only programs (R479). -/
def Bbx.erase (b : Bbx) : Bbx :=
  if (List.range 8).all fun i => (b.image i).valid then { b with images := SMap.set Image.init b.images b.target Image.init } else b

/-- The rings stop and the flush begins: its image slot is no valid image until it completes. -/
def Bbx.freeze (b : Bbx) (now : BitVec 64) : Bbx :=
  { b with
    frozen := true, freezeDue := false, flushing := true
    rings := freezeRings b.rings true
    images := SMap.set Image.init b.images b.target
      { Image.init with seq := BitVec.ofNat 32 (b.newestSeq + 1), event := b.freezeEvent, ts := now } }

/-- At the hard limit VLG, VAR, VMI and VLK go off on every site and ring die, and THERM_TRIP_N is asserted (R535). -/
def State.switchOff (s0 : State) : State :=
  let s := allSites.foldl State.stopVats s0
  { s with
    sites := SMap.mapVals Site.init (fun _ x => { x with up := false, arith := false }) s.sites
    phw := SMap.mapVals PhwPort.init (fun _ x => { x with up := false }) s.phw
    plk := SMap.mapVals PlkPort.init (fun _ x => { x with state := 0, partner := 0 }) s.plk
    sto := SMap.mapVals StoPort.init (fun _ x => { x with present := false }) s.sto
    sup := { s.sup with trip := true, tripDue := false } }

/-- A copy is on the network. -/
def Net.copying (n : Net) : Bool := n.flits.any fun f => match f.msg with | .bbx _ => true | _ => false

/-- The freeze, once every copy on the network has arrived; after it the supplies go off where the hard limit called for it. -/
def execBbxFreezeComplete (s : State) : Out :=
  .next (if s.bbx.freezeDue && !s.bbx.frozen && !s.net.copying then
      let s1 : State := { s with bbx := s.bbx.freeze s.sup.counter }
      if s.sup.tripDue then s1.switchOff else s1
    else s)

/-! ### Image writes (R568) -/

/-- The image goes to the copy not in use, erased first. -/
def State.writeImage (s : State) : FlashImage → State
  | .firmware g => { s with flash := if s.sup.fwB then { s.flash with fwA := some g } else { s.flash with fwB := some g } }
  | .furnish g => { s with flash := if s.sup.furnB then { s.flash with furnA := some g } else { s.flash with furnB := some g } }

/-- Two images of one region. -/
def sameRegion : FlashImage → FlashImage → Bool
  | .firmware _, .firmware _ => true
  | .furnish _, .furnish _ => true
  | _, _ => false

/-- An image write is asked for: a black-box flush goes first, and a second write to a region is refused as busy while one waits. -/
def State.askImage (s : State) (session : Option Nat) (img : FlashImage) : State :=
  if s.sup.imageDue.any fun e => sameRegion e.2 img then s.answerSome session rBusy
  else if s.bbx.flushing || s.bbx.freezeDue then { s with sup := { s.sup with imageDue := s.sup.imageDue ++ [(session, img)] } }
  else (s.writeImage img).answerSome session rDone

/-- The image writes that waited for the flush. -/
def State.writeImages (s : State) : State :=
  s.sup.imageDue.foldl (fun s e => (s.writeImage e.2).answerSome e.1 rDone) { s with sup := { s.sup with imageDue := [] } }

/-- The flush completes into the slot it erased; or it fails: FLFAIL, and the slot holds no valid image.  The rings
resume, and the next slot is erased. -/
def Bbx.flushed (b : Bbx) (ok : Bool) : Bbx :=
  let l := b.ordered
  ({ b with
    flushing := false
    flfail := b.flfail || !ok
    frozen := false
    rings := freezeRings b.rings false
    images := if ok then
        SMap.set Image.init b.images b.target { b.image b.target with recs := l.drop (l.length - 65472) }.sealed
      else b.images } : Bbx).erase

def execBbxFlushComplete (ok : Bool) (s : State) : Out :=
  .next (if s.bbx.flushing then ({ s with bbx := s.bbx.flushed ok } : State).writeImages else s)

/-! ### Tile cycle counters (R511) -/

/-- `extend` of R511. -/
def extend48 (now : BitVec 48) (ext : BitVec 64) : BitVec 64 := ext + (now - ext.setWidth 48).setWidth 64

def execTileCounterRead (t : PTile) (s : State) : Out :=
  let x := s.tile t
  .next (s.setTile t { x with pl := { x.pl with ext := extend48 x.sc.cyc x.pl.ext } })

end Sys2Proof.Machine
end

