-- ==== Sys2Proof/Machine/Startup.lean ====
section
/-! DEFINITION. Start-up, the furnish and the resets of the device (R171–R174, R205, R260, R261, R470–R472,
R488–R500, R576, R580, R582, R586, R593, R613).  START_UP runs steps 2 to 10; the lanes' warm-up is run by the WARM_UP
events, and step 11 opens each partition when it is ready (`State.settleStart`). -/

namespace Sys2Proof

/-! ### Verification (R493, R578, R580, R582) -/

/-- The security version lies between the fused counter and 64. -/
def svnOk (fuse svn : Nat) : Bool := fuse ≤ svn && svn ≤ 64

/-- The blocks of a partition's rectangle. -/
def FurnPart.blocks (f : FurnPart) : List (Nat × Nat) :=
  (List.range f.bh).flatMap fun j => (List.range f.bw).map fun i => (f.bx + i, f.byy + j)

/-- The rectangle lies in the grid of 16 × 8 blocks and is not empty; G, the DMA wait limit (R193), the supervisor site and the grants named are
legal. -/
def FurnPart.ok (f : FurnPart) (grants : List Grant) : Bool :=
  let n := (grants.filter (·.part = f.part)).length
  1 ≤ f.bw && 1 ≤ f.bh && f.bx + f.bw ≤ 16 && f.byy + f.bh ≤ 8 && 64 ≤ f.g64 && f.g64 ≤ 128 && 16 ≤ f.dmaWait && f.dmaWait ≤ 4096 &&
    f.sites.contains f.supSite.val && !f.pool.isEmpty && f.pool.all (· < n) &&
    (match f.adapterGrant with | none => true | some k => k < n && !f.pool.contains k)

/-- Two ranges of whole numbers overlap. -/
def overlap (a n b m : Nat) : Bool := a < b + m && b < a + n

def Grant.ok (g : Grant) : Bool := g.base % 2 ^ 26 == 0 && g.size % 2 ^ 26 == 0 && 0 < g.size && g.base + g.size ≤ 2 ^ 34

/-- No element clashes with a later one. -/
def noClash {α : Type} (q : α → α → Bool) : List α → Bool
  | [] => true
  | a :: r => r.all (fun b => !q a b) && noClash q r

/-- R206: up to 16 ranges of a partition on a site; ranges of different partitions do not overlap. -/
def Furnish.grantsOk (fu : Furnish) : Bool :=
  fu.grants.all (fun g => g.ok && (fu.grants.filter fun h => h.part = g.part && h.site = g.site).length ≤ 16) &&
    noClash (fun a b => a.site == b.site && a.part != b.part && overlap a.base a.size b.base b.size) fu.grants

def Furnish.hasQuota (fu : Furnish) (p : Fin 32) (site : Fin 64) : Bool :=
  fu.quotas.any fun q => q.part = p && q.site = site

/-- R260: ranges, modes, sharing masks and quotas. -/
def Furnish.semsOk (fu : Furnish) : Bool :=
  fu.ranges.all (fun r => r.first + r.count ≤ 1024 && 0 < r.count && (r.share == 0 || r.seq) && fu.hasQuota r.part r.site &&
    (fu.ranges.filter fun h => h.part = r.part && h.site = r.site).length ≤ 16) &&
  noClash (fun a b => a.site == b.site && overlap a.first a.count b.first b.count) fu.ranges &&
  (List.finRange 64).all fun i => ((fu.quotas.filter (·.site = i)).map (·.quota)).sum ≤ 4096

/-- R387: the first entry of the partition's first range on each of its sites is a step gate. -/
def Furnish.gatesOk (fu : Furnish) : Bool :=
  fu.parts.all fun f => f.sites.all fun i =>
    match fu.ranges.find? fun r => r.part = f.part && r.site.val = i with
    | none => false
    | some r => r.seq && r.init == 0

/-- R428: 1 to 16 entries for each partition, ids from 0x0001 to 0xFFFE, unique in the partition, up to 4 sources. -/
def Furnish.swapOk (fu : Furnish) : Bool :=
  fu.swap.all (fun e => 1 ≤ e.model.toNat && e.model.toNat ≤ 0xFFFE && e.sources.length ≤ 4) &&
  fu.parts.all (fun f => 1 ≤ (fu.swap.filter (·.part = f.part)).length && (fu.swap.filter (·.part = f.part)).length ≤ 16) &&
  noClash (fun a b => a.part == b.part && a.model == b.model) fu.swap

/-- The fixed allowance of R333, in watts. -/
def fixedAllowance : Nat := 1500

/-- The power shares with the fixed allowance. -/
def Furnish.power (fu : Furnish) : Nat := (fu.parts.map (·.share)).sum + fixedAllowance

/-- The magic "QZFURN01" of the header. -/
def Furnish.asciiMagic : List Byte := [0x51, 0x5A, 0x46, 0x55, 0x52, 0x4E, 0x30, 0x31]

/-- The header of R492 and the forms of R493: magic and version, at most 1 MiB with the signature block behind the image length (R577),
sections of the known types in the number stated, one of each partition and no reserved byte set. -/
def Furnish.headerOk (fu : Furnish) : Bool :=
  fu.magic == Furnish.asciiMagic && fu.fmtver == 1 && fu.length + fu.sig.block.size ≤ 2 ^ 20 &&
    fu.nsection == fu.sections.length && fu.sections.all (fun k => 1 ≤ k && k ≤ 9) &&
    (fu.sections.filter (· == 2)).length == fu.parts.length && fu.reserved.all (· == 0)

/-- R493, but for the signatures, the fused counter, the owner slot and the binding. -/
def Furnish.sound (fu : Furnish) : Bool :=
  fu.headerOk && 800 ≤ fu.cap && fu.cap ≤ 2000 &&
  noClash (fun (a b : FurnPart) => a.part == b.part || a.blocks.any b.blocks.contains) fu.parts &&
  fu.power ≤ 10 * fu.cap && fu.grantsOk && fu.semsOk && fu.gatesOk && fu.swapOk && fu.classes.length == 16 &&
  fu.parts.all fun f => f.ok fu.grants

/-- The partition's grants that form its page pool, in frames of 64 KiB. -/
def Furnish.poolFrames (fu : Furnish) (f : FurnPart) : Nat :=
  let gs := fu.grants.filter (·.part = f.part)
  (f.pool.map fun k => match gs[k]? with | none => 0 | some g => g.size / 65536).sum

end Sys2Proof

namespace Sys2Proof.Machine

/-- An owner slot is fused and not revoked (R580). -/
def Ident.trusts (d : Ident) (slot : Fin 4) : Bool := d.fused.getLsbD slot.val && !d.revoked.getLsbD slot.val

/-- A firmware image: a fused firmware key signs it in both schemes, and with its signature block it fits the 16 MiB of its copy (R567,
R577, R580). -/
def State.firmwareOk (s : State) (f : Firmware) : Bool :=
  f.sig.ok && s.ident.fwKeys.contains f.key && f.sigoff + f.sig.block.size ≤ 2 ^ 24 && svnOk s.ident.fwFuse f.svn

/-- A furnish: a trusted owner slot's keys sign it in both schemes, and it is bound to any device or to this one, by the digest of its
certificate (R492, R493, R580). -/
def State.furnishOk (s : State) (f : Furnish) : Bool :=
  f.sig.ok && s.ident.trusts f.slot && s.ident.ownerKeys.getD f.slot.val 0 == f.key &&
    (f.binding == 0 || f.binding == s.ident.certDigest) && svnOk s.ident.furnFuse f.svn && f.sound

/-- Copy A if it verifies, else copy B; true: copy B. -/
def pickCopy {α : Type} (ok : α → Bool) (a b : Option α) : Option (Bool × α) :=
  match a.filter ok with
  | some x => some (false, x)
  | none => (b.filter ok).map fun x => (true, x)

/-! ### Fan demand (R537) -/

/-- The curve of R537 at a temperature. -/
def fanCurve (t : Int) : Nat :=
  if t ≤ 560 then 30 else if 760 ≤ t then 100 else 30 + (7 * (t - 560) / 20).toNat

/-- The hottest reading that the curve is evaluated on. -/
def Site.fanTemp (x : Site) : Int := max (max x.tcmp.toInt x.tbase.toInt) (x.tloft.toInt + 80)

/-- The duty of FAN_DEMAND: floor, curve, and full demand (R531, R537); 100 until a furnish is verified. -/
def State.duty (s : State) : Nat :=
  match s.furnish with
  | none => 100
  | some _ =>
    let t := s.sites.foldl (fun a e => max a e.2.fanTemp) (-2048)
    if s.sites.any fun e => e.2.fanFull then 100 else max (min 100 s.sup.fanFloor.toNat) (fanCurve t)

def State.setDuty (s : State) : State := { s with sup := { s.sup with duty := BitVec.ofNat 8 s.duty } }

/-! ### Dies, sites and loft rows (R205, R516, R576) -/

/-- The site that a failed die holds off: compute 0–63, base 64–127, loft 128–191; none for a ring die. -/
def dieSite (d : BitVec 8) : Option Nat := if d.toNat < 192 then some (d.toNat % 64) else none

/-- The site stays off: its domains did not come up, or a die of it failed authentication. -/
def BootObs.off (o : BootObs) (i : Nat) : Bool :=
  o.sitesFailed.any (·.val == i) || o.diesFailed.any fun d => dieSite d == some i

/-- A row number is row × 512 + bank × 16 + channel: the bank of a channel. -/
def rowBank (r : Nat) : Nat := r % 512

/-- Post-package repair: the pending rows that a spare row of their bank replaces move to the repaired rows; the others
are unusable. -/
def repairLoft : List (Nat × Nat) → List (Nat × Nat) → List (Nat × Nat) × List (Nat × Nat)
  | [], done => ([], done)
  | (i, r) :: rest, done =>
    if (done.filter fun e => e.1 == i && rowBank e.2 == rowBank r).length < 4 then repairLoft rest (done ++ [(i, r)])
    else
      let x := repairLoft rest done
      ((i, r) :: x.1, x.2)

/-- Step 6 of a POR: repair, then the rows that failed the loft test. -/
def Flash.loftStart (f : Flash) (rows : List (Nat × Nat)) : Flash :=
  let x := repairLoft f.loftPending f.loftRepaired
  { f with loftPending := rows.dedup, loftRepaired := x.2, loftUnusable := (f.loftUnusable ++ x.1).dedup }

/-- The page frames that contain an unusable row: the 16 of its MiB of loft (R205). -/
def Flash.deadFrames (f : Flash) : List Nat :=
  (f.loftUnusable.flatMap fun e => (List.range 16).map fun j => e.1 * 2 ^ 18 + e.2 / 512 * 16 + j).dedup

/-- The spare rows that post-package repair has applied on a site, as read at every start (R221). -/
def Site.loftStatus (x : Site) (f : Flash) (i : Nat) : Site :=
  { x with pprUsed := satAdd 0 (f.loftRepaired.filter (·.1 == i)).length }

/-- A site that start-up step 5 has powered up; its clocks run where a reference passes (`clk`, R464). -/
def Site.powered (f : Flash) (i : Nat) (clk : Bool) (now : BitVec 64) : Site :=
  ({ Site.init with up := true, arith := clk, ts := now, warmFrom := now } : Site).loftStatus f i

/-- A site at WARM: what the Reset columns name for WARM is reset, and a sleeping site wakes; site-off stays. -/
def Site.warmFields (x : Site) : Site :=
  { x with
    arith := x.up && x.tstate != 2, sleep := false, selfref := x.tstate == 2
    seqSel := 0, vsel := 0, semSel := 0, waitHigh := 0, auditLast := 0, excl := 0, govHold := 0, warmBin := 0, warmSet := [] }

/-- Step 5 at WARM: a site whose supplies were lost is powered up. -/
def Site.warm (x : Site) (f : Flash) (i : Nat) (clk : Bool) (now : BitVec 64) : Site :=
  ({ x with up := true, arith := clk && x.tstate != 2, inReset := false, ts := now, warmFrom := now } : Site).loftStatus f i

/-- A site that is held off at WARM: its domains stay down.  What WARM does not reset is kept. -/
def Site.heldOff (x : Site) : Site := { x with up := false, arith := false, selfref := false, inReset := false }

/-! ### Bring-up of tiles (R470–R472) -/

/-- Every tile that the spare map may not name: the repair log, the verdicts, the lanes that R172 quarantined, the sites
that are off. -/
def BootObs.unfit (o : BootObs) (f : Flash) (k : Nat) : Bool :=
  f.badTiles.contains k || (foundBad o.verdicts).contains k || o.coldLanes.any (fun e => e.1.key == k) || BootObs.off o (k / 256)

/-- The unused good tile that replaces one at a POR: on the same die if there is one, else the nearest (R11, R466; the choices of
log entry 66).  No program is installed then, whose reach or power could refuse it. -/
def spareTile (unfit : Nat → Bool) (map : SMap Nat) (old : Nat) : Option Nat :=
  let used := mappedKeys map
  let fits := allTileKeys.filter fun k => !unfit k && !used.contains k
  match fits.find? fun k => k / 256 == old / 256 with
  | some k => some k
  | none => fits.foldl (nearer old) none

/-- The spare map from the one in the repair log, over logical tiles `n`, n − 1, …, 0 in descending count; and the
logical tiles for which no spare is left. -/
def remapFrom (unfit : Nat → Bool) : List Nat → SMap Nat → SMap Nat × List Nat
  | [], map => (map, [])
  | n :: r, map =>
    let here := named map (n % 128) (n / 128)
    let old := (if here then physOf map (n % 128) (n / 128) else nominal (n % 128) (n / 128)).key
    if unfit old || !here then
      match spareTile unfit map old with
      | some k => remapFrom unfit r (remapTo map (n % 128) (n / 128) k)
      | none =>
        let x := remapFrom unfit r (SMap.set 0 map n noTile)
        (x.1, n :: x.2)
    else remapFrom unfit r map

/-- The partition that holds a logical tile. -/
def Furnish.owner (fu : Furnish) (c r : Nat) : Option (Fin 32) := (fu.parts.find? fun f => f.holds c r).map (·.part)

/-- Spare rows that manufacturing test has assigned in a tile's banks (R196). -/
def Fuses.spareRows (fs : Fuses) (k : Nat) : SMap Nat :=
  (List.range 16).foldl (fun m b => SMap.set 0 m b (SMap.get 0 fs.scrRows (16 * k + b))) []

/-- Spare rows in use of a tile's banks, from the fuses and the repair log (R196, R197). -/
def Flash.spareRows (f : Flash) (fs : Fuses) (k : Nat) : SMap Nat :=
  (f.rowRepairs.filter (·.1 == k)).foldl (fun m e => SMap.set 0 m (bankOf (64 * e.2)) (SMap.get 0 m (bankOf (64 * e.2)) + 1))
    (fs.spareRows k)

/-- A tile as start-up leaves it. -/
def bootTile (f : Flash) (fs : Fuses) (bad : Bool) (k : Nat) : Tile :=
  { Tile.init with
    mem := { TileMem.init with spareRows := f.spareRows fs k }
    pl := { Tile.init.pl with bad := bad } }

/-- The logical places of the mapped tiles, written into them. -/
def placeTiles (m : SMap Tile) (map : SMap Nat) (fu : Furnish) : List Nat → SMap Tile
  | [] => m
  | n :: r =>
    let k := (physOf map (n % 128) (n / 128)).key
    let x := SMap.get Tile.init m k
    placeTiles (if named map (n % 128) (n / 128) then SMap.set Tile.init m k { x with
      pl := { x.pl with c := BitVec.ofNat 7 (n % 128), r := BitVec.ofNat 6 (n / 128), part := Furnish.owner fu (n % 128) (n / 128) } }
      else m) map fu r

/-- A lane that holds nothing; the quarantines since POR are kept. -/
def Lane.cold (l : Lane) : Lane := { Lane.init with qcount := l.qcount }

/-- The lanes that satisfy `q` hold nothing; those of the tiles with keys `ks` are to warm up, and those in `cold` did not and are
quarantined (R172, R173). -/
def coldLanes (m : SMap Lane) (q : Nat → Bool) (ks : List Nat) (cold : List Nat) : SMap Lane :=
  SMap.modifyAll Lane.init (fun k l =>
    { l with
      rewarm := !cold.contains k, quar := cold.contains k
      qcount := if cold.contains k then satAdd l.qcount 1 else l.qcount }) (laneKeys ks)
    (SMap.mapVals Lane.init (fun k l => if q k then l.cold else l) m)

/-! ### Vats (R133, R499, R500) -/

/-- The spare columns of a vat in use: those that fuses selected and those taken in the field. -/
def Flash.spareCols (f : Flash) (fs : Fuses) (k : Nat) : Nat := SMap.get 0 fs.vatCols k + f.repaired k

/-- Vat BIST: the columns that failed go to the spares that are left; a ninth makes the vat bad. -/
def Flash.vatStart (f : Flash) (fs : Fuses) : List (PTile × Nat × Nat) → Flash
  | [] => f
  | (t, v, n) :: r =>
    let k := t.key * 96 + v
    let f1 := f.vatCols k (min n (8 - f.spareCols fs k))
    (if 8 < f.spareCols fs k + n then f1.badVat k else f1).vatStart fs r

/-- The spares and the mark of every vat, restored from the fuses and the repair log (R133, R143). -/
def Flash.restoreVats (f : Flash) (fs : Fuses) (m : SMap Vat) : SMap Vat :=
  SMap.modifyAll Vat.init (fun _ v => { v with bad := true }) f.badVats
    (SMap.modifyAll Vat.init (fun k v => { v with spares := f.spareCols fs k }) ((fs.vatCols.map (·.1)) ++ f.vatRepairs.map (·.1)) m)

/-- A model stays resident over WARM (R500): listed with its id in the same partition with the same rectangle, its
package in the cache and trusted, its codes on sites that kept their supplies, each slice with the digest recorded when it was written. -/
def State.keepsModel (s : State) (o : BootObs) (fu : Furnish) (f : FurnPart) (m : ModelInfo) : Bool :=
  !(o.digestsFailed.any fun e => m.vats.contains (e.1.key * 96 + e.2)) &&
  (match s.furnPart f.part with | none => false | some g => g.blocks == f.blocks) &&
  m.vats.all (fun v => (s.site (Fin.ofNat 64 (v / 96 / 256))).up && !(s.site (Fin.ofNat 64 (v / 96 / 256))).inReset &&
    !BootObs.off o (v / 96 / 256)) &&
  (fu.swap.filter (·.part = f.part)).any fun e => e.model == m.id &&
    s.cache.packages.any fun k => k.pubkey == e.pubkey && k.pkgid == e.pkgid && k.desc == some m.desc && !BootObs.off o k.site &&
      (s.site (Fin.ofNat 64 k.site)).up && !(s.site (Fin.ofNat 64 k.site)).inReset && (fu.publishers.any (·.pubkey == k.pubkey)) && fu.minSvn k.pubkey k.pkgid ≤ k.svn

/-- The model with its entry number in the new swap set. -/
def ModelInfo.relisted (m : ModelInfo) (fu : Furnish) (p : Fin 32) : ModelInfo :=
  { m with entry := ((fu.swap.filter (·.part = p)).findIdx? (·.model == m.id)).getD m.entry, gone := false }

/-- The sums S_top and S_bot of the codes that a vat holds (R168). -/
def Vat.resum (v : Vat) (mem : SMap Byte) (key : Nat) : Vat :=
  let sum (i n : Nat) : List Int :=
    (List.range n).foldl (fun a j =>
      addList a (rowWeights v.mode (rowCodes v.mode (SMap.getList 0 mem (key * 0x8000 + 64 * (i + j)) 64))) (vatCols v.mode)) []
  { v with sTop := sum 0 256, sBot := sum 256 256 }

/-- Vats of kept models owe their acceptance tests, with the sums of the codes that the readback of R500 gives; every other is
EMPTY. -/
def keepVats (m : SMap Vat) (mem : SMap Byte) (keep : List Nat) : SMap Vat :=
  SMap.mapVals Vat.init (fun k v =>
    if keep.contains k then ({ v with testDue := true, testA := false, testFails := 0, tested := false, gone := false } : Vat).resum mem k
    else v.emptied) m

/-! ### Semaphores from the furnish (R260) -/

def SemRange.entry (r : SemRange) : Sem :=
  { value := r.init, seq := r.seq, owner := BitVec.ofNat 6 r.part.val, share := r.share, init := r.init, tag := 0, snap := r.init,
    mixed := false, step := none, ecc := .ok }

/-- Entries of the ranges that satisfy `q`. -/
def semsFrom (m : SMap Sem) (q : SemRange → Bool) (fu : Furnish) : SMap Sem :=
  (fu.ranges.filter q).foldl (fun m r => SMap.setRange Sem.unowned m (r.site.val * 1024 + r.first) r.count fun _ => SemRange.entry r) m

/-! ### Partitions -/

/-- The load of a partition at start: its START entries that are not resident wait for step 10 (R432), and the AUTO entries among
`stopped`, the models of loads that the reset has stopped, for the partition's opening (R498). -/
def startLoad (sw : List SwapEntry) (resident : List ModelInfo) (stopped : List (BitVec 16)) : Load :=
  let l := sw.zipIdx.filter fun e => !resident.any (·.id == e.1.model)
  { Load.init with
    queue := (l.filter (·.1.start)).map fun e => (e.2, [])
    later := (l.filter fun e => !e.1.start && e.1.auto && stopped.contains e.1.model).map fun e => (e.2, []) }

/-- The models of a partition's loads, the one that runs and those that wait. -/
def Load.models (l : Load) (sw : List SwapEntry) : List (BitVec 16) :=
  (l.stop sw).later.filterMap fun e => sw[e.1]?.map (·.model)

/-- A partition of the furnish at start-up; `old`: what WARM keeps of it (R495, R499).  Frames that contain an unusable loft row
(`dead`) are kept out of use as those of R460 are (R205); `stopped`: the models of the loads that it stops. -/
def bootPart (fu : Furnish) (f : FurnPart) (dead : List Nat) (oos : Bool) (old : Part) (same : Bool) (models : List ModelInfo)
    (therm : Bool) (stopped : List (BitVec 16)) : Part :=
  let total := fu.poolFrames f
  let kept := (old.kept ++ dead.filter fun n => !old.kept.contains n).filter (fu.inPool f)
  let base : Part := { Part.init with
    oos := oos, total := total, free := total - kept.length, used := kept.length, kept := kept, models := models, thermClosed := therm
    isExact := f.exact == .exact
    load := startLoad (Furnish.swapOf fu f.part) models stopped }
  if same then { base with narrow := old.narrow, exact := old.exact, loaded := old.loaded } else base

/-- The peer ports that are down train, but for those of dies held off (R571). -/
def peersTrain (off : BitVec 10) (m : SMap PlkPort) : SMap PlkPort :=
  SMap.modifyAll PlkPort.init (fun _ x => if x.state = 0 then { x with state := 1 } else x)
    ((List.range 8).filter fun n => !off.getLsbD (4 + n / 2)) m

/-- A drive that is gone, or whose die is off. -/
def StoPort.gone (x : StoPort) : StoPort := { x with present := false, speed := 0, width := 0, spaces := [] }

/-- A start that fails: no partition opens, no port announces (R489). -/
def State.halt (s : State) : State :=
  ({ s with sup := { s.sup with phase := 15 }, furnish := none, parts := [], slots := [] } : State).setDuty

/-! ### Steps 3 to 10 -/

/-- Site counters that WARM keeps: those of the loft (R218, R219). -/
def warmCtrs (m : SMap Word) : SMap Word :=
  m.filter fun e => e.1 % 32 == Ctr.loftUe.code || e.1 % 32 == Ctr.loftCe.code

/-- A tile after WARM or a SUPPLY reset: cleared, in its place, its cycle counter zero; what is kept since POR stays. -/
def Tile.cold (x : Tile) : Tile :=
  { Tile.init with
    mem := { TileMem.init with spareRows := x.mem.spareRows, onceBad := x.mem.onceBad }
    pl := { x.pl with lockstepUpset := false, ext := 0 } }

/-- Everything whose Reset column names WARM, whatever the start-up that follows finds (R494, R499, R613).  The values that the
furnish gives (R499) are zero until it does, as at POR (log entry 3). -/
def State.warmFields (s : State) : State :=
  { s with
    tiles := SMap.mapVals Tile.init (fun _ x => x.cold) s.tiles
    lanes := SMap.mapVals Lane.init (fun _ l => l.cold) s.lanes
    sites := SMap.mapVals Site.init (fun _ x => x.warmFields) s.sites
    ctrs := warmCtrs s.ctrs
    roots := [], loftQ := [], sems := [], waiters := [], deferred := []
    net := { Net.init with badRouters := s.net.badRouters, atStandby := s.net.atStandby }
    slots := [], sessions := [], handshakes := [], phw := [], plk := [], sto := []
    sup := { s.sup with
      fwB := false, furnB := false, bootTime := 0, cap := 0, capRefused := false, overcap := false, fanFloor := 0
      pause := 0, standby := false
      auditPages := 0, auditSlots := 0, auditTokens := 0, auditKind := 0, auditPart := 0 }
    ident := { s.ident with fwRun := 0, furnRun := 0, inUse := 0, building := false, signings := [] } }

/-! ### Authentication of the dies (R573, R576) -/

/-- The key pair that a die signs with, as the seed that it is derived from: a loft die's is derived and held by the base die above
it, which has read the seed. -/
def Ident.dieKey (d : Ident) (i : Nat) : Option Nat :=
  if 128 ≤ i ∧ i < 192 then
    match SMap.get 0 d.loftKeys (i - 128) with | 0 => none | n + 1 => some n
  else some (SMap.get i d.dieSeeds i)

/-- At power-up each base die reads the seed of the loft die below it. -/
def Ident.readLoft (d : Ident) : Ident :=
  { d with loftKeys := (List.range 64).map fun i => (i, SMap.get (128 + i) d.dieSeeds (128 + i) + 1) }

/-- A die whose key pair is not the one in the die manifest: its signature does not verify. -/
def Ident.dieForged (d : Ident) (i : Nat) : Bool := d.dieKey i != some (SMap.get i d.dieManifest i)

/-- What the start-up observes, with the dies that fail the check of R576: those whose signature is wrong or does not come, and those
that sign with another key. -/
def Ident.observe (d : Ident) (o : BootObs) : BootObs :=
  { o with
    diesFailed := o.diesFailed ++ (((List.range 202).filter fun i => d.dieForged i).map (BitVec.ofNat 8)).filter
      fun i => !o.diesFailed.contains i }

/-- The ring dies among the failing dies are held off. -/
def BootObs.ringOff (o : BootObs) : BitVec 10 :=
  o.diesFailed.foldl (fun a d => if 192 ≤ d.toNat then a ||| (1#10 <<< (d.toNat - 192)) else a) 0

/-- What the two images set: the supervisor's registers (R528, R537, R423), identity (R576, R582); the peer and storage dies that are not
held off. -/
def State.booted (s : State) (o : BootObs) (fwB : Bool) (fw : Firmware) (fuB : Bool) (fu : Furnish) : State :=
  { s with
    furnish := some fu
    plk := peersTrain (BootObs.ringOff o) s.plk
    sto := SMap.mapVals StoPort.init (fun n x => if (BootObs.ringOff o).getLsbD (8 + n / 2) then x.gone else x) s.sto
    sup := { s.sup with
      phase := 9, fwB := fwB, furnB := fuB, bootTime := 0, cap := BitVec.ofNat 16 fu.cap, capRefused := false
      fanFloor := BitVec.ofNat 8 (min 255 fu.fanFloor), pause := fu.pause, standby := false
      auditPages := 0, auditSlots := 0, auditTokens := 0, auditKind := 0, auditPart := 0, overcap := false }
    ident := { s.ident with
      fwRun := fw.svn, furnRun := fu.svn, inUse := BitVec.ofNat 2 fu.slot.val, building := false
      signings := []
      ringOff := BootObs.ringOff o
      dieFails := satAdd s.ident.dieFails o.diesFailed.length
      dieFirst := if s.ident.dieFails = 0 then o.diesFailed.headD s.ident.dieFirst else s.ident.dieFirst } }

def logicals : List Nat := List.range 8192

/-- The partitions that lose a logical tile. -/
def Furnish.losers (fu : Furnish) (l : List Nat) : List (Fin 32) := (l.filterMap fun n => Furnish.owner fu (n % 128) (n / 128)).dedup

/-- The records of the lanes that did not complete warm-up: their quarantine, and the tile that is treated as bad (R159, R172, R471). -/
def State.coldLog (s : State) (o : BootObs) : State :=
  ({ s with bbx := s.bbx.appendAll (o.coldLanes.map fun e => quarRecord s e.1 e.2) } : State).bringupLog
    (o.coldLanes.map fun e => e.1.key).dedup

/-- Steps 5 to 10 after a POR. -/
def State.coldStart (s : State) (o : BootObs) (fu : Furnish) : State :=
  let f := (s.flash.loftStart (o.loftRows.map fun e => (e.1.val, e.2))).vatStart s.fuses o.vatColumns
  let m := remapFrom (BootObs.unfit o s.flash) logicals s.map
  let lost := Furnish.losers fu m.2
  let cold := o.coldLanes.map fun e => laneKey e.1 e.2
  { s with
    flash := f
    sites := (List.range 64).foldl (fun a i => if BootObs.off o i then a else SMap.set Site.init a i (Site.powered f i (!s.sup.holdover) s.sup.counter)) []
    map := m.1
    tiles := placeTiles (allTileKeys.foldl (fun a k => SMap.set Tile.init a k (bootTile f s.fuses (BootObs.unfit o s.flash k) k)) [])
      m.1 fu logicals
    vats := f.restoreVats s.fuses []
    lanes := coldLanes [] (fun _ => true) (mappedKeys m.1) cold
    net := { s.net with badRouters := (o.routersFailed.map PTile.key).dedup }
    sems := semsFrom [] (fun _ => true) fu
    parts := fu.parts.foldl (fun a x => SMap.set Part.init a x.part.val (bootPart fu x f.deadFrames (lost.contains x.part) Part.init false [] false [])) []
    bbx := ((s.bringupLog (foundBad o.verdicts)).coldLog o).bbx.appendAll (lost.map fun p => s.sup.record evtRemapReach (some p) 0 0) }

/-- The loft of ranges that the new furnish grants to a different partition, or takes from the supervisor, is zeroed
(R593): the byte's new partition is not its old one. -/
def changedHands (old : Option Furnish) (fu : Furnish) (key : Nat) : Bool :=
  fu.grants.any fun g => g.site.val * 2 ^ 34 + g.base ≤ key && key < g.site.val * 2 ^ 34 + g.base + g.size &&
    !(match old with
      | none => false
      | some o => o.grants.any fun h => h.part == g.part && h.site.val * 2 ^ 34 + h.base ≤ key && key < h.site.val * 2 ^ 34 + h.base + h.size)

/-- Programs written again for the partitions that keep one, with the binding entries of their models.  One that does not pass
R322 and R329 under the furnish read again is refused (R438). -/
def State.reinstall (s : State) : List (Fin 32) → State
  | [] => s
  | p :: r =>
    let s1 := match (s.part p).loaded, (s.part p).program with
      | true, some g =>
        if s.programOk p g s.map then (s.writeProgram p g s.map).driveIdle p
        else s.programFail p { s.part p with loaded := false }
      | _, _ => s
    (s1.bindTiles p false (s1.part p).models).reinstall r

/-- Step 7 of a WARM tests a mapped tile whose replacement is due, and the verdicts of R471 find it good (R495). -/
def BootObs.clears (o : BootObs) (x : Tile) (k : Nat) : Bool :=
  x.pl.failed && !x.mem.spent [] && o.verdicts.any (·.2.1.key == k) && !(foundBad o.verdicts).contains k

/-- The tiles that step 7 and step 9 of a WARM find dead: those that failed before it and do not pass now, those that the repair log
declares bad, and those of quarantined lanes (R172, R198). -/
def State.warmDead (s : State) (o : BootObs) : List PTile :=
  ((mappedKeys s.map).filter fun k =>
    let x := SMap.get Tile.init s.tiles k
    s.isBad k || o.coldLanes.any (·.1.key == k) || (x.pl.failed && !BootObs.clears o x k)).map PTile.ofKey

/-- The tiles that step 7 of a WARM tests and finds bad (R471, R495). -/
def State.warmBad (s : State) (o : BootObs) : List Nat :=
  (mappedKeys s.map).filter fun k => (SMap.get Tile.init s.tiles k).pl.failed && !s.isBad k && (foundBad o.verdicts).contains k

/-- Steps 5 to 10 after a WARM: the spare map, the loft, the cache and the rings are kept (R495, R499, R500), but the
loft of a site whose supplies were lost, or that is held off.  A dead tile leaves the
map at its partition's reset.  The loft test and vat BIST (steps 6 and 8) run on sites whose supplies were lost. -/
def State.warmStart (s : State) (o : BootObs) (fu : Furnish) (old : Option Furnish) : State :=
  let was : State := { s with furnish := old }
  let keep (f : FurnPart) : List ModelInfo := ((s.part f.part).models.filter (was.keepsModel o fu f)).map (·.relisted fu f.part)
  let same (f : FurnPart) : Bool := match was.furnPart f.part with | none => false | some g => g.blocks == f.blocks
  let lostSites := (List.range 64).filter fun i => BootObs.off o i
  let therm (f : FurnPart) : Bool := allSites.any fun i => (s.site i).tstate == 2 && s.standsOn f.part i
  let cold := o.coldLanes.map fun e => laneKey e.1 e.2
  let keepKeys := fu.parts.flatMap fun f => (keep f).flatMap (·.vats)
  let lostSup (i : Fin 64) : Bool := !(s.site i).up || (s.site i).inReset
  let lostLoft (i : Nat) : Bool := lostSup (Fin.ofNat 64 i) || BootObs.off o i
  let f0 := s.flash.vatStart s.fuses (o.vatColumns.filter fun e => lostSup e.1.site)
  let fl : Flash := { f0 with
    loftPending := (f0.loftPending ++ (o.loftRows.filter fun e => lostSup e.1).map fun e => (e.1.val, e.2)).dedup }
  let s1 : State := { s with
    flash := fl
    sites := (List.range 64).foldl (fun a i => SMap.set Site.init a i
      (if lostSites.contains i then (SMap.get Site.init s.sites i).heldOff
       else (SMap.get Site.init s.sites i).warm fl i (!s.sup.holdover) s.sup.counter)) s.sites
    tiles := SMap.mapVals Tile.init (fun k x => if BootObs.clears o x k then { x with pl := { x.pl with failed := false } } else x)
      (placeTiles s.tiles s.map fu logicals)
    vats := fl.restoreVats s.fuses (keepVats s.vats s.vatMem keepKeys)
    vatMem := s.vatMem.filter fun e => keepKeys.contains (e.1 / 0x8000)
    lanes := coldLanes s.lanes (fun _ => true) (mappedKeys s.map) cold
    loft := s.loft.filter fun e => !changedHands old fu e.1 && !lostLoft (e.1 / 2 ^ 34)
    loftEcc := s.loftEcc.filter fun e => !changedHands old fu (64 * e.1) && !lostLoft (e.1 / 2 ^ 28)
    cache := ⟨s.cache.packages.filter fun k => !lostLoft k.site⟩
    sems := semsFrom [] (fun _ => true) fu
    net := { s.net with badRouters := (s.net.badRouters ++ o.routersFailed.map PTile.key).dedup }
    parts := fu.parts.foldl (fun a f => SMap.set Part.init a f.part.val
      (bootPart fu f fl.deadFrames
        (f.tiles.any fun cr => !named s.map cr.1 cr.2 || BootObs.off o ((physOf s.map cr.1 cr.2).site.val)) (s.part f.part) (same f) (keep f)
        (therm f) ((s.part f.part).load.models (was.swapOf f.part)))) [] }
  (s.warmDead o).foldl (fun s t => s.failTile t) (((s1.reinstall (fu.parts.map (·.part))).bringupLog (s.warmBad o)).coldLog o)

/-- The active supervisor with the dies `off` held off (R576): the standby where the primary's die is; none where no supervisor is
left. -/
def supervisor (standby : Bool) (off : BitVec 10) : Option Bool :=
  if (standby || off.getLsbD 0) && off.getLsbD 1 then none else some (standby || off.getLsbD 0)

/-- Start-up from step 3: both images, then the rest; R489 on failure. -/
def State.boot (s : State) (o : BootObs) (warm : Bool) : State :=
  if !o.flashOk then s.halt
  else match pickCopy s.firmwareOk s.flash.fwA s.flash.fwB, pickCopy s.furnishOk s.flash.furnA s.flash.furnB with
    | some (fwB, fw), some (fuB, fu) =>
      let s0 : State := { s with ident := s.ident.readLoft }
      let o1 := s0.ident.observe o
      match supervisor s0.sup.standbyActive (BootObs.ringOff o1) with
      | none => s.halt
      | some b =>
        let s1 := s0.booted o1 fwB fw fuB fu
        let s2 : State := { s1 with sup := { s1.sup with standbyActive := b }, net := { s1.net with atStandby := b } }
        (if warm then s2.warmStart o1 fu s.furnish else s2.coldStart o1 fu).shareDies.settleStart.setDuty
    | _, _ => s.halt

/-- Steps 1 and 2, from the moment that PWR_GOOD rises: the primary boots, else the standby; if both fail the device stays dark.  At every
start the LMS state is read (R586). -/
def State.startUp (s : State) (o : BootObs) : State :=
  if o.supPFail && o.supSFail then ({ s with ident := s.ident.readLms s.flash } : State).halt
  else
    ({ s with
      ident := s.ident.readLms s.flash
      sup := { s.sup with standbyActive := o.supPFail, bootFrom := s.sup.counter }
      net := { s.net with atStandby := o.supPFail } } : State).boot o false

/-- Start-up runs after a POR, in step 1, unless THERM_TRIP_N is asserted (R535). -/
def execStartUp (obs : BootObs) (s : State) : Out := .next (if s.sup.phase = 1 && !s.sup.trip then s.startUp obs else s)

/-! ### POR and WARM (R494, R495, R499) -/

/-- R499, column POR: fuses, keys, the repair log with the spare map it holds, and the flash images stay.  An image being
flushed is invalid already (R603). -/
def State.afterPor (s : State) : State :=
  { State.reset with
    pending := s.pending
    map := s.map
    flash := s.flash
    fuses := s.fuses
    bbx := Bbx.init s.bbx.images
    sup := { Sup.init with
      refOk := s.sup.refOk, refSel := if s.sup.refOk.getD 0 false then 0 else 1, holdover := s.sup.refOk.all (!·) }
    ident := { s.ident with
      building := false, signings := [], fwRun := 0, furnRun := 0, inUse := 0, dieFails := 0, dieFirst := 0xFF, loftKeys := []
      ringOff := 0 }
    nonce := s.nonce }

def execPor (s : State) : Out := .next s.afterPor

/-- RESET_N held low requests a WARM. -/
def execResetNLow (s : State) : Out := .next { s with sup := s.sup.requestWarm 2 }

/-- A WARM that is due starts when no flush runs, or 3 s after its request (R498), and with a reference input that has passed its
monitor (R464). -/
def State.warmReady (s : State) : Bool :=
  s.sup.warmDue.isSome && !s.sup.trip && !s.sup.holdover &&
    ((!s.bbx.flushing && !s.bbx.freezeDue) || 300000000 ≤ s.sup.counter.toNat - s.sup.warmAt.toNat)

/-- R495: slots end with FAULT 0x01, sessions end, what WARM resets is reset, start-up repeats from
step 3.  A halted device stays halted: its images are verified at a POR and no earlier (R489). -/
def State.warm (s : State) (o : BootObs) : State :=
  let v := s.endServ allParts 5 1
  let s0 := s.warmFields
  let s1 : State := { s0 with
    loft := s.unmapped allParts
    ident := s0.ident.readLms s.flash
    parts := SMap.mapVals Part.init (fun p x => x.releaseAll ((v.slots.filter fun e => e.1 / 128 == p).map (·.2))) s.parts
    sup := { s0.sup with
      phase := 3, rstKind := 1, rstSource := s.sup.warmDue.getD 0, warms := satAdd s.sup.warms 1, warmDue := none
      bootFrom := s.sup.counter, supplyDue := false } }
  if s.sup.phase = 15 then s1.halt else s1.boot o true

def execWarmReset (obs : BootObs) (s : State) : Out := .next (if s.warmReady then s.warm obs else s)

/-! ### SUPPLY resets (R496, R498, R499, R519, R613) -/

/-- A key of a tile, or of something numbered by tiles `n` to each, belongs to the site. -/
def onSite (site : Fin 64) (n key : Nat) : Bool := key / n / 256 == site.val

/-- The models that lose a vat on the site. -/
def Part.losing (x : Part) (site : Fin 64) : List ModelInfo := x.models.filter fun m => m.vats.any (onSite site 96)

/-- The partition at the site's reset (R499): tree discarded, adapter slots FREE, a PARTITION reset due with the
neighbour tests of start-up step 7 (R496); the models that lose slices are resident no more until they are written again (R450). -/
def Part.siteReset (x : Part) (site : Fin 64) : Part :=
  let y := (({ x with retest := true, models := x.models.map fun m => { m with gone := m.gone || (x.losing site).contains m } } : Part).dropNodes
    fun _ => true).reset'
  ({ y with adapters := [], job := none } : Part).startAllPending

/-- A vat at the site's reset: its codes are lost.  One that holds a slice is to be written again from the package cache or the sources
of the swap set, and its partition opens no earlier (R496). -/
def Vat.lost (x : Vat) : Vat := if x.part.isSome then { Vat.taking x x with gone := true } else x.emptied

/-- The site in its reset: off until recovery; what the reset column names is cleared. -/
def Site.supplyReset (x : Site) : Site :=
  { x with
    up := false, arith := false, inReset := true, window := none, windowLong := false, selfref := false
    dbl := false, dom := 0, scrub := 0, scrubAt := [], seqSel := 0, vsel := 0, semSel := 0, waitHigh := 0, auditLast := 0, govHold := 0
    warmBin := 0, warmSet := [] }

/-- A link with an end on the site. -/
def linkAt (site : Fin 64) (key : Nat) : Bool :=
  let r := linkRouter key
  let b := beyond r.col r.row (linkPort key)
  r.site == site || (tileAt b.1 b.2).site == site

/-- R496 for one site, from the loss of its contents to a PARTITION reset due on every partition touching it.  The sums that
audit the store (R273) stand until the owner's PARTITION reset: DESIGN CHOICE, log entry 75. -/
def State.siteReset (s0 : State) (site : Fin 64) : State :=
  let ps := s0.affected site
  let s := ps.foldl State.stopLoad s0
  let v := s.endServ ps 7 0
  { s with
    slots := v.slots, sessions := v.sessions, phw := v.phw
    sites := SMap.set Site.init s.sites site.val (s.site site).supplyReset
    tiles := SMap.mapVals Tile.init (fun k x => if onSite site 1 k then x.cold else x) s.tiles
    lanes := coldLanes s.lanes (onSite site 2) ((mappedKeys s.map).filter (onSite site 1)) []
    vats := SMap.mapVals Vat.init (fun k x => if onSite site 96 k then x.lost else x) s.vats
    vatMem := s.vatMem.filter fun e => !onSite site (96 * 0x8000) e.1
    ctrs := s.ctrs.filter fun e => e.1 / 32 ≠ site.val
    loft := s.loft.filter fun e => e.1 / 2 ^ 34 ≠ site.val
    loftEcc := s.loftEcc.filter fun e => e.1 / 2 ^ 28 ≠ site.val
    loftQ := s.loftQ.filter fun e => e.1 ≠ site.val
    loftHits := passesAgain s.loftHits site
    cache := ⟨s.cache.packages.filter fun k => k.site != site.val⟩
    sems := match s.furnish with
      | none => s.sems
      | some fu => semsFrom (s.sems.filter fun e => e.1 / 1024 ≠ site.val) (fun r => r.site == site) fu
    waiters := s.waiters.filter fun w => w.site != site
    deferred := s.deferred.filter fun d => d.site != site
    net := { s.net with
      flits := s.net.flits.filter fun f => (tileAt f.col f.row).site != site
      links := s.net.links.filter fun e => !linkAt site e.1
      trees := s.net.trees.filter fun e => !onSite site 256 e.1
      press := s.net.press.filter fun x => !onSite site 1 x.router }
    parts := mapParts s.parts ps fun _ x => x.siteReset site }

/-- A site that holds power; a reset that is under way absorbs another, as a POR or a WARM does whose start-up runs (R498). -/
def execSiteSupplyReset (site : Fin 64) (s : State) : Out :=
  .next (if (s.site site).up && !s.sup.starting then s.siteReset site else s)

/-- Each site is reset.  One that is held off is so afterwards: it holds nothing but its registers (R613). -/
def State.sitesReset (s : State) : List (Fin 64) → State
  | [] => s
  | i :: r =>
    (if (s.site i).up || (s.site i).inReset then s.siteReset i
      else { s.setSite i { (s.site i).supplyReset with inReset := false } with ctrs := s.ctrs.filter fun e => e.1 / 32 ≠ i.val }).sitesReset r

/-- Every site as by a site SUPPLY reset; the supervisor, the port dies and the sessions continue. -/
def State.deviceReset (s : State) : State :=
  let s1 := s.sitesReset allSites
  { s1 with sup := { s1.sup with rstKind := 2, devrst := satAdd s1.sup.devrst 1, supplyDue := false, devRuns := true } }

/-- A device SUPPLY reset waits for the freeze and the flush of R462; one that is under way, until its sites are up again, absorbs another,
as a POR or a WARM does whose start-up runs (R498). -/
def execDeviceSupplyReset (s : State) : Out :=
  .next (if !s.bbx.flushing && !s.bbx.freezeDue && !s.sup.trip && !s.sup.starting && !s.sup.devRuns &&
      (s.sup.supplyDue || allSites.any fun i => (s.site i).up) then s.deviceReset
    else s)

end Sys2Proof.Machine
end

