-- ==== Sys2Proof/Machine/Power.lean ====
section
/-! DEFINITION. Supply events, the governor, temperatures, fan demand and the low-power states (R335, R504–R509,
R515–R537). -/

namespace Sys2Proof.Machine

/-! ### Supply-warning windows (R520–R523) -/

def domBit : Domain → BitVec 3
  | .vlg => 1 | .var => 2 | .vmi => 4

/-- An affected partition whose couch has spent its replay in the step under way (R522). -/
def Part.spent (x : Part) : Bool := x.open_ && !x.resetDue && !x.couch.gap && x.couch.replayed

/-- The flag is raised: a product that runs on the tile is marked, whenever it completes (R130). -/
def Tile.windowOpens (x : Tile) : Tile :=
  { x with lq := x.lq.map fun q => if q.st = .issued ∧ q.op = .leval then { q with win := true } else q }

/-- The site's clocks stretch, its window opens, and its notice goes to the supervisor, which records the event for every affected
partition when it comes (`State.concerns`). -/
def State.openWindow (s : State) (site : Fin 64) (d : Domain) : State :=
  let x := s.site site
  let long := (s.affected site).any fun p => (s.part p).spent
  let y : Site := { x with
    window := some s.sup.counter, dom := x.dom ||| domBit d, windowLong := long
    long := if long then satAdd x.long 1 else x.long }
  { s with
    sites := SMap.set Site.init s.sites site.val y
    tiles := SMap.mapVals Tile.init (fun k x => if onSite site 1 k then x.windowOpens else x) s.tiles
    net := s.net.send [mkFlit 0 (storeAt site) s.net.supAt none 0 (.notice (supplyNotice (some site)))] }

def execSupplyWarningWindowOpen (site : Fin 64) (d : Domain) (s : State) : Out :=
  let x := s.site site
  .next (if !x.up || x.inReset then s
    else if x.window.isSome then s.setSite site { x with dom := x.dom ||| domBit d }
    else s.openWindow site d)

/-- The greatest stage budget of the installed program, multiplied by G in governed power, in 64ths of a cycle. -/
def State.greatestBudget (s : State) (p : Fin 32) : Nat :=
  match (s.part p).program, s.furnPart p with
  | some g, some f => g.stages.foldl (fun a x => max a x.budget) 0 * FurnPart.g f
  | _, _ => 0

/-- The window cannot be replayed for `p`: open beyond 1.0 µs, or past the greatest budget since the first tile's STAGE of
the replayed stage, in time: 25 arith cycles of nominal length in 10 ns. -/
def State.windowTooLong (s : State) (site : Fin 64) (p : Fin 32) : Bool :=
  match (s.site site).window with
  | none => false
  | some t =>
    100 < s.sup.counter.toNat - t.toNat ||
      match s.replayStage p with
      | none => false
      | some r => (s.stopped p r).any fun k =>
          s.greatestBudget p < 64 * 25 * (s.sup.counter.toNat - (SMap.get Tile.init s.tiles k).clk.began.toNat)

/-- The window is recorded as an event of the partition's step, and can no longer be replayed. -/
def State.windowEnds (s : State) (site : Fin 64) (p : Fin 32) : Bool :=
  let x := s.part p
  s.windowTooLong site p && (s.affected site).contains p && x.couch.replayDue && x.couch.supplyEvent && x.open_ && !x.resetDue

/-- A window that ends slots counts once. -/
def Site.tooLong (x : Site) : Site := { x with windowLong := true, long := if x.windowLong then x.long else satAdd x.long 1 }

def execSupplyWindowLong (site : Fin 64) (p : Fin 32) (s : State) : Out :=
  .next (if s.windowEnds site p then (s.setSite site (s.site site).tooLong).endStep p 7 0 else s)

def State.endSteps (s : State) : List (Fin 32) → State
  | [] => s
  | p :: r => (s.endStep p 7 0).endSteps r

/-- The window closes 100 ns after recovery; it counts as one that closed without reset.  The partitions for which it closes too late end
their slots (R522). -/
def execSupplyWindowClose (site : Fin 64) (s : State) : Out :=
  let x := s.site site
  let ps := allParts.filter (s.windowEnds site)
  .next (if x.window.isSome && !x.inReset then
      let y := if ps.isEmpty then x else x.tooLong
      (s.setSite site { y with window := none, windowLong := false, dom := 0, warn := satAdd x.warn 1 }).endSteps ps
    else s)

/-! ### SUPPLY resets (R524, R525) -/

/-- A sensor below its reset level: the record, the count, the site's reset due, SUPPLY to the affected partitions.  A start-up that runs
absorbs the reset (R498). -/
def execSupplyResetLevel (site : Fin 64) (d : Domain) (s : State) : Out :=
  let x := s.site site
  .next (if x.up && !x.inReset && !s.sup.starting then
      let s1 : State := { s with
        sites := SMap.set Site.init s.sites site.val { x with inReset := true, dom := x.dom ||| domBit d, resets := satAdd x.resets 1 }
        bbx := s.bbx.append (s.sup.recordOf evtSupplyReset site.val 0xFF 10 none) }
      s1.judgeAll ⟨.supplyEnd, 0, evtSupplyReset, none, none, none⟩ (s.affected site)
    else s)

/-- The site's domains have recovered: it is re-initialised from start-up step 5, unless its reset has not run yet; `clk`: a
reference passes, from which the PLLs run (R464). -/
def Site.recovered (x : Site) (clk : Bool) (now : BitVec 64) : Site :=
  if x.inReset && !x.up then
    { x with
      up := true, arith := clk && x.tstate != 2 && !x.sleep, inReset := false, dom := 0, selfref := x.tstate == 2 || x.sleep, ts := now
      warmFrom := now }
  else x

/-- Start-up steps 6 and 8 on a site that comes up again: the rows that fail the loft test are pending in the repair log, the columns
that fail vat BIST go to spares, and a slice whose vat is bad goes to another (R133, R205, R496). -/
def State.siteTests (s : State) (o : SiteObs) : State :=
  let f := s.flash.vatStart s.fuses (o.vatColumns.filter fun e => e.1.site = o.site)
  let s1 : State := { s with
    flash := { f with loftPending := (f.loftPending ++ o.loftRows.map fun r => (o.site.val, r)).dedup }
    vats := f.restoreVats s.fuses s.vats }
  (f.badVats.filter fun k => !s.flash.badVats.contains k && (s.vat k).part.isSome).foldl State.moveBad s1

/-- A device SUPPLY reset is over once no site waits to come up. -/
def State.devDone (s : State) : State :=
  if allSites.any fun i => (s.site i).inReset then s else { s with sup := { s.sup with devRuns := false } }

def execSiteSupplyRecovered (o : SiteObs) (s : State) : Out :=
  let x := s.site o.site
  .next (if s.sup.trip || s.sup.vinLow || !x.inReset || x.up then s
    else ((s.setSite o.site ((x.recovered (!s.sup.holdover) s.sup.counter).loftStatus s.flash o.site.val)).siteTests o).devDone)

/-- The 48 V input below 38.0 V: R462 with the status SUPPLY; a device SUPPLY reset follows.  A start-up that runs, or a device SUPPLY reset,
absorbs the reset (R498). -/
def execInput48vLow (s : State) : Out :=
  .next (if s.sup.vinLow then s
    else if s.sup.starting then { s with sup := { s.sup with vinLow := true } }
    else ({ s with sup := { s.sup with vinLow := true, supplyDue := !s.sup.devRuns } } : State).fatal evtSupplyDevice 0 7 0)

/-- A site whose reset has run comes up with its loft status. -/
def Site.restored (x : Site) (f : Flash) (i : Nat) (clk : Bool) (now : BitVec 64) : Site :=
  if x.inReset && !x.up then (x.recovered clk now).loftStatus f i else x

/-- The input has held above 40.0 V: the sites are re-initialised, with what steps 6 and 8 find on them (R496). -/
def execInput48vRestored (obs : List SiteObs) (s : State) : Out :=
  .next (if !s.sup.vinLow || s.sup.trip then s
    else
      let s1 : State := { s with
        sup := { s.sup with vinLow := false }
        sites := SMap.mapVals Site.init (fun i x => x.restored s.flash i (!s.sup.holdover) s.sup.counter) s.sites }
      ((obs.filter fun o => (s.site o.site).inReset && !(s.site o.site).up).foldl State.siteTests s1).devDone)

/-! ### Input power and the governor (R335, R529) -/

/-- A window's verdict for a site: above its part of the share, the tiles of governed partitions are held for `held` cycles
at their next STAGE boundaries. -/
def execGovernorWindow (site : Fin 64) (above : Bool) (held : Nat) (s : State) : Out :=
  .next (if (s.site site).up then s.setSite site { s.site site with govHold := if above then held else 0 } else s)

/-- The mean input power has exceeded the cap for 1 ms. -/
def execOvercap (pin : BitVec 16) (s : State) : Out :=
  .next (if s.sup.cap < pin then { s with sup := { s.sup with overcap := true } } else s)

/-- R528: the cap in units of 10 W is accepted, or refused with REFUSED set. -/
def capAccepted (fu : Option Furnish) (v : Nat) : Bool :=
  800 ≤ v && v ≤ 2000 && match fu with | none => true | some f => Furnish.power f ≤ 10 * v

/-- A write of PWR_CAP: bit 31 clears REFUSED; CAP is taken from bits [15:0] (R539).  A write that is refused and has bit 31 set
leaves REFUSED at 1: R3 clears it, R528 sets it, and the order is the model's choice (log entry 69). -/
def Sup.writeCap (u : Sup) (fu : Option Furnish) (v : Word) : Sup :=
  let c := v.toNat % 65536
  let ok := capAccepted fu c
  { u with
    cap := if ok then BitVec.ofNat 16 c else u.cap
    capRefused := if ok then u.capRefused && !v.getLsbD 31 else true }

def execPwrCapWrite (v : Word) (s : State) : Out := .next { s with sup := s.sup.writeCap s.furnish v }

/-! ### Temperatures (R530–R535), in units of 0.125 °C -/

/-- Twice the median of a die's sensors. -/
def median2 (l : List Int) : Int :=
  let m := l.insertionSort fun a b => a ≤ b
  m.getD ((m.length - 1) / 2) 0 + m.getD (m.length / 2) 0

/-- A sensor is valid: from −40 °C to 150 °C, and within 20 °C of the median. -/
def sensorOk (med : Int) (v : Int) : Bool := -320 ≤ v && v ≤ 1200 && -320 ≤ 2 * v - med && 2 * v - med ≤ 320

/-- One die's sample: which sensors are excluded, and the hottest valid one. -/
structure DieTemp where
  excl : List Bool
  hot : Option Int
  enough : Bool
deriving DecidableEq, Repr

def dieTemp (n : Nat) (l : List Int) : DieTemp :=
  let a := l.take n
  let med := median2 a
  let ok := a.filter (sensorOk med)
  { excl := a.map fun v => !sensorOk med v
    hot := ok.foldl (fun m v => match m with | none => some v | some w => some (max v w)) none
    enough := n ≤ 2 * ok.length }

/-- Bits of a list, the first the least. -/
def bitsOf : List Bool → Nat
  | [] => 0
  | b :: r => (if b then 1 else 0) + 2 * bitsOf r

/-- Some die of the site is at or above its threshold: compute and base, loft. -/
def anyHot (c b l : DieTemp) (x y : Int) : Bool :=
  let at_ (d : DieTemp) (z : Int) : Bool := match d.hot with | none => false | some v => z ≤ v
  at_ c x || at_ b x || at_ l y

/-- The three readings of a site. -/
structure Temps where
  c : DieTemp
  b : DieTemp
  l : DieTemp
deriving DecidableEq, Repr

def tempsOf (x : ThermSample) : Temps := ⟨dieTemp 16 x.compute, dieTemp 8 x.base, dieTemp 4 x.loft⟩

def Temps.over (t : Temps) (x y : Int) : Bool := anyHot t.c t.b t.l x y

/-- The site is to go off: a die at its site-off threshold, or with fewer than half its sensors valid. -/
def Temps.off (t : Temps) : Bool := t.over 880 800 || !t.c.enough || !t.b.enough || !t.l.enough

def Temps.trip (t : Temps) : Bool := t.over 920 840

def reading (d : DieTemp) (old : BitVec 12) : BitVec 12 := match d.hot with | none => old | some v => BitVec.ofInt 12 v

/-- The registers that a sample sets, the latch of full fan demand, the refresh rate (R202), the run below the clearing
temperatures. -/
def Site.sampled (x : Site) (t : Temps) (now : BitVec 64) : Site :=
  let cool := if x.tstate == 1 then !t.over 800 720 else !t.over 760 680
  { x with
    excl := BitVec.ofNat 28 (bitsOf (t.c.excl ++ t.b.excl ++ t.l.excl))
    tcmp := reading t.c x.tcmp, tbase := reading t.b x.tbase, tloft := reading t.l x.tloft
    dbl := match t.l.hot with | none => x.dbl | some v => if 680 < v then true else if v ≤ 664 then false else x.dbl
    fanFull := t.over 760 680 || (x.fanFull && t.over 744 664)
    coolSince := if cool then (match x.coolSince with | none => some now | some a => some a) else none }

/-- Entry into throttle (R532). -/
def Site.throttled (x : Site) : Site := { x with tstate := 1, throt := satAdd x.throt 1, coolSince := none }

/-- Entry into site-off: the arith and vat domains stop, the loft refreshes itself (R533). -/
def Site.gated (x : Site) : Site :=
  { x with tstate := 2, offs := satAdd x.offs 1, arith := false, selfref := true, coolSince := none }

/-- A partition closed by a site-off: its reset is due, and it stays closed. -/
def Part.thermClose (x : Part) : Part := { x.reset' with open_ := false, thermClosed := true }

/-- R533 for a site. -/
def State.siteOff (s : State) (site : Fin 64) : State :=
  let ps := s.standing site
  let s1 : State := { s with
    sites := SMap.set Site.init s.sites site.val (s.site site).gated
    bbx := s.bbx.append (s.sup.recordOf evtSiteOff site.val 0xFF 10 none) }
  let s2 := (s1.judgeAll ⟨.thermalEnd, 0, evtSiteOff, none, none, none⟩ ps).stopVats site
  { s2 with parts := mapParts s2.parts ps fun _ x => x.thermClose }

/-- R535: the supplies go off once the rings are frozen, at once if they are (R462). -/
def State.thermTrip (s : State) : State :=
  if s.sup.tripDue || s.sup.trip then s
  else
    let s1 := s.fatal evtThermTrip 0 6 0
    if s1.bbx.frozen then s1.switchOff else { s1 with sup := { s1.sup with tripDue := true } }

/-- A sample of a site's sensors. -/
def State.thermal (s : State) (site : Fin 64) (t : Temps) : State :=
  let s1 := s.setSite site ((s.site site).sampled t s.sup.counter)
  let x := s1.site site
  (if t.trip then s1.thermTrip
    else if t.off then (if x.tstate == 2 || x.inReset then s1 else s1.siteOff site)
    else if t.over 840 760 && x.tstate == 0 then s1.setSite site x.throttled
    else s1).setDuty

def execThermalSample (site : Fin 64) (x : ThermSample) (s : State) : Out :=
  .next (if (s.site site).up || (s.site site).inReset then s.thermal site (tempsOf x) else s)

/-- The run below the clearing temperatures has lasted `n` units of 10 ns. -/
def Site.coolFor (x : Site) (now : BitVec 64) (n : Nat) : Bool :=
  match x.coolSince with | none => false | some t => n ≤ now.toNat - t.toNat

def execThrottleClear (site : Fin 64) (s : State) : Out :=
  let x := s.site site
  .next (if x.tstate == 1 && x.coolFor s.sup.counter 10000000 then s.setSite site { x with tstate := 0, coolSince := none } else s)

/-! ### Waking sites (R173, R508, R534) -/

/-- A site wakes: PLLs, where a reference passes (R464), loft, warm-up for its barred bins to come. -/
def Site.woken (x : Site) (clk : Bool) (now : BitVec 64) : Site :=
  { x with arith := clk && x.up, selfref := false, sleep := false, ts := now, warmFrom := now }

/-- A site that sleeps is woken; one that is off for heat stays off until it has cooled (R534). -/
def Site.roused (x : Site) (clk : Bool) (now : BitVec 64) : Site :=
  if x.tstate == 2 then { x with sleep := false } else x.woken clk now

/-- A site leaves site-off. -/
def Site.cooled (x : Site) (clk : Bool) (now : BitVec 64) : Site := { x.woken clk now with tstate := 0, coolSince := none }

/-- A lane with a barred bin warms up before its partition opens (R173). -/
def Lane.owesWarm (l : Lane) : Lane :=
  { l with rewarm := l.rewarm || (!l.quar && (List.range 4).any fun b => (SMap.get Bin.init l.bins b).barred) }

/-- The keys of mapped tiles on the sites. -/
def State.mappedOn (s : State) (q : Nat → Bool) : List Nat := (mappedKeys s.map).filter fun k => q (k / 256)

/-- Sites wake, each as `f` says. -/
def State.wakeSites (s : State) (f : Site → Bool → BitVec 64 → Site) (is : List Nat) : State :=
  { s with
    sites := SMap.modifyAll Site.init (fun _ x => f x (!s.sup.holdover) s.sup.counter) is s.sites
    lanes := SMap.modifyAll Lane.init (fun _ l => l.owesWarm) (laneKeys (s.mappedOn is.contains)) s.lanes }

/-- The site leaves site-off; each partition that no other site holds closed takes its PARTITION reset and reopens. -/
def State.siteOn (s : State) (site : Fin 64) : State :=
  let s1 := s.wakeSites Site.cooled [site.val]
  let ps := (s1.standing site).filter fun p => allSites.all fun i => !(s1.site i).tstate == 2 || !s1.standsOn p i
  { s1 with parts := mapParts s1.parts ps fun _ x => if x.thermClosed then { x with thermClosed := false, resetDue := true, retest := true } else x }

def execSiteOffClear (site : Fin 64) (s : State) : Out :=
  let x := s.site site
  .next (if x.tstate == 2 && x.coolFor s.sup.counter 100000000 then s.siteOn site else s)

/-! ### Doze, site sleep, standby (R504–R509) -/

def execDoze (session : Nat) (p : Fin 32) (s : State) : Out :=
  .next (s.mgmt session (·.management) fun s1 => (s1.setPart p { s1.part p with doze := true }).answer session rDone)

/-- Sleeping sites of the partitions. -/
def State.sleepingOf (s : State) (ps : List (Fin 32)) : List Nat :=
  (List.range 64).filter fun i => (s.site (Fin.ofNat 64 i)).sleep && ps.any fun p => (s.sitesOf p).contains i

/-- What the wake of a partition sets; `slept`: a site of it slept.  One whose sites slept reopens through a PARTITION reset, one that a
site-off holds closed when that site has cooled, and each dozes until then (R504, R508, R534). -/
def Part.wakes (x : Part) (slept : Bool) : Part :=
  if x.oos || (!slept && (x.thermClosed || x.open_)) then { x with doze := false }
  else { x with resetDue := x.resetDue || !x.thermClosed, waking := true, retest := true }

/-- The partitions wake. -/
def State.wakeParts (s : State) (ps : List (Fin 32)) : State :=
  let s1 := s.wakeSites Site.roused (s.sleepingOf ps)
  { s1 with parts := mapParts s1.parts ps fun p x => x.wakes (!(s.sleepingOf [p]).isEmpty) }

/-- A wake message for one partition; in standby it ends standby and wakes every partition and unassigned site. -/
def State.wake (s : State) (p : Fin 32) : State :=
  if s.sup.standby then
    let s1 := s.wakeParts s.furnished
    ({ s1 with sup := { s1.sup with standby := false }, plk := peersTrain s1.ident.ringOff s1.plk } : State).wakeSites Site.roused
      ((List.range 64).filter fun i => (s1.site (Fin.ofNat 64 i)).sleep)
  else s.wakeParts [p]

def execWake (session : Nat) (p : Fin 32) (s : State) : Out :=
  .next (s.mgmt session (·.management) fun s1 => (s1.wake p).answer session rDone)

/-- In standby, with every site asleep, the peer-link and storage dies go off (R509). -/
def State.peersOff (s : State) : State :=
  if s.diesOff then
    { s with
      plk := SMap.mapVals PlkPort.init (fun _ x => { x with state := 0, partner := 0 }) s.plk
      sto := SMap.mapVals StoPort.init (fun _ x => x.gone) s.sto
      ident := { s.ident with signings := s.ident.signings.filter fun g => match g with | .peer .. => false | _ => true } }
  else s

/-- A standby message dozes every partition; the sites sleep as their slots become FREE. -/
def State.standby (s : State) : State :=
  ({ s with
    sup := { s.sup with standby := true }
    parts := mapParts s.parts s.furnished fun _ x => { x with doze := true, waking := false } } : State).peersOff

def execStandby (session : Nat) (s : State) : Out :=
  .next (s.mgmt session (·.management) fun s1 => s1.standby.answer session rDone)

/-- A load of the partition writes vats on the site. -/
def Part.writesOn (x : Part) (site : Fin 64) : Bool :=
  5 ≤ x.load.state.toNat && x.load.state != 8 && x.load.vats.any (onSite site 96)

/-- The conditions of R506. -/
def State.maySleep (s : State) (site : Fin 64) : Bool :=
  let x := s.site site
  x.up && !x.sleep && !x.inReset && x.tstate != 2 &&
    (s.partsOn site).all (fun p => (s.part p).doze && !(s.part p).waking && s.allFree p && !(s.part p).writesOn site) &&
    match s.furnish with
    | none => false
    | some fu =>
      (fu.sleepUnassigned || s.sup.standby || (fu.parts.map fun f => (f.blocks.filter fun b => b.1 / 2 + 8 * b.2 == site.val).length).sum == 2) &&
        fu.parts.all fun f => f.supSite != site || ((s.part f.part).doze && !(s.part f.part).waking)

/-- Every scratchpad bank of the tile is OFF (R189). -/
def Tile.asleep (x : Tile) : Tile :=
  { x with mem := { x.mem with
      banks := (List.range 16).map fun b => (b, (⟨.off, none⟩ : Bank))
      scr := [], scrEcc := [] } }

/-- The site sleeps: its vat domain stops (R155), its scratchpads are OFF, its partitions are closed until they wake. -/
def State.sleepSite (s0 : State) (site : Fin 64) : State :=
  let s := s0.stopVats site
  ({ s with
    sites := SMap.set Site.init s.sites site.val { s.site site with sleep := true, arith := false, selfref := true }
    tiles := SMap.modifyAll Tile.init (fun _ x => x.asleep) ((List.range 144).map fun j => site.val * 256 + j) s.tiles
    parts := mapParts s.parts (s.partsOn site) fun _ x => { x with open_ := false } } : State).peersOff

def execSiteSleepEntry (site : Fin 64) (s : State) : Out := .next (if s.maySleep site then s.sleepSite site else s)

end Sys2Proof.Machine
end

