-- ==== Sys2Proof/Machine/Identity.lean ====
section
/-! DEFINITION. Identity: the device LMS key and the signings that wait for it (R584–R588), attestation (R589–R591),
the owner slots (R580, R581), the rollback counters (R582, R583), adapter export (R449). -/

namespace Sys2Proof.Machine

/-! ### The LMS key -/

/-- R588: every leaf is used or skipped. -/
def Ident.exhausted (d : Ident) : Bool := 2 ^ 40 ≤ d.lmsNext

/-- The next leaf is reserved, and its bottom-level tree is built (R585, R587). -/
def Ident.canSign (d : Ident) : Bool := d.lmsNext < d.lmsLimit && d.lmsNext / 2 ^ 20 < d.lmsTrees && !d.exhausted

/-- The items of a report for one partition: models, programs, CURRENT and OLD adapter slots (R590). -/
def attestItems (p : Fin 32) (x : Part) : List (Nat × Nat × Nat × Nat × Nat) :=
  x.models.map (fun m => (1, p.val, m.id.toNat, m.svn, m.digest)) ++
  (x.narrow.toList.filter fun _ => x.loaded).map (fun g => (2, p.val, 0, g.pkg.svn, g.pkg.digest)) ++
  (x.exact.toList.filter fun _ => x.loaded).map (fun g => (2, p.val, 1, g.pkg.svn, g.pkg.digest)) ++
  (x.adapters.filter fun e => e.2.st == .current || e.2.st == .old).map fun e => (3, p.val, e.1, e.2.version, e.2.digest)

/-- The report with leaf `leaf`, captured at one instant (R589, R590). -/
def State.attestReport (s : State) (nonce : BitVec 256) (parts : Word) (leaf : Nat) : AttestReport :=
  { nonce := nonce, ts := s.sup.counter, fwRun := s.ident.fwRun, furnRun := s.ident.furnRun, fwFuse := s.ident.fwFuse
    furnFuse := s.ident.furnFuse, cert := s.ident.certDigest, seed := s.ident.seed, firmware := if s.sup.fwB then s.flash.fwB else s.flash.fwA
    furnish := s.furnish, fwB := s.sup.fwB, furnB := s.sup.furnB, map := s.map, next := leaf, leaf := leaf
    items := (allParts.filter fun p => parts.getLsbD p.val).flatMap fun p => attestItems p (s.part p) }

/-- A frame outside a session's numbering leaves by a port. -/
def State.sentOn (s : State) (port : Fin 4) (f : PortFrame) : State :=
  { s with phw := SMap.set PhwPort.init s.phw port.val { (s.phwPort port).sent 1 with last := some f } }

def State.authFail (s : State) (port : Fin 4) : State :=
  let x : PhwPort := { s.phwPort port with authfail := satAdd (s.phwPort port).authfail 1 }
  { s with phw := SMap.set PhwPort.init s.phw port.val x }

def State.hs (s : State) (n : Nat) : Option Hs := (s.handshakes.find? fun e => e.1 = n).map (·.2)

def State.dropHs (s : State) (n : Nat) : State := { s with handshakes := SMap.del s.handshakes n }

/-- The tuning job is over, and its working slot is FREE. -/
def Part.endJob (x : Part) : Part :=
  match x.job with
  | none => x
  | some j => ({ x with job := none, adapters := SMap.set AdSlot.init x.adapters j.slot AdSlot.init } : Part).startPending

/-- The manifest digest of a partition's model: that of the resident one, or of its package in the cache. -/
def State.baseDigest (s : State) (p : Fin 32) (model : BitVec 16) : Option Nat :=
  match (s.part p).models.find? (·.id == model) with
  | some m => some m.digest
  | none =>
    match (s.swapOf p).find? (·.model == model) with
    | none => none
    | some w => (s.cache.packages.find? (·.isOf w)).map (·.digest)

/-- The factors of the working slot's area, with the site and the offset in its loft where each stands. -/
def State.jobFactors (s : State) (p : Fin 32) (j : Job) : List (Factor × Fin 64 × Nat) :=
  match (s.part p).program, s.adapterGrant p with
  | some g, some r => (g.factors.filter fun f => factorFits f g.adapterArea r).map fun f =>
      (f, r.site, r.base + j.slot * g.adapterArea + f.at_)
  | _, _ => []

/-- The targets of the exported package: each target tensor with its factors as they stand in the working slot. -/
def State.exportTargets (s : State) (p : Fin 32) (j : Job) : List ExportTarget :=
  let fs := s.jobFactors p j
  ((fs.map fun e => e.1.tensor).dedup).zipIdx.map fun t =>
    { tensor := t.1, scale := Config.exportScale s.nonce t.2
      factor := (fs.filter fun e => e.1.tensor == t.1).flatMap fun e => s.loftRead e.2.1.val e.2.2 (2 * e.1.count) }

/-- The package that the supervisor forms from the working slot (R442, R449): a manifest of KIND 3 with BASE the base model's digest and
PUBKEY that of the identity key, and a version, a security version, an identifier and scales as the device chooses them. -/
def State.exported (s : State) (p : Fin 32) (j : Job) (base leaf : Nat) : AdapterPackage :=
  let ts := s.exportTargets p j
  let v := Config.exportVersion s.nonce % (2 ^ 32 - 1) + 1
  { manifest := ownManifest s.ident.seed leaf base (Config.exportPkg s.nonce % 2 ^ 128) (Config.exportSvn s.nonce % 2 ^ 32)
      (adapterShards j.id v j.rank ts)
    leaf := leaf, id := j.id, version := v, rank := j.rank, targets := ts }

/-- The reads of the factors meet the code of the loft (R201). -/
def State.exportReads (s : State) : List (Factor × Fin 64 × Nat) → State
  | [] => s
  | e :: r => (s.loftErrs e.2.1 none (linesOf e.2.1.val e.2.2 (2 * e.1.count))).exportReads r

/-- An export ends with the package, signed with leaf `leaf`, or with reason LMS, and its tuning job is over; it is refused where the
digest of the base model is known no more. -/
def State.endExport (s : State) (session : Nat) (p : Fin 32) (leaf : Option Nat) : State :=
  let x := s.part p
  match leaf, x.job with
  | some n, some j =>
    match s.baseDigest p j.model with
    | none => s.answer session rRefused
    | some b =>
      let s1 := s.exportReads (s.jobFactors p j)
      ({ s1.setPart p { x.endJob with exports := satAdd x.exports 1 } with nonce := s1.nonce + 1 } : State).answer session
        (.package (s.exported p j b n))
  | some _, none => s.answer session rRefused
  | none, _ => (s.setPart p x.endJob).answer session (rFailed 0xB)

/-! ### The handshake of a peer link (R559) -/

def State.setPlk (s : State) (n : Fin 8) (x : PlkPort) : State := { s with plk := SMap.set PlkPort.init s.plk n.val x }

/-- The partner that the furnish lists for the port is the one at the other end, with both signatures verified. -/
def State.peerKnown (s : State) (n : Fin 8) (partner partnerPort : Nat) (sig : SigCheck) : Bool :=
  sig.ok && match s.furnish with
    | none => false
    | some fu => fu.ream.any fun e => e.port = n && e.partner = partner && e.partnerPort = partnerPort

/-- The device has signed: with the listed partner the port comes up, with 64 frames of credit and nothing in flight (R558); with another it
stays in AUTH. -/
def State.peerSigned (s : State) (port : Fin 8) (partner partnerPort : Nat) (sig : SigCheck) : State :=
  let x := s.plkPort port
  if x.state = 2 ∧ s.peerKnown port partner partnerPort sig = true then
    s.setPlk port { x with
      state := 3, partner := partner, lastFrame := s.now, credit := 64, owed := 0, out := [], sent := [], arrived := [] }
  else s

/-- Signings that wait for a peer port no more. -/
def Ident.dropPeer (d : Ident) (port : Fin 8) : Ident :=
  { d with signings := d.signings.filter fun g => match g with | .peer n .. => n != port | _ => true }

/-! ### Signings (R585–R588) -/

/-- A signing gets leaf `leaf`. -/
def State.signed (s : State) (leaf : Nat) : Signing → State
  | .hs n =>
    match s.hs n with
    | none => s
    | some h =>
      ({ s with handshakes := SMap.set Hs.init s.handshakes n { h with resp := some leaf } } : State).sentOn h.port (.hsResp n leaf)
  | .peer port partner partnerPort sig => s.peerSigned port partner partnerPort sig
  | .report n nonce parts => s.answer n (.report (s.attestReport nonce parts leaf))
  | .adapter n p => s.endExport n p (some leaf)

/-- A signing that the exhausted key refuses (R588). -/
def State.unsigned (s : State) : Signing → State
  | .hs n =>
    match s.hs n with
    | none => s
    | some h => (s.dropHs n).authFail h.port
  | .peer .. => s
  | .report n _ _ => s.answer n rExhausted
  | .adapter n p => s.endExport n p none

/-- Serves the signings in the order of their requests, each leaf once, until one must wait (R585–R588). -/
def State.serveSignings (s : State) : List Signing → State
  | [] => { s with ident := { s.ident with signings := [] } }
  | g :: r =>
    if s.ident.exhausted then (s.unsigned g).serveSignings r
    else if s.ident.canSign then
      (({ s with ident := { s.ident with lmsNext := s.ident.lmsNext + 1 } } : State).signed s.ident.lmsNext g).serveSignings r
    else { s with ident := { s.ident with signings := g :: r } }

/-- Serves what waits. -/
def State.resumeSignings (s : State) : State := s.serveSignings s.ident.signings

/-- A new signing, behind those that wait. -/
def State.askSign (s : State) (g : Signing) : State := s.serveSignings (s.ident.signings ++ [g])

/-- A reservation record is due (R585), and one is possible below the end of the key. -/
def Ident.reserveDue (d : Ident) : Bool := d.lmsLimit < d.lmsNext + 256 && d.lmsLimit < 2 ^ 40

/-- The record of number `n` is written in the next place, whole or torn; the last of a half is followed by the erasure of the other, in
advance of the next record. -/
def Flash.reserve (f : Flash) (n limit : Nat) (torn : Bool) : Flash :=
  let at_ := f.lmsAt
  let r : LmsRecord := ⟨n, limit, 0⟩
  let m := SMap.set LmsRecord.init f.lms at_ { r with crc := if torn then ~~~crc32 r.bytes else crc32 r.bytes }
  { f with lms := if at_ % 16384 = 16383 then m.filter fun e => e.1 / 16384 == at_ / 16384 else m }

/-- The record with LIMIT + 1,024 is programmed and read back (R584, R585).  One that is torn fails its CRC: the record before it stays the
state, and another is due (R586). -/
def execLmsReservationWrite (torn : Bool) (s : State) : Out :=
  let d := s.ident
  let f := s.flash.reserve (d.lmsSeq + 1) (d.lmsLimit + 1024) torn
  .next (if !d.reserveDue then s
    else if torn then { s with flash := f }
    else ({ s with ident := { d with lmsLimit := d.lmsLimit + 1024, lmsSeq := d.lmsSeq + 1 }, flash := f } : State).resumeSignings)

/-- At most 2^19 leaves of the newest tree remain, and the key has another tree (R587). -/
def Ident.treeDue (d : Ident) : Bool := d.lmsTrees * 2 ^ 20 ≤ d.lmsNext + 2 ^ 19 && d.lmsTrees < 2 ^ 20

/-- The background build of the next bottom-level tree starts, or completes. -/
def execLmsTreeBuild (done : Bool) (s : State) : Out :=
  let d := s.ident
  .next (if done then
      if d.building then ({ s with ident := { d with lmsTrees := d.lmsTrees + 1, building := false } } : State).resumeSignings
      else s
    else if d.treeDue then { s with ident := { d with building := true } }
    else s)

/-! ### Attestation, export -/

/-- Any session may ask for a report (R589). -/
def execAttest (session : Nat) (nonce : BitVec 256) (parts : Word) (s : State) : Out :=
  .next (s.onMsg session fun _ s1 => s1.askSign (.report session nonce parts))

/-- The supervisor forms a package from the working slot of the partition's tuning job and signs it (R449). -/
def execAdapterExport (session : Nat) (p : Fin 32) (s : State) : Out :=
  .next (s.mgmt session (·.management) fun s1 =>
    if (s1.part p).job.any fun j => (s1.baseDigest p j.model).isSome then s1.askSign (.adapter session p) else s1.answer session rRefused)

/-! ### Fuses (R581, R583) -/

/-- The owner slots that are fused and not revoked. -/
def Ident.live (d : Ident) : BitVec 4 := d.fused &&& ~~~d.revoked

/-- R581's refusals: the slot signed the furnish in use, it is revoked already, or it is the last one unrevoked. -/
def State.mayRevoke (s : State) (slot : Fin 4) : Bool :=
  let d := s.ident
  !(s.furnish.isSome && d.inUse.toNat == slot.val) && !d.revoked.getLsbD slot.val &&
    (d.live &&& ~~~(1#4 <<< slot.val)) != 0

def execRevokeOwner (session : Nat) (slot : Fin 4) (s : State) : Out :=
  .next (s.mgmt session (·.management) fun s1 =>
    if s1.mayRevoke slot then
      ({ s1 with ident := { s1.ident with revoked := s1.ident.revoked ||| (1#4 <<< slot.val) } } : State).answer session rDone
    else s1.answer session rRefused)

/-- The counter with the security version of the image in use. -/
def Ident.commitSvn (d : Ident) (furnish : Bool) : Ident :=
  if furnish then { d with furnFuse := d.furnRun } else { d with fwFuse := d.fwRun }

/-- SVN_COMMIT (R583). -/
def execSvnCommit (session : Nat) (furnish : Bool) (s : State) : Out :=
  .next (s.mgmt session (·.management) fun s1 =>
    if s1.sup.phase = 12 ∧ s1.ident.commitSvn furnish ≠ s1.ident then
      ({ s1 with ident := s1.ident.commitSvn furnish } : State).answer session rDone
    else s1.answer session rRefused)

end Sys2Proof.Machine
end

