-- ==== Sys2Proof/Machine/Registers.lean ====
section
/-! DEFINITION. The registers of the device control space: what each reads as, what a write does by its access codes
(R3, R4), and the ways to them: the supervisor's own writes, management, SMBus, telemetry (R547, R553, R569). -/

namespace Sys2Proof.Machine

/-- A word with values at bit positions. -/
def wordOf (l : List (Nat × Nat)) : Word := BitVec.ofNat 32 (l.foldl (fun a e => a + e.2 * 2 ^ e.1) 0)

def flag (b : Bool) : Nat := if b then 1 else 0

/-- Bits by number, for a mask of partitions or sites. -/
def maskOf (n : Nat) (q : Nat → Bool) : Word := BitVec.ofNat 32 (bitsOf ((List.range n).map q))

/-- The register at an offset among listed ones; every other offset reads as zero (R4). -/
def pick (o : Nat) (l : List (Nat × Word)) : Word := match l.find? (·.1 = o) with | none => 0 | some e => e.2

/-- An offset in an array of `count` groups of `stride` bytes from `base`: the group and the offset in it. -/
def group (base stride count o : Nat) : Option (Nat × Nat) :=
  if base ≤ o ∧ o < base + stride * count then some ((o - base) / stride, (o - base) % stride) else none

def low32 (x : Nat) : Word := BitVec.ofNat 32 x
def high32 (x : Nat) : Word := BitVec.ofNat 32 (x / 2 ^ 32)

/-! ### Registers of a site -/

/-- The tiles of a site. -/
def State.siteTiles (s : State) (i : Fin 64) : List Tile :=
  (s.tiles.filter fun e => e.1 / 256 = i.val).map (·.2)

/-- SITE_SCR_REPAIR (R215). -/
def State.scrRepair (s : State) (i : Fin 64) : Word :=
  wordOf [(8, min 255 (sumN ((s.siteTiles i).map (·.mem.suspects.length)))),
    (0, min 32 ((s.siteTiles i).foldl (fun a x => x.mem.spareRows.foldl (fun a e => max a e.2) a) 0))]

/-- SITE_SEQ_ROOT_LO and _HI of the selected partition (R216). -/
def State.rootKey (s : State) (i : Fin 64) (hi : Nat) : Nat := i.val * 64 + 2 * (s.site i).seqSel.toNat + hi

/-- The SITE_ sub-block (R57–R59, R99–R102, R213–R216, R381, R382). -/
def State.readSite (s : State) (i : Fin 64) (o : Nat) : Word :=
  pick o [(0x400, s.ctr i .fmtfault), (0x404, s.ctr i .sat), (0x408, s.ctr i .fallback), (0x410, s.ctr i .abft),
    (0x414, s.ctr i .residue), (0x418, s.ctr i .vparity), (0x41C, s.ctr i .accecc), (0x440, s.ctr i .scrCe),
    (0x444, s.ctr i .dmawait), (0x448, s.scrRepair i), (0x44C, (s.site i).seqSel.setWidth 32),
    (0x450, SMap.get 0 s.roots (s.rootKey i 0)), (0x454, SMap.get 0 s.roots (s.rootKey i 1)),
    (0x460, s.ctr i .hold), (0x464, s.ctr i .verfault)]

/-- The vat is bound to a model, and its site has not been reset since (R143). -/
def Vat.bound (v : Vat) : Bool := v.part.isSome && !v.gone

/-- VAT_VINFO of the selected vat (R143). -/
def State.vinfo (s : State) (i : Fin 64) : Word :=
  let sel := (s.site i).vsel
  let tile := sel.toNat / 256 % 256
  let n := sel.toNat % 128
  if 143 < tile ∨ 95 < n then 0
  else
    let v := s.vat ((i.val * 256 + tile) * 96 + n)
    wordOf [(30, if v.gone then 0 else v.mode.toNat), (29, flag v.bad), (28, flag v.bound), (24, min 8 v.spares),
      (0, if v.bound then v.model.toNat else 0)]

/-- Lane `n` of a site, and the tile it stands on (R144). -/
def State.siteLane (s : State) (i : Fin 64) (n : Nat) : Lane := SMap.get Lane.init s.lanes (i.val * 512 + n)
def State.laneTile (s : State) (i : Fin 64) (n : Nat) : Tile := SMap.get Tile.init s.tiles (i.val * 256 + n / 2)

/-- USE: off (of a spare tile, or its base region under test), sent to the digital path, in service, idle. -/
def laneUse (spare : Bool) (x : Tile) (l : Lane) (n : Nat) (now : BitVec 64) : Nat :=
  if l.underTest || spare then 3 else if l.unfit now then 2 else if (x.laneRunning (n % 2)).isSome then 1 else 0

/-- VAT_LSTAT[n] (R144). -/
def State.lstat (s : State) (i : Fin 64) (n : Nat) : Word :=
  let l := s.siteLane i n
  wordOf [(4, l.lastVat.toNat), (3, flag l.ovr), (2, flag l.chkfail), (0, laneUse (!(mappedKeys s.map).contains (i.val * 256 + n / 2)) (s.laneTile i n) l n s.sup.counter)]

/-- The VAT_ sub-block (R134–R144). -/
def State.readVat (s : State) (i : Fin 64) (o : Nat) : Word :=
  match group 0x100 4 288 o with
  | some (n, 0) => s.lstat i n
  | _ => pick o [(0x00, s.ctr i .check), (0x04, s.ctr i .split), (0x08, s.ctr i .wide), (0x0C, s.ctr i .zero),
      (0x10, s.ctr i .ovr), (0x14, s.ctr i .wretry), (0x20, (s.site i).vsel), (0x24, s.vinfo i)]

/-- SZ_LANE[n] (R180). -/
def szLane (l : Lane) : Word := wordOf [(8, l.qcount.toNat), (3, flag l.quar), (2, flag l.warmed), (0, min 2 l.succ)]

/-- The words of SZ_BIN (R181). -/
def szBin (b : Bin) (o : Nat) : Word :=
  pick o [(0x00, b.count), (0x04, low32 b.ts.toNat), (0x08, high32 b.ts.toNat), (0x0C, b.rej),
    (0x10, wordOf [(6, b.barwhy.toNat), (5, flag b.warm), (4, flag b.wrap), (3, flag b.barred), (2, flag b.due)])]

/-- The SZ_ sub-block (R175–R181). -/
def State.readSz (s : State) (i : Fin 64) (o : Nat) : Word :=
  match group 0x100 4 288 o, group 0x1000 32 1152 o with
  | some (n, 0), _ => szLane (s.siteLane i n)
  | _, some (k, w) => szBin ((s.siteLane i (k / 4)).getBin (k % 4)) w
  | _, _ => pick o [(0x0, s.ctr i .chkvec), (0x4, s.ctr i .discard), (0x8, s.ctr i .accfail)]

/-- The LOFT_ sub-block (R218–R221). -/
def State.readLoft (s : State) (i : Fin 64) (o : Nat) : Word :=
  let x := s.site i
  pick o [(0x0, s.ctr i .loftCe), (0x4, s.ctr i .loftUe), (0x8, x.scrub),
    (0xC, wordOf [(8, x.pprUsed.toNat), (2, flag (s.flash.loftPending.any (·.1 == i.val))), (1, flag x.selfref), (0, flag x.dbl)])]

/-- The NET_ sub-block (R251–R255, R258). -/
def State.readNet (s : State) (i : Fin 64) (o : Nat) : Word :=
  pick o [(0x00, s.ctr i .hcrc), (0x04, s.ctr i .e2e), (0x08, s.ctr i .netFence), (0x0C, s.ctr i .pressovf),
    (0x10, s.ctr i .netAudit), (0x18, (s.site i).auditLast)]

/-- SEM_INFO of the selected entry (R281). -/
def State.semInfo (s : State) (i : Fin 64) : Word :=
  let k := (s.site i).semSel
  let e := s.sem i k
  wordOf [(31, flag e.seq), (30, flag (e.share != 0)), (24, e.owner.toNat),
    (16, min 255 (s.waiters.filter fun w => w.site = i ∧ w.index = k).length), (0, e.tag.toNat)]

/-- The SEM_ sub-block (R274–R282). -/
def State.readSem (s : State) (i : Fin 64) (o : Nat) : Word :=
  pick o [(0x00, s.ctr i .semFence), (0x04, s.ctr i .semError), (0x08, s.ctr i .semAudit),
    (0x10, (s.site i).semSel.setWidth 32), (0x14, (s.sem i (s.site i).semSel).value), (0x18, s.semInfo i),
    (0x1C, wordOf [(16, (s.site i).waitHigh), (0, (s.waiters.filter (·.site = i)).length)])]

/-! ### SUP (R342, R422, R423, R450, R452, R486, R487, R512–R514, R612) -/

/-- SUP_PROG_STAT[p]. -/
def State.progStat (s : State) (p : Fin 32) (o : Nat) : Word :=
  let x := s.part p
  let f := s.furnPart p
  let stages := match x.loaded, x.program with | true, some g => g.stages.length % 2048 | _, _ => 0
  pick o [(0x0, wordOf [(31, flag x.loaded), (30, flag x.halted),
      (29, match f with | none => 0 | some f => flag (f.power == .governed)),
      (28, match f with | none => 0 | some f => flag (!f.tuning)), (0, stages)]),
    (0x4, x.terr), (0x8, low32 x.lastErr.toNat), (0xC, high32 x.lastErr.toNat)]

/-- SUP_SRV[p]. -/
def State.srv (s : State) (p : Fin 32) (o : Nat) : Word :=
  let x := s.part p
  let l := (s.slotsOf p).map (·.2.st)
  pick o [(0x00, wordOf [(18, flag x.switching.isSome), (17, flag (s.sup.pause.getLsbD p.val)), (16, flag (x.isExact && x.loaded)),
      (8, (l.filter (· == .prefill)).length), (0, (l.filter (· != .free)).length)]),
    (0x04, x.admitted), (0x08, x.rejected), (0x0C, x.replays), (0x10, x.ended), (0x14, x.late), (0x18, low32 x.free),
    (0x1C, low32 x.rsv)]

/-- SUP_LOAD[p]. -/
def State.loadReg (s : State) (p : Fin 32) (o : Nat) : Word :=
  let l := (s.part p).load
  pick o [(0x0, wordOf [(28, l.state.toNat), (24, l.reason.toNat), (20, min 15 (l.queue ++ l.later).length), (0, l.model.toNat)]),
    (0x4, wordOf [(16, l.shard.toNat), (0, l.nshard.toNat)]), (0x8, l.retry),
    (0xC, wordOf [(16, bitsOf ((List.range 16).map fun e => (s.part p).models.any fun m => m.entry == e && !m.gone)), (0, l.loads.toNat)])]

/-- SUP_ADPT[p]. -/
def State.adptReg (s : State) (p : Fin 32) (o : Nat) : Word :=
  let x := s.part p
  let n (q : AdSt) : Nat := ((List.range 64).filter fun k => (x.adapter k).st == q).length
  pick o [(0x0, wordOf [(24, n .free), (16, n .current), (8, n .old), (0, min 255 x.pend.length)]), (0x4, x.installed),
    (0x8, x.refused), (0xC, x.exports)]

/-- Physical tiles declared bad, and good unmapped spares (R486). -/
def State.badCount (s : State) : Nat := (allTileKeys.filter s.isBad).length

/-- The SUP words that stand alone. -/
def State.supWords (s : State) : List (Nat × Word) :=
  let u := s.sup
  [(0x4600, u.pause), (0x4C00, wordOf [(16, s.badCount), (0, s.spares.length)]), (0x4C04, u.remaps),
    (0x4C08, maskOf 32 fun p => (SMap.get Part.init s.parts p).oos), (0x4C10, u.auditPages), (0x4C14, u.auditSlots),
    (0x4C18, u.auditTokens), (0x4C1C, wordOf [(5, u.auditKind.toNat), (0, u.auditPart.toNat)]),
    (0x4E00, wordOf [(28, u.phase.toNat), (27, flag u.fwB), (26, flag u.furnB), (0, u.bootTime.toNat)]),
    (0x4E04, wordOf [(28, u.rstKind.toNat), (24, u.rstSource.toNat), (0, u.warms.toNat)]),
    (0x4E10, maskOf 32 fun p => (SMap.get Part.init s.parts p).doze),
    (0x4E14, maskOf 32 fun i => (SMap.get Site.init s.sites i).sleep),
    (0x4E18, maskOf 32 fun i => (SMap.get Site.init s.sites (32 + i)).sleep),
    (0x4E1C, wordOf [(0, flag u.standby)]), (0x5000, 0x8192B010)]

/-- The SUP block. -/
def State.readSup (s : State) (o : Nat) : Word :=
  match group 0x4000 16 32 o with
  | some (p, w) => s.progStat (Fin.ofNat 32 p) w
  | none => match group 0x4200 32 32 o with
    | some (p, w) => s.srv (Fin.ofNat 32 p) w
    | none => match group 0x4800 16 32 o with
      | some (p, w) => s.loadReg (Fin.ofNat 32 p) w
      | none => match group 0x4A00 16 32 o with
        | some (p, w) => s.adptReg (Fin.ofNat 32 p) w
        | none => pick o s.supWords

/-! ### BBX (R482–R485) -/

/-- Word `k` of a record (R477, R485). -/
def recWord (r : BbxRec) (k : Nat) : Word :=
  match k with
  | 0 => low32 r.ts.toNat | 1 => high32 r.ts.toNat | 2 => r.source
  | 3 => wordOf [(16, r.tag.toNat), (0, r.event.toNat)]
  | 4 => low32 r.step.toNat | 5 => high32 r.step.toNat | 6 => low32 r.detail.toNat | _ => high32 r.detail.toNat

/-- Record `index` of the ring or image that the upper fields of a BBX_RSEL word select; one beyond it, or of an image
that is not valid, is zero (R480, R485). -/
def Bbx.record (b : Bbx) (sel : Word) (index : Nat) : BbxRec :=
  let ring := sel.toNat / 2 ^ 16 % 128
  if sel.getLsbD 31 then
    let g := b.image (sel.toNat / 2 ^ 28 % 8)
    if g.valid then g.recs.getD index BbxRec.init else BbxRec.init
  else if ring = 127 then (if index < 65536 then SMap.get BbxRec.init b.recs index else BbxRec.init)
  else if ring < 64 ∧ index < 1024 then SMap.get BbxRec.init (b.ring (Fin.ofNat 64 ring)).recs index
  else BbxRec.init

/-- The slot of the newest valid image; 0 where there is none. -/
def Bbx.newest (b : Bbx) : Nat :=
  (List.range 8).foldl (fun a i => if (b.image i).valid && ((b.image a).seq.toNat ≤ (b.image i).seq.toNat || !(b.image a).valid) then i else a) 0

def State.readBbx (s : State) (o : Nat) : Word :=
  let b := s.bbx
  match group 0x20 4 8 o with
  | some (k, 0) => recWord (b.record b.rsel (b.rsel.toNat % 65536)) k
  | _ => pick o [(0x4, wordOf [(31, flag b.frozen), (30, flag b.flushing), (29, flag b.flfail), (16, b.newest),
      (12, ((List.range 8).filter fun i => (b.image i).valid).length)]),
    (0x8, wordOf [(16, flag b.wrap), (0, b.next.toNat)]), (0xC, b.lost), (0x10, b.rsel)]

/-! ### PWR, THM (R539–R544) -/

def pwrSite (x : Site) (o : Nat) : Word :=
  pick o [(0x0, x.warn), (0x4, wordOf [(16, x.resets.toNat), (0, x.long.toNat)]),
    (0x8, wordOf [(4, flag x.window.isSome), (0, x.dom.toNat)])]

def State.readPwr (s : State) (o : Nat) : Word :=
  match group 0x100 16 64 o with
  | some (i, w) => pwrSite (SMap.get Site.init s.sites i) w
  | none => pick o [(0x0, wordOf [(31, flag s.sup.capRefused), (0, s.sup.cap.toNat)]), (0x4, Config.inputReading s.now),
      (0x8, wordOf [(31, flag s.sup.overcap), (30, flag ((Config.inputReading s.now).toNat / 65536 < 400)), (0, s.sup.devrst.toNat)])]

def thmSite (x : Site) (o : Nat) : Word :=
  pick o [(0x0, wordOf [(16, x.tbase.toNat), (0, x.tcmp.toNat)]), (0x4, wordOf [(30, x.tstate.toNat), (0, x.tloft.toNat)]),
    (0x8, wordOf [(16, x.throt.toNat), (0, x.offs.toNat)]), (0xC, x.excl.setWidth 32)]

def State.readThm (s : State) (o : Nat) : Word :=
  match group 0x100 16 64 o with
  | some (i, w) => thmSite (SMap.get Site.init s.sites i) w
  | none => pick o [(0x0, s.sup.fanFloor.setWidth 32), (0x4, wordOf [(31, flag s.sup.trip), (16, s.sup.duty.toNat)])]

/-! ### PHW, PLK, STO (R570–R572), SEC (R594–R597) -/

/-- Open sessions of a port: those that are not lost. -/
def State.openOn (s : State) (n : Fin 4) : Nat := (s.sessions.filter fun e => e.2.port = n ∧ e.2.lost = none).length

def State.readPhw (s : State) (o : Nat) : Word :=
  match group 0x100 32 4 o with
  | some (n, w) =>
    let x := s.phwPort (Fin.ofNat 4 n)
    pick w [(0x00, wordOf [(31, flag x.up), (16, s.openOn (Fin.ofNat 4 n))]), (0x04, x.txfr), (0x08, x.rxfr), (0x0C, x.retx),
      (0x10, x.badfr), (0x14, x.authfail), (0x18, x.lost), (0x1C, x.resumed)]
  | none => 0

def State.readPlk (s : State) (o : Nat) : Word :=
  match group 0x100 32 8 o with
  | some (n, w) =>
    let x := s.plkPort (Fin.ofNat 8 n)
    pick w [(0x00, wordOf [(30, x.state.toNat)]), (0x04, if x.state = 3 then low32 x.partner else 0), (0x08, x.feccor),
      (0x0C, x.fecunc), (0x10, x.retry), (0x14, x.losses)]
  | none => 0

def State.readSto (s : State) (o : Nat) : Word :=
  match group 0x100 16 4 o with
  | some (n, w) =>
    let x := s.stoPort (Fin.ofNat 4 n)
    pick w [(0x0, wordOf [(31, flag x.present), (28, x.speed.toNat), (24, x.width.toNat)]), (0x4, x.reads), (0x8, x.failed)]
  | none => 0

def State.readSec (s : State) (o : Nat) : Word :=
  let d := s.ident
  pick o [(0x00, wordOf [(24, d.fwFuse), (16, d.furnFuse), (8, d.fwRun), (0, d.furnRun)]), (0x04, low32 d.lmsNext),
    (0x08, wordOf [(31, flag d.exhausted), (30, flag d.building), (29, flag (!d.signings.isEmpty)), (0, d.lmsNext / 2 ^ 32 % 256)]),
    (0x0C, low32 d.lmsLimit), (0x10, wordOf [(0, d.lmsLimit / 2 ^ 32 % 256)]),
    (0x14, wordOf [(8, d.inUse.toNat), (4, d.revoked.toNat), (0, d.fused.toNat)]),
    (0x18, wordOf [(8, d.dieFails.toNat), (0, d.dieFirst.toNat)])]

/-- What a register reads as. -/
def State.readReg (s : State) (a : RegAddr) : Word :=
  match a.block with
  | .site i => s.readSite i a.offset | .vat i => s.readVat i a.offset | .sz i => s.readSz i a.offset
  | .net i => s.readNet i a.offset | .sem i => s.readSem i a.offset | .loft i => s.readLoft i a.offset
  | .sup => s.readSup a.offset | .bbx => s.readBbx a.offset | .pwr => s.readPwr a.offset | .thm => s.readThm a.offset
  | .phw => s.readPhw a.offset | .plk => s.readPlk a.offset | .sto => s.readSto a.offset | .sec => s.readSec a.offset

/-! ### Writes -/

def State.clearCtr (s : State) (i : Fin 64) (k : Ctr) : State := { s with ctrs := ctrClear s.ctrs i k }

/-- A CLEAR register: bit j of the word clears counter j of the list. -/
def clearBits (m : SMap Word) (i : Fin 64) (v : Word) : Nat → List Ctr → SMap Word
  | _, [] => m
  | j, k :: r => clearBits (if v.getLsbD j then ctrClear m i k else m) i v (j + 1) r

def State.clearReg (s : State) (i : Fin 64) (v : Word) (l : List Ctr) : State := { s with ctrs := clearBits s.ctrs i v 0 l }

/-- The SITE_ sub-block: SITE_SEQ_SEL, the root registers (for the supervisor only), the CLEAR registers. -/
def State.writeSite (s : State) (i : Fin 64) (o : Nat) (v : Word) (sup : Bool) : State :=
  match o with
  | 0x40C => s.clearReg i v [.fmtfault, .sat, .fallback]
  | 0x420 => s.clearReg i v [.abft, .residue, .vparity, .accecc]
  | 0x44C => s.setSite i { s.site i with seqSel := v.setWidth 5 }
  | 0x450 => if sup then { s with roots := SMap.set 0 s.roots (s.rootKey i 0) (v &&& 0xFFFFF001) } else s
  | 0x454 => if sup then { s with roots := SMap.set 0 s.roots (s.rootKey i 1) (v &&& 0xFF) } else s
  | 0x458 => s.clearReg i v [.scrCe, .dmawait]
  | 0x468 => s.clearReg i v [.hold, .verfault]
  | _ => s

/-- VAT_LSTAT: 1s clear OVR and CHKFAIL. -/
def State.writeLstat (s : State) (i : Fin 64) (n : Nat) (v : Word) : State :=
  let l := s.siteLane i n
  let x : Lane := { l with ovr := l.ovr && !v.getLsbD 3, chkfail := l.chkfail && !v.getLsbD 2 }
  { s with lanes := SMap.set Lane.init s.lanes (i.val * 512 + n) x }

def State.writeVat (s : State) (i : Fin 64) (o : Nat) (v : Word) : State :=
  match group 0x100 4 288 o, o with
  | some (n, 0), _ => s.writeLstat i n v
  | _, 0x18 => s.clearReg i v [.check, .split, .wide, .zero, .ovr, .wretry]
  | _, 0x20 => s.setSite i { s.site i with vsel := v &&& 0xFF7F }
  | _, _ => s

/-- SZ_BIN: a 1 clears WRAP. -/
def State.writeBin (s : State) (i : Fin 64) (k : Nat) (v : Word) : State :=
  let l := s.siteLane i (k / 4)
  let b := l.getBin (k % 4)
  { s with lanes := SMap.set Lane.init s.lanes (i.val * 512 + k / 4) (l.setBin (k % 4) { b with wrap := b.wrap && !v.getLsbD 4 }) }

def State.writeSz (s : State) (i : Fin 64) (o : Nat) (v : Word) : State :=
  match group 0x1000 32 1152 o, o with
  | some (k, 0x10), _ => s.writeBin i k v
  | _, 0xC => s.clearReg i v [.chkvec, .discard, .accfail]
  | _, _ => s

def State.writeNet (s : State) (i : Fin 64) (o : Nat) (v : Word) : State :=
  match o with
  | 0x14 => s.clearReg i v [.hcrc, .e2e, .netFence, .pressovf, .netAudit]
  | 0x18 => s.setSite i { s.site i with
      auditLast := if v.getLsbD 31 then (s.site i).auditLast &&& 0x7FFFFFFF else (s.site i).auditLast }
  | _ => s

def State.writeSem (s : State) (i : Fin 64) (o : Nat) (v : Word) : State :=
  match o with
  | 0xC => s.clearReg i v [.semFence, .semError, .semAudit]
  | 0x10 => s.setSite i { s.site i with semSel := v.setWidth 10 }
  | _ => s

/-- The key of SUP_WARM_REQ from an authorised node requests a WARM (R513). -/
def State.warmKey (s : State) (v : Word) : State := if v = 0x5741524D then { s with sup := s.sup.requestWarm 1 } else s

def State.writeSup (s : State) (o : Nat) (v : Word) (sup : Bool) : State :=
  match o with
  | 0x4600 => { s with sup := { s.sup with pause := v } }
  | 0x4E08 => if sup then s else s.warmKey v
  | _ => s

def State.writeBbx (s : State) (o : Nat) (v : Word) : State :=
  match o with
  | 0x0 => if v.getLsbD 0 then { s with bbx := s.bbx.snap s.sup } else s
  | 0x4 => { s with bbx := { s.bbx with flfail := s.bbx.flfail && !v.getLsbD 29 } }
  | 0x10 => { s with bbx := { s.bbx with rsel := v &&& 0xF07FFFFF } }
  | _ => s

def State.writePwr (s : State) (o : Nat) (v : Word) : State :=
  match o with
  | 0x0 => { s with sup := s.sup.writeCap s.furnish v }
  | 0x8 => { s with sup := { s.sup with overcap := s.sup.overcap && !v.getLsbD 31 } }
  | _ => s

def State.writeThm (s : State) (o : Nat) (v : Word) : State :=
  match o with
  | 0x0 => ({ s with sup := { s.sup with fanFloor := v.setWidth 8 } } : State).setDuty
  | _ => s

/-- A write by the access codes (R3); `sup`: it comes from the supervisor, not from a control node.  Blocks with no
writable field ignore it. -/
def State.writeReg (s : State) (a : RegAddr) (v : Word) (sup : Bool) : State :=
  match a.block with
  | .site i => s.writeSite i a.offset v sup | .vat i => s.writeVat i a.offset v | .sz i => s.writeSz i a.offset v
  | .net i => s.writeNet i a.offset v | .sem i => s.writeSem i a.offset v
  | .loft i => if a.offset = 0x10 then s.clearReg i v [.loftCe, .loftUe] else s
  | .sup => s.writeSup a.offset v sup | .bbx => s.writeBbx a.offset v | .pwr => s.writePwr a.offset v
  | .thm => s.writeThm a.offset v
  | .phw => s | .plk => s | .sto => s | .sec => s

def execRegisterWrite (a : RegAddr) (v : Word) (s : State) : Out := .next (s.writeReg a v true)

/-! ### From a control node, SMBus and telemetry -/

/-- A read of PLK_PORT.LOSSES clears its cause of ALERT_N (R560, R571). -/
def State.readLosses (s : State) (n : Fin 8) : State :=
  { s with plk := SMap.set PlkPort.init s.plk n.val { s.plkPort n with unread := false } }

def execPlkPortLossesRead (port : Fin 8) (s : State) : Out := .next (s.readLosses port)

/-- What a read of a register changes: PLK_LOSSES clears, and a read of the selected semaphore entry reports an uncorrectable error in
it (R280, R281, R458). -/
def State.afterRead (s : State) (a : RegAddr) : State :=
  match a.block with
  | .plk => match group 0x100 32 8 a.offset with | some (n, 0x14) => s.readLosses (Fin.ofNat 8 n) | _ => s
  | .sem i =>
    if (a.offset = 0x14 ∨ a.offset = 0x18) ∧ (s.sem i (s.site i).semSel).ecc = .double then s.semUe ⟨i, (s.site i).semSel, none⟩ else s
  | _ => s

def execMgmtRegisterRead (session : Nat) (a : RegAddr) (s : State) : Out :=
  .next (s.mgmt session (·.register) fun s1 => (s1.afterRead a).answer session (.reply 0 0 [s1.readReg a]))

def execMgmtRegisterWrite (session : Nat) (a : RegAddr) (v : Word) (s : State) : Out :=
  .next (s.mgmt session (·.register) fun s1 => (s1.writeReg a v false).answer session rDone)

def execSupWarmReq (session : Nat) (key : Word) (s : State) : Out :=
  .next (s.mgmt session (·.register) fun s1 => (s1.warmKey key).answer session rDone)

/-- The registers that SMBus reads (R569). -/
def smbusRegs : List RegAddr :=
  [⟨.sup, 0x4E00⟩, ⟨.sup, 0x4E04⟩, ⟨.sup, 0x4C00⟩, ⟨.sup, 0x4C04⟩, ⟨.sup, 0x4C08⟩, ⟨.sup, 0x4C0C⟩, ⟨.pwr, 0x4⟩, ⟨.pwr, 0x8⟩,
    ⟨.thm, 0x4⟩, ⟨.bbx, 0x4⟩] ++
  (List.range 256).map (fun k => (⟨.pwr, 0x100 + 4 * k⟩ : RegAddr)) ++
  (List.range 256).map (fun k => (⟨.thm, 0x100 + 4 * k⟩ : RegAddr)) ++
  (List.range 32).map (fun k => (⟨.phw, 0x100 + 4 * k⟩ : RegAddr))

/-- Whether SMBus reads a register, by its address. -/
def smbusReads (a : RegAddr) : Bool :=
  match a.block with
  | .sup => a.offset == 0x4E00 || a.offset == 0x4E04 || (group 0x4C00 16 1 a.offset).isSome
  | .pwr => a.offset == 4 || a.offset == 8 || (group 0x100 16 64 a.offset).isSome
  | .thm => a.offset == 4 || (group 0x100 16 64 a.offset).isSome
  | .bbx => a.offset == 4
  | .phw => (group 0x100 32 4 a.offset).isSome
  | _ => false

/-- The word that a block read returns. -/
def State.smbus (s : State) (a : RegAddr) : Word := if smbusReads a then s.readReg a else 0

def execSmbusBlockRead (a : RegAddr) (s : State) : Out := .next { s with sup := { s.sup with console := [s.smbus a] } }

/-- The node asks for an interval of 10 ms to 60 s; or the interval has passed, and the device sends a register snapshot; its registers are
those of SMBus (DESIGN CHOICE, log entry 49). -/
def execTelemetry (session : Nat) (interval : Option Nat) (s : State) : Out :=
  .next (match s.session session, interval with
    | none, _ => s
    | some _, some n => s.onMsg session fun _ s1 =>
      match s1.session session with
      | none => s1
      | some x =>
        if n < 10 ∨ 60000 < n then s1
        else { s1 with sessions := SMap.set Session.init s1.sessions session { x with telemEvery := some n } }
    | some x, none =>
      if x.lost.isSome || !x.telemEvery.any (fun n => x.lastTelem.all fun t => Nat.ble (t + n * 100000) s.now) then s
      else ({ s with sessions := SMap.set Session.init s.sessions session { x with lastTelem := some s.now } } : State).answer session
        (.telemetry (smbusRegs.map s.readReg)))

/-- Records from the selected index on (R485, R547). -/
def execBbxRead (session : Nat) (sel : Word) (count : Nat) (s : State) : Out :=
  .next (s.onMsg session fun _ s1 =>
    s1.answer session (.bbxData ((List.range count).map fun k => s1.bbx.record sel (sel.toNat % 65536 + k))))

/-- ALERT_N is low (R569). -/
def State.alert (s : State) : Bool :=
  s.sup.phase == 15 || s.sites.any (fun e => e.2.tstate == 1) || s.sup.overcap || s.bbx.frozen ||
    s.parts.any (fun e => e.2.oos) || s.plk.any fun e => e.2.unread

/-! ### The clear rows (R60, R61, R103, R140, R178, R217, R222, R256, R277, R383) -/

def execSiteNumClearFallback (site : Fin 64) (s : State) : Out := .next (s.clearCtr site .fallback)

def execSiteNumClearSat (site : Fin 64) (s : State) : Out := .next (s.clearCtr site .sat)

def execSiteNumClearFmtfault (site : Fin 64) (s : State) : Out := .next (s.clearCtr site .fmtfault)

def execSiteChkClearAccecc (site : Fin 64) (s : State) : Out := .next (s.clearCtr site .accecc)

def execSiteChkClearVparity (site : Fin 64) (s : State) : Out := .next (s.clearCtr site .vparity)

def execSiteChkClearResidue (site : Fin 64) (s : State) : Out := .next (s.clearCtr site .residue)

def execSiteChkClearAbft (site : Fin 64) (s : State) : Out := .next (s.clearCtr site .abft)

def execVatCntClearWretry (site : Fin 64) (s : State) : Out := .next (s.clearCtr site .wretry)

def execVatCntClearOvr (site : Fin 64) (s : State) : Out := .next (s.clearCtr site .ovr)

def execVatCntClearZero (site : Fin 64) (s : State) : Out := .next (s.clearCtr site .zero)

def execVatCntClearWide (site : Fin 64) (s : State) : Out := .next (s.clearCtr site .wide)

def execVatCntClearSplit (site : Fin 64) (s : State) : Out := .next (s.clearCtr site .split)

def execVatCntClearCheck (site : Fin 64) (s : State) : Out := .next (s.clearCtr site .check)

def execSzCntClearAccfail (site : Fin 64) (s : State) : Out := .next (s.clearCtr site .accfail)

def execSzCntClearDiscard (site : Fin 64) (s : State) : Out := .next (s.clearCtr site .discard)

def execSzCntClearChkvec (site : Fin 64) (s : State) : Out := .next (s.clearCtr site .chkvec)

def execSiteScrClearDmawait (site : Fin 64) (s : State) : Out := .next (s.clearCtr site .dmawait)

def execSiteScrClearCe (site : Fin 64) (s : State) : Out := .next (s.clearCtr site .scrCe)

def execLoftClearUe (site : Fin 64) (s : State) : Out := .next (s.clearCtr site .loftUe)

def execLoftClearCe (site : Fin 64) (s : State) : Out := .next (s.clearCtr site .loftCe)

def execNetCntClearAudit (site : Fin 64) (s : State) : Out := .next (s.clearCtr site .netAudit)

def execNetCntClearPressovf (site : Fin 64) (s : State) : Out := .next (s.clearCtr site .pressovf)

def execNetCntClearFence (site : Fin 64) (s : State) : Out := .next (s.clearCtr site .netFence)

def execNetCntClearE2e (site : Fin 64) (s : State) : Out := .next (s.clearCtr site .e2e)

def execNetCntClearHcrc (site : Fin 64) (s : State) : Out := .next (s.clearCtr site .hcrc)

def execSemCntClearAudit (site : Fin 64) (s : State) : Out := .next (s.clearCtr site .semAudit)

def execSemCntClearError (site : Fin 64) (s : State) : Out := .next (s.clearCtr site .semError)

def execSemCntClearFence (site : Fin 64) (s : State) : Out := .next (s.clearCtr site .semFence)

def execSiteKvClearVerfault (site : Fin 64) (s : State) : Out := .next (s.clearCtr site .verfault)

def execSiteKvClearHold (site : Fin 64) (s : State) : Out := .next (s.clearCtr site .hold)

end Sys2Proof.Machine
end

