-- ==== Sys2Proof/Machine/Ports.lean ====
section
/-! DEFINITION. Phiwin ports and sessions (R546–R556), peer links (R557–R564), storage (R565, R566), flash image writes
(R568), the console and JTAG (R569), the resets of ring dies (R494, R525). -/

namespace Sys2Proof.Machine

/-! ### Ports (R545, R546, R551, R570) -/

def State.setPhw (s : State) (n : Fin 4) (x : PhwPort) : State := { s with phw := SMap.set PhwPort.init s.phw n.val x }

/-- A port that may announce: up, and the device ready. -/
def State.announces (s : State) (n : Fin 4) : Bool := (s.phwPort n).up && s.sup.phase == 12

/-- The beacon of a port. -/
def State.beaconOf (s : State) (port : Fin 4) : Beacon :=
  { cert := s.ident.certDigest, port := port, svn := s.ident.fwRun, ream := match s.furnish with | none => 0 | some f => f.reamId
    phase := s.sup.phase }

/-- A beacon each 100 ms. -/
def execBeacon (port : Fin 4) (s : State) : Out :=
  let x := s.phwPort port
  .next (if s.announces port && (x.beacons = 0 || x.lastBeacon + 10000000 ≤ s.now) then
      s.setPhw port { x.sent 1 with beacons := x.beacons + 1, lastBeacon := s.now, beacon := some (s.beaconOf port) }
    else s)

/-- The open session of a port that a frame names. -/
def State.heardOn (s : State) (port : Fin 4) (n : Nat) : Option Session := (s.session n).filter fun y => y.port = port && y.lost.isNone

/-- A frame that fails R546 counts in BADFR and has no other effect.  One whose SEQ is not the one that the device expects is dropped
while the device repeats its ACK; it has arrived (R549, R555). -/
def execDroppedFrame (port : Fin 4) (bytes : List Byte) (tagOk : Bool) (s : State) : Out :=
  let x := s.phwPort port
  let h := FrameHeader.parse bytes
  .next (if x.up = false then s
    else if !frameOk bytes tagOk then s.setPhw port { x with badfr := satAdd x.badfr 1 }
    else match s.heardOn port h.session with
      | none => s
      | some y =>
        if h.seq = y.rxSeq then s
        else ({ s with sessions := SMap.set Session.init s.sessions h.session { y with lastRx := s.now } } : State).setPhw port
          { x.sent 1 with last := some (.ack h.session y.rxSeq y.grant) })

/-- The device has booted and is not halted: its ports and peer links come up (R488, R489). -/
def Sup.running (u : Sup) : Bool := u.phase == 9 || u.phase == 10 || u.phase == 12

/-- Both lanes lock; not on a device that is halted or not started, nor while THERM_TRIP_N holds the ring dies off (R488, R489, R535). -/
def execPortLanesUp (port : Fin 4) (s : State) : Out :=
  .next (if !s.sup.running || s.sup.trip || s.ident.ringOff.getLsbD (2 + port.val / 2) then s else s.setPhw port { s.phwPort port with up := true })

/-! ### Handshakes (R552, R553) -/

def State.furnNode (s : State) (id : Nat) : Option Node := s.furnish.bind fun f => f.nodes.find? (·.id = id)

/-- Room for another session on the port and on the device. -/
def State.roomFor (s : State) (n : Fin 4) : Bool := s.openOn n < 16 && (s.sessions.filter fun e => e.2.lost = none).length < 64

/-- HS_INIT: the device answers with HS_RESP once it has signed, or refuses. -/
def State.hsInit (s : State) (port : Fin 4) (node : Nat) : State :=
  let x := s.phwPort port
  let s1 := s.setPhw port { x with rxfr := satAdd x.rxfr 1 }
  if (s1.furnNode node).isNone || !s1.roomFor port || s1.ident.exhausted then s1.authFail port
  else
    let id := s1.nonce + 1
    let h : Hs := ⟨port, node, s1.now, none⟩
    ({ s1 with handshakes := SMap.set Hs.init s1.handshakes id h, nonce := id } : State).askSign (.hs id)

def execHsInit (port : Fin 4) (node : Nat) (s : State) : Out := .next (if s.announces port then s.hsInit port node else s)

/-- The session that a handshake opens. -/
def newSession (h : Hs) (n : Node) (nonce now : Nat) : Session :=
  { Session.init with
    port := h.port, node := n, ticket := Config.ticket nonce, ticketUsed := false, lastRx := now, secret := Config.ecdh nonce
    grant := Config.deviceCredit nonce }

/-- HS_FIN: both signatures of the node verify, or the handshake is refused (R552, R578).  A handshake more than 1 s old
is abandoned, and with the LMS key exhausted no session opens (R588). -/
def State.hsFin (s : State) (n : Nat) (h : Hs) (sig : SigCheck) : State :=
  let x := s.phwPort h.port
  let s1 := (s.setPhw h.port { x with rxfr := satAdd x.rxfr 1 }).dropHs n
  match s1.furnNode h.node with
  | some nd =>
    if sig.ok && s1.roomFor h.port && !s1.ident.exhausted then
      ({ s1 with
        sessions := SMap.set Session.init s1.sessions n (newSession h nd s1.nonce s1.now)
        nonce := s1.nonce + 1 } : State).sentOn h.port
        (.sessOk n nd.submit nd.management nd.register nd.exact (Config.ticket s1.nonce))
    else s1.authFail h.port
  | none => s1.authFail h.port

def execHsFin (hs : Nat) (sig : SigCheck) (s : State) : Out :=
  .next (match s.hs hs with
    | none => s
    | some h => if h.resp.isSome && s.announces h.port && s.now ≤ h.start + 100000000 then s.hsFin hs h sig else s)

/-- An abandoned handshake; a signing that waits for it is not made. -/
def execHandshakeTimeout (hs : Nat) (s : State) : Out :=
  .next (match s.hs hs with
    | none => s
    | some h =>
      if h.start + 100000000 ≤ s.now then
        ({ s with ident := { s.ident with signings := s.ident.signings.filter fun g => g != .hs hs } } : State).dropHs hs
      else s)

/-! ### Frames of a session (R549, R552) -/

/-- A new epoch from the next frame on. -/
def execKeyUpdate (session : Nat) (s : State) : Out :=
  .next (s.onMsg session fun _ s1 =>
    match s1.session session with
    | none => s1
    | some y => { s1 with
        sessions := SMap.set Session.init s1.sessions session { y with epoch := y.epoch + 1, epochStart := y.seq } })

/-- The frames of a queue that leave it, and those that stay, behind `n` frames in the window: in order, urgent ones whatever the
credit; `held`: whether an urgent frame, and any, has stayed (R549, R550). -/
def leave (credit : Nat) : Nat → Bool × Bool → List Frame → List Frame × List Frame
  | _, _, [] => ([], [])
  | n, held, f :: r =>
    if n < 1024 && (if f.urgent then !held.1 else !held.2 && n < credit) then
      let x := leave credit (n + 1) held r
      (f :: x.1, x.2)
    else
      let x := leave credit n (held.1 || f.urgent, true) r
      (x.1, f :: x.2)

/-- The frames that leave the session's queue now. -/
def Session.ready (x : Session) : List Frame × List Frame := leave x.credit x.unacked.length (false, false) x.queued

/-- They leave, behind a KEY_UPDATE that is due. -/
def Session.fill (x : Session) (now : Nat) : Session :=
  let y := x.rekey
  { y with
    unacked := y.unacked ++ y.ready.1
    queued := y.ready.2
    epochs := y.epochs ++ y.ready.1.map fun _ => y.epoch
    seq := y.seq + BitVec.ofNat 32 y.ready.1.length
    ackAt := if x.unacked.isEmpty then now else x.ackAt }

/-- ACK: the next SEQ that the node expects, within the window of 1,024 by serial numbers, and its credit; one beyond the frames sent is
ignored. -/
def Session.acks (x : Session) (now : Nat) (a : AckInfo) : Session :=
  let n := (a.ack - x.acked).toNat
  if n ≤ x.unacked.length then
    { x with acked := a.ack, credit := a.credit, unacked := x.unacked.drop n, epochs := x.epochs.drop n, ackAt := if n = 0 then x.ackAt else now }
  else x

/-- Token frames leave now: the slots of their requests are stamped (R397). -/
def stampSent (m : SMap Slot) (n now : Nat) (fs : List Frame) : SMap Slot :=
  SMap.mapVals Slot.init (fun _ y =>
    if y.session = n ∧ y.st ≠ .free ∧ fs.any (·.isTokens y.reqId) = true then { y with tLast := now } else y) m

def execAck (session : Nat) (a : AckInfo) (s : State) : Out :=
  .next (s.onMsg session fun _ s1 =>
    match s1.session session with
    | none => s1
    | some y =>
      let z := y.acks s1.now a
      if y.unacked.length < (a.ack - y.acked).toNat then s1 else
      ({ s1 with
        slots := stampSent s1.slots session s1.now z.rekey.ready.1
        sessions := SMap.set Session.init s1.sessions session (z.fill s1.now) } : State).setPhw y.port
        ((s1.phwPort y.port).sent ((z.fill s1.now).unacked.length - z.unacked.length)))

/-- Every unacknowledged frame is sent again from ACK, 20 µs after ACK last advanced. -/
def execRetransmitTimeout (session : Nat) (s : State) : Out :=
  .next (match s.session session with
    | none => s
    | some y =>
      if y.lost.isSome || y.unacked.isEmpty || s.now < y.ackAt + 2000 then s
      else
        let x := (s.phwPort y.port).sent y.unacked.length
        ({ s with sessions := SMap.set Session.init s.sessions session { y with ackAt := s.now } } : State).setPhw y.port
          { x with retx := satAdd x.retx y.unacked.length })

/-! ### Loss, resume, end of grace (R554–R556) -/

/-- The session is lost: t_lost is stamped. -/
def State.loseSession (s : State) (n : Nat) (y : Session) : State :=
  let x := s.phwPort y.port
  ({ s with sessions := SMap.set Session.init s.sessions n { y with lost := some s.now } } : State).setPhw y.port
    { x with lost := satAdd x.lost 1 }

def execSessionLoss (session : Nat) (s : State) : Out :=
  .next (match s.session session with
    | none => s
    | some y =>
      if y.lost.isNone && (!(s.phwPort y.port).up || y.lastRx + 20000000 ≤ s.now) then s.loseSession session y else s)

/-- Every open session of a port is lost. -/
def State.losePort (s : State) (port : Fin 4) : List (Nat × Session) → State
  | [] => s
  | (n, y) :: r => (if y.port = port ∧ y.lost = none then s.loseSession n y else s).losePort port r

/-- LINK reset of a Phiwin port, or the loss of a lane. -/
def State.portDown (s : State) (port : Fin 4) : State :=
  (s.setPhw port { s.phwPort port with up := false }).losePort port s.sessions

/-- The session that a ticket resumes: lost, its ticket unused, its grace not over. -/
def State.resumable (s : State) (ticket : Nat) : Option (Nat × Session) :=
  s.sessions.find? fun e => e.2.ticket == ticket && !e.2.ticketUsed &&
    match e.2.lost with | none => false | some t => Nat.blt s.now (t + 200000000)

/-- The slots of one session handed to another; R397 applies to them from now. -/
def moveSlots (m : SMap Slot) (old new now : Nat) : SMap Slot :=
  SMap.mapVals Slot.init (fun _ y =>
    if y.session = old ∧ y.st ≠ .free then
      { y with session := new, tLast := now, tArr := if y.handed = 0 then now else y.tArr }
    else y) m

/-- Request ids of a session that have no terminal status. -/
def State.activeIds (s : State) (n : Nat) : List (BitVec 64) :=
  (s.slots.filter fun e => e.2.session = n ∧ e.2.live = true).map fun e => e.2.reqId

/-- The requests of the lost session `old` move to `new`: its frames are sent first, in order, then RESUME_REPLY with a fresh
ticket. -/
def State.resume (s : State) (new old : Nat) (y : Session) : State :=
  let v : Serv := ⟨s.now, moveSlots s.slots old new s.now, SMap.del s.sessions old, s.phw⟩
  let w := (v.pushAll ((y.unacked ++ y.queued).map fun f => (new, f))).push new
    (.resumeReply true (s.activeIds old) (Config.ticket s.nonce))
  match w.session new with
  | none => s
  | some z =>
    let z' : Session := { z with
      ticket := Config.ticket s.nonce, ticketUsed := false, kept := (z.kept ++ y.kept).take 4096
      heldCancels := z.heldCancels ++ y.heldCancels }
    let x := SMap.get PhwPort.init w.phw z.port.val
    { s with
      slots := w.slots, sessions := SMap.set Session.init w.sessions new z'
      phw := SMap.set PhwPort.init w.phw z.port.val { x with resumed := satAdd x.resumed 1 }
      nonce := s.nonce + 1 }

def execResume (session : Nat) (ticket : Nat) (s : State) : Out :=
  .next (s.onMsg session fun _ s1 =>
    match s1.resumable ticket with
    | some (old, y) => if old = session then s1 else s1.resume session old y
    | none => s1.answer session (.resumeReply false [] 0))

/-- The session has ended: its live requests end with SESSION_LOST, and what its slots still queue has no receiver. -/
def dropSession (m : SMap Slot) (n : Nat) : SMap Slot :=
  SMap.mapVals Slot.init (fun _ y => if y.session = n ∧ y.st = .ended then { y with portQ := [], statusSent := true, sent := y.handed } else y) m

/-- Tables of the step to come, where they are still due (R386, R387). -/
def State.refreshAll (s : State) : List (Fin 32) → State
  | [] => s
  | p :: r => (s.refreshTables p).refreshAll r

/-- Keys of the live slots of a session. -/
def State.sessionSlots (s : State) (n : Nat) : List Nat := (s.slots.filter fun e => e.2.session = n ∧ e.2.live = true).map (·.1)

def State.endSession (s : State) (n : Nat) : State :=
  let ks := s.sessionSlots n
  let v := s.serv.endSlots s.now 8 0 ks
  let ended := (s.slots.filter fun e => e.2.session = n).map (·.1)
  (({ s with slots := dropSession v.slots n, sessions := SMap.del v.sessions n, phw := v.phw } : State).refreshAll
    (allParts.filter fun p => ks.any fun k => k / 128 = p.val)).startReturns ended

/-- Grace is over, or the session's queue has reached 64 MiB. -/
def execGraceEnd (session : Nat) (s : State) : Out :=
  .next (match s.session session with
    | none => s
    | some y => match y.lost with
      | none => s
      | some t =>
        if t + 200000000 ≤ s.now ∨ 67108864 ≤ (y.queued.map Frame.bytes).sum then s.endSession session else s)

/-! ### Flash images, console, JTAG (R568, R569) -/

def execFlashImageWrite (session : Nat) (img : FlashImage) (s : State) : Out :=
  .next (s.mgmt session (·.management) fun s1 => s1.askImage (some session) img)

/-- A challenge is signed with both signatures by a control node with management authorisation, or, while no furnish verifies, by the
recovery key (R569, R578). -/
def State.challengeOk (s : State) (c : Challenge) : Bool :=
  c.sig.ok && match c.signer with
    | some n => (s.furnNode n).any (·.management)
    | none => s.furnish.isNone && c.key == s.ident.recovery

/-- Status commands are open; image writes and WARM need their challenge. -/
def State.console (s : State) : UartCmd → State
  | .status => { s with sup := { s.sup with console := [s.readReg ⟨.sup, 0x4E00⟩, s.readReg ⟨.sup, 0x4E04⟩] } }
  | .warm c => if s.challengeOk c then { s with sup := s.sup.requestWarm 5 } else s
  | .firmware c g => if s.challengeOk c then s.askImage none (.firmware g) else s
  | .furnish c g => if s.challengeOk c then s.askImage none (.furnish g) else s

def execUartConsoleCommand (c : UartCmd) (s : State) : Out := .next (s.console c)

/-- Boundary scan of the ring-die I/O; private instructions are disabled by fuse. -/
def execJtagScan (priv : Bool) (tdi : List Bool) (s : State) : Out :=
  .next (if priv then s else { s with sup := { s.sup with boundary := tdi } })

/-! ### Reads of packages that fail (R434, R560, R566) -/

/-- The source that a partition's load reads from now. -/
def State.reading (s : State) (p : Fin 32) : Option Source :=
  let l := (s.part p).load
  if l.state = 1 ∨ l.state = 2 then (s.entryOf p l.entry).bind fun w => w.sources[l.src]? else none

/-- The partitions that read from a source. -/
def State.readers (s : State) (q : Source → Bool) : List (Fin 32) := allParts.filter fun p => (s.reading p).any q

def State.failReads (s : State) : List (Fin 32) → State
  | [] => s
  | p :: r => (s.sourceFails p).failReads r

/-! ### Peer links (R558–R564) -/

/-- Link-up: the ends authenticate, which takes a signature of this device, in its turn (R559, R585–R588); until then, without it, or with
another partner, the port is in AUTH. -/
def execPeerLinkUp (port : Fin 8) (partner partnerPort : Nat) (sig : SigCheck) (s : State) : Out :=
  let x := s.plkPort port
  .next (if x.state = 3 ∨ s.sup.running = false ∨ s.diesOff = true ∨ s.ident.ringOff.getLsbD (4 + port.val / 2) = true then s
    else
      ({ s.setPlk port { x with state := 2, partner := 0, lastFrame := s.now } with ident := s.ident.dropPeer port } : State).askSign
        (.peer port partner partnerPort sig))

/-- Partitions whose step program sends or receives through a peer port (R560, R563). -/
def State.peerParts (s : State) (n : Fin 8) : List (Fin 32) :=
  allParts.filter fun p => (s.part p).loaded && match (s.part p).program with
    | none => false
    | some g => g.stages.any fun x => x.ports.contains n

/-- The slot's target or draft is the model. -/
def Slot.uses (y : Slot) (model : BitVec 16) : Bool := match y.q with | none => false | some q => q.model == model || q.draft == some model

/-- Keys of the live slots that depend on a peer port: through the step program of their partition, or through the load of their model,
which reads from the port (R560). -/
def State.peerSlots (s : State) (n : Fin 8) : List Nat :=
  s.liveSlots (s.peerParts n) ++
    (s.readers (· == .peer n)).flatMap fun p => (s.liveSlots [p]).filter fun k =>
      !(s.peerParts n).contains p && (SMap.get Slot.init s.slots k).uses (s.part p).load.model

/-- Slots end with a status outside R406, with what follows for the tables of their partitions and their resources. -/
def State.endKeys (s : State) (code detail : BitVec 8) (ks : List Nat) : State :=
  let v := s.serv.endSlots s.now code detail ks
  (({ s with slots := v.slots, sessions := v.sessions, phw := v.phw } : State).refreshAll
    (allParts.filter fun p => ks.any fun k => k / 128 = p.val)).startReturns ks

/-- The port is lost: FAULT 0x05 to the slots that depend on it, failed reads, LOSSES; what stood at the port is gone.  It trains again
(`st` = 1), or is down after a reset of its own. -/
def State.peerLost (s : State) (n : Fin 8) (st : BitVec 2) : State :=
  let x := s.plkPort n
  let s1 : State := { s with
    ident := s.ident.dropPeer n
    plk := SMap.set PlkPort.init s.plk n.val { x with
      state := st, partner := 0, losses := satAdd x.losses 1, unread := true, credit := 0, owed := 0, out := [], sent := [] } }
  (s1.endKeys 5 5 (s.peerSlots n)).failReads (s.readers (· == .peer n))

/-- The sending partition's verdict for the step (R563): a clean one counts in the couch's summary; slots that the sender has ended end here
with the sender's status, and the couch waits for it no more. -/
def State.peerVerdict (s : State) (port : Fin 8) (p : Fin 32) : Option PeerVerdict → State
  | none => s
  | some v =>
    let c := (s.part p).couch
    let s1 := s.setPart p { s.part p with couch := { c with peers := if c.peers.contains port then c.peers else port :: c.peers } }
    match v with
    | .clean => s1
    | .ended slots code detail => s1.endKeys code detail ((s1.liveSlots [p]).filter fun k => slots.any fun n => k % 128 == n.val)

/-- Frames leave while there is credit, and stand in the sender's buffer until it returns (R558). -/
def PlkPort.pump (x : PlkPort) : PlkPort :=
  { x with sent := x.sent ++ x.out.take x.credit, out := x.out.drop x.credit, credit := x.credit - (x.out.take x.credit).length }

/-- Credits that a frame returns: up to 64 stand at the port, and so many of the oldest frames leave the buffer. -/
def PlkPort.credited (x : PlkPort) (n : Nat) : PlkPort := { x with credit := min 64 (x.credit + n), sent := x.sent.drop n }

/-- A data frame stands at the port for its partition, and its credit goes back with the next frame. -/
def PlkPort.take (x : PlkPort) (f : PeerFrame) : PlkPort :=
  { x with owed := 1, arrived := x.arrived ++ [⟨f.sender, f.part, f.transfer, f.index, f.payload⟩] }

/-- A frame arrives on a port that is up: accepted, asked for again, or its second failure loses the port.  In state AUTH its codewords count and
it carries no data. -/
def execPeerFrame (port : Fin 8) (f : PeerFrame) (s : State) : Out :=
  let x := s.plkPort port
  let y : PlkPort := { x with
    lastFrame := s.now, feccor := satAdd x.feccor f.corrected, fecunc := satAdd x.fecunc f.uncorrectable, owed := 0 }
  .next (if x.state ≤ 1 then s
    else if x.state = 2 then s.setPlk port y
    else if f.crcOk && f.uncorrectable == 0 then
      let z := (y.credited f.credit).pump
      if f.idle then s.setPlk port z else (s.setPlk port (z.take f)).peerVerdict port f.part f.verdict
    else if f.retransmission then (s.setPlk port y).peerLost port 1
    else s.setPlk port { y with retry := satAdd y.retry 1 })

/-- Lock is lost on a lane, or the partner's port is reset. -/
def execPeerLoss (port : Fin 8) (s : State) : Out := .next (if 2 ≤ (s.plkPort port).state.toNat then s.peerLost port 1 else s)

/-- 10 µs without a frame. -/
def execPeerIdleTimeout (port : Fin 8) (s : State) : Out :=
  .next (if 2 ≤ (s.plkPort port).state.toNat ∧ (s.plkPort port).lastFrame + 1000 ≤ s.now then s.peerLost port 1 else s)

/-- Frames for the partner, behind those that wait: one transfer. -/
def PlkPort.send (x : PlkPort) (bs : List PeerBody) : PlkPort :=
  ({ x with
    transfers := x.transfers + 1
    out := x.out ++ bs.zipIdx.map fun e => ⟨x.transfers, e.2, e.1⟩ } : PlkPort).pump

/-- Shard `shard` of a package as it goes to a partner: frames of up to 2,048 B. -/
def Package.pieces (k : Package) (shard : Nat) : List PeerBody :=
  (List.range (max 1 ((k.lens.getD shard 0 + 2047) / 2048))).map (.shard k.pubkey k.pkgid shard)

/-- A shard of a trusted package in the cache is served, which is a use of the package (R440, R564); another, or one in the loft of a
site that sleeps (R499), is answered as absent. -/
def execPeerShardRequest (port : Fin 8) (pubkey pkgid shard : Nat) (s : State) : Out :=
  let x := s.plkPort port
  let trusted := match s.furnish with | none => false | some fu => fu.publishers.any (·.pubkey == pubkey)
  let mine (k : Package) : Bool :=
    k.pubkey == pubkey && k.pkgid == pkgid && shard < k.got && (s.site (Fin.ofNat 64 k.site)).serves && trusted
  .next (if x.state ≠ 3 then s
    else match s.cache.packages.find? mine with
      | some k => { s.setPlk port (x.send (k.pieces shard)) with cache := ⟨k :: s.cache.packages.filter (· != k)⟩ }
      | none => s.setPlk port (x.send [.absent pubkey pkgid shard]))

/-! ### NVMe (R565, R566, R572) -/

def State.setSto (s : State) (n : Fin 4) (x : StoPort) : State := { s with sto := SMap.set StoPort.init s.sto n.val x }

/-- The partitions whose loads read from the drive on a port. -/
def State.driveReaders (s : State) (n : Fin 4) : List (Fin 32) :=
  s.readers fun q => match q with | .nvme k _ _ => k == n | _ => false

/-- The reads in flight on a port fail. -/
def State.stoFails (s : State) (n : Fin 4) (ps : List (Fin 32)) : State :=
  (s.setSto n { s.stoPort n with failed := satAdd (s.stoPort n).failed ps.length }).failReads ps

/-- The partitions whose loads wait for read commands of the drive, oldest partition number first; a command that completes is one of the
first of them. -/
def State.commanding (s : State) (port : Fin 4) : List (Fin 32) :=
  ((s.driveReaders port).filter fun p => 0 < (s.part p).load.cmdsDue).take 1

/-- A read command has completed. -/
def State.cmdDone (s : State) (p : Fin 32) : State := s.setLoad p { (s.part p).load with cmds := (s.part p).load.cmds + 1 }

/-- A read command completes, of those that a load's read takes (R565); one with an error status fails the read (R566). -/
def execNvmeReadComplete (port : Fin 4) (error : Bool) (s : State) : Out :=
  let x := s.stoPort port
  .next (if !x.present then s
    else if error then (s.setSto port { x with failed := satAdd x.failed 1 }).failReads (s.commanding port)
    else (s.commanding port).foldl State.cmdDone (s.setSto port { x with reads := satAdd x.reads 1 }))

/-- A read command that has not completed within 2 s. -/
def execNvmeReadTimeout (port : Fin 4) (s : State) : Out :=
  .next (s.stoFails port (((s.driveReaders port).filter fun p => (s.part p).load.since + readLimit ≤ s.now).take 1))

/-- The drive is gone, with its reads. -/
def State.driveGone (s : State) (n : Fin 4) : State :=
  (s.setSto n (s.stoPort n).gone).stoFails n (s.driveReaders n)

def execNvmeSurpriseRemoval (port : Fin 4) (s : State) : Out := .next (s.driveGone port)

def execNvmeLinkDown (port : Fin 4) (s : State) : Out := .next (s.driveGone port)

/-- A namespace that the device reads: LBAs of 512 B or 4 KiB, no metadata (R565). -/
def Namespace.ok (x : Namespace) : Bool := (x.lba == 512 || x.lba == 4096) && !x.metadata

/-- The drive is enumerated, and serves later reads; namespaces of other forms are ignored. -/
def execNvmeInsertion (port : Fin 4) (speed : BitVec 3) (width : BitVec 4) (spaces : List Namespace) (s : State) : Out :=
  .next (if s.diesOff || s.ident.ringOff.getLsbD (8 + port.val / 2) then s
    else s.setSto port { s.stoPort port with present := true, speed := speed, width := width, spaces := spaces.filter Namespace.ok })

/-! ### LINK resets and ring dies (R494, R525) -/

/-- A LINK reset of peer port `n`: its state is reset, and a port that was up is lost. -/
def State.peerReset (s : State) (n : Fin 8) : State :=
  if (s.plkPort n).state = 3 then s.peerLost n 0
  else { s.setPlk n { s.plkPort n with state := 0, partner := 0 } with ident := s.ident.dropPeer n }

def execLinkReset (peer : Bool) (port : Nat) (s : State) : Out :=
  .next (if peer then (if port < 8 then s.peerReset (Fin.ofNat 8 port) else s)
    else if port < 4 then s.portDown (Fin.ofNat 4 port) else s)

/-- The ring die resets: dies 0–1 PRT0–1, 2–5 PLK0–3, 6–7 STO0–1, in the order of R477. -/
def State.ringReset (s : State) (d : Nat) : State :=
  if d < 2 then (s.portDown (Fin.ofNat 4 (2 * d))).portDown (Fin.ofNat 4 (2 * d + 1))
  else if d < 6 then (s.peerReset (Fin.ofNat 8 (2 * (d - 2)))).peerReset (Fin.ofNat 8 (2 * (d - 2) + 1))
  else
    let a := Fin.ofNat 4 (2 * (d - 6))
    let b := Fin.ofNat 4 (2 * (d - 6) + 1)
    let s1 := s.stoFails a (s.driveReaders a)
    s1.stoFails b (s1.driveReaders b)

def execVlkResetLevel (die : Fin 8) (s : State) : Out := .next (s.ringReset die.val)

end Sys2Proof.Machine
end

