-- ==== Sys2Proof/Machine/WarmUp.lean ====
section
/-! DEFINITION. Warm-up (R171–R174): the stages that the supervisor runs on a site with Nb lanes active, the passes of their lanes,
and the lanes that do not complete in time. -/

namespace Sys2Proof.Machine

/-- The lanes that a warm-up stage of a bin keeps active (R171). -/
def warmCount (b : Fin 4) : Nat := 32 + 64 * b.val

/-- The lanes of the site that the spare map names, by their keys. -/
def State.mappedLanes (s : State) (site : Fin 64) : List Nat :=
  laneKeys ((mappedKeys s.map).filter fun k => k / 256 == site.val)

/-- The active set of a warm-up stage for bin `b` that takes in lane `k`: the mapped lanes from it on, in turn. -/
def State.warmLanes (s : State) (site : Fin 64) (b : Fin 4) (k : Nat) : List Nat :=
  let l := s.mappedLanes site
  ((l.drop (l.findIdx (· == k))) ++ l.take (l.findIdx (· == k))).take (warmCount b)

/-- The worst-case power in 0.01 W of a warm-up stage that keeps these lanes active, with their tiles (R333). -/
def warmCost (l : List Nat) : Nat := 35 * l.length + 30 * ((l.map (· / 2)).dedup).length

/-- The sites other than this one on which warm-up runs. -/
def State.warming (s : State) (site : Fin 64) : List (Fin 64) := allSites.filter fun i => i != site && !(s.site i).warmSet.isEmpty

/-- The shares of the partitions that are open, in W. -/
def State.openShares (s : State) : Nat :=
  match s.furnish with
  | none => 0
  | some f => ((f.parts.filter fun x => (s.part x.part).open_).map (·.share)).sum

/-- The power cap allows warm-up on the site beside the sites where it runs, the open partitions and the fixed allowance (R171, R528;
what is summed is the model's choice, log entry 26). -/
def State.warmFits (s : State) (site : Fin 64) (b : Fin 4) (k : Nat) : Bool :=
  (s.warming site).isEmpty ||
    100 * (1500 + s.openShares) + ((s.warming site).map fun i => warmCost (s.site i).warmSet).sum + warmCost (s.warmLanes site b k) ≤
      1000 * s.sup.cap.toNat

/-- The supervisor rotates the active set of a site so that the stage that runs is of bin `b` and takes in lane `k`; every lane in
the set runs load drive in its work slots (R171).  With its first stage the site's warm-up starts
(R172).  Which set follows which is the model's choice (log entry 26). -/
def State.warmTurn (s : State) (site : Fin 64) (b : Fin 4) (k : Nat) : State :=
  let x := s.site site
  if x.warmBin.toNat = b.val ∧ x.warmSet.contains k = true then s
  else
    let new := s.warmLanes site b k
    { s with
      lanes := SMap.modifyAll Lane.init (fun _ l => { l with drive := .on }) new
        (SMap.modifyAll Lane.init (fun j l => if new.contains j then l else l.rest (SMap.get Tile.init s.tiles (j / 2)).clk (j % 2))
          x.warmSet s.lanes)
      sites := SMap.set Site.init s.sites site.val { x with
        warmBin := BitVec.ofNat 2 b.val, warmSet := new, warmFrom := if x.warmSet.isEmpty then s.sup.counter else x.warmFrom } }

/-- The warm-up of a site is over when no lane of it owes one: its lanes leave load drive. -/
def State.warmEnd (s : State) (site : Fin 64) : State :=
  if s.lanes.any fun e => onLanes site.val e.1 && e.2.rewarm then s
  else
    { s with
      lanes := SMap.modifyAll Lane.init (fun j l => l.rest (SMap.get Tile.init s.tiles (j / 2)).clk (j % 2)) (s.site site).warmSet s.lanes
      sites := SMap.set Site.init s.sites site.val { s.site site with warmSet := [] } }

/-- The neighbour tests of a site that has woken or been re-initialised are still to come: they run in the PARTITION reset that is due,
before its warm-up (R496, R508). -/
def State.testsDue (s : State) (site : Fin 64) : Bool :=
  (s.partsOn site).any fun p => (s.part p).retest && (s.part p).resetDue && !(s.part p).oos

/-- One pass of warm-up on a lane and bin: in stages that the supervisor runs, for a bin that has not completed warm-up or is barred
(R171, R173), and for a quarantined lane only after a TILE reset (R174); a site that the power cap holds back waits.  In a supply-warning window the pass is discarded
(R155). -/
def execWarmUp (t : PTile) (lane : Fin 2) (bin : Fin 4) (s : State) : Out :=
  let l := s.lane t lane
  .next (if (s.site t.site).up && (s.site t.site).arith && !s.testsDue t.site && !(s.tile t).pl.bad && !(s.tile t).clk.running &&
        (!(l.getBin bin.val).warm || (l.getBin bin.val).barred) && (!l.quar || l.lifting) &&
        ((s.site t.site).warmSet.contains (laneKey t lane) || s.warmFits t.site bin (laneKey t lane)) then
      let s1 := s.warmTurn t.site bin (laneKey t lane)
      if (s.site t.site).window.isSome then { s1 with ctrs := ctrAdd s1.ctrs t.site .discard 1 }
      else (s1.judgePass t lane bin (warmSums s.nonce) 1).warmEnd t.site
    else s)

/-- A lane that has not completed warm-up 10 ms after its site's warm-up start is quarantined, if three rejections have not done so
already, and its tile has failed: the spare map names another one (R172, R174). -/
def execWarmUpTimeout (t : PTile) (lane : Fin 2) (s : State) : Out :=
  let l := s.lane t lane
  .next (if (s.site t.site).up && l.rewarm && !l.warmedUp && !(s.tile t).pl.bad && !(s.tile t).pl.failed &&
        !(s.site t.site).warmSet.isEmpty && 1000000 ≤ s.sup.counter.toNat - (s.site t.site).warmFrom.toNat then
      let again := l.quar && !l.lifting
      ({ s with
        lanes := SMap.set Lane.init s.lanes (laneKey t lane) (if again then l else l.quarantine)
        bbx := s.bbx.appendAll ((if again then [] else [quarRecord s t lane]) ++
          [s.sup.recordOf evtTileBadBringup t.site.val (t.key % 256) 15 (s.tile t).pl.part]) } : State).failTile t
    else s)

end Sys2Proof.Machine
end

