-- ==== Sys2Proof/Machine/Dispatch.lean ====
section
/-! DEFINITION. One arm for each command: a direct call of its meaning. -/

namespace Sys2Proof.Machine

def exec (i : Instr) (s : State) : Host.Outcome State Fault Refusal :=
  match i with
  | .aluAdd t rd ra rb => Sys2Proof.Machine.execAluAdd t rd ra rb s
  | .aluSub t rd ra rb => Sys2Proof.Machine.execAluSub t rd ra rb s
  | .aluAnd t rd ra rb => Sys2Proof.Machine.execAluAnd t rd ra rb s
  | .aluOr t rd ra rb => Sys2Proof.Machine.execAluOr t rd ra rb s
  | .aluXor t rd ra rb => Sys2Proof.Machine.execAluXor t rd ra rb s
  | .aluSll t rd ra rb => Sys2Proof.Machine.execAluSll t rd ra rb s
  | .aluSrl t rd ra rb => Sys2Proof.Machine.execAluSrl t rd ra rb s
  | .aluSra t rd ra rb => Sys2Proof.Machine.execAluSra t rd ra rb s
  | .aluSlt t rd ra rb => Sys2Proof.Machine.execAluSlt t rd ra rb s
  | .aluSltu t rd ra rb => Sys2Proof.Machine.execAluSltu t rd ra rb s
  | .aluMul t rd ra rb => Sys2Proof.Machine.execAluMul t rd ra rb s
  | .aluMulhu t rd ra rb => Sys2Proof.Machine.execAluMulhu t rd ra rb s
  | .aluMin t rd ra rb => Sys2Proof.Machine.execAluMin t rd ra rb s
  | .aluMax t rd ra rb => Sys2Proof.Machine.execAluMax t rd ra rb s
  | .aluMinu t rd ra rb => Sys2Proof.Machine.execAluMinu t rd ra rb s
  | .aluMaxu t rd ra rb => Sys2Proof.Machine.execAluMaxu t rd ra rb s
  | .addi t rd ra imm => Sys2Proof.Machine.execAddi t rd ra imm s
  | .andi t rd ra imm => Sys2Proof.Machine.execAndi t rd ra imm s
  | .ori t rd ra imm => Sys2Proof.Machine.execOri t rd ra imm s
  | .xori t rd ra imm => Sys2Proof.Machine.execXori t rd ra imm s
  | .slti t rd ra imm => Sys2Proof.Machine.execSlti t rd ra imm s
  | .sltiu t rd ra imm => Sys2Proof.Machine.execSltiu t rd ra imm s
  | .shi t rd ra imm => Sys2Proof.Machine.execShi t rd ra imm s
  | .lui t rd ra imm => Sys2Proof.Machine.execLui t rd ra imm s
  | .lw t rd ra imm => Sys2Proof.Machine.execLw t rd ra imm s
  | .sw t rs ra imm => Sys2Proof.Machine.execSw t rs ra imm s
  | .beq t ra rb off => Sys2Proof.Machine.execBeq t ra rb off s
  | .bne t ra rb off => Sys2Proof.Machine.execBne t ra rb off s
  | .blt t ra rb off => Sys2Proof.Machine.execBlt t ra rb off s
  | .bge t ra rb off => Sys2Proof.Machine.execBge t ra rb off s
  | .bltu t ra rb off => Sys2Proof.Machine.execBltu t ra rb off s
  | .bgeu t ra rb off => Sys2Proof.Machine.execBgeu t ra rb off s
  | .jal t rd off => Sys2Proof.Machine.execJal t rd off s
  | .jalr t rd ra imm => Sys2Proof.Machine.execJalr t rd ra imm s
  | .csrr t rd ra imm => Sys2Proof.Machine.execCsrr t rd ra imm s
  | .nop t f1 f2 f3 => Sys2Proof.Machine.execNop t f1 f2 f3 s
  | .stage t f1 f2 f3 => Sys2Proof.Machine.execStage t f1 f2 f3 s
  | .stageRetire t => Sys2Proof.Machine.execStageRetire t s
  | .send t f1 f2 f3 => Sys2Proof.Machine.execSend t f1 f2 f3 s
  | .sendRetire t => Sys2Proof.Machine.execSendRetire t s
  | .stepend t f1 f2 f3 => Sys2Proof.Machine.execStepend t f1 f2 f3 s
  | .stependRetire t => Sys2Proof.Machine.execStependRetire t s
  | .fence t f1 f2 f3 => Sys2Proof.Machine.execFence t f1 f2 f3 s
  | .fenceRetire t => Sys2Proof.Machine.execFenceRetire t s
  | .bank t f1 f2 f3 => Sys2Proof.Machine.execBank t f1 f2 f3 s
  | .bankStateChangeDone t b => Sys2Proof.Machine.execBankStateChangeDone t b s
  | .qwait t q f1 f2 f3 mod => Sys2Proof.Machine.execQwait t q f1 f2 f3 mod s
  | .qwaitComplete t q => Sys2Proof.Machine.execQwaitComplete t q s
  | .wld t f1 f2 f3 mod => Sys2Proof.Machine.execWld t f1 f2 f3 mod s
  | .wldv t f1 f2 f3 mod => Sys2Proof.Machine.execWldv t f1 f2 f3 mod s
  | .weightLoadComplete t => Sys2Proof.Machine.execWeightLoadComplete t s
  | .wsp t f1 f2 f3 mod => Sys2Proof.Machine.execWsp t f1 f2 f3 mod s
  | .osp t f1 f2 f3 mod => Sys2Proof.Machine.execOsp t f1 f2 f3 mod s
  | .passComplete t => Sys2Proof.Machine.execPassComplete t s
  | .abftVerdict t mismatch => Sys2Proof.Machine.execAbftVerdict t mismatch s
  | .vadd t f1 f2 f3 mod => Sys2Proof.Machine.execVadd t f1 f2 f3 mod s
  | .vsub t f1 f2 f3 mod => Sys2Proof.Machine.execVsub t f1 f2 f3 mod s
  | .vmul t f1 f2 f3 mod => Sys2Proof.Machine.execVmul t f1 f2 f3 mod s
  | .vfma t f1 f2 f3 mod => Sys2Proof.Machine.execVfma t f1 f2 f3 mod s
  | .vmin t f1 f2 f3 mod => Sys2Proof.Machine.execVmin t f1 f2 f3 mod s
  | .vmax t f1 f2 f3 mod => Sys2Proof.Machine.execVmax t f1 f2 f3 mod s
  | .vand t f1 f2 f3 mod => Sys2Proof.Machine.execVand t f1 f2 f3 mod s
  | .vor t f1 f2 f3 mod => Sys2Proof.Machine.execVor t f1 f2 f3 mod s
  | .vxor t f1 f2 f3 mod => Sys2Proof.Machine.execVxor t f1 f2 f3 mod s
  | .vshl t f1 f2 f3 mod => Sys2Proof.Machine.execVshl t f1 f2 f3 mod s
  | .vshr t f1 f2 f3 mod => Sys2Proof.Machine.execVshr t f1 f2 f3 mod s
  | .vclt t f1 f2 f3 mod => Sys2Proof.Machine.execVclt t f1 f2 f3 mod s
  | .vceq t f1 f2 f3 mod => Sys2Proof.Machine.execVceq t f1 f2 f3 mod s
  | .vsel t f1 f2 f3 mod => Sys2Proof.Machine.execVsel t f1 f2 f3 mod s
  | .vcvt t f1 f2 f3 mod => Sys2Proof.Machine.execVcvt t f1 f2 f3 mod s
  | .venc t f1 f2 f3 mod => Sys2Proof.Machine.execVenc t f1 f2 f3 mod s
  | .vexp t f1 f2 f3 mod => Sys2Proof.Machine.execVexp t f1 f2 f3 mod s
  | .vrcp t f1 f2 f3 mod => Sys2Proof.Machine.execVrcp t f1 f2 f3 mod s
  | .vrsq t f1 f2 f3 mod => Sys2Proof.Machine.execVrsq t f1 f2 f3 mod s
  | .vred t f1 f2 f3 mod => Sys2Proof.Machine.execVred t f1 f2 f3 mod s
  | .vscan t f1 f2 f3 mod => Sys2Proof.Machine.execVscan t f1 f2 f3 mod s
  | .vamax t f1 f2 f3 mod => Sys2Proof.Machine.execVamax t f1 f2 f3 mod s
  | .vtopk t f1 f2 f3 mod => Sys2Proof.Machine.execVtopk t f1 f2 f3 mod s
  | .vdraw t f1 f2 f3 mod => Sys2Proof.Machine.execVdraw t f1 f2 f3 mod s
  | .vsmax t f1 f2 f3 mod => Sys2Proof.Machine.execVsmax t f1 f2 f3 mod s
  | .vdrain t f1 f2 f3 mod => Sys2Proof.Machine.execVdrain t f1 f2 f3 mod s
  | .vld t f1 f2 f3 mod => Sys2Proof.Machine.execVld t f1 f2 f3 mod s
  | .vst t f1 f2 f3 mod => Sys2Proof.Machine.execVst t f1 f2 f3 mod s
  | .vsrch t f1 f2 f3 mod => Sys2Proof.Machine.execVsrch t f1 f2 f3 mod s
  | .vrot t f1 f2 f3 mod => Sys2Proof.Machine.execVrot t f1 f2 f3 mod s
  | .vbcst t f1 f2 f3 mod => Sys2Proof.Machine.execVbcst t f1 f2 f3 mod s
  | .vectorCommandComplete t => Sys2Proof.Machine.execVectorCommandComplete t s
  | .leval t f1 f2 f3 mod => Sys2Proof.Machine.execLeval t f1 f2 f3 mod s
  | .levalComplete t lane overRange => Sys2Proof.Machine.execLevalComplete t lane overRange s
  | .productVerdict t lane => Sys2Proof.Machine.execProductVerdict t lane s
  | .ldrive t f1 f2 f3 mod => Sys2Proof.Machine.execLdrive t f1 f2 f3 mod s
  | .loadDriveEnd t lane => Sys2Proof.Machine.execLoadDriveEnd t lane s
  | .substituteStart t lane => Sys2Proof.Machine.execSubstituteStart t lane s
  | .substituteComplete t lane => Sys2Proof.Machine.execSubstituteComplete t lane s
  | .dcopy t f1 f2 f3 mod => Sys2Proof.Machine.execDcopy t f1 f2 f3 mod s
  | .dcopyComplete t => Sys2Proof.Machine.execDcopyComplete t s
  | .tlbMissWalkDone t => Sys2Proof.Machine.execTlbMissWalkDone t s
  | .dpress t f1 f2 f3 mod => Sys2Proof.Machine.execDpress t f1 f2 f3 mod s
  | .dmcast t f1 f2 f3 mod => Sys2Proof.Machine.execDmcast t f1 f2 f3 mod s
  | .treeInjectionComplete t => Sys2Proof.Machine.execTreeInjectionComplete t s
  | .dmaWaitLimit t bank => Sys2Proof.Machine.execDmaWaitLimit t bank s
  | .remoteScrAccess t dst => Sys2Proof.Machine.execRemoteScrAccess t dst s
  | .sadd t f1 f2 f3 mod => Sys2Proof.Machine.execSadd t f1 f2 f3 mod s
  | .ssub t f1 f2 f3 mod => Sys2Proof.Machine.execSsub t f1 f2 f3 mod s
  | .swait t f1 f2 f3 mod => Sys2Proof.Machine.execSwait t f1 f2 f3 mod s
  | .sread t f1 f2 f3 mod => Sys2Proof.Machine.execSread t f1 f2 f3 mod s
  | .semAckArrival t site ack => Sys2Proof.Machine.execSemAckArrival t site ack s
  | .semAckTimeout t => Sys2Proof.Machine.execSemAckTimeout t s
  | .semOpAdd site src op => Sys2Proof.Machine.execSemOpAdd site src op s
  | .semOpSub site src op => Sys2Proof.Machine.execSemOpSub site src op s
  | .semOpWaitGe site src op => Sys2Proof.Machine.execSemOpWaitGe site src op s
  | .semOpRead site src op => Sys2Proof.Machine.execSemOpRead site src op s
  | .semDeferredPerform p => Sys2Proof.Machine.execSemDeferredPerform p s
  | .semAudit site => Sys2Proof.Machine.execSemAudit site s
  | .flitHop r port vc crcOk => Sys2Proof.Machine.execFlitHop r port vc crcOk s
  | .transferArrival t crcOk => Sys2Proof.Machine.execTransferArrival t crcOk s
  | .pressInput r port checks => Sys2Proof.Machine.execPressInput r port checks s
  | .multicastFlit r port => Sys2Proof.Machine.execMulticastFlit r port s
  | .creditReturn r port vc => Sys2Proof.Machine.execCreditReturn r port vc s
  | .creditAuditStart => Sys2Proof.Machine.execCreditAuditStart s
  | .auditMarker r port vc => Sys2Proof.Machine.execAuditMarker r port vc s
  | .auditEcho r port vc => Sys2Proof.Machine.execAuditEcho r port vc s
  | .loftRefreshSlot site ch => Sys2Proof.Machine.execLoftRefreshSlot site ch s
  | .loftAccess site t => Sys2Proof.Machine.execLoftAccess site t s
  | .loftReadDone site t => Sys2Proof.Machine.execLoftReadDone site t s
  | .configWrite t w => Sys2Proof.Machine.execConfigWrite t w s
  | .tlbInvalidation t handle vpage => Sys2Proof.Machine.execTlbInvalidation t handle vpage s
  | .pageTableEdit e => Sys2Proof.Machine.execPageTableEdit e s
  | .editNotice t handle => Sys2Proof.Machine.execEditNotice t handle s
  | .editApply p handle => Sys2Proof.Machine.execEditApply p handle s
  | .frameRelease p handle => Sys2Proof.Machine.execFrameRelease p handle s
  | .weightLoadWrite t vat row codes differs badCols => Sys2Proof.Machine.execWeightLoadWrite t vat row codes differs badCols s
  | .sizingSlot t lane => Sys2Proof.Machine.execSizingSlot t lane s
  | .checkVectorVerdict t lane => Sys2Proof.Machine.execCheckVectorVerdict t lane s
  | .closingCheckVector t lane => Sys2Proof.Machine.execClosingCheckVector t lane s
  | .sizingPassResult t lane bin => Sys2Proof.Machine.execSizingPassResult t lane bin s
  | .sizingPassDiscard t lane bin => Sys2Proof.Machine.execSizingPassDiscard t lane bin s
  | .acceptanceReport t lane bin => Sys2Proof.Machine.execAcceptanceReport t lane bin s
  | .binDue t lane bin => Sys2Proof.Machine.execBinDue t lane bin s
  | .binBarred t lane bin => Sys2Proof.Machine.execBinBarred t lane bin s
  | .dueBarMessage t lane bin bar count => Sys2Proof.Machine.execDueBarMessage t lane bin bar count s
  | .warmUp t lane bin => Sys2Proof.Machine.execWarmUp t lane bin s
  | .warmUpTimeout t lane => Sys2Proof.Machine.execWarmUpTimeout t lane s
  | .vatAcceptanceTest t lane vat readback => Sys2Proof.Machine.execVatAcceptanceTest t lane vat readback s
  | .submit session q => Sys2Proof.Machine.execSubmit session q s
  | .programChangeDone p ok rows => Sys2Proof.Machine.execProgramChangeDone p ok rows s
  | .cancel session id => Sys2Proof.Machine.execCancel session id s
  | .stependReport p t rep => Sys2Proof.Machine.execStependReport p t rep s
  | .couchRelease p outs => Sys2Proof.Machine.execCouchRelease p outs s
  | .configWriteAck p t => Sys2Proof.Machine.execConfigWriteAck p t s
  | .configWriteResend p => Sys2Proof.Machine.execConfigWriteResend p s
  | .stepGateAdd p => Sys2Proof.Machine.execStepGateAdd p s
  | .faultNotice p n => Sys2Proof.Machine.execFaultNotice p n s
  | .stageReplay p => Sys2Proof.Machine.execStageReplay p s
  | .stageOverrun t => Sys2Proof.Machine.execStageOverrun t s
  | .deadlineExpiry p slot => Sys2Proof.Machine.execDeadlineExpiry p slot s
  | .slotFree p slot => Sys2Proof.Machine.execSlotFree p slot s
  | .portTokenFrame p slot => Sys2Proof.Machine.execPortTokenFrame p slot s
  | .modelLoad session p model => Sys2Proof.Machine.execModelLoad session p model s
  | .manifestFetched p m => Sys2Proof.Machine.execManifestFetched p m s
  | .shardReadComplete p read desc => Sys2Proof.Machine.execShardReadComplete p read desc s
  | .shardReadTimeout p => Sys2Proof.Machine.execShardReadTimeout p s
  | .loadCommit p => Sys2Proof.Machine.execLoadCommit p s
  | .programPackageLoad session p narrow exact read => Sys2Proof.Machine.execProgramPackageLoad session p narrow exact read s
  | .programInstall p rows => Sys2Proof.Machine.execProgramInstall p rows s
  | .adapterInstall session p m d => Sys2Proof.Machine.execAdapterInstall session p m d s
  | .adapterCommit p slot area => Sys2Proof.Machine.execAdapterCommit p slot area s
  | .adapterRetire session p id => Sys2Proof.Machine.execAdapterRetire session p id s
  | .tuningJob session p model id rank seed steps start source => Sys2Proof.Machine.execTuningJob session p model id rank seed steps start source s
  | .adapterExport session p => Sys2Proof.Machine.execAdapterExport session p s
  | .stageWatchdog t => Sys2Proof.Machine.execStageWatchdog t s
  | .checkerSelfTest t fails => Sys2Proof.Machine.execCheckerSelfTest t fails s
  | .supervisorFailure => Sys2Proof.Machine.execSupervisorFailure s
  | .refclkMonitorFail input => Sys2Proof.Machine.execRefclkMonitorFail input s
  | .refclkRecovered input => Sys2Proof.Machine.execRefclkRecovered input s
  | .partitionReset p failed rows => Sys2Proof.Machine.execPartitionReset p failed rows s
  | .tileReset t rowsFailed => Sys2Proof.Machine.execTileReset t rowsFailed s
  | .pageSlotAudit p => Sys2Proof.Machine.execPageSlotAudit p s
  | .bbxCopyForward site => Sys2Proof.Machine.execBbxCopyForward site s
  | .bbxRecordArrival r => Sys2Proof.Machine.execBbxRecordArrival r s
  | .siteCounterRefresh site => Sys2Proof.Machine.execSiteCounterRefresh site s
  | .bbxSnap => Sys2Proof.Machine.execBbxSnap s
  | .bbxFreezeComplete => Sys2Proof.Machine.execBbxFreezeComplete s
  | .bbxFlushComplete ok => Sys2Proof.Machine.execBbxFlushComplete ok s
  | .tileCounterRead t => Sys2Proof.Machine.execTileCounterRead t s
  | .por => Sys2Proof.Machine.execPor s
  | .startUp obs => Sys2Proof.Machine.execStartUp obs s
  | .resetNLow => Sys2Proof.Machine.execResetNLow s
  | .warmReset obs => Sys2Proof.Machine.execWarmReset obs s
  | .siteSupplyReset site => Sys2Proof.Machine.execSiteSupplyReset site s
  | .deviceSupplyReset => Sys2Proof.Machine.execDeviceSupplyReset s
  | .linkReset peer port => Sys2Proof.Machine.execLinkReset peer port s
  | .supplyWarningWindowOpen site d => Sys2Proof.Machine.execSupplyWarningWindowOpen site d s
  | .supplyWindowClose site => Sys2Proof.Machine.execSupplyWindowClose site s
  | .supplyWindowLong site p => Sys2Proof.Machine.execSupplyWindowLong site p s
  | .supplyResetLevel site d => Sys2Proof.Machine.execSupplyResetLevel site d s
  | .siteSupplyRecovered obs => Sys2Proof.Machine.execSiteSupplyRecovered obs s
  | .input48vLow => Sys2Proof.Machine.execInput48vLow s
  | .input48vRestored obs => Sys2Proof.Machine.execInput48vRestored obs s
  | .vlkResetLevel die => Sys2Proof.Machine.execVlkResetLevel die s
  | .governorWindow site above held => Sys2Proof.Machine.execGovernorWindow site above held s
  | .overcap pin => Sys2Proof.Machine.execOvercap pin s
  | .thermalSample site x => Sys2Proof.Machine.execThermalSample site x s
  | .throttleClear site => Sys2Proof.Machine.execThrottleClear site s
  | .siteOffClear site => Sys2Proof.Machine.execSiteOffClear site s
  | .doze session p => Sys2Proof.Machine.execDoze session p s
  | .wake session p => Sys2Proof.Machine.execWake session p s
  | .standby session => Sys2Proof.Machine.execStandby session s
  | .siteSleepEntry site => Sys2Proof.Machine.execSiteSleepEntry site s
  | .beacon port => Sys2Proof.Machine.execBeacon port s
  | .hsInit port node => Sys2Proof.Machine.execHsInit port node s
  | .hsFin hs sig => Sys2Proof.Machine.execHsFin hs sig s
  | .handshakeTimeout hs => Sys2Proof.Machine.execHandshakeTimeout hs s
  | .keyUpdate session => Sys2Proof.Machine.execKeyUpdate session s
  | .ack session a => Sys2Proof.Machine.execAck session a s
  | .retransmitTimeout session => Sys2Proof.Machine.execRetransmitTimeout session s
  | .sessionLoss session => Sys2Proof.Machine.execSessionLoss session s
  | .resume session ticket => Sys2Proof.Machine.execResume session ticket s
  | .graceEnd session => Sys2Proof.Machine.execGraceEnd session s
  | .telemetry session interval => Sys2Proof.Machine.execTelemetry session interval s
  | .bbxRead session sel count => Sys2Proof.Machine.execBbxRead session sel count s
  | .mgmtRegisterRead session a => Sys2Proof.Machine.execMgmtRegisterRead session a s
  | .mgmtRegisterWrite session a v => Sys2Proof.Machine.execMgmtRegisterWrite session a v s
  | .flashImageWrite session img => Sys2Proof.Machine.execFlashImageWrite session img s
  | .attest session nonce parts => Sys2Proof.Machine.execAttest session nonce parts s
  | .revokeOwner session slot => Sys2Proof.Machine.execRevokeOwner session slot s
  | .svnCommit session furnish => Sys2Proof.Machine.execSvnCommit session furnish s
  | .lmsReservationWrite torn => Sys2Proof.Machine.execLmsReservationWrite torn s
  | .lmsTreeBuild done => Sys2Proof.Machine.execLmsTreeBuild done s
  | .peerLinkUp port partner partnerPort sig => Sys2Proof.Machine.execPeerLinkUp port partner partnerPort sig s
  | .peerFrame port f => Sys2Proof.Machine.execPeerFrame port f s
  | .peerLoss port => Sys2Proof.Machine.execPeerLoss port s
  | .peerIdleTimeout port => Sys2Proof.Machine.execPeerIdleTimeout port s
  | .peerShardRequest port pubkey pkgid shard => Sys2Proof.Machine.execPeerShardRequest port pubkey pkgid shard s
  | .nvmeReadComplete port error => Sys2Proof.Machine.execNvmeReadComplete port error s
  | .nvmeReadTimeout port => Sys2Proof.Machine.execNvmeReadTimeout port s
  | .nvmeSurpriseRemoval port => Sys2Proof.Machine.execNvmeSurpriseRemoval port s
  | .nvmeInsertion port speed width spaces => Sys2Proof.Machine.execNvmeInsertion port speed width spaces s
  | .uartConsoleCommand c => Sys2Proof.Machine.execUartConsoleCommand c s
  | .smbusBlockRead a => Sys2Proof.Machine.execSmbusBlockRead a s
  | .siteNumClearFallback site => Sys2Proof.Machine.execSiteNumClearFallback site s
  | .siteNumClearSat site => Sys2Proof.Machine.execSiteNumClearSat site s
  | .siteNumClearFmtfault site => Sys2Proof.Machine.execSiteNumClearFmtfault site s
  | .siteChkClearAccecc site => Sys2Proof.Machine.execSiteChkClearAccecc site s
  | .siteChkClearVparity site => Sys2Proof.Machine.execSiteChkClearVparity site s
  | .siteChkClearResidue site => Sys2Proof.Machine.execSiteChkClearResidue site s
  | .siteChkClearAbft site => Sys2Proof.Machine.execSiteChkClearAbft site s
  | .vatCntClearWretry site => Sys2Proof.Machine.execVatCntClearWretry site s
  | .vatCntClearOvr site => Sys2Proof.Machine.execVatCntClearOvr site s
  | .vatCntClearZero site => Sys2Proof.Machine.execVatCntClearZero site s
  | .vatCntClearWide site => Sys2Proof.Machine.execVatCntClearWide site s
  | .vatCntClearSplit site => Sys2Proof.Machine.execVatCntClearSplit site s
  | .vatCntClearCheck site => Sys2Proof.Machine.execVatCntClearCheck site s
  | .szCntClearAccfail site => Sys2Proof.Machine.execSzCntClearAccfail site s
  | .szCntClearDiscard site => Sys2Proof.Machine.execSzCntClearDiscard site s
  | .szCntClearChkvec site => Sys2Proof.Machine.execSzCntClearChkvec site s
  | .siteScrClearDmawait site => Sys2Proof.Machine.execSiteScrClearDmawait site s
  | .siteScrClearCe site => Sys2Proof.Machine.execSiteScrClearCe site s
  | .loftClearUe site => Sys2Proof.Machine.execLoftClearUe site s
  | .loftClearCe site => Sys2Proof.Machine.execLoftClearCe site s
  | .netCntClearAudit site => Sys2Proof.Machine.execNetCntClearAudit site s
  | .netCntClearPressovf site => Sys2Proof.Machine.execNetCntClearPressovf site s
  | .netCntClearFence site => Sys2Proof.Machine.execNetCntClearFence site s
  | .netCntClearE2e site => Sys2Proof.Machine.execNetCntClearE2e site s
  | .netCntClearHcrc site => Sys2Proof.Machine.execNetCntClearHcrc site s
  | .semCntClearAudit site => Sys2Proof.Machine.execSemCntClearAudit site s
  | .semCntClearError site => Sys2Proof.Machine.execSemCntClearError site s
  | .semCntClearFence site => Sys2Proof.Machine.execSemCntClearFence site s
  | .siteKvClearVerfault site => Sys2Proof.Machine.execSiteKvClearVerfault site s
  | .siteKvClearHold site => Sys2Proof.Machine.execSiteKvClearHold site s
  | .supWarmReq session key => Sys2Proof.Machine.execSupWarmReq session key s
  | .pwrCapWrite v => Sys2Proof.Machine.execPwrCapWrite v s
  | .plkPortLossesRead port => Sys2Proof.Machine.execPlkPortLossesRead port s
  | .registerWrite a v => Sys2Proof.Machine.execRegisterWrite a v s
  | .tokenCountAudit => Sys2Proof.Machine.execTokenCountAudit s
  | .droppedFrame port bytes tagOk => Sys2Proof.Machine.execDroppedFrame port bytes tagOk s
  | .portLanesUp port => Sys2Proof.Machine.execPortLanesUp port s
  | .nvmeLinkDown port => Sys2Proof.Machine.execNvmeLinkDown port s
  | .jtagScan priv tdi => Sys2Proof.Machine.execJtagScan priv tdi s

end Sys2Proof.Machine
end

