-- ==== Sys2Proof/Machine/Fetch.lean ====
section
/-! DEFINITION. The instruction store's words (R283, R284, R287–R290, R298–R312): which command of a tile a word is, and the
command fault of a word that is none. -/

namespace Sys2Proof.Machine

/-! ### Fields of the formats -/

def wReg (w : Word) (lo : Nat) : Reg := w.extractLsb' lo 5
def wRd (w : Word) : Reg := wReg w 21
def wRa (w : Word) : Reg := wReg w 16
def wRb (w : Word) : Reg := wReg w 11
def wImm (w : Word) : BitVec 16 := w.extractLsb' 0 16
def wMod (w : Word) : BitVec 6 := w.extractLsb' 0 6

/-- ALU functions (R289). -/
def aluOf (t : PTile) (w : Word) : Option Instr :=
  match (w.extractLsb' 0 11).toNat with
  | 0 => some (.aluAdd t (wRd w) (wRa w) (wRb w))
  | 1 => some (.aluSub t (wRd w) (wRa w) (wRb w))
  | 2 => some (.aluAnd t (wRd w) (wRa w) (wRb w))
  | 3 => some (.aluOr t (wRd w) (wRa w) (wRb w))
  | 4 => some (.aluXor t (wRd w) (wRa w) (wRb w))
  | 5 => some (.aluSll t (wRd w) (wRa w) (wRb w))
  | 6 => some (.aluSrl t (wRd w) (wRa w) (wRb w))
  | 7 => some (.aluSra t (wRd w) (wRa w) (wRb w))
  | 8 => some (.aluSlt t (wRd w) (wRa w) (wRb w))
  | 9 => some (.aluSltu t (wRd w) (wRa w) (wRb w))
  | 10 => some (.aluMul t (wRd w) (wRa w) (wRb w))
  | 11 => some (.aluMulhu t (wRd w) (wRa w) (wRb w))
  | 12 => some (.aluMin t (wRd w) (wRa w) (wRb w))
  | 13 => some (.aluMax t (wRd w) (wRa w) (wRb w))
  | 14 => some (.aluMinu t (wRd w) (wRa w) (wRb w))
  | 15 => some (.aluMaxu t (wRd w) (wRa w) (wRb w))
  | _ => none

/-- System instructions (R290); the unused rb field is the third operand, which the meaning checks. -/
def sysOf (t : PTile) (w : Word) : Option Instr :=
  match (w.extractLsb' 0 11).toNat with
  | 0 => some (.nop t (wRd w) (wRa w) (wRb w))
  | 1 => some (.stage t (wRd w) (wRa w) (wRb w))
  | 2 => some (.send t (wRd w) (wRa w) (wRb w))
  | 3 => some (.stepend t (wRd w) (wRa w) (wRb w))
  | 4 => some (.fence t (wRd w) (wRa w) (wRb w))
  | 5 => some (.bank t (wRd w) (wRa w) (wRb w))
  | _ => none

/-- A queue command with the fields of format Q. -/
def qOf (t : PTile) (w : Word) (mk : PTile → Reg → Reg → Reg → BitVec 6 → Instr) : Option Instr :=
  some (mk t (wRd w) (wRa w) (wRb w) (wMod w))

/-- Matrix queue (R298). -/
def mqOf (t : PTile) (w : Word) : Nat → Option Instr
  | 1 => qOf t w .wld
  | 2 => qOf t w .wldv
  | 3 => qOf t w .wsp
  | 4 => qOf t w .osp
  | _ => none

/-- Vector queue (R302). -/
def vqOf (t : PTile) (w : Word) : Nat → Option Instr
  | 0x00 => qOf t w .vadd
  | 0x01 => qOf t w .vsub
  | 0x02 => qOf t w .vmul
  | 0x03 => qOf t w .vfma
  | 0x04 => qOf t w .vmin
  | 0x05 => qOf t w .vmax
  | 0x06 => qOf t w .vand
  | 0x07 => qOf t w .vor
  | 0x08 => qOf t w .vxor
  | 0x09 => qOf t w .vshl
  | 0x0A => qOf t w .vshr
  | 0x0B => qOf t w .vclt
  | 0x0C => qOf t w .vceq
  | 0x0D => qOf t w .vsel
  | 0x0E => qOf t w .vcvt
  | 0x0F => qOf t w .venc
  | 0x10 => qOf t w .vexp
  | 0x11 => qOf t w .vrcp
  | 0x12 => qOf t w .vrsq
  | 0x13 => qOf t w .vred
  | 0x14 => qOf t w .vscan
  | 0x15 => qOf t w .vamax
  | 0x16 => qOf t w .vtopk
  | 0x17 => qOf t w .vdraw
  | 0x18 => qOf t w .vsmax
  | 0x19 => qOf t w .vdrain
  | 0x1A => qOf t w .vld
  | 0x1B => qOf t w .vst
  | 0x1C => qOf t w .vsrch
  | 0x1D => qOf t w .vrot
  | 0x1E => qOf t w .vbcst
  | _ => none

/-- Vat-lane queue (R306). -/
def lqOf (t : PTile) (w : Word) : Nat → Option Instr
  | 1 => qOf t w .leval
  | 2 => qOf t w .ldrive
  | _ => none

/-- DMA queue (R310). -/
def dqOf (t : PTile) (w : Word) : Nat → Option Instr
  | 1 => qOf t w .dcopy
  | 2 => qOf t w .dpress
  | 3 => qOf t w .dmcast
  | _ => none

/-- Semaphore queue (R312). -/
def sqOf (t : PTile) (w : Word) : Nat → Option Instr
  | 1 => qOf t w .sadd
  | 2 => qOf t w .ssub
  | 3 => qOf t w .swait
  | 4 => qOf t w .sread
  | _ => none

/-- A queue's commands: QWAIT in every queue (R295), else those of `f`. -/
def queueOf (t : PTile) (w : Word) (k : Queue) (f : Nat → Option Instr) : Option Instr :=
  let cmd := (w.extractLsb' 6 5).toNat
  if cmd = 0x1F then some (.qwait t k (wRd w) (wRa w) (wRb w) (wMod w)) else f cmd

/-- The command of tile `t` that an instruction word is, by its major opcode (R288); none for an opcode, func or CMD that is
reserved.  What the command does with its other fields, and the faults of R287 in them, are its meaning's. -/
def insnOf (t : PTile) (w : Word) : Option Instr :=
  match (w.extractLsb' 26 6).toNat with
  | 0x01 => aluOf t w
  | 0x02 => some (.addi t (wRd w) (wRa w) (wImm w))
  | 0x03 => some (.andi t (wRd w) (wRa w) (wImm w))
  | 0x04 => some (.ori t (wRd w) (wRa w) (wImm w))
  | 0x05 => some (.xori t (wRd w) (wRa w) (wImm w))
  | 0x06 => some (.slti t (wRd w) (wRa w) (wImm w))
  | 0x07 => some (.sltiu t (wRd w) (wRa w) (wImm w))
  | 0x08 => some (.shi t (wRd w) (wRa w) (wImm w))
  | 0x0B => some (.lui t (wRd w) (wRa w) (wImm w))
  | 0x0C => some (.lw t (wRd w) (wRa w) (wImm w))
  | 0x0D => some (.sw t (wRd w) (wRa w) (wImm w))
  | 0x10 => some (.beq t (wRd w) (wRa w) (wImm w))
  | 0x11 => some (.bne t (wRd w) (wRa w) (wImm w))
  | 0x12 => some (.blt t (wRd w) (wRa w) (wImm w))
  | 0x13 => some (.bge t (wRd w) (wRa w) (wImm w))
  | 0x14 => some (.bltu t (wRd w) (wRa w) (wImm w))
  | 0x15 => some (.bgeu t (wRd w) (wRa w) (wImm w))
  | 0x16 => some (.jal t (wRd w) (w.extractLsb' 0 21))
  | 0x17 => some (.jalr t (wRd w) (wRa w) (wImm w))
  | 0x18 => some (.csrr t (wRd w) (wRa w) (wImm w))
  | 0x1A => sysOf t w
  | 0x20 => queueOf t w .mq (mqOf t w)
  | 0x21 => queueOf t w .vq (vqOf t w)
  | 0x22 => queueOf t w .lq (lqOf t w)
  | 0x23 => queueOf t w .dq (dqOf t w)
  | 0x24 => queueOf t w .sq (sqOf t w)
  | _ => none

/-! ### Reserved words -/

/-- The instruction word at a tile's PC. -/
def Tile.wordAt (x : Tile) : Word := SMap.get 0 x.mem.istore (x.sc.pc.toNat / 4)

/-- The core stands at a word that is no command: one of a program's image, or a zero word of the unloaded store of an open
partition (R284, R287). -/
def State.atReserved (s : State) (t : PTile) : Bool :=
  (match (s.tile t).pl.part with | none => false | some p => (s.part p).loaded || (s.part p).open_) && (insnOf t (s.tile t).wordAt).isNone

/-- A core that can issue and stands at a reserved word: a command fault (R287), with what every instruction's issue does before. -/
def State.runReserved (s : State) (t : PTile) : State :=
  s.onTile t (s.canIssue t && s.atReserved t) fun c f => f.issue c [] fun g => g.fault c (s.tile t).wordAt.toNat

/-- Every tile. -/
def State.runAllReserved (s : State) : State := s.tiles.foldl (fun s e => s.runReserved (PTile.ofKey e.1)) s

/-! ### Units that wait -/

/-- A unit of a tile that runs has a command to take, or a copy to go on with. -/
def State.pumpDue (s : State) (t : PTile) : Bool := s.tileRuns t && ((s.tile t).waiting != 0 || (s.tile t).dma.ph == .vatWait)

/-- The units of every tile try what waits (R192, R294, R308): no command stays behind a wait that has passed. -/
def State.pumpTiles (s : State) : State :=
  s.tiles.foldl (fun s e => s.onTile (PTile.ofKey e.1) (s.pumpDue (PTile.ofKey e.1)) fun c f => f.pump c) s

end Sys2Proof.Machine
end

