-- ==== Sys2Proof/Machine/Tick.lean ====
section
/-! DEFINITION. What time does by itself (log entry 1): one cycle of the aon clock, 10 ns, in which the supervisor's
counter, the cycle counters, the stage, lane and watchdog counts and the ages of semaphore operations advance, a core that
stands at a reserved word takes its command fault, the tiles' units try again what waits, and start-up step 11 opens the partitions that are ready. -/

namespace Sys2Proof.Machine

/-- Cycles of a site's stretched or stopped clocks (R506, R520, R533): 25 arith cycles in 10 ns, in a window 25 in 20 ns, of which the
second 10 ns takes the odd one. -/
def Site.arithCycles (x : Site) (now : BitVec 64) : Nat :=
  if x.up && x.arith then (if x.window.isSome then 12 + now.toNat % 2 else 25) else 0
def Site.netCycles (x : Site) : Nat := if x.up then (if x.window.isSome then 10 else 20) else 0
def Site.vatCycles (x : Site) : Nat := if x.up && x.arith then 10 else 0

/-- Ages of the semaphore operations that wait for an acknowledgement, in net cycles (R272). -/
def ageSq (n : Nat) (l : List QCmd) : List QCmd :=
  l.map fun q => if q.st = .issued then { q with age := q.age + n } else q

def Tile.tick (x : Tile) (st : Site) (now : BitVec 64) : Tile :=
  let y := x.pass (st.arithCycles now)
  { y with
    sq := ageSq st.netCycles x.sq
    clk := { y.clk with wdCount := if x.clk.wdRunning then x.clk.wdCount + st.netCycles else x.clk.wdCount } }

/-- The keys of the tiles of the sites that are up: their clocks run. -/
def State.clockedTiles (s : State) : List Nat :=
  (allSites.filter fun i => (s.site i).up).flatMap fun i => (List.range 144).map fun j => i.val * 256 + j

/-- The clocks of one aon cycle; the counts of a tile of a site that is down stand. -/
def State.clocks (s : State) : State :=
  { s with
    tiles := SMap.modifyAll Tile.init (fun k x => x.tick (s.site (Fin.ofNat 64 (k / 256))) s.sup.counter) s.clockedTiles s.tiles
    lanes := SMap.mapVals Lane.init
      (fun k l => { l with slotClock := l.slotClock + (s.site (Fin.ofNat 64 (k / 512))).vatCycles }) s.lanes
    sup := { s.sup with counter := s.sup.counter + 1 } }

/-- One aon cycle of the block. -/
def State.tick (s : State) : State := s.clocks.runAllReserved.pumpTiles.settleStart

end Sys2Proof.Machine
end

