-- ==== Sys2Proof/Safety.lean ====
section
/-! DEFINITION. The terms that the claims use: an instruction that issues at once, what stays unchanged when only one tile
takes part in a step, memories in canonical form, a one-time signing key that is used in order. -/

namespace Sys2Proof.Machine

/-- The command answers a next state, of which `P` holds. -/
def Completes (i : Instr) (s : State) (P : State → Prop) : Prop := ∃ u, exec i s = .next u ∧ P u

/-- The byte memories of the block are in canonical form. -/
abbrev Memory.wf (m : SMap Byte) : Bool := SMap.wf (0 : Byte) m

/-- The leaf that signs next lies at or below LIMIT, the first leaf not yet reserved (R585). -/
def Ident.sound (i : Ident) : Bool := i.lmsNext ≤ i.lmsLimit

/-- An instruction of tile `t` that names the registers `rs` issues without a wait: the core can issue, its word has no
uncorrectable error (R284), no earlier command holds one of the registers (R315), their results are ready (R314), and the two
lockstep cores agree (R285). -/
structure Issues (s : State) (t : PTile) (rs : List Reg) : Prop where
  can : s.canIssue t = true
  word : SMap.get Ecc.ok (s.tile t).mem.istoreEcc ((s.tile t).sc.pc.toNat / 4) ≠ .double
  free : (s.tile t).scalarHolds ⟨t, s⟩ ((rs.filter (· ≠ 0)).map fun r => Res.s r.toNat) [] = []
  ready : (s.tile t).sc.readyAt rs ≤ (s.tile t).sc.cyc.toNat
  lock : (s.tile t).pl.lockstepUpset = false

/-- Outside tile `t` nothing has changed. -/
structure OnlyTile (s u : State) (t : PTile) : Prop where
  others : ∀ r : PTile, r ≠ t → u.tile r = s.tile r
  rest : { u with tiles := s.tiles } = s

/-- What every step keeps: the vats' codes and the lofts stand in canonical form, and no session stands with a used ticket
(R554, R556). -/
structure State.Inv (s : State) : Prop where
  vats : Memory.wf s.vatMem = true
  loft : Memory.wf s.loft = true
  tickets : ∀ e ∈ s.sessions, e.2.ticketUsed = false

/-- Outside the lane no lane has changed. -/
def OnlyLane (s u : State) (t : PTile) (lane : Fin 2) : Prop :=
  ∀ (r : PTile) (k : Fin 2), (r ≠ t ∨ k ≠ lane) → u.lane r k = s.lane r k

/-- Session `n` stands, is not lost and holds a ticket that has not been used (R554). -/
structure Talks (s : State) (n : Nat) (x : Session) : Prop where
  found : s.session n = some x
  here : x.lost = none
  ticket : x.ticketUsed = false

/-- Frame `f` is among the frames sent to session `n` and not acknowledged, or queued for it (R549). -/
def Received (u : State) (n : Nat) (f : Frame) : Prop := ∃ z : Session, u.session n = some z ∧ f ∈ z.unacked ++ z.queued

/-- The slots with keys other than `k` are the same, but for the positions in flight that a slot table states (R386). -/
def OtherSlots (s u : State) (k : Nat) : Prop :=
  ∀ j : Nat, j ≠ k → { SMap.get Slot.init u.slots j with nf := 0 } = { SMap.get Slot.init s.slots j with nf := 0 }

/-- The parts of a tile outside its scalar core and its clocks. -/
structure SameUnits (x y : Tile) : Prop where
  mq : y.mq = x.mq
  vq : y.vq = x.vq
  lq : y.lq = x.lq
  dq : y.dq = x.dq
  sq : y.sq = x.sq
  mx : y.mx = x.mx
  vec : y.vec = x.vec
  dma : y.dma = x.dma
  rp : y.rp = x.rp
  pl : y.pl = x.pl

/-- The control and status registers that an instruction without an effect on them leaves alone: the stage counter, the
step, the bin, PRESSOVF, the slips, the completion counts, ENTRY, the checkpoint, and the core still issues. -/
structure SameControl (a b : Scalar) : Prop where
  stagecnt : b.stagecnt = a.stagecnt
  step : b.step = a.step
  bin : b.bin = a.bin
  pressovf : b.pressovf = a.pressovf
  slipsTotal : b.slipsTotal = a.slipsTotal
  slipsStep : b.slipsStep = a.slipsStep
  slip1a : b.slip1a = a.slip1a
  slip1b : b.slip1b = a.slip1b
  qdone : b.qdone = a.qdone
  entry : b.entry = a.entry
  ckpt : b.ckpt = a.ckpt
  wait : b.wait = a.wait
  halted : b.halted = a.halted
  stopped : b.stopped = a.stopped

/-- The effect of a scalar instruction that writes `v` to `rd` (s0 discards it, R283) and goes on at `npc`, and its frame. -/
structure Wrote (s u : State) (t : PTile) (rd : Reg) (v : Word) (npc : BitVec 16) : Prop where
  only : OnlyTile s u t
  units : SameUnits (s.tile t) (u.tile t)
  mem : (u.tile t).mem = (s.tile t).mem
  control : SameControl (s.tile t).sc (u.tile t).sc
  regs : ∀ r : Reg, (u.tile t).sc.reg r = if r = rd ∧ r ≠ 0 then v else (s.tile t).sc.reg r
  pc : (u.tile t).sc.pc = npc

/-- The effect of a scalar instruction that writes no register and no memory and goes on at `npc`, and its frame. -/
structure Moved (s u : State) (t : PTile) (npc : BitVec 16) : Prop where
  only : OnlyTile s u t
  units : SameUnits (s.tile t) (u.tile t)
  mem : (u.tile t).mem = (s.tile t).mem
  control : SameControl (s.tile t).sc (u.tile t).sc
  regs : ∀ r : Reg, (u.tile t).sc.reg r = (s.tile t).sc.reg r
  pc : (u.tile t).sc.pc = npc

/-- A command fault of a scalar instruction (R287, R319): the event is in the check report, the core issues no more, and
nothing is performed. -/
structure Faulted (s u : State) (t : PTile) : Prop where
  event : evtInsnFault ∈ (u.tile t).rp.rep.fatal
  halted : (u.tile t).sc.halted = true
  pc : (u.tile t).sc.pc = (s.tile t).sc.pc
  regs : ∀ r : Reg, (u.tile t).sc.reg r = (s.tile t).sc.reg r
  mem : (u.tile t).mem = (s.tile t).mem
  vec : (u.tile t).vec = (s.tile t).vec
  mx : (u.tile t).mx = (s.tile t).mx
  others : ∀ r : PTile, r ≠ t → u.tile r = s.tile r

/-- A planned wait has begun (R290–R292): the core waits, the PC, the registers and the memories stay. -/
structure Waiting (s u : State) (t : PTile) (w : Wait) : Prop where
  wait : (u.tile t).sc.wait = w
  pc : (u.tile t).sc.pc = (s.tile t).sc.pc
  regs : ∀ r : Reg, (u.tile t).sc.reg r = (s.tile t).sc.reg r
  mem : (u.tile t).mem = (s.tile t).mem
  units : SameUnits (s.tile t) (u.tile t)
  others : ∀ r : PTile, r ≠ t → u.tile r = s.tile r

end Sys2Proof.Machine
end

