-- ==== Sys2Proof/Certificates/Slice0/Obligations.lean ====
section
/-! DEFINITION. The statements for the provers.  Each says which rules of the spec it formalises; a statement that rests on a
choice of the model names the log entry. -/

open Sys2Proof Sys2Proof.Machine

/-! ### The block and its queue -/

/-- A step runs the command at the front of the queue on the block with the queue's rest (log entry 1 for the empty queue). -/
def Obligations.StepRunsFrontCommand : Prop :=
  ∀ (c : Instr) (r : List Instr) (s : State), s.pending = c :: r →
    step s = exec c { s with pending := r }

/-- On an empty queue one aon cycle passes (the model's choice, log entry 1): the supervisor counter advances by one, every
tile of a site that runs counts 25 arith cycles, and no partition, slot, session, memory, semaphore or flit is touched outside
start-up, where no partition is ready to open or in an install, no core stands at a reserved word and no unit waits to take a command. -/
def Obligations.EmptyQueueTicks : Prop :=
  ∀ s : State, s.pending = [] → s.sup.phase ≠ 9 → s.sup.phase ≠ 10 →
    (∀ p ∈ s.furnished, (s.part p).waits = true → s.mayOpen p = false) →
    (∀ p ∈ s.furnished, (s.part p).prev = none) →
    (∀ t : PTile, (s.canIssue t = true → s.atReserved t = false) ∧ s.pumpDue t = false) →
    ∃ u, step s = .next u ∧ u.sup.counter = s.sup.counter + 1 ∧ u.pending = [] ∧
      u.parts = s.parts ∧ u.slots = s.slots ∧ u.sessions = s.sessions ∧ u.vatMem = s.vatMem ∧ u.loft = s.loft ∧
      u.sems = s.sems ∧ u.net = s.net ∧ u.ident = s.ident ∧ u.flash = s.flash ∧
      ∀ t : PTile, (u.tile t).mem = (s.tile t).mem ∧ (u.tile t).sc.regs = (s.tile t).sc.regs ∧
        (u.tile t).sc.pc = (s.tile t).sc.pc ∧
        ((s.site t.site).up = true → (s.site t.site).arith = true → (s.site t.site).window = none →
          (u.tile t).sc.cyc = (s.tile t).sc.cyc + 25) ∧
        ((s.site t.site).up = false → u.tile t = s.tile t)

/-! ### Scalar instructions (R283–R289) -/

/-- R288, R289: each ALU function writes its value, and nothing else changes but the PC, the cycle counts and the issue
state.  The values are spelled with integer arithmetic: the model's own operators stand in `exec`. -/
def Obligations.AluWrites : Prop :=
  ∀ (s : State) (t : PTile) (rd ra rb : Reg), Issues s t [ra, rb, rd] →
    let a := (s.tile t).sc.reg ra
    let b := (s.tile t).sc.reg rb
    let writes (i : Instr) (v : Word) : Prop := Completes i s fun u => Wrote s u t rd v ((s.tile t).sc.pc + 4)
    writes (.aluAdd t rd ra rb) (BitVec.ofNat 32 (a.toNat + b.toNat)) ∧
    writes (.aluSub t rd ra rb) (BitVec.ofInt 32 (a.toInt - b.toInt)) ∧
    writes (.aluAnd t rd ra rb) (a &&& b) ∧
    writes (.aluOr t rd ra rb) (a ||| b) ∧
    writes (.aluXor t rd ra rb) (a ^^^ b) ∧
    writes (.aluSll t rd ra rb) (BitVec.ofNat 32 (a.toNat * 2 ^ (b.toNat % 32))) ∧
    writes (.aluSrl t rd ra rb) (BitVec.ofNat 32 (a.toNat / 2 ^ (b.toNat % 32))) ∧
    writes (.aluSra t rd ra rb) (BitVec.ofInt 32 (a.toInt / 2 ^ (b.toNat % 32))) ∧
    writes (.aluSlt t rd ra rb) (if a.toInt < b.toInt then 1 else 0) ∧
    writes (.aluSltu t rd ra rb) (if a.toNat < b.toNat then 1 else 0) ∧
    writes (.aluMul t rd ra rb) (BitVec.ofNat 32 (a.toNat * b.toNat)) ∧
    writes (.aluMulhu t rd ra rb) (BitVec.ofNat 32 (a.toNat * b.toNat / 2 ^ 32)) ∧
    writes (.aluMin t rd ra rb) (BitVec.ofInt 32 (min a.toInt b.toInt)) ∧
    writes (.aluMax t rd ra rb) (BitVec.ofInt 32 (max a.toInt b.toInt)) ∧
    writes (.aluMinu t rd ra rb) (BitVec.ofNat 32 (min a.toNat b.toNat)) ∧
    writes (.aluMaxu t rd ra rb) (BitVec.ofNat 32 (max a.toNat b.toNat))

/-- R288: the register-immediate instructions.  ANDI, ORI and XORI take the immediate with zeros, the others sign-extended;
SHI shifts by imm16[4:0] as imm16[6:5] says; LUI places it in the upper half. -/
def Obligations.ImmediateWrites : Prop :=
  ∀ (s : State) (t : PTile) (rd ra : Reg) (imm : BitVec 16), Issues s t [ra, rd] →
    let a := (s.tile t).sc.reg ra
    let writes (i : Instr) (v : Word) : Prop := Completes i s fun u => Wrote s u t rd v ((s.tile t).sc.pc + 4)
    writes (.addi t rd ra imm) (BitVec.ofInt 32 (a.toInt + imm.toInt)) ∧
    writes (.andi t rd ra imm) (a &&& BitVec.ofNat 32 imm.toNat) ∧
    writes (.ori t rd ra imm) (a ||| BitVec.ofNat 32 imm.toNat) ∧
    writes (.xori t rd ra imm) (a ^^^ BitVec.ofNat 32 imm.toNat) ∧
    writes (.slti t rd ra imm) (if a.toInt < imm.toInt then 1 else 0) ∧
    writes (.sltiu t rd ra imm) (if a.toNat < (BitVec.ofInt 32 imm.toInt).toNat then 1 else 0) ∧
    (imm.toNat < 32 → writes (.shi t rd ra imm) (BitVec.ofNat 32 (a.toNat * 2 ^ imm.toNat))) ∧
    (32 ≤ imm.toNat → imm.toNat < 64 → writes (.shi t rd ra imm) (BitVec.ofNat 32 (a.toNat / 2 ^ (imm.toNat - 32)))) ∧
    (64 ≤ imm.toNat → imm.toNat < 96 → writes (.shi t rd ra imm) (BitVec.ofInt 32 (a.toInt / 2 ^ (imm.toNat - 64)))) ∧
    (ra = 0 → writes (.lui t rd ra imm) (BitVec.ofNat 32 (imm.toNat * 2 ^ 16)))

/-- R287–R289: the forms of a scalar instruction that are command faults: a reserved SHI, a LUI or CSRR with ra ≠ 0, a CSRR
of a number that is not listed, a load or store of an address that is not a multiple of 4 below 0x20_0000; and the system
instructions with a reserved or unused field set (R290).  A core that stands at a word whose major opcode, or whose ALU or SYS func,
is not listed, takes the command fault as time passes (log entry 1). -/
def Obligations.MalformedInstructionsFault : Prop :=
  ∀ (s : State) (t : PTile) (rd ra : Reg) (imm : BitVec 16),
    let faults (i : Instr) : Prop := Completes i s fun u => Faulted s u t
    let addr := BitVec.ofInt 32 (((s.tile t).sc.reg ra).toInt + imm.toInt)
    (Issues s t [] → (96 ≤ imm.toNat → faults (.shi t rd ra imm)) ∧
      (ra ≠ 0 → faults (.lui t rd ra imm)) ∧ ((ra ≠ 0 ∨ 16 ≤ imm.toNat) → faults (.csrr t rd ra imm)) ∧
      ((rd ≠ 0 ∨ ra ≠ 0) → faults (.nop t rd ra 0) ∧ faults (.send t rd ra 0) ∧ faults (.stepend t rd ra 0)) ∧
      ((4 ≤ rd.toNat ∨ ra ≠ 0) → faults (.stage t rd ra 0)) ∧ (ra ≠ 0 → faults (.fence t rd ra 0)) ∧
      (3 ≤ rd.toNat → faults (.bank t rd ra 0))) ∧
    (Issues s t [ra, rd] → (addr.toNat % 4 ≠ 0 ∨ 0x200000 ≤ addr.toNat) →
      faults (.lw t rd ra imm) ∧ faults (.sw t rd ra imm)) ∧
    (∀ part : Fin 32, s.pending = [] → s.sup.phase ≠ 9 → s.sup.phase ≠ 10 →
      (∀ p ∈ s.furnished, (s.part p).waits = true → s.mayOpen p = false) →
      s.canIssue t = true → (s.tile t).pl.part = some part → ((s.part part).loaded = true ∨ (s.part part).open_ = true) →
      (∀ r : PTile, s.pumpDue r = false) → SMap.get Ecc.ok (s.tile t).mem.istoreEcc ((s.tile t).sc.pc.toNat / 4) ≠ .double →
      let w := (SMap.get (0 : Word) (s.tile t).mem.istore ((s.tile t).sc.pc.toNat / 4)).toNat
      (w / 2 ^ 26 = 0 ∨ w / 2 ^ 26 = 9 ∨ w / 2 ^ 26 = 0xA ∨ w / 2 ^ 26 = 0xE ∨ w / 2 ^ 26 = 0xF ∨ w / 2 ^ 26 = 0x19 ∨
        (0x1B ≤ w / 2 ^ 26 ∧ w / 2 ^ 26 ≤ 0x1F) ∨ 0x25 ≤ w / 2 ^ 26 ∨
        (w / 2 ^ 26 = 1 ∧ 16 ≤ w % 2 ^ 11) ∨ (w / 2 ^ 26 = 0x1A ∧ 6 ≤ w % 2 ^ 11)) →
      ∃ u, step s = .next u ∧ evtInsnFault ∈ (u.tile t).rp.rep.fatal ∧ (u.tile t).sc.halted = true ∧
        (u.tile t).sc.pc = (s.tile t).sc.pc ∧ ∀ r : Reg, (u.tile t).sc.reg r = (s.tile t).sc.reg r)

/-- R288, R289: LW reads the little-endian word at ra + sext16(imm16) into rd; an uncorrectable word puts EVT_SRAM_UE in the
check report as an event that is not replayed (R460), and rd receives the bytes as they are stored (log entry 10's choice: the spec gives
no value); memory with valid ECC is left as it was.  Banks that are in RET or OFF, or change their state, stand outside this statement.  Where no unit that goes first takes
the bank's port in that cycle, and no lane wants it (R192), nothing slips. -/
def Obligations.LoadWordReads : Prop :=
  ∀ (s : State) (t : PTile) (rd ra : Reg) (imm : BitVec 16), Issues s t [ra, rd] →
    let m := (s.tile t).mem
    let addr := (BitVec.ofInt 32 (((s.tile t).sc.reg ra).toInt + imm.toInt)).toNat
    let byte (i : Nat) : Nat := (SMap.get (0 : Byte) m.scr (addr + i)).toNat
    addr % 4 = 0 → addr < 0x200000 →
    (s.tile t).scalarHolds ⟨t, s⟩ [.scr (addr / 64) (addr / 64)] [] = [] →
    m.bank (addr / 0x20000) = ⟨.on, none⟩ →
    Completes (.lw t rd ra imm) s fun u =>
      (∀ r : Reg, (u.tile t).sc.reg r = if r = rd ∧ r ≠ 0
        then BitVec.ofNat 32 (byte 0 + 256 * byte 1 + 65536 * byte 2 + 16777216 * byte 3) else (s.tile t).sc.reg r) ∧
      (u.tile t).sc.pc = (s.tile t).sc.pc + 4 ∧ (u.tile t).mem.scr = m.scr ∧
      (∀ r : PTile, r ≠ t → u.tile r = s.tile r) ∧
      (SMap.get Ecc.ok m.scrEcc (addr / 8) = .double → evtSramUe ∈ (u.tile t).rp.rep.fatal) ∧
      (SMap.get Ecc.ok m.scrEcc (addr / 8) = .ok → (u.tile t).mem = m ∧
        (addr / 0x20000 ∉ (s.tile t).takenBy (unitRank 0) (s.tile t).sc.cyc.toNat →
          ((s.tile t).take (unitRank 0) [⟨(s.tile t).sc.cyc.toNat, (s.tile t).sc.cyc.toNat, addr / 0x20000⟩]).wanted
            (unitRank 0) (s.tile t).sc.cyc.toNat (addr / 0x20000) = false →
          SameUnits (s.tile t) (u.tile t) ∧ SameControl (s.tile t).sc (u.tile t).sc))

/-- R188, R289: SW writes the four bytes of rs, low byte first, at ra + sext16(imm16), and no other byte; the word it covers
has valid ECC. -/
def Obligations.StoreWordWrites : Prop :=
  ∀ (s : State) (t : PTile) (rs ra : Reg) (imm : BitVec 16), Issues s t [ra, rs] →
    let m := (s.tile t).mem
    let addr := (BitVec.ofInt 32 (((s.tile t).sc.reg ra).toInt + imm.toInt)).toNat
    addr % 4 = 0 → addr < 0x200000 →
    (s.tile t).scalarHolds ⟨t, s⟩ [] [.scr (addr / 64) (addr / 64)] = [] →
    m.bank (addr / 0x20000) = ⟨.on, none⟩ →
    Completes (.sw t rs ra imm) s fun u =>
      (∀ i : Nat, i < 4 → SMap.get (0 : Byte) (u.tile t).mem.scr (addr + i) =
        BitVec.ofNat 8 (((s.tile t).sc.reg rs).toNat / 256 ^ i)) ∧
      (∀ a : Nat, a < addr ∨ addr + 4 ≤ a →
        SMap.get (0 : Byte) (u.tile t).mem.scr a = SMap.get (0 : Byte) m.scr a) ∧
      SMap.get Ecc.ok (u.tile t).mem.scrEcc (addr / 8) = .ok ∧
      (∀ r : Reg, (u.tile t).sc.reg r = (s.tile t).sc.reg r) ∧ (u.tile t).sc.pc = (s.tile t).sc.pc + 4 ∧
      (u.tile t).vec = (s.tile t).vec ∧ (u.tile t).mx = (s.tile t).mx ∧ (u.tile t).mem.istore = m.istore ∧
      (∀ r : PTile, r ≠ t → u.tile r = s.tile r)

/-- R288: a branch goes to PC + 4 × sext16(off16) if its comparison holds, else to PC + 4; nothing else changes. -/
def Obligations.BranchesMove : Prop :=
  ∀ (s : State) (t : PTile) (ra rb : Reg) (off : BitVec 16), Issues s t [ra, rb] →
    let a := (s.tile t).sc.reg ra
    let b := (s.tile t).sc.reg rb
    let pc := (s.tile t).sc.pc
    let taken := BitVec.ofInt 16 (pc.toInt + 4 * off.toInt)
    let goes (i : Instr) (npc : BitVec 16) : Prop := Completes i s fun u => Moved s u t npc
    goes (.beq t ra rb off) (if a = b then taken else pc + 4) ∧
    goes (.bne t ra rb off) (if a = b then pc + 4 else taken) ∧
    goes (.blt t ra rb off) (if a.toInt < b.toInt then taken else pc + 4) ∧
    goes (.bge t ra rb off) (if a.toInt < b.toInt then pc + 4 else taken) ∧
    goes (.bltu t ra rb off) (if a.toNat < b.toNat then taken else pc + 4) ∧
    goes (.bgeu t ra rb off) (if a.toNat < b.toNat then pc + 4 else taken)

/-- R288: JAL and JALR write PC + 4 to rd; JAL goes to PC + 4 × sext21(off21), JALR to bits [15:2] of ra + sext16(imm16),
taken before rd is written. -/
def Obligations.JumpsLink : Prop :=
  ∀ (s : State) (t : PTile) (rd ra : Reg) (off : BitVec 21) (imm : BitVec 16),
    let pc := (s.tile t).sc.pc
    let link := BitVec.ofNat 32 ((pc.toNat + 4) % 2 ^ 16)
    (Issues s t [rd] → Completes (.jal t rd off) s fun u =>
      Wrote s u t rd link (BitVec.ofInt 16 (pc.toInt + 4 * off.toInt))) ∧
    (Issues s t [ra, rd] → Completes (.jalr t rd ra imm) s fun u =>
      Wrote s u t rd link (BitVec.ofNat 16
        ((BitVec.ofInt 32 (((s.tile t).sc.reg ra).toInt + imm.toInt)).toNat / 4 * 4)))

/-- R289: what CSRR reads from each of the sixteen control and status registers.  That QFREE counts the commands written and not issued is
the model's reading (log entry 15). -/
def Obligations.CsrReads : Prop :=
  ∀ (s : State) (t : PTile) (rd : Reg) (part : Fin 32), Issues s t [rd] → (s.tile t).pl.part = some part →
    let x := s.tile t
    let sc := x.sc
    let free (k : Queue) : Nat := 16 - ((x.queue k).filter fun q => q.st = .queued).length
    let reads (n : Nat) (v : Nat) : Prop := Completes (.csrr t rd 0 (BitVec.ofNat 16 n)) s fun u =>
      Wrote s u t rd (BitVec.ofNat 32 v) (sc.pc + 4)
    reads 0 (sc.cyc.toNat % 2 ^ 32) ∧ reads 1 (sc.cyc.toNat / 2 ^ 32) ∧ reads 2 sc.stagecnt.toNat ∧
    reads 3 (sc.step.toNat % 2 ^ 32) ∧ reads 4 (sc.step.toNat / 2 ^ 32) ∧
    reads 5 (part.val * 2 ^ 16 + x.pl.c.toNat * 2 ^ 8 + x.pl.r.toNat) ∧
    reads 6 ((sc.qd 1).toNat * 2 ^ 16 + (sc.qd 0).toNat) ∧ reads 7 ((sc.qd 3).toNat * 2 ^ 16 + (sc.qd 2).toNat) ∧
    reads 8 (sc.qd 4).toNat ∧
    reads 9 (free .sq * 2 ^ 20 + free .dq * 2 ^ 15 + free .lq * 2 ^ 10 + free .vq * 2 ^ 5 + free .mq) ∧
    reads 10 (sc.slipsTotal.toNat * 2 ^ 16 + sc.slipsStep.toNat) ∧ reads 11 sc.slip1a.toNat ∧ reads 12 sc.slip1b.toNat ∧
    reads 13 sc.entry.toNat ∧ reads 14 sc.bin.toNat ∧ reads 15 sc.pressovf.toNat

/-! ### System instructions (R290–R292) -/

/-- R290–R292, R306: NOP goes on; STAGE, SEND, STEPEND and FENCE begin their planned waits, and all but a FENCE that does not
name the LQ let load drive end. -/
def Obligations.SystemWaitsBegin : Prop :=
  ∀ (s : State) (t : PTile) (f1 : Reg), Issues s t [] →
    let waits (i : Instr) (w : Wait) (ends : Bool) : Prop := Completes i s fun u => Waiting s u t w ∧
      ∀ l : Fin 2, (u.lane t l).drive =
        if ends = true ∧ (s.lane t l).drive ≠ .off then .ending else (s.lane t l).drive
    (Completes (.nop t 0 0 0) s fun u => Moved s u t ((s.tile t).sc.pc + 4)) ∧
    (f1.toNat < 4 → waits (.stage t f1 0 0) (.stage (f1.setWidth 2)) true) ∧
    waits (.send t 0 0 0) .send true ∧ waits (.stepend t 0 0 0) .stepend true ∧
    waits (.fence t f1 0 0) (.fence f1) (f1.getLsbD 2)

/-- R291, with the walk table of R366 and the first versions of R369: when every queue is empty and every command has
completed, STAGE saves the checkpoint, advances the counters, and lets slot 0 begin in both lanes with the stage's bin.
R292: SEND retires once every command has completed and no verdict or closing check vector is outstanding; STEPEND then
sends the check report to the couch on VC0, clears it, adds 1 to the step number, zeroes the current-step fields of SLIPS
and SLIP1_A and goes to ENTRY; FENCE retires once the masked queues' commands have completed.  The acknowledgements of held
edit notices go out before (R367). -/
def Obligations.PlannedWaitsEnd : Prop :=
  (∀ (s : State) (t : PTile) (b : BitVec 2), (s.tile t).sc.wait = .stage b → s.tileRuns t = true →
    (∀ k : Queue, (s.tile t).queue k = []) →
    Completes (.stageRetire t) s fun u =>
      let a := (s.tile t).sc
      let c := (u.tile t).sc
      c.ckpt = ⟨a.regs, a.pc, a.stagecnt, a.qdone⟩ ∧ c.stagecnt = a.stagecnt + 1 ∧ c.bin = b ∧ c.pressovf = 0 ∧
      c.pc = a.pc + 4 ∧ c.wait = .none ∧ c.regs = a.regs ∧ c.qdone = a.qdone ∧ c.step = a.step ∧
      (u.tile t).dma.walks = [] ∧ (u.tile t).dma.walkOvf = false ∧ (u.tile t).dma.vers = [] ∧
      (u.tile t).mem = (s.tile t).mem ∧ (u.tile t).vec = (s.tile t).vec ∧ (u.tile t).mx = (s.tile t).mx ∧
      (∀ l : Fin 2, (u.lane t l).slotClock = 0 ∧ (u.lane t l).bin = b ∧ (u.lane t l).bins = (s.lane t l).bins) ∧
      (∀ r : PTile, r ≠ t → u.tile r = s.tile r)) ∧
  (∀ (s : State) (t : PTile), s.tileRuns t = true → (∀ k : Queue, (s.tile t).queue k = []) → (s.tile t).mx.abftDue = 0 →
    (∀ l : Fin 2, (s.lane t l).verdicts = [] ∧ (s.lane t l).cvs = [] ∧ (s.lane t l).since = false) →
    (s.tile t).rp.recovInStage = false →
    let x := s.tile t
    ((x.sc.wait = .send → Completes (.sendRetire t) s fun u =>
        (u.tile t).sc.wait = .none ∧ (u.tile t).sc.pc = x.sc.pc + 4 ∧ (u.tile t).sc.regs = x.sc.regs ∧
        (u.tile t).sc.step = x.sc.step ∧ (u.tile t).rp = x.rp ∧ (u.tile t).mem = x.mem ∧
        (u.tile t).clk.running = false ∧ (u.tile t).dma.held = [])) ∧
    (x.sc.wait = .stepend → Completes (.stependRetire t) s fun u =>
        (u.tile t).sc.wait = .none ∧ (u.tile t).sc.pc = x.sc.entry ∧ (u.tile t).sc.step = x.sc.step + 1 ∧
        (u.tile t).sc.slipsStep = 0 ∧ (u.tile t).sc.slip1a = 0 ∧ (u.tile t).sc.slipsTotal = x.sc.slipsTotal ∧
        (u.tile t).rp.rep = Report.clean ∧ (u.tile t).sc.regs = x.sc.regs ∧ (u.tile t).mem = x.mem ∧
        ∃ fl ∈ u.net.flits, fl.vc = 0 ∧ fl.msg = .report x.sc.step x.rp.rep ∧
          (fl.dcol, fl.drow, fl.dport) = s.net.supAt ∧ (fl.col, fl.row) = (t.col, t.row)) ∧
    (∀ m : BitVec 5, x.sc.wait = .fence m → Completes (.fenceRetire t) s fun u =>
        (u.tile t).sc.wait = .none ∧ (u.tile t).sc.pc = x.sc.pc + 4 ∧ (u.tile t).sc.regs = x.sc.regs ∧
        (u.tile t).sc.qdone = x.sc.qdone ∧ (u.tile t).mem = x.mem ∧ (u.tile t).rp = x.rp))

/-- R189, R190, R290: BANK starts the change of each masked bank that is not in the state named; when a change is done the bank
is in its new state, and a bank that goes to OFF or wakes from OFF reads as zeros with valid ECC, while one that enters or
leaves RET keeps its contents. -/
def Obligations.BankStatesChange : Prop :=
  ∀ (s : State) (t : PTile) (f1 f2 : Reg) (b : Fin 16),
    let x := s.tile t
    let mask := (x.sc.reg f2).toNat % 2 ^ 16
    let new : Bk := if f1 = 0 then .on else if f1 = 1 then .ret else .off
    (Issues s t [f2] → f1.toNat < 3 →
      x.scalarHolds ⟨t, s⟩ [] ((maskedBanks mask).map fun n => .scr (2048 * n) (2048 * n + 2047)) = [] →
      (∀ n : Nat, n < 16 → (x.mem.bank n).next = none) →
      Completes (.bank t f1 f2 0) s fun u =>
        (∀ n : Nat, n < 16 → (u.tile t).mem.bank n =
          if mask.testBit n ∧ (x.mem.bank n).cur ≠ new then ⟨(x.mem.bank n).cur, some new⟩ else x.mem.bank n) ∧
        (u.tile t).mem.scr = x.mem.scr ∧ (u.tile t).mem.scrEcc = x.mem.scrEcc ∧ (u.tile t).sc.pc = x.sc.pc + 4 ∧
        (∀ r : Reg, (u.tile t).sc.reg r = x.sc.reg r) ∧ SameUnits x (u.tile t) ∧ SameControl x.sc (u.tile t).sc ∧
        ∀ r : PTile, r ≠ t → u.tile r = s.tile r) ∧
    (∀ k : Bk, (s.site t.site).up = true → (x.mem.bank b.val).next = some k →
      let lost (a w : Nat) : Prop :=
        (k = .off ∨ (x.mem.bank b.val).cur = .off) ∧ b.val * (0x20000 / w) ≤ a ∧ a < (b.val + 1) * (0x20000 / w)
      Completes (.bankStateChangeDone t b) s fun u =>
        ((u.tile t).mem.bank b.val).cur = k ∧
        (∀ a : Nat, (lost a 1 → SMap.get (0 : Byte) (u.tile t).mem.scr a = 0) ∧
          (¬ lost a 1 → SMap.get (0 : Byte) (u.tile t).mem.scr a = SMap.get (0 : Byte) x.mem.scr a)) ∧
        (∀ a : Nat, lost a 8 → SMap.get Ecc.ok (u.tile t).mem.scrEcc a = .ok) ∧
        (u.tile t).sc.regs = x.sc.regs ∧ (u.tile t).sc.pc = x.sc.pc ∧ (u.tile t).vec = x.vec ∧ (u.tile t).mx = x.mx ∧
        ∀ r : PTile, r ≠ t → u.tile r = s.tile r)

/-! ### Unit queues (R293–R295) -/

/-- R287, R293: every queue command whose word is legal is written into its queue with the values of the registers it reads,
if the queue has room and the scoreboard has entries.  The registers, the matrix and vector state and the scratchpad stay.  The command is still
there after the units have taken what they can, unless an event that the check report marks ended a command. -/
def Obligations.QueueCommandsAreWritten : Prop :=
  ∀ (s : State) (t : PTile) (f1 f2 f3 : Reg) (mod : BitVec 6),
    let x := s.tile t
    let written (i : Instr) (k : Queue) (op : QOp) : Prop :=
      wordFault k op f1 f2 f3 mod = false → Issues s t (cmdRegs op f1 f2 f3) → x.written k < 16 →
      (op = .qwait ∨ x.entries ⟨t, s⟩ + (mkCmd ⟨t, s⟩ x op f1 f2 f3 mod).need ⟨t, s⟩ x ≤ 64) →
      Completes i s fun u =>
        (u.tile t).sc.pc = x.sc.pc + 4 ∧ (∀ r : Reg, (u.tile t).sc.reg r = x.sc.reg r) ∧
        (u.tile t).mem.scr = x.mem.scr ∧ (u.tile t).vec = x.vec ∧ (u.tile t).mx = x.mx ∧ (u.tile t).pl = x.pl ∧
        (∀ r : PTile, r ≠ t → u.tile r = s.tile r) ∧
        ((∃ e ∈ (u.tile t).queue k, e.op = op ∧ e.f1 = f1 ∧ e.f2 = f2 ∧ e.f3 = f3 ∧ e.mod = mod ∧ e.pc = x.sc.pc ∧
            e.tag = x.sc.stagecnt ∧ e.a.toNat % 2 ^ 32 = (x.sc.reg f1).toNat ∧ e.b.toNat % 2 ^ 32 = (x.sc.reg f2).toNat ∧
            (op = .dcopy → e.a.toNat / 2 ^ 32 = (x.sc.reg (f1 + 1)).toNat ∧
              e.b.toNat / 2 ^ 32 = (x.sc.reg (f2 + 1)).toNat) ∧
            (op ≠ .dpress → op ≠ .dmcast → e.c.toNat = (x.sc.reg f3).toNat)) ∨
          x.rp.rep.recov.length + x.rp.rep.fatal.length <
            (u.tile t).rp.rep.recov.length + (u.tile t).rp.rep.fatal.length)
    (∀ k : Queue, written (.qwait t k f1 f2 f3 mod) k .qwait) ∧
    written (.wld t f1 f2 f3 mod) .mq .wld ∧ written (.wldv t f1 f2 f3 mod) .mq .wldv ∧
    written (.wsp t f1 f2 f3 mod) .mq .wsp ∧ written (.osp t f1 f2 f3 mod) .mq .osp ∧
    written (.vadd t f1 f2 f3 mod) .vq .vadd ∧ written (.vsub t f1 f2 f3 mod) .vq .vsub ∧
    written (.vmul t f1 f2 f3 mod) .vq .vmul ∧ written (.vfma t f1 f2 f3 mod) .vq .vfma ∧
    written (.vmin t f1 f2 f3 mod) .vq .vmin ∧ written (.vmax t f1 f2 f3 mod) .vq .vmax ∧
    written (.vand t f1 f2 f3 mod) .vq .vand ∧ written (.vor t f1 f2 f3 mod) .vq .vor ∧
    written (.vxor t f1 f2 f3 mod) .vq .vxor ∧ written (.vshl t f1 f2 f3 mod) .vq .vshl ∧
    written (.vshr t f1 f2 f3 mod) .vq .vshr ∧ written (.vclt t f1 f2 f3 mod) .vq .vclt ∧
    written (.vceq t f1 f2 f3 mod) .vq .vceq ∧ written (.vsel t f1 f2 f3 mod) .vq .vsel ∧
    written (.vcvt t f1 f2 f3 mod) .vq .vcvt ∧ written (.venc t f1 f2 f3 mod) .vq .venc ∧
    written (.vexp t f1 f2 f3 mod) .vq .vexp ∧ written (.vrcp t f1 f2 f3 mod) .vq .vrcp ∧
    written (.vrsq t f1 f2 f3 mod) .vq .vrsq ∧ written (.vred t f1 f2 f3 mod) .vq .vred ∧
    written (.vscan t f1 f2 f3 mod) .vq .vscan ∧ written (.vamax t f1 f2 f3 mod) .vq .vamax ∧
    written (.vtopk t f1 f2 f3 mod) .vq .vtopk ∧ written (.vdraw t f1 f2 f3 mod) .vq .vdraw ∧
    written (.vsmax t f1 f2 f3 mod) .vq .vsmax ∧ written (.vdrain t f1 f2 f3 mod) .vq .vdrain ∧
    written (.vld t f1 f2 f3 mod) .vq .vld ∧ written (.vst t f1 f2 f3 mod) .vq .vst ∧
    written (.vsrch t f1 f2 f3 mod) .vq .vsrch ∧ written (.vrot t f1 f2 f3 mod) .vq .vrot ∧
    written (.vbcst t f1 f2 f3 mod) .vq .vbcst ∧
    written (.leval t f1 f2 f3 mod) .lq .leval ∧ written (.ldrive t f1 f2 f3 mod) .lq .ldrive ∧
    written (.dcopy t f1 f2 f3 mod) .dq .dcopy ∧ written (.dpress t f1 f2 f3 mod) .dq .dpress ∧
    written (.dmcast t f1 f2 f3 mod) .dq .dmcast ∧
    written (.sadd t f1 f2 f3 mod) .sq .sadd ∧ written (.ssub t f1 f2 f3 mod) .sq .ssub ∧
    written (.swait t f1 f2 f3 mod) .sq .swait ∧ written (.sread t f1 f2 f3 mod) .sq .sread

/-- R287: queue commands with a reserved MOD, an unused field set, a vector span past v31 or a pair named by an odd register or s0 are
command faults, and nothing is written.  The forms are written out from the tables of R295, R298, R302, R306, R310, R312. -/
def Obligations.MalformedQueueWordsFault : Prop :=
  ∀ (s : State) (t : PTile) (f1 f2 f3 : Reg) (mod : BitVec 6), Issues s t [] →
    let faults (i : Instr) : Prop := Completes i s fun u => Faulted s u t ∧ ∀ k : Queue, (u.tile t).queue k = (s.tile t).queue k
    (∀ k : Queue, (4 < mod.toNat ∨ mod.toNat = k.code ∨ f2 ≠ 0 ∨ f3 ≠ 0) → faults (.qwait t k f1 f2 f3 mod)) ∧
    (mod ≠ 0 → faults (.wld t f1 f2 f3 mod) ∧ faults (.wldv t f1 f2 f3 mod) ∧ faults (.wsp t f1 f2 f3 mod) ∧
      faults (.osp t f1 f2 f3 mod) ∧ faults (.sread t f1 f2 f3 mod) ∧ faults (.vdraw t f1 f2 f3 mod) ∧
      faults (.vdrain t f1 f2 f3 mod) ∧ faults (.vrot t f1 f2 f3 mod)) ∧
    ((mod ≠ 0 ∨ f3 ≠ 0) → faults (.dpress t f1 f2 f3 mod) ∧ faults (.dmcast t f1 f2 f3 mod) ∧
      faults (.sadd t f1 f2 f3 mod) ∧ faults (.ssub t f1 f2 f3 mod) ∧ faults (.swait t f1 f2 f3 mod)) ∧
    ((mod ≠ 0 ∨ f2 ≠ 0) → faults (.vld t f1 f2 f3 mod) ∧ faults (.vbcst t f1 f2 f3 mod)) ∧
    ((mod ≠ 0 ∨ f1 ≠ 0) → faults (.vst t f1 f2 f3 mod)) ∧
    ((mod ≠ 0 ∨ f1.toNat % 2 = 1 ∨ f1 = 0 ∨ f2.toNat % 2 = 1 ∨ f2 = 0) → faults (.dcopy t f1 f2 f3 mod)) ∧
    (4 ≤ mod.toNat → faults (.leval t f1 f2 f3 mod)) ∧
    ((2 ≤ mod.toNat ∨ f1 ≠ 0 ∨ f2 ≠ 0 ∨ f3 ≠ 0) → faults (.ldrive t f1 f2 f3 mod)) ∧
    (mod ≠ 11 → faults (.vand t f1 f2 f3 mod) ∧ faults (.vor t f1 f2 f3 mod) ∧ faults (.vxor t f1 f2 f3 mod)) ∧
    (32 ≤ mod.toNat → faults (.vadd t f1 f2 f3 mod) ∧ faults (.vsub t f1 f2 f3 mod) ∧ faults (.vmul t f1 f2 f3 mod) ∧
      faults (.vshl t f1 f2 f3 mod) ∧ faults (.venc t f1 f2 f3 mod)) ∧
    (16 ≤ mod.toNat → faults (.vfma t f1 f2 f3 mod) ∧ faults (.vmin t f1 f2 f3 mod) ∧ faults (.vmax t f1 f2 f3 mod) ∧
      faults (.vclt t f1 f2 f3 mod) ∧ faults (.vceq t f1 f2 f3 mod) ∧ faults (.vsel t f1 f2 f3 mod) ∧
      faults (.vshr t f1 f2 f3 mod) ∧ faults (.vscan t f1 f2 f3 mod) ∧ faults (.vexp t f1 f2 f3 mod) ∧
      faults (.vrcp t f1 f2 f3 mod) ∧ faults (.vrsq t f1 f2 f3 mod) ∧ faults (.vsrch t f1 f2 f3 mod) ∧
      faults (.vamax t f1 f2 f3 mod) ∧ faults (.vsmax t f1 f2 f3 mod)) ∧
    (f1 = 31 → faults (.vamax t f1 f2 f3 mod)) ∧ (29 ≤ f1.toNat → faults (.vtopk t f1 f2 f3 mod)) ∧
    (30 ≤ f1.toNat → faults (.vsmax t f1 f2 f3 mod)) ∧
    ((mod.toNat % 16 ≠ 10 ∨ 48 ≤ mod.toNat ∨ f3 ≠ 0) → faults (.vred t f1 f2 f3 mod)) ∧
    (mod.toNat % 16 = 10 → faults (.vcvt t f1 f2 f3 mod))

/-- R294, R295: a QWAIT at the head of its queue completes when (QDONE[watched] − n) mod 2^16 < 2^15, and no completion count
changes. -/
def Obligations.QwaitCompletes : Prop :=
  ∀ (s : State) (t : PTile) (k : Queue) (q : QCmd),
    let x := s.tile t
    s.tileRuns t = true → x.queue k = [q] → q.op = .qwait → q.st = .queued →
    ((x.sc.qd (q.mod.toNat % 8)).toNat + 2 ^ 16 - q.a.toNat % 2 ^ 16) % 2 ^ 16 < 2 ^ 15 →
    Completes (.qwaitComplete t k) s fun u =>
      (u.tile t).queue k = [] ∧ (u.tile t).sc.qd k.code = x.sc.qd k.code ∧ (u.tile t).sc.regs = x.sc.regs ∧
      (u.tile t).sc.pc = x.sc.pc ∧ (u.tile t).mem.scr = x.mem.scr ∧ (u.tile t).vec = x.vec ∧ (u.tile t).mx = x.mx ∧
      ∀ r : PTile, r ≠ t → u.tile r = s.tile r

/-! ### Matrix core -/

/-- R75, R79, R113, R299: a WLD's weights become usable in the buffer that its descriptor names; a WLDV takes Kt rows of 16 B
(T2) or 32 B of its vat.  R77–R81: a pass's words go to its accumulator rows and its verdict is due.
Rows of 48 B for a 6-bit WLD are log entry 19's reading, and operands read at the completion log entry 18's choice.
R79–R81: an ABFT verdict arrives in the check report; a mismatch, of the pass's own sums or of the hardware's (log entry 60), is
EVT_ABFT, recoverable, and counts once. -/
def Obligations.MatrixUnitCompletes : Prop :=
  (∀ (s : State) (t : PTile) (q : QCmd), s.tileRuns t = true → (s.tile t).running .mq = some q →
    let x := s.tile t
    let wb (y : Tile) (b : Nat) : WBuf := if b = 0 then y.mx.wb0 else y.mx.wb1
    let vatKey := t.key * 96 + q.ra / 0x8000
    let frame (u : State) : Prop := (u.tile t).mem.scr = x.mem.scr ∧ (u.tile t).vec = x.vec ∧
      (u.tile t).sc.regs = x.sc.regs ∧ (u.tile t).sc.pc = x.sc.pc ∧ ∀ r : PTile, r ≠ t → u.tile r = s.tile r
    ((q.op = .wld ∨ q.op = .wldv) → Completes (.weightLoadComplete t) s fun u =>
      (wb (u.tile t) q.ldBuf).loaded = true ∧ (wb (u.tile t) q.ldBuf).fmt.toNat = q.ldFmt ∧
      (wb (u.tile t) q.ldBuf).kt = q.ldKt ∧
      (wb (u.tile t) q.ldBuf).scales = (List.range (2 * q.ldKt)).map (fun i => SMap.get (0 : Byte) x.mem.scr (q.rb + i)) ∧
      (q.op = .wld → (wb (u.tile t) q.ldBuf).codes =
        (List.range (q.ldKt * 8 * fmtBits q.ldFmt)).map fun i => SMap.get (0 : Byte) x.mem.scr (q.ra + i)) ∧
      (q.op = .wldv → (s.vat vatKey).mode ≠ 0 → (wb (u.tile t) q.ldBuf).codes = (List.range q.ldKt).flatMap fun i =>
        (List.range (if q.ldFmt = 0 then 16 else 32)).map fun j =>
          SMap.get (0 : Byte) s.vatMem (vatKey * 0x8000 + q.ra % 0x8000 + 64 * i + j)) ∧
      wb (u.tile t) (1 - q.ldBuf) = wb x (1 - q.ldBuf) ∧ (u.tile t).mx.acc = x.mx.acc ∧ frame u) ∧
    (q.op = .wsp → Completes (.passComplete t) s fun u =>
      (u.tile t).mx.abftDue = x.mx.abftDue + 1 ∧
      (∀ m n : Nat, m < q.wsM → n < 64 → some (SMap.get (0 : Word) (u.tile t).mx.acc (64 * (q.wsRow0 + m) + n)) =
        (wspRes x q).words[64 * m + n]?) ∧
      (∀ m : Nat, m < q.wsM → SMap.get false (u.tile t).mx.accInt (q.wsRow0 + m) = q.wsRaw) ∧
      (∀ k : Nat, k < 64 * q.wsRow0 ∨ 64 * (q.wsRow0 + q.wsM) ≤ k →
        SMap.get (0 : Word) (u.tile t).mx.acc k = SMap.get (0 : Word) x.mx.acc k) ∧
      (u.tile t).mx.wb0 = x.mx.wb0 ∧ (u.tile t).mx.wb1 = x.mx.wb1 ∧ frame u) ∧
    (q.op = .osp → Completes (.passComplete t) s fun u =>
      (u.tile t).mx.abftDue = x.mx.abftDue + 1 ∧
      (∀ m n : Nat, m < 64 → n < 64 → some (SMap.get (0 : Word) (u.tile t).mx.acc (64 * (q.osRow0 + m) + n)) =
        (ospRes x q).words[64 * m + n]?) ∧
      (∀ k : Nat, k < 64 * q.osRow0 ∨ 64 * (q.osRow0 + 64) ≤ k →
        SMap.get (0 : Word) (u.tile t).mx.acc k = SMap.get (0 : Word) x.mx.acc k) ∧
      (u.tile t).mx.wb0 = x.mx.wb0 ∧ (u.tile t).mx.wb1 = x.mx.wb1 ∧ frame u)) ∧
  (∀ (s : State) (t : PTile) (mismatch : Bool), (s.tile t).mx.abftDue ≠ 0 →
    let bad := mismatch || (s.tile t).mx.abftBad.headD false
    Completes (.abftVerdict t mismatch) s fun u =>
      (u.tile t).mx.abftDue + 1 = (s.tile t).mx.abftDue ∧ (u.tile t).mx.acc = (s.tile t).mx.acc ∧
      (u.tile t).mem = (s.tile t).mem ∧ (u.tile t).sc = (s.tile t).sc ∧ (u.tile t).vec = (s.tile t).vec ∧
      (u.tile t).mx.abftBad = (s.tile t).mx.abftBad.tail ∧
      (bad = false → (u.tile t).rp = (s.tile t).rp ∧ u.ctr t.site .abft = s.ctr t.site .abft) ∧
      (bad = true → evtAbft ∈ (u.tile t).rp.rep.recov ∧ u.ctr t.site .abft = satAdd (s.ctr t.site .abft) 1) ∧
      ∀ r : PTile, r ≠ t → u.tile r = s.tile r)

/-- R68: a raw weight-stationary pass over one block of reduction depth gives, for each output, the exact integer sum added
to the starting word, saturated to 32 bits; R75: a zero block leaves the word as it is.  R79: the identities of the checksum hold of
every block whose column sums are formed at the load. -/
def Obligations.RawBlocksAddExactly : Prop :=
  (∀ (a w : List (List Int)), (∀ r ∈ a, r.length = 32) → (∀ v ∈ w, v.length = 32) → abftHolds a w (sumAt 32 w) = true) ∧
  ∀ (acc : Word) (a w : List Int) (k : Nat) (fault : Bool), a.length = 32 → w.length = 32 →
    let sum : Int := ((List.range 32).map fun i => a.getD i 0 * w.getD i 0).foldl (· + ·) 0
    let z : Int := acc.toInt + sum
    let got (zero : Bool) := accRaw (acc, false) (a.map (65536 * ·)) ⟨w.map (65536 * ·), k, zero, fault⟩
    got true = (acc, false) ∧ (got false).1 = BitVec.ofInt 32 (max (-2 ^ 31) (min z (2 ^ 31 - 1))) ∧
    ((got false).2 = true ↔ z < -2 ^ 31 ∨ 2 ^ 31 - 1 < z)

/-! ### Vector core -/

/-- R82, R83, R86–R93, R297, R302–R305: what the completion of every vector command writes, for each element type that it takes; the
command leaves its queue and is counted; every other register, the accumulator and the scalar core stay, and only a store writes the
scratchpad.  The I32 forms are spelled with integers, the others with the exact values and the single rounding of `Machine/Float.lean`; the
special functions' values within the limits of R86 are log entry 6's free values, which of two equal pairs with one index stays log entry
59's, and operands read at the completion are log entry 18's choice. -/
def Obligations.VectorCommandsComplete : Prop :=
  ∀ (s : State) (t : PTile) (q : QCmd), s.tileRuns t = true → (s.tile t).running .vq = some q →
    let x := s.tile t
    let lane (y : Tile) (r l : Nat) : Word := SMap.get (0 : Word) y.vec.v (64 * r + l)
    let d (l : Nat) : Word := lane x q.f1.toNat l
    let a (l : Nat) : Word := lane x q.f2.toNat l
    let b (l : Nat) : Word := lane x q.f3.toNat l
    let off := q.c.toNat % 2 ^ 32
    let rs : Word := BitVec.ofNat 32 off
    let byte (m : TileMem) (k : Nat) : Byte := SMap.get (0 : Byte) m.scr k
    let frame (rs : List Nat) (u : State) : Prop :=
      (∀ r : Nat, r ∉ rs → ∀ l : Nat, l < 64 → lane (u.tile t) r l = lane x r l) ∧
      (u.tile t).mx = x.mx ∧ (u.tile t).sc.regs = x.sc.regs ∧ (u.tile t).sc.pc = x.sc.pc ∧
      (x.vq = [q] → (u.tile t).vq = [] ∧ (u.tile t).sc.qd 1 = x.sc.qd 1 + 1) ∧
      ∀ r : PTile, r ≠ t → u.tile r = s.tile r
    let writes (op : QOp) (mod : Nat) (rs : List Nat) (ok : (Nat → Nat → Word) → Prop) : Prop := q.op = op → q.mod.toNat = mod →
      Completes (.vectorCommandComplete t) s fun u => ok (lane (u.tile t)) ∧ (u.tile t).mem.scr = x.mem.scr ∧ frame rs u
    let gives (op : QOp) (mod : Nat) (v : Nat → Word) : Prop :=
      writes op mod [q.f1.toNat] fun y => ∀ l : Nat, l < 64 → y q.f1.toNat l = v l
    let elm (ty i : Nat) (w : Word) : Nat := w.toNat / 2 ^ (fmtBits ty * i) % 2 ^ fmtBits ty
    let elems (op : QOp) (mod ty : Nat) (f : Nat → Nat → Nat → Nat) : Prop :=
      writes op mod [q.f1.toNat] fun y => ∀ l i : Nat, l < 64 → i < 32 / fmtBits ty →
        elm ty i (y q.f1.toNat l) = f (elm ty i (d l)) (elm ty i (a l)) (elm ty i (b l)) % 2 ^ fmtBits ty
    gives .vadd 11 (fun l => BitVec.ofInt 32 ((a l).toInt + (b l).toInt)) ∧
    gives .vadd 27 (fun l => BitVec.ofInt 32 (max (-2 ^ 31) (min ((a l).toInt + (b l).toInt) (2 ^ 31 - 1)))) ∧
    gives .vsub 11 (fun l => BitVec.ofInt 32 ((a l).toInt - (b l).toInt)) ∧
    gives .vmul 11 (fun l => BitVec.ofInt 32 ((a l).toInt * (b l).toInt)) ∧
    gives .vmin 11 (fun l => BitVec.ofInt 32 (min (a l).toInt (b l).toInt)) ∧
    gives .vmax 11 (fun l => BitVec.ofInt 32 (max (a l).toInt (b l).toInt)) ∧
    gives .vand 11 (fun l => a l &&& b l) ∧ gives .vor 11 (fun l => a l ||| b l) ∧ gives .vxor 11 (fun l => a l ^^^ b l) ∧
    gives .vshl 11 (fun l => BitVec.ofInt 32 ((a l).toInt * 2 ^ ((b l).toNat % 32))) ∧
    gives .vshr 11 (fun l => BitVec.ofInt 32 ((a l).toInt / 2 ^ ((b l).toNat % 32))) ∧
    gives .vclt 11 (fun l => if (a l).toInt < (b l).toInt then BitVec.allOnes 32 else 0) ∧
    gives .vceq 11 (fun l => if a l = b l then BitVec.allOnes 32 else 0) ∧
    gives .vsel 11 (fun l => if d l = 0 then b l else a l) ∧
    gives .vbcst 0 (fun _ => rs) ∧ gives .vrot 0 (fun l => a ((l + off) % 64)) ∧
    gives .vld 0 (fun l => BitVec.ofNat 32 (((List.range 4).map fun i =>
      (byte x.mem (off + 0x20000 * (l / 16) + 4 * (l % 16) + i)).toNat * 256 ^ i).sum)) ∧
    (q.op = .vst → Completes (.vectorCommandComplete t) s fun u =>
      (∀ l i : Nat, l < 64 → i < 4 → byte (u.tile t).mem (off + 0x20000 * (l / 16) + 4 * (l % 16) + i) =
        BitVec.ofNat 8 ((a l).toNat / 256 ^ i)) ∧
      (∀ k : Nat, (∀ j : Nat, j < 4 → k < off + 0x20000 * j ∨ off + 0x20000 * j + 64 ≤ k) →
        byte (u.tile t).mem k = byte x.mem k) ∧
      (u.tile t).vec.v = x.vec.v ∧ frame [] u) ∧
    -- the integer types, wrapped or saturated
    (∀ ty ∈ [5, 11, 12],
      let z (n : Nat) : Int := sInt (fmtBits ty) n
      let wrap (v : Int) : Nat := (v % 2 ^ fmtBits ty).toNat
      let sat (v : Int) : Nat := wrap (max (-2 ^ (fmtBits ty - 1)) (min v (2 ^ (fmtBits ty - 1) - 1)))
      elems .vadd ty ty (fun _ a b => wrap (z a + z b)) ∧ elems .vadd (ty + 16) ty (fun _ a b => sat (z a + z b)) ∧
      elems .vsub ty ty (fun _ a b => wrap (z a - z b)) ∧ elems .vsub (ty + 16) ty (fun _ a b => sat (z a - z b)) ∧
      elems .vmul ty ty (fun _ a b => wrap (z a * z b)) ∧ elems .vmul (ty + 16) ty (fun _ a b => sat (z a * z b)) ∧
      elems .vshl ty ty (fun _ a b => wrap (z a * 2 ^ (b % 32))) ∧ elems .vshl (ty + 16) ty (fun _ a b => sat (z a * 2 ^ (b % 32))) ∧
      elems .vshr ty ty (fun _ a b => wrap (z a / 2 ^ (b % 32))) ∧
      elems .vmin ty ty (fun _ a b => wrap (min (z a) (z b))) ∧ elems .vmax ty ty (fun _ a b => wrap (max (z a) (z b))) ∧
      elems .vclt ty ty (fun _ a b => if z a < z b then 2 ^ fmtBits ty - 1 else 0) ∧
      elems .vceq ty ty (fun _ a b => if a = b then 2 ^ fmtBits ty - 1 else 0) ∧
      elems .vsel ty ty (fun d a b => if d = 0 then b else a)) ∧
    -- BF16, FP16 and FP32: the exact result, rounded once
    (∀ ty ∈ [8, 9, 10],
      let v (n : Nat) : FV := (tyFmt ty).dec n
      let fun1 (g : Word → Word) (n : Nat) : Nat :=
        if ty = 10 then (g (BitVec.ofNat 32 n)).toNat else (tyFmt ty).enc (f32 (g (toF32 (v n))))
      elems .vadd ty ty (fun _ a b => (tyFmt ty).enc ((v a).add (v b))) ∧
      elems .vsub ty ty (fun _ a b => (tyFmt ty).enc ((v a).add (v b).neg)) ∧
      elems .vmul ty ty (fun _ a b => (tyFmt ty).enc ((v a).mul (v b))) ∧
      elems .vfma ty ty (fun d a b => (tyFmt ty).enc (((v a).mul (v b)).add (v d))) ∧
      elems .vmin ty ty (fun _ a b => (tyFmt ty).enc ((v a).min (v b))) ∧
      elems .vmax ty ty (fun _ a b => (tyFmt ty).enc ((v a).max (v b))) ∧
      elems .vclt ty ty (fun _ a b => if (v a).lt (v b) = true then 2 ^ fmtBits ty - 1 else 0) ∧
      elems .vceq ty ty (fun _ a b => if (v a).eq (v b) = true then 2 ^ fmtBits ty - 1 else 0) ∧
      elems .vexp ty ty (fun _ a _ => fun1 exp32 a) ∧ elems .vrcp ty ty (fun _ a _ => fun1 recip32 a) ∧
      elems .vrsq ty ty (fun _ a _ => fun1 rsqrt32 a)) ∧
    -- R303: conversions between FP32 and another type
    (∀ ty ∈ [5, 8, 9, 11, 12],
      let n := 32 / fmtBits ty
      (∀ sr : Bool, (sr = true → ty = 8 ∨ ty = 9) →
        writes .vcvt (ty + if sr then 16 else 0) [q.f1.toNat] fun y => ∀ l i : Nat, l < 64 → i < n →
          elm ty i (y q.f1.toNat l) =
            if 64 ≤ n * l + i then 0
            else if ty = 8 ∨ ty = 9 then
              toHalf (tyFmt ty) sr (keyDraw (x.vget q.f3.toNat) (n * l + i)) (a (n * l + i)) % 2 ^ fmtBits ty
            else ((f32 (a (n * l + i))).toIntSat (fmtBits ty) % 2 ^ fmtBits ty).toNat) ∧
      gives .vcvt (ty + 32) (fun j =>
        if ty = 8 ∨ ty = 9 then toF32 ((tyFmt ty).dec (elm ty (j % n) (a (j / n))))
        else toF32 (FV.ofInt (sInt (fmtBits ty) (elm ty (j % n) (a (j / n)))) 0))) ∧
    -- R304: the codes of the two blocks in their slots, their scale bytes, zeros beyond
    (∀ (fmt : Fin 8) (sr sym : Bool),
      let enc (k : Nat) : EncBlk := vencBlock fmt.val sym sr (x.vget q.f2.toNat) (x.vget q.f3.toNat) k
      writes .venc (fmt.val + (if sr then 8 else 0) + if sym then 16 else 0) [q.f1.toNat] fun y =>
        ∀ k : Nat, k < 256 → (y q.f1.toNat (k / 4)).toNat / 256 ^ (k % 4) % 256 =
          if k < 64 then ((vencSlot fmt.val (enc (k / 32))).getD (k % 32) 0).toNat
          else if k < 66 then (enc (k - 64)).scale.toNat else 0) ∧
    -- R87, R88, R93: reductions, the scan, the search
    (let red (op : Word → Word → Word) : Word :=
      ([32, 16, 8, 4, 2, 1].foldl (fun v d l => if l < d then op (v l) (v (l + d)) else v l) a) 0
    gives .vred 10 (fun l => if l = 0 then red fadd else 0) ∧ gives .vred 26 (fun l => if l = 0 then red fmax else 0) ∧
    gives .vred 42 (fun l => if l = 0 then red fmin else 0) ∧
    gives .vscan 10 ([1, 2, 4, 8, 16, 32].foldl (fun v d l => if d ≤ l then fadd (v (l - d)) (v l) else v l) a)) ∧
    writes .vsrch 10 [q.f1.toNat] (fun y => ∃ n : Nat, n ≤ 64 ∧ (∀ l : Nat, l < n → fle rs (a l) = false) ∧
      (n < 64 → fle rs (a n) = true) ∧ ∀ l : Nat, l < 64 → y q.f1.toNat l = if l = 0 then BitVec.ofNat 32 n else 0) ∧
    -- R90: the greater value, or of equal ones the lower index
    (∀ ty ∈ [10, 11], writes .vamax ty [q.f1.toNat, q.f1.toNat + 1] fun y => ∀ l : Nat, l < 64 →
      let i := lane x (q.f1.toNat + 1) l
      let j := rs + BitVec.ofNat 32 l
      let more (v w : Word) : Bool := rankGt (ty == 11) v w
      let got : Word × Word := (y q.f1.toNat l, y (q.f1.toNat + 1) l)
      ((more (a l) (d l) = true ∨ (more (d l) (a l) = false ∧ j.toNat < i.toNat)) → got = (a l, j)) ∧
      ((more (d l) (a l) = true ∨ (more (a l) (d l) = false ∧ i.toNat < j.toNat)) → got = (d l, i)) ∧
      (got = (a l, j) ∨ got = (d l, i))) ∧
    -- R91: the first L ranked pairs and the 64 after them
    (∀ n : Nat, 0 < n → n ≤ 64 →
      writes .vtopk (n - 1) [q.f1.toNat, q.f1.toNat + 1, q.f1.toNat + 2, q.f1.toNat + 3] fun y =>
        let pairs (r : Nat) : List (Word × Word) := (List.range 64).map fun l => (lane x r l, lane x (r + 1) l)
        let all := rankSort (pairs q.f1.toNat ++ pairs q.f2.toNat)
        all.Perm (pairs q.f1.toNat ++ pairs q.f2.toNat) ∧ ∀ l : Nat, l < 64 →
          (y q.f1.toNat l, y (q.f1.toNat + 1) l) = (if l < n then all.getD l filler else (0x7FC00000, 0xFFFFFFFF)) ∧
          (y (q.f1.toNat + 2) l, y (q.f1.toNat + 3) l) = all.getD (n + l) filler) ∧
    -- R92, R305: the draw and its uniform value
    gives .vdraw 0 (fun l =>
      let k (i : Nat) : Word := b i
      toF32 (.fin false ((rgen (k 1 ++ k 0) ((k 2).extractLsb' 16 16) ((k 2).extractLsb' 0 16) (k 3)
        (k 4 + BitVec.ofNat 32 l)).toNat / 256) (-24))) ∧
    -- R89: the softmax step over J score registers
    (∀ (j : Nat) (sup : Bool), 0 < j → j ≤ 8 → (q.f1.toNat + 3 ≤ q.f2.toNat ∨ q.f2.toNat + j ≤ q.f1.toNat) →
      writes .vsmax (j - 1 + if sup then 8 else 0) ([q.f1.toNat, q.f1.toNat + 1, q.f1.toNat + 2] ++ (List.range j).map (q.f2.toNat + ·))
        fun y => ∀ l : Nat, l < 64 →
          let score (i : Nat) : Word := lane x (q.f2.toNat + i) l
          let mx := (List.range j).foldl (fun v i => fmax v (score i))
            (fmax (d l) (if sup then lane x (q.f1.toNat + 2) l else 0xFF800000))
          let alpha : Word := if d l = 0xFF800000 then 0 else exp32 (fsub (d l) mx)
          let p (i : Nat) : Word := if score i = 0xFF800000 then 0 else exp32 (fsub (score i) mx)
          (∀ i : Nat, i < j → y (q.f2.toNat + i) l = p i) ∧ y q.f1.toNat l = mx ∧
          y (q.f1.toNat + 1) l = ffma alpha (lane x (q.f1.toNat + 1) l) ((List.range j).foldl (fun v i => fadd v (p i)) 0) ∧
          y (q.f1.toNat + 2) l = alpha) ∧
    -- R70: the drain of an accumulator row
    gives .vdrain 0 (fun l =>
      let row := q.b.toNat % 2 ^ 32 % 512
      let w := SMap.get (0 : Word) x.mx.acc (64 * row + l)
      if SMap.get false x.mx.accInt row = true ∨ rs = 0x3F800000 then w else toF32 ((f32 w).mul (f32 rs)))

/-! ### Vat lanes -/

/-- R114, R118, R120, R124, R128, R166: the outputs of a product, each the signed sum of its corrected conversions scaled and rounded once
(+0.0 in a zero column), go to its output address and nowhere else, the lane notes its vat and awaits the verdict on those sums; R117: with
every row zero the outputs are +0.0 and ZERO counts; R130: one that runs in a supply window is marked invalid.  The converters' codes are
free values (log entry 5), and inputs read at the completion are log entry 18's choice. -/
def Obligations.ProductsComplete : Prop :=
  ∀ (s : State) (t : PTile) (lane : Fin 2) (overRange : Nat) (q : QCmd), s.tileRuns t = true →
    (s.tile t).laneRunning lane.val = some q → q.op = .leval → q.sub = false →
    let x := s.tile t
    let v := s.vat (t.key * 96 + q.leVat)
    let n := if v.mode = 2 then 1024 else 512
    let i := levalIn x.mem q.ra q.leFb
    let l := (s.lane t lane).asOf q.swaps
    -- one corrected conversion (R120), y of a column in a plane (R114), and the sum of a column's conversions in sixteenths
    let conv (k col pop : Nat) : Int :=
      let g : Int := if col < 512 then 2 * (l.cal l.bin.toNat col).gain else 8 * (l.cal l.bin.toNat col).gain
      rneShiftZ (g * (8 * convCode s.nonce k col - (l.cal l.bin.toNat col).off) - (l.cal l.bin.toNat col).dens * pop) 12
    let y (col p : Nat) : Int :=
      if i.pop p 0 512 = 0 then 0
      else if i.pop p 0 512 ≤ 256 then conv (2 * p) col (i.pop p 0 512)
      else conv (2 * p) col (i.pop p 0 256) + conv (2 * p + 1) col (i.pop p 256 512)
    let planes (f : Nat → Int) : Int :=
      ((List.range i.planes).map fun p => (if p + 1 = i.planes then -(2 ^ p) else 2 ^ p) * f p).foldl (· + ·) 0
    let yh (k : Nat) : Int := planes fun p =>
      if v.mode = 2 then y (2 * k) p - y (2 * k + 1) p
      else y (4 * k) p + 2 * y (4 * k + 1) p + 4 * y (4 * k + 2) p - 8 * y (4 * k + 3) p
    let out (k : Nat) : Word :=
      if i.zero = true ∨ v.kw.getD k 0 = 31 then 0
      else toF32 ((FV.ofInt (yh k) (-4 - (i.kv : Int) - (v.kw.getD k 0).toNat)).mul (f32 (BitVec.ofNat 32 q.rc)))
    Completes (.levalComplete t lane overRange) s fun u =>
      (u.lane t lane).lastVat = BitVec.ofNat 7 q.leVat ∧ (u.lane t lane).since = true ∧
      (u.lane t lane).verdicts.length = (s.lane t lane).verdicts.length + 1 ∧
      (u.lane t lane).bins = (s.lane t lane).bins ∧
      (∀ a : Nat, a < q.leOut ∨ q.leOut + n ≤ a →
        SMap.get (0 : Byte) (u.tile t).mem.scr a = SMap.get (0 : Byte) x.mem.scr a) ∧
      (∀ k j : Nat, 4 * k + j < n → j < 4 → SMap.get (0 : Byte) (u.tile t).mem.scr (q.leOut + (4 * k + j)) =
        BitVec.ofNat 8 ((out k).toNat / 256 ^ j)) ∧
      (i.zero = true →
        (∀ k : Nat, k < n → SMap.get (0 : Byte) (u.tile t).mem.scr (q.leOut + k) = 0) ∧
        u.ctr t.site .zero = satAdd (s.ctr t.site .zero) 1 ∧ u.ctr t.site .ovr = s.ctr t.site .ovr) ∧
      ((q.win = true ∨ (s.site t.site).window.isSome = true) → (u.tile t).rp.rep.invalid = true) ∧
      (u.tile t).sc.regs = x.sc.regs ∧ (u.tile t).vec = x.vec ∧ (u.tile t).mx = x.mx ∧
      ∀ r : PTile, r ≠ t → u.tile r = s.tile r

/-- R117, R123, R128–R130: the verdict of the oldest product reaches the lane.  A failure outside a window is recoverable and
counts; one in the replay, of a lane whose check had failed before it, bars the bin of the stage with BARWHY = 2.  A lane that is to drive drives on (R152, R153, R159).
R306, R308, R309: load drive that is to end ends at its event, unless the lane is to drive without an LDRIVE; a substitute takes the matrix core with load drive on, once no other
access holds its vat or asked for it before (R131), and its completion writes the product of the digital narrow path over
the vat's weights (R66), frees the core and makes an ABFT verdict due. -/
def Obligations.LanesComplete : Prop :=
  (∀ (s : State) (t : PTile) (lane : Fin 2) (v : Verd) (r : List Verd), (s.lane t lane).verdicts = v :: r →
    (s.site t.site).up = true →
    let l := s.lane t lane
    Completes (.productVerdict t lane) s fun u =>
      let l' := u.lane t lane
      l'.verdicts = r ∧ l'.lastVat = l.lastVat ∧
      l'.drive = (if l.drive = .off ∧ (s.tile t).clk.drives l' lane.val = true then .on else l.drive) ∧
      (v.zero = true → (u.tile t).rp = (s.tile t).rp ∧ l'.bins = l.bins) ∧
      (v.zero = false → v.ovr = true → l'.chkfail = true ∧ (l'.failedChk = true ↔ l.failedChk = true ∨ s.inReplay t = false) ∧
        u.ctr t.site .check = satAdd (s.ctr t.site .check) 1 ∧
        (v.win = false → evtVatCheck ∈ (u.tile t).rp.rep.recov) ∧
        (v.win = true → (u.tile t).rp.rep = (s.tile t).rp.rep) ∧
        (s.inReplay t = true → l.failedChk = true →
          (SMap.get Bin.init l'.bins l.bin.toNat).barred = true ∧ (SMap.get Bin.init l'.bins l.bin.toNat).barwhy = 2)) ∧
      (v.zero = false → v.ovr = false → (200 * v.d.natAbs : Int) + 100 < v.a + v.c.natAbs + 3200 * v.t0 →
        l'.chkfail = l.chkfail ∧ (u.tile t).rp = (s.tile t).rp) ∧
      (u.tile t).mem = (s.tile t).mem ∧ (u.tile t).sc = (s.tile t).sc ∧ ∀ a : PTile, a ≠ t → u.tile a = s.tile a) ∧
  (∀ (s : State) (t : PTile) (lane : Fin 2) (q : QCmd),
    let x := s.tile t
    let others (u : State) : Prop := ∀ r : PTile, r ≠ t → u.tile r = s.tile r
    ((s.site t.site).up = true → x.laneRunning lane.val = some q → q.op = .ldrive → (s.lane t lane).drive = .ending →
      x.lq = [q] → Completes (.loadDriveEnd t lane) s fun u =>
        (u.lane t lane).drive = (if x.clk.drives (s.lane t lane) lane.val = true then .on else .off) ∧ (u.tile t).lq = [] ∧ (u.tile t).sc.qd 2 = x.sc.qd 2 + 1 ∧
        (u.tile t).mem.scr = x.mem.scr ∧ (u.tile t).sc.regs = x.sc.regs ∧ others u) ∧
    (s.tileRuns t = true → x.nextSub = some q → q.lane = lane.val → x.mx.sub = none → x.running .mq = none →
      (⟨t, s⟩ : Ctx).vatWaits x t q.leVat q = [] → Completes (.substituteStart t lane) s fun u =>
        (u.tile t).mx.sub = some lane ∧ (u.lane t lane).drive = .on ∧ (u.tile t).mx.acc = x.mx.acc ∧
        (u.tile t).mem = x.mem ∧ (u.tile t).sc = x.sc ∧ (u.tile t).lq = x.lq ∧ others u) ∧
    (s.tileRuns t = true → x.nextSub = some q → q.lane = lane.val → x.mx.sub = some lane →
      Completes (.substituteComplete t lane) s fun u =>
        (u.tile t).mx.sub = none ∧ (u.tile t).mx.abftDue = x.mx.abftDue + 1 ∧ (u.tile t).mx.acc = x.mx.acc ∧
        (∀ k j : Nat, k < (if (s.vat (t.key * 96 + q.leVat)).mode = 2 then 256 else 128) → j < 4 →
          SMap.get (0 : Byte) (u.tile t).mem.scr (q.leOut + (4 * k + j)) =
            BitVec.ofNat 8 ((subOut s x.mem q (t.key * 96 + q.leVat) k).toNat / 256 ^ j)) ∧
        (∀ a : Nat, a < q.leOut ∨ q.leOut + (if (s.vat (t.key * 96 + q.leVat)).mode = 2 then 1024 else 512) ≤ a →
          SMap.get (0 : Byte) (u.tile t).mem.scr a = SMap.get (0 : Byte) x.mem.scr a) ∧
        (u.tile t).sc.regs = x.sc.regs ∧ (u.tile t).vec = x.vec ∧ others u))

/-! ### DMA copies, translation, page tables, loft (R193–R212, R310, R366–R370) -/

/-- R193, R201, R310: a part of a copy that is served at a remote scratchpad or at a loft moves its bytes in order and nothing
else, once the flits that carry them have arrived; a read of loft waits in the queues of its channels (R207), and so does a write while
an access is queued on them before it; the tile's other units have the ports first (R193).  The addresses are those that the meanings compute
from the copy's operands (`partOwn`, `adTileOff`, `partLoft`, `partLen`): the model's own.  One event for a whole part is log entry 35's choice,
and that a read over lines or words marked uncorrectable delivers the stored bytes log entry 10's. -/
def Obligations.CopyPartsMoveBytes : Prop :=
  ∀ (s : State) (t dst : PTile) (site : Fin 64) (q : QCmd) (off : Nat),
    let x := s.tile t
    let d := s.tile dst
    let n := partLen x q
    let own := partOwn x q
    let far := adTileOff (q.farAddr x) + x.dma.pos
    let scr (y : Tile) (a : Nat) : Byte := SMap.get (0 : Byte) y.mem.scr a
    let loft (u : State) (a : Nat) : Byte := SMap.get (0 : Byte) u.loft (site.val * 2 ^ 34 + a)
    let allOn (y : Tile) : Prop := ∀ b : Nat, y.mem.bank b = ⟨.on, none⟩
    x.copying = some q → (s.site t.site).up = true → allOn x → s.net.dataDue t.key = false →
    (x.dma.ph = .access → adSpace (q.farAddr x) = 0 → physOf s.map (adC (q.farAddr x)) (adR (q.farAddr x)) = dst →
      t ≠ dst → (s.site dst.site).up = true → allOn d → x.portFree own n = true → d.portFree far n = true →
      Completes (.remoteScrAccess t dst) s fun u =>
        (u.tile t).dma.ph = .served ∧ (u.tile t).sc.regs = x.sc.regs ∧ (u.tile dst).sc = d.sc ∧
        (q.outward x = true → (∀ i : Nat, i < n → scr (u.tile dst) (far + i) = scr x (own + i)) ∧
          (∀ a : Nat, a < far ∨ far + n ≤ a → scr (u.tile dst) a = scr d a) ∧ (u.tile t).mem.scr = x.mem.scr) ∧
        (q.outward x = false → (∀ i : Nat, i < n → scr (u.tile t) (own + i) = scr d (far + i)) ∧
          (∀ a : Nat, a < own ∨ own + n ≤ a → scr (u.tile t) a = scr x a) ∧ (u.tile dst).mem.scr = d.mem.scr) ∧
        ∀ r : PTile, r ≠ t → r ≠ dst → u.tile r = s.tile r) ∧
    (partLoft x q = some (site.val, off) → (s.site site).up = true →
      ((s.site site).selfref = false →
        (q.outward x = true → (x.dma.ph = .access ∨ x.dma.ph = .loftQueued) →
          s.loftAhead site.val t.key (channelsOf off n) = false → x.portFree own n = true → Completes (.loftAccess site t) s fun u =>
            (u.tile t).dma.ph = .served ∧ (∀ i : Nat, i < n → loft u (off + i) = scr x (own + i)) ∧
            (∀ k : Nat, k < site.val * 2 ^ 34 + off ∨ site.val * 2 ^ 34 + off + n ≤ k →
              SMap.get (0 : Byte) u.loft k = SMap.get (0 : Byte) s.loft k) ∧ u.loftQ = s.loftQ.erase (site.val, t.key) ∧
            (u.tile t).mem.scr = x.mem.scr) ∧
        (x.dma.ph = .access → (q.outward x = true → s.loftAhead site.val t.key (channelsOf off n) = true) →
          Completes (.loftAccess site t) s fun u =>
            (u.tile t).dma.ph = .loftQueued ∧ u.loftQ = s.loftQ ++ [(site.val, t.key)] ∧ u.loft = s.loft ∧
            (u.tile t).mem.scr = x.mem.scr)) ∧
      (x.dma.ph = .loftQueued → q.outward x = false → (site.val, t.key) ∈ s.loftQ → s.loftAhead site.val t.key (channelsOf off n) = false →
        x.portFree own n = true →
        Completes (.loftReadDone site t) s fun u =>
          (u.tile t).dma.ph = .served ∧ (∀ i : Nat, i < n → scr (u.tile t) (own + i) = loft s (off + i)) ∧
          (∀ a : Nat, a < own ∨ own + n ≤ a → scr (u.tile t) a = scr x a) ∧ u.loft = s.loft ∧
          u.loftQ = s.loftQ.erase (site.val, t.key) ∧
          (s.loftMarks (linesOf site.val off n) .double ≠ [] → evtLoftUe ∈ (u.tile t).rp.rep.fatal)))

/-- R113, R193, R210, R212, R294, R311: the end of the DMA commands.  A copy whose last part is served completes and is counted; a read of VAT
space delivers a vat's bytes, zeros from an EMPTY vat; a walk enters its translation or is EVT_SEQ_FAULT, which is not replayed; a tree
injection sends the rows in order; an access that has waited past its partition's limit is one slip, and the next of the part's accesses, which wait from the same cycle on, is
the next to count.  That the slip is the issuing tile's and the count the bank's site's is log entry 35's reading. -/
def Obligations.DmaCommandsComplete : Prop :=
  ∀ (s : State) (t bank : PTile) (q : QCmd),
    let x := s.tile t
    let done (u : State) : Prop := (u.tile t).dq = [] ∧ (u.tile t).sc.qd 3 = x.sc.qd 3 + 1 ∧ (u.tile t).dma.ph = .idle
    let scr (y : Tile) (a : Nat) : Byte := SMap.get (0 : Byte) y.mem.scr a
    (s.site t.site).up = true →
    ((⟨t, s⟩ : Ctx).dmaWait < s.dmaWaited t bank → Completes (.dmaWaitLimit t bank) s fun u =>
        (u.tile t).sc.slipsStep = satAdd x.sc.slipsStep 1 ∧ (u.tile t).sc.slipsTotal = satAdd x.sc.slipsTotal 1 ∧
        u.ctr bank.site .dmawait = satAdd (s.ctr bank.site .dmawait) 1 ∧ (u.tile t).mem = x.mem ∧
        (∀ r : PTile, r ≠ t → u.tile r = s.tile r) ∧
        (x.dmaSince.isSome = true → (u.tile t).dma.waited = x.dma.waited + 1 ∧
          (u.tile t).dma.since = x.dma.since ∧ u.net = s.net) ∧
        (x.dmaSince = none → (u.tile t).dma = x.dma ∧ u.net.flits.length = s.net.flits.length)) ∧
    (x.dq = [q] → q.st = .issued →
    (q.op = .dcopy → x.dma.ph = .served → s.net.dataDue t.key = false → q.len ≤ x.dma.pos + partLen x q →
      Completes (.dcopyComplete t) s fun u => done u ∧ (u.tile t).mem.scr = x.mem.scr ∧ (u.tile t).sc.regs = x.sc.regs) ∧
    (q.op = .dcopy → x.dma.ph = .access → adSpace (q.farAddr x) = 1 → s.net.dataDue t.key = false →
      (∀ b : Nat, x.mem.bank b = ⟨.on, none⟩) → x.portFree (partOwn x q) (partLen x q) = true →
      let far := physOf s.map (adC (q.farAddr x)) (adR (q.farAddr x))
      let off := adTileOff (q.farAddr x) + x.dma.pos
      let vat (a : Nat) : Nat := far.key * 96 + a / 0x8000
      Completes (.dcopyComplete t) s fun u =>
        (far = t → q.len ≤ x.dma.pos + partLen x q → done u) ∧
        (far ≠ t → (u.tile t).dma.ph = .served ∧ (u.tile t).dq = x.dq) ∧
        (∀ i : Nat, i < partLen x q → scr (u.tile t) (partOwn x q + i) =
          if (s.vat (vat (off + i))).mode = 0 then 0
          else SMap.get (0 : Byte) s.vatMem (vat (off + i) * 0x8000 + (off + i) % 0x8000)) ∧
        ∀ a : Nat, a < partOwn x q ∨ partOwn x q + partLen x q ≤ a → scr (u.tile t) a = scr x a) ∧
    (∀ (h : BitVec 16) (v : Nat) (p : Fin 32), q.op = .dcopy → x.dma.ph = .walk h v → x.pl.part = some p →
      s.loftMarks ((s.walkReads (s.rootOf t.site p).1 (s.rootOf t.site p).2 h v).map fun e => loftLine e.1 e.2) .double = [] →
      (s.walk t.site p h v = none → Completes (.tlbMissWalkDone t) s fun u => done u ∧
        evtSeqFault ∈ (u.tile t).rp.rep.fatal ∧ (u.tile t).mem.scr = x.mem.scr) ∧
      (∀ e : TlbEntry, s.walk t.site p h v = some e → (q.outward x = true → e.w = true) →
        granted s.furnish (some p) e.site e.addr 0x10000 = true →
        (∀ w : BitVec 16, x.dma.firstVer e.handle e.vpage = some w → w = e.ver) →
        Completes (.tlbMissWalkDone t) s fun u => (u.tile t).dma.ph = .access ∧ (u.tile t).dma.tlb.head? = some e ∧
          (u.tile t).dma.firstVer e.handle e.vpage = some e.ver ∧ (u.tile t).dq = x.dq ∧
          (u.tile t).mem = x.mem ∧ (u.tile t).sc = x.sc)) ∧
    (q.op = .dpress ∨ q.op = .dmcast → x.dma.ph = .idle →
      (q.c.toNat = 0 ∨ x.portFree (q.ra + 64 * (q.c.toNat - 1)) 64 = true) → Completes (.treeInjectionComplete t) s fun u => done u ∧
      (u.tile t).mem.scr = x.mem.scr ∧
      ∃ fs rest : List Flit, u.net.flits = s.net.flits ++ fs ++ rest ∧ fs.length = q.c.toNat ∧
        ∀ (i : Nat) (f : Flit), fs[i]? = some f → f.vc = 3 ∧ f.part = x.pl.part ∧ ∃ rank use,
          f.msg = .tree (BitVec.ofNat 8 q.rb) rank use i ((List.range 16).map fun e =>
            BitVec.ofNat 32 (((List.range 4).map fun b =>
              (scr x (q.ra + 64 * i + 4 * e + b)).toNat * 256 ^ b).sum)) false))

/-- R238, R239, R284, R326, R330, R461: what each supervisor write does at a tile once it arrives in its order on VC2, and that it is
acknowledged there; a tree entry, an instruction word, an entry address or a scratchpad region is written only while the partition runs
no stage, and a tree entry that R242 refuses is not written; a scratchpad write into a bank in OFF is not performed (R191). -/
def Obligations.ConfigWritesTakeEffect : Prop :=
  ∀ (s : State) (t : PTile) (w : CfgWrite), (s.site t.site).up = true →
    s.net.inOrder (·.isWrite t.port0) t.port0 (.cfg w) = true → s.inGap t w = true → s.mayWrite t w = true →
    (∀ (off : Nat) (bs : List Byte) (n : Nat), w = .scratch off bs → (s.tile t).mem.answers off bs.length ≠ .wait n) →
    Completes (.configWrite t w) s fun u =>
      let x := s.tile t
      let y := u.tile t
      (∃ f ∈ u.net.flits, f.vc = 2 ∧ f.src = t.key ∧ f.msg = .cfgAck ∧ (f.dcol, f.drow, f.dport) = s.net.supAt) ∧
      y.sc.regs = x.sc.regs ∧ y.sc.pc = x.sc.pc ∧ y.vec = x.vec ∧ y.mx = x.mx ∧
      (∀ r : PTile, r ≠ t → u.tile r = s.tile r) ∧
      match w with
      | .istore k ws => (∀ (i : Nat) (v : Word), ws[i]? = some v → k.toNat + i < 16384 →
          SMap.get (0 : Word) y.mem.istore (k.toNat + i) = v ∧ SMap.get Ecc.ok y.mem.istoreEcc (k.toNat + i) = .ok) ∧
          (∀ a : Nat, a < k.toNat ∨ k.toNat + ws.length ≤ a →
            SMap.get (0 : Word) y.mem.istore a = SMap.get (0 : Word) x.mem.istore a) ∧ y.mem.scr = x.mem.scr
      | .entry pc => y.sc.entry.toNat = pc.toNat / 4 * 4 ∧ y.mem = x.mem
      | .budgets st => y.clk.budgets = st ∧ y.mem = x.mem
      | .tree id e => u.net.tree t id = e ∧ y = x
      | .scratch off bs =>
          (x.mem.answers off bs.length = .off → y.mem.scr = x.mem.scr ∧ evtBankOff ∈ y.rp.rep.fatal) ∧
          (x.mem.answers off bs.length = .go → ∀ (i : Nat) (b : Byte), bs[i]? = some b →
            SMap.get (0 : Byte) y.mem.scr (off + i) = b) ∧
          (∀ a : Nat, a < off ∨ off + bs.length ≤ a →
            SMap.get (0 : Byte) y.mem.scr a = SMap.get (0 : Byte) x.mem.scr a)
      | .place c r p => y.pl.c = c ∧ y.pl.r = r ∧ y.pl.part = p ∧ y.mem = x.mem
      | .watchdog n => y.clk.wdLimit = n ∧ y.mem = x.mem
      | .seqRoot p lo hi => y = x ∧ SMap.get (0 : Word) u.roots (t.site.val * 64 + 2 * p.val) = lo &&& 0xFFFFF001 ∧
          SMap.get (0 : Word) u.roots (t.site.val * 64 + 2 * p.val + 1) = hi &&& 0xFF

/-- R209, R211, R366–R368, R370: an edit of an invalid entry of any level writes it at once with the version after the old one and zeros in its
reserved bits (its eight bytes low byte first: log entry 22's presumption); an edit of a valid one
notifies every tile and waits; a notice is acknowledged at once unless the handle is in the walk table of a tile whose stage or copy runs, and then it is
held and counts; when every tile
has acknowledged, the edits apply and the invalidations of every page under a changed entry go out; when those are acknowledged the frames return, but for those kept under R460, and the removed pages are no longer mapped. -/
def Obligations.PageTableEditsApply : Prop :=
  ∀ (s : State) (t : PTile) (e : PageEdit) (handle : BitVec 16) (vpage site off : Nat) (q : EditQ),
    let x := s.tile t
    let p := s.part e.part
    (s.editAt e = some (site, off) →
      ((s.pte site off).v = false → Completes (.pageTableEdit e) s fun u =>
        (let low := if e.level = 3 then 2 ^ 16 else 2 ^ 12
         let top := if e.level = 3 then e.entry.toNat / 2 ^ 62 else e.entry.toNat / 2 ^ 63 * 2 + 1
         let word := top * 2 ^ 62 + ((s.pte site off).ver.toNat + 1) % 2 ^ 16 * 2 ^ 40 + e.entry.toNat % 2 ^ 40 / low * low
         ∀ i : Nat, i < 8 → SMap.get (0 : Byte) u.loft (site * 2 ^ 34 + off + i) = BitVec.ofNat 8 (word / 256 ^ i)) ∧
        (∀ k : Nat, k < site * 2 ^ 34 + off ∨ site * 2 ^ 34 + off + 8 ≤ k →
          SMap.get (0 : Byte) u.loft k = SMap.get (0 : Byte) s.loft k) ∧ (u.part e.part).editQs = p.editQs ∧
        (∀ m ∈ p.maps, m ∈ (u.part e.part).maps) ∧ (∀ a : Fin 32, a ≠ e.part → u.part a = s.part a) ∧ u.net = s.net) ∧
      ((s.pte site off).v = true → Completes (.pageTableEdit e) s fun u => u.loft = s.loft ∧
        (∃ r ∈ (u.part e.part).editQs, r.handle = e.handle ∧ r.applied = false ∧ e ∈ r.edits ∧
          r.waiting = s.tilesOf e.part) ∧
        ∀ k ∈ s.tilesOf e.part, ∃ f ∈ u.net.flits, f.msg = .edit e.handle ∧
          (f.dcol, f.drow, f.dport) = (PTile.ofKey k).port0)) ∧
    ((s.site t.site).up = true → s.net.inOrder (·.isWrite t.port0) t.port0 (.edit handle) = true →
      ((x.dma.walkOvf = true ∨ handle ∈ x.dma.walks) → (x.clk.running = true ∨ x.dq ≠ []) → Completes (.editNotice t handle) s fun u =>
        (u.tile t).dma.held = x.dma.held ++ [handle] ∧ (u.tile t).dma.tlb = x.dma.tlb ∧
        u.ctr t.site .hold = satAdd (s.ctr t.site .hold) 1) ∧
      ((x.dma.walkOvf = false ∧ handle ∉ x.dma.walks) ∨ (x.clk.running = false ∧ x.dq = []) → Completes (.editNotice t handle) s fun u =>
        (∀ a ∈ (u.tile t).dma.tlb, a.handle ≠ handle) ∧ (u.tile t).dma.held = x.dma.held ∧
        ∃ f ∈ u.net.flits, f.msg = .editAck handle ∧ f.src = t.key)) ∧
    ((s.site t.site).up = true → s.net.inOrder (·.isWrite t.port0) t.port0 (.tlbInval handle vpage) = true →
      Completes (.tlbInvalidation t handle vpage) s fun u =>
        (u.tile t).dma.tlb = (x.dma.tlb.filter fun a => !(a.handle = handle && a.vpage = vpage)) ∧
        (u.tile t).mem = x.mem ∧ ∃ f ∈ u.net.flits, f.msg = .invalAck handle ∧ f.src = t.key) ∧
    ((p.editQs.find? fun r => r.handle = handle && !r.applied) = some q →
      (∀ k ∈ q.waiting, q.edits.length ≤ s.net.acks k (.editAck handle)) →
      Completes (.editApply e.part handle) s fun u => u.loft = applyEdits s s.loft q.edits ∧
        (∀ r ∈ (u.part e.part).editQs, r.handle = handle → r.applied = true) ∧
        ∀ a ∈ q.edits, ∀ v : Nat, (v = a.vpage ∨ (editCovers a v = true ∧ ∃ j ∈ q.waiting,
            ∃ y ∈ (s.tile (PTile.ofKey j)).dma.tlb, (PTile.ofKey j).key = j ∧ y.handle = a.handle ∧ y.vpage = v)) →
          ∀ k ∈ s.tilesOf e.part, ∃ f ∈ u.net.flits, f.msg = .tlbInval handle v ∧
          (f.dcol, f.drow, f.dport) = (PTile.ofKey k).port0) ∧
    ((p.editQs.find? fun r => r.handle = handle && r.applied) = some q →
      (∀ k ∈ q.waiting, q.invals.length ≤ s.net.acks k (.invalAck handle)) →
      Completes (.frameRelease e.part handle) s fun u =>
        let n := match s.slotWith e.part handle with | none => 0 | some a => min q.frames a.2.used
        let k := match s.slotWith e.part handle with | none => 0 | some a => min (q.frames - n) a.2.rsv
        let stay := min (p.staying q.edits) (n + k)
        (u.part e.part).used = p.used - n + stay ∧ (u.part e.part).rsv = p.rsv - k ∧
        (u.part e.part).free = p.free + (n + k - stay) ∧
        (∀ m ∈ p.maps, (∀ a ∈ q.edits, m.hit a = false) → m ∈ (u.part e.part).maps) ∧
        (∀ m ∈ (u.part e.part).maps, ∀ a : PageEdit, q.edits.getLast? = some a → a.entry.getLsbD 63 = false → m.hit a = false) ∧
        (u.part e.part).editQs = p.editQs.erase q ∧ u.loft = s.loft)

/-- R202, R204: a refresh slot's patrol reads go through the next two lines of the channel; a corrected line has valid ECC and counts
in LOFT_CE, an uncorrectable one counts in LOFT_UE; no byte changes. -/
def Obligations.PatrolScrubReads : Prop :=
  ∀ (s : State) (site : Fin 64) (ch : Fin 16), (s.site site).up = true → (s.site site).selfref = false →
    let n := SMap.get 0 (s.site site).scrubAt ch.val
    let line (k : Nat) : Nat := (site.val * 2 ^ 34 + (k % 2 ^ 24 * 1024 + ch.val * 64)) / 64
    let marked (e : Ecc) : Nat := ([n, n + 1].filter fun k => SMap.get Ecc.ok s.loftEcc (line k) == e).length
    Completes (.loftRefreshSlot site ch) s fun u =>
      SMap.get 0 (u.site site).scrubAt ch.val = n + 2 ∧ u.loft = s.loft ∧
      u.ctr site .loftCe = satAdd (s.ctr site .loftCe) (marked .single) ∧
      u.ctr site .loftUe = satAdd (s.ctr site .loftUe) (marked .double) ∧
      (∀ k ∈ [n, n + 1], SMap.get Ecc.ok s.loftEcc (line k) = .single → SMap.get Ecc.ok u.loftEcc (line k) = .ok) ∧
      u.tiles = s.tiles ∧ u.parts = s.parts

/-! ### Semaphores (R259–R273) -/

/-- R264–R266: ADD and SUB, once arrived in their tile's order (R237), on an entry that the source's partition owns and shares with none.  In count mode the sum is clamped to
± (2^31 − 1) and status 3 tells it; in sequence mode it wraps.  SNAP takes the old value at a new tag.  Waiters that the new value satisfies are
released; every other entry stays. -/
def Obligations.SemaphoreAddsApply : Prop :=
  ∀ (s : State) (site : Fin 64) (src : PTile) (op : BitVec 64) (p : Fin 32),
    let e := s.sem site (semIdx op)
    let amount := (semN op).toInt
    let order := (semTag op - e.tag).toNat
    (s.tile src).pl.part = some p → e.owner.toNat = p.val → e.share = 0 → e.ecc = .ok →
    (op.toNat / 2 ^ 42) % 4 = 0 → (e.seq = true ∨ semN op ≠ 0x80000000) → order < 2 ^ 15 →
    let changes (i : Instr) (code : Nat) (sum : Int) : Prop := s.storeTakes site src (setSemOp code op) = true →
      let clamped : Int := max (-(2 ^ 31 - 1)) (min sum (2 ^ 31 - 1))
      let v : Word := BitVec.ofInt 32 (if e.seq = true then sum else clamped)
      let status := if e.seq = true ∨ clamped = sum then 0 else 3
      Completes i s fun u =>
        let e' := u.sem site (semIdx op)
        e'.value = v ∧ e'.tag = semTag op ∧ e'.snap = (if semTag op = e.tag then e.snap else e.value) ∧
        e'.owner = e.owner ∧ e'.share = e.share ∧ e'.init = e.init ∧ e'.seq = e.seq ∧
        (∀ (i : Fin 64) (k : BitVec 10), (i ≠ site ∨ k ≠ semIdx op) → u.sem i k = s.sem i k) ∧
        (∀ w ∈ u.waiters, w ∈ s.waiters ∧ ¬ (w.site = site ∧ w.index = semIdx op ∧ e'.satisfied w.n = true)) ∧
        (∃ f ∈ u.net.flits, f.vc = 0 ∧ (f.dcol, f.drow, f.dport) = src.port0 ∧ f.msg = .semAck (BitVec.ofNat 64
          (status * 2 ^ 60 + (semTag op).toNat * 2 ^ 44 + (semIdx op).toNat * 2 ^ 32 + v.toNat))) ∧ u.tiles = s.tiles
    changes (.semOpAdd site src op) 1 (e.value.toInt + amount) ∧ changes (.semOpSub site src op) 2 (e.value.toInt - amount)

/-- R264–R266, R268: READ answers the value; WAIT_GE answers at once if the value has reached the target, else it waits behind the others, within the quota; an
ADD or SUB on a shared entry is held, with its tile's step, and answered with status 1; a partition that neither owns nor shares the entry gets status 2, which
counts, and nothing changes. -/
def Obligations.SemaphoreReadsAndWaits : Prop :=
  ∀ (s : State) (site : Fin 64) (src : PTile) (op : BitVec 64) (p : Fin 32),
    let e := s.sem site (semIdx op)
    let acks (u : State) (code v : Nat) : Prop := ∃ f ∈ u.net.flits, f.vc = 0 ∧ (f.dcol, f.drow, f.dport) = src.port0 ∧
      f.msg = .semAck (BitVec.ofNat 64 (code * 2 ^ 60 + (semTag op).toNat * 2 ^ 44 + (semIdx op).toNat * 2 ^ 32 + v))
    let reached : Prop := if e.seq = true then (e.value - semN op).toNat < 2 ^ 31 else (semN op).toInt ≤ e.value.toInt
    let takes (code : Nat) : Prop := s.storeTakes site src (setSemOp code op) = true
    let now := (s.tile src).sc.step.toNat
    (s.tile src).pl.part = some p → (op.toNat / 2 ^ 42) % 4 = 0 → e.ecc = .ok →
    (e.owner ≠ 63 → (e.owner.toNat = p.val ∨ e.share.getLsbD p.val = true) →
      (takes 4 → Completes (.semOpRead site src op) s fun u => acks u 0 e.value.toNat ∧ u.sems = s.sems ∧ u.waiters = s.waiters) ∧
      (takes 3 → reached → Completes (.semOpWaitGe site src op) s fun u => acks u 0 e.value.toNat ∧ u.sems = s.sems ∧
        u.waiters = s.waiters) ∧
      (takes 3 → ¬ reached → (s.waiters.filter fun w => w.site = site && w.part = p).length < s.quota p site →
        Completes (.semOpWaitGe site src op) s fun u => u.sems = s.sems ∧
          u.waiters = s.waiters ++ [⟨site, semIdx op, semN op, semTag op, p, src⟩]) ∧
      (e.share ≠ 0 → (e.seq = true ∨ semN op ≠ 0x80000000) →
        (s.deferred.filter fun d => d.site = site && d.part = p).length < 64 →
        (takes 1 → Completes (.semOpAdd site src op) s fun u => acks u 1 e.value.toNat ∧ u.sems = s.sems ∧
          u.deferred = s.deferred ++ [⟨site, p, BitVec.ofNat 64 (1 * 2 ^ 60 + op.toNat % 2 ^ 60), now⟩]) ∧
        (takes 2 → Completes (.semOpSub site src op) s fun u => acks u 1 e.value.toNat ∧ u.sems = s.sems ∧
          u.deferred = s.deferred ++ [⟨site, p, BitVec.ofNat 64 (2 * 2 ^ 60 + op.toNat % 2 ^ 60), now⟩]))) ∧
    (e.owner = 63 ∨ (e.owner.toNat ≠ p.val ∧ e.share.getLsbD p.val = false) →
      ∀ i ∈ [(1, Instr.semOpAdd site src op), (2, .semOpSub site src op), (3, .semOpWaitGe site src op),
          (4, .semOpRead site src op)], takes i.1 → Completes i.2 s fun u => acks u 2 0 ∧ u.sems = s.sems ∧ u.waiters = s.waiters ∧ u.deferred = s.deferred ∧
          u.ctr site .semFence = satAdd (s.ctr site .semFence) 1)

/-- R263, R264, R268, R272, R273, R294, R312: an acknowledgement that has arrived in its store's order writes an SREAD's register and completes its command, an error status is an event that is
not replayed; an operation that has waited 4,096 net cycles is a recoverable EVT_SEM_NOACK; a deferred operation of a finished step is performed; a
store whose sums differ from the partition's closes that partition. -/
def Obligations.SemaphoreEventsComplete : Prop :=
  ∀ (s : State) (t : PTile) (site : Fin 64) (ack : BitVec 64) (p : Fin 32) (q : QCmd) (d : Deferred),
    let x := s.tile t
    ((s.site t.site).up = true → s.net.ready (semAckFlit t site ack) = true → x.sq = [q] → ackFor x site ack = some q →
      (q.op = .sadd ∨ q.op = .ssub ∨ q.op = .swait ∨ q.op = .sread) →
      Completes (.semAckArrival t site ack) s fun u =>
        (u.tile t).sq = [] ∧ (u.tile t).sc.qd 4 = x.sc.qd 4 + 1 ∧ (u.tile t).sc.pc = x.sc.pc ∧
        (u.tile t).mem.scr = x.mem.scr ∧
        (∀ r : Reg, (u.tile t).sc.reg r = if q.op = .sread ∧ r = q.f3 ∧ r ≠ 0 then semN ack else x.sc.reg r) ∧
        (3 ≤ ack.toNat / 2 ^ 60 → evtSemError ∈ (u.tile t).rp.rep.fatal) ∧
        (ack.toNat / 2 ^ 60 = 2 → evtSemFence ∈ (u.tile t).rp.rep.fatal)) ∧
    ((s.site t.site).up = true → timedOut x = some q → Completes (.semAckTimeout t) s fun u =>
        evtSemNoack ∈ (u.tile t).rp.rep.recov ∧ (u.tile t).sq.length = x.sq.length ∧ (u.tile t).mem = x.mem ∧
        (u.tile t).sc = x.sc) ∧
    (s.deferred = [d] → d.part = p → (s.part p).stepClosed d.step = true → (s.sem d.site (semIdx d.word)).seq = true →
      Completes (.semDeferredPerform p) s fun u => u.deferred = [] ∧
        (u.sem d.site (semIdx d.word)).value = (if d.word.toNat / 2 ^ 60 = 1
          then (s.sem d.site (semIdx d.word)).value + semN d.word else (s.sem d.site (semIdx d.word)).value - semN d.word) ∧
        (u.sem d.site (semIdx d.word)).tag = (s.sem d.site (semIdx d.word)).tag) ∧
    ((s.site site).up = true → s.semBad site = [p] → Completes (.semAudit site) s fun u =>
        (u.part p).open_ = false ∧ u.ctr site .semAudit = satAdd (s.ctr site .semAudit) 1 ∧ u.sems = s.sems)

/-! ### Network and press (R224–R250) -/

/-- R236, R246, R248: the flit whose turn it is on an output, VC0 before the other channels, crosses the link: one credit is
taken, the counts of both ends advance, it stands in the router, and the next input in port order has its turn; a flit with a wrong hop
CRC is discarded, counts, and a notice names the link; one for a tile outside its partition is refused (R16). -/
def Obligations.FlitsHop : Prop :=
  ∀ (s : State) (r : PTile) (port : Fin 10) (vc : Vc) (f : Flit) (before after : List Flit),
    s.net.crossing r port vc = some f → s.net.flits = before ++ f :: after → f ∉ before →
    (s.site r.site).up = true →
    let p := opposite port.val
    let k := linkKey (tileAt f.col f.row).key p vc.val
    let x := s.net.link k
    (vc ≠ 0 → s.net.next f.col f.row p 0 = none) ∧ x.aOff.toNat < (if vc = 0 then 4 else if vc = 1 then 8 else 16) ∧
    (Completes (.flitHop r port vc false) s fun u =>
      (∃ g, u.net.flits = before ++ after ++ [g] ∧ ∃ n, g.msg = .notice n ∧ n.code = evtNetHcrc ∧ n.link = some k) ∧
      u.ctr r.site .hcrc = satAdd (s.ctr r.site .hcrc) 1 ∧
      (u.net.link k).s = x.s + 1 ∧ (u.net.link k).r = x.r + 1 ∧ u.tiles = s.tiles) ∧
    (s.fenced r f = false → Completes (.flitHop r port vc true) s fun u =>
      (∃ g, u.net.flits = before ++ g :: after ∧ (g.col, g.row, g.inPort) = (r.col, r.row, port.val) ∧ g.msg = f.msg ∧
        g.vc = f.vc ∧ (g.dcol, g.drow, g.dport) = (f.dcol, f.drow, f.dport) ∧ g.part = f.part ∧ g.src = f.src) ∧
      (u.net.link k).s = x.s + 1 ∧ (u.net.link k).r = x.r + 1 ∧ (u.net.link k).aOff = x.aOff + 1 ∧
      SMap.get 0 u.net.turns k = (f.inPort + 1) % 10 ∧ (f.isData f.src = false → u.tiles = s.tiles) ∧
      (∀ a : PTile, (u.tile a).mem = (s.tile a).mem ∧ (u.tile a).sc = (s.tile a).sc) ∧ u.ctrs = s.ctrs) ∧
    (s.fenced r f = true → Completes (.flitHop r port vc true) s fun u =>
      (∃ rest, u.net.flits = before ++ after ++ rest) ∧ u.ctr r.site .netFence = satAdd (s.ctr r.site .netFence) 1 ∧
      u.tiles = s.tiles)

/-- R190, R191, R240–R244, R247: a transfer's last flit leaves the network at its tile, with EVT_NET_E2E if its CRC-32 is wrong.  A
press input of an entry that does not take it is refused and counts; one of another use, or that finds 32 flits held, stays; it is
held until every input of its index is there; then the inputs are summed in rank order and the sum goes on, or, for port 0, into the
tile; inputs of equal rank are refused.  A wrong CRC or adder is an end-to-end mismatch (log entry 62).  What crossed a
site in a supply-warning window marks the report of the tile that takes it invalid (R521).  A multicast flit of an entry that
takes it is copied to the entry's ports and delivered if port 0 is among them, unless its bank is OFF; it waits while the bank wakes. -/
def Obligations.TreesCombine : Prop :=
  ∀ (s : State) (r : PTile) (port : Fin 10) (f : Flit) (x : TreeFlit) (before after : List Flit) (crcOk adderOk : Bool),
    (s.site r.site).up = true → s.net.flits = before ++ f :: after →
    let e := s.net.tree r x.id
    let gone (u : State) : Prop := ∃ rest, u.net.flits = before ++ after ++ rest
    let judged (ok inval : Bool) (u : State) : Prop :=
      (ok = true → (u.tile r).rp = { (s.tile r).rp with
        rep := { (s.tile r).rp.rep with invalid := (s.tile r).rp.rep.invalid || inval } }) ∧
      (inval = true → (u.tile r).rp.rep.invalid = true) ∧
      (ok = false → evtNetE2e ∈ (u.tile r).rp.rep.recov ∧ u.ctr r.site .e2e = satAdd (s.ctr r.site .e2e) 1)
    let takes : Prop := e.v = true ∧ f.part.map (·.val) = some e.part.toNat
    let delivered (u : State) (row : Nat) (ws : List Word) : Prop := ∀ i b : Nat, i < 16 → b < 4 →
      SMap.get (0 : Byte) (u.tile r).mem.scr (row + 4 * i + b) = BitVec.ofNat 8 ((ws.getD i 0).toNat / 256 ^ b)
    let row := (e.lrow.toNat + x.index) * 64
    (f.arrived r.port0 = true → f.msg = .data true → (∀ g ∈ before, (g.arrived r.port0 && g.msg == .data true) = false) →
      Completes (.transferArrival r crcOk) s fun u => judged crcOk f.inval u ∧ (u.tile r).mem = (s.tile r).mem ∧ gone u ∧
        ∀ a : PTile, a ≠ r → u.tile a = s.tile a) ∧
    (f.asTree = some x → (∀ g ∈ before, s.net.treeAt r port.val false g = false) → s.net.treeAt r port.val false f = true →
      let ins := s.net.inputs r x.id x.index ++ [⟨r.key, port.val, x.id, x.rank, x.use, x.index, x.words, x.ovf, x.inval⟩]
      let sum := pressSum e.ty ins
      let arrives (P : State → Prop) : Prop := Completes (.pressInput r port ⟨crcOk, adderOk⟩) s P
      (¬ (takes ∧ e.pmask.getLsbD port.val = true) →
        arrives fun u => u.net.press = s.net.press ∧ gone u ∧ u.ctr r.site .netFence = satAdd (s.ctr r.site .netFence) 1) ∧
      (takes → e.pmask.getLsbD port.val = true →
        ((x.use ≠ e.use ∨ 32 ≤ (s.net.press.filter fun y => y.router == r.key).length) → arrives fun u => u = s) ∧
        (x.use = e.use → (s.net.press.filter fun y => y.router == r.key).length < 32 →
          ((∃ n : Nat, n < 10 ∧ e.pmask.getLsbD n = true ∧ ∀ y ∈ ins, y.port ≠ n) →
            arrives fun u => judged crcOk false u ∧ gone u ∧
              u.net.press = s.net.press ++ [⟨r.key, port.val, x.id, x.rank, x.use, x.index, x.words, x.ovf, x.inval⟩]) ∧
          ((∀ n : Nat, n < 10 → e.pmask.getLsbD n = true → ∃ y ∈ ins, y.port = n) →
            let summed (u : State) : Prop := gone u ∧
              (∀ z ∈ u.net.press, ¬ (z.router = r.key ∧ z.id = x.id ∧ z.index = x.index)) ∧
              (u.net.tree r x.id).use = (if x.index = e.nflit.toNat then !e.use else e.use)
            ((ins.map (·.rank)).Nodup → (crcOk = true ∨ adderOk = true) →
              (e.port ≠ 0 → arrives fun u => judged (crcOk && adderOk) false u ∧ summed u ∧
                u.ctr r.site .pressovf = satAdd (s.ctr r.site .pressovf) sum.2 ∧
                ∃ g ∈ u.net.flits, g.inPort = e.port.toNat ∧ (g.col, g.row) = (r.col, r.row) ∧
                  g.asTree = some ⟨x.id, e.rank, e.use, x.index, sum.1, ins.any (·.ovf) || sum.2 != 0, ins.any (·.inval)⟩) ∧
              (e.port = 0 → row + 64 ≤ 0x200000 → (s.tile r).mem.bank (row / 0x20000) = ⟨.on, none⟩ →
                arrives fun u => judged (crcOk && adderOk) (ins.any (·.inval)) u ∧ summed u ∧ delivered u row sum.1)) ∧
            (¬ (ins.map (·.rank)).Nodup → arrives fun u => summed u ∧
              u.ctr r.site .netFence = satAdd (s.ctr r.site .netFence) ins.length))))) ∧
    (f.asTree = some x → (∀ g ∈ before, s.net.treeAt r port.val true g = false) → s.net.treeAt r port.val true f = true →
      let arrives (P : State → Prop) : Prop := Completes (.multicastFlit r port) s P
      let copied (u : State) : Prop := gone u ∧ ∀ n : Nat, 0 < n → n < 10 → e.pmask.getLsbD n = true → ∃ g ∈ u.net.flits,
        g.inPort = n ∧ (g.col, g.row) = (r.col, r.row) ∧
        ∃ y, g.asTree = some y ∧ y.id = x.id ∧ y.index = x.index ∧ y.words = x.words
      let bank := (s.tile r).mem.bank (row / 0x20000)
      (¬ (takes ∧ e.port.toNat = port.val) → arrives fun u => gone u ∧ u.tiles = s.tiles ∧
        u.ctr r.site .netFence = satAdd (s.ctr r.site .netFence) 1) ∧
      (takes → e.port.toNat = port.val →
        (e.pmask.getLsbD 0 = false → arrives fun u => copied u ∧ ∀ a : PTile, u.tile a = s.tile a) ∧
        (e.pmask.getLsbD 0 = true → row + 64 ≤ 0x200000 → x.words.length = 16 →
          (bank = ⟨.on, none⟩ → arrives fun u => copied u ∧ delivered u row x.words) ∧
          (bank.cur = .off → arrives fun u => copied u ∧ (u.tile r).mem.scr = (s.tile r).mem.scr ∧
            evtBankOff ∈ (u.tile r).rp.rep.fatal) ∧
          (bank.cur = .ret → arrives fun u => u.net.flits.length = s.net.flits.length ∧ u.net.press = s.net.press ∧
            (u.tile r).mem.scr = (s.tile r).mem.scr ∧ ((u.tile r).mem.bank (row / 0x20000)).next.isSome = true))))

/-- R241: the press adds its inputs in ascending rank, FP32 with one rounding each or I32 with saturation, so the order in which they
arrived does not matter. -/
def Obligations.PressOrderIsByRank : Prop :=
  ∀ (int32 : Bool) (ins other : List PressIn), ins.Perm other → (ins.map (·.rank)).Nodup →
    pressSum int32 ins = pressSum int32 other

/-- R248–R250: a returned credit advances G and A; an audit sends S as a marker on every link in use; a marker that equals R
at its place in the channel's order is answered with C and leaves the block as it was; an echo that equals G ends the audit of the link; one that differs counts. -/
def Obligations.CreditsAreAudited : Prop :=
  ∀ (s : State) (r : PTile) (port : Fin 10) (vc : Vc) (m : BitVec 16),
    let k := linkKey r.key port.val vc.val
    let x := s.net.link k
    (x.c ≠ x.g → x.echo = none → Completes (.creditReturn r port vc) s fun u =>
      (u.net.link k).g = x.g + 1 ∧ (u.net.link k).aOff = x.aOff - 1 ∧ (u.net.link k).s = x.s ∧
      (∀ j : Nat, j ≠ k → u.net.link j = s.net.link j) ∧ u.net.flits = s.net.flits) ∧
    (s.net.unbalanced = [] → Completes .creditAuditStart s fun u =>
      (∀ j : Nat, SMap.has s.net.links j = true → u.net.link j = { s.net.link j with marker := some (s.net.link j).s }) ∧
      u.parts = s.parts) ∧
    (x.marker = some m → x.r - (x.s - m) = m → Completes (.auditMarker r port vc) s fun u =>
      (u.net.link k).marker = none ∧ (u.net.link k).echo = some x.c ∧ u.parts = s.parts ∧ u.ctrs = s.ctrs) ∧
    (x.marker = some m → x.r - (x.s - m) ≠ m → Completes (.auditMarker r port vc) s fun u =>
      u.ctr r.site .netAudit = satAdd (s.ctr r.site .netAudit) 1) ∧
    (x.echo = some m → x.g = m → Completes (.auditEcho r port vc) s fun u =>
      (u.net.link k).echo = none ∧ u.parts = s.parts ∧ u.ctrs = s.ctrs) ∧
    (x.echo = some m → x.c = x.g → x.g ≠ m → Completes (.auditEcho r port vc) s fun u =>
      u.ctr r.site .netAudit = satAdd (s.ctr r.site .netAudit) 1)

/-! ### Sizing (R145–R182) -/

/-- R145, R153–R155, R166, R167: a sizing slot of a lane that the stage keeps active runs the check vector that the lane owes; the pass of the stage's bin goes on by six
conversions, or starts if it is due; in a supply-warning window the pass is discarded and counted, and the check vector's
product is invalid. -/
def Obligations.SizingSlotsMeasure : Prop :=
  ∀ (s : State) (t : PTile) (lane : Fin 2),
    let l := s.lane t lane
    let x := l.getBin l.bin.toNat
    let win := (s.site t.site).window.isSome
    (s.site t.site).up = true → (s.site t.site).arith = true → (s.tile t).clk.running = true →
    (s.tile t).clk.keeps lane = true → l.inSlot = true →
    Completes (.sizingSlot t lane) s fun u =>
      let m := u.lane t lane
      OnlyLane s u t lane ∧ (∀ r : PTile, r ≠ t → u.tile r = s.tile r) ∧
      m.slotsRun = l.slotClock / 16 / 32 + 1 ∧ m.since = false ∧ m.gain = l.gain ∧ m.offset = l.offset ∧ m.dens = l.dens ∧
      m.cvs = l.cvs ++ (if l.since then [win || l.checkVector s.nonce (s.lastVat t lane)] else []) ∧
      ((u.tile t).sc = (s.tile t).sc ∧ (u.tile t).mem = (s.tile t).mem ∧ (u.tile t).vec = (s.tile t).vec) ∧
      (u.tile t).rp.rep.invalid = ((s.tile t).rp.rep.invalid || (win && l.since)) ∧
      (l.quar = false → (s.owesTest t && l.qualifies) = false →
        (win = false → (∀ p : Pass, x.pass = some p → p.slots < 16 →
            (m.getBin l.bin.toNat).pass = some (Pass.step { p with total := p.total + 1 } s.nonce)) ∧
          (x.pass = none → (m.getBin l.bin.toNat).pass = if x.ldue then some (Pass.step ⟨0, 1, []⟩ s.nonce) else none)) ∧
        (win = true → (∀ p : Pass, x.pass = some p → p.slots < 16) → (m.getBin l.bin.toNat).pass = none ∧
          u.ctr t.site .discard = satAdd (s.ctr t.site .discard) (if l.losesPass then 1 else 0))) ∧
      (l.quar = false → (s.owesTest t && l.qualifies) = true → m.accSlot = true)

/-- R166, R167: the closing check vector is run at the end of a stage when the lane has been used and its queue is empty.  A verdict
that fails is EVT_CHECK_VECTOR, recoverable, and counts in CHKVEC; a second failure, in the replay, quarantines the lane. -/
def Obligations.CheckVectorsAreJudged : Prop :=
  ∀ (s : State) (t : PTile) (lane : Fin 2),
    let l := s.lane t lane
    let win := (s.site t.site).window.isSome
    (((s.tile t).sc.wait = .send ∨ (s.tile t).sc.wait = .stepend) → (s.tile t).quiet .lq = true → l.since = true →
      s.tileRuns t = true →
      Completes (.closingCheckVector t lane) s fun u =>
        OnlyLane s u t lane ∧ (u.lane t lane).since = false ∧
        (u.lane t lane).cvs = l.cvs ++ [win || l.checkVector s.nonce (s.lastVat t lane)] ∧
        (u.lane t lane).bins = l.bins ∧ (u.tile t).sc = (s.tile t).sc ∧ (u.tile t).mem = (s.tile t).mem) ∧
    ∀ (ok : Bool) (rest : List Bool), l.cvs = ok :: rest → (s.site t.site).up = true →
      Completes (.checkVectorVerdict t lane) s fun u =>
        OnlyLane s u t lane ∧ (u.lane t lane).cvs = rest ∧ (u.tile t).sc = (s.tile t).sc ∧ (u.tile t).mem = (s.tile t).mem ∧
        (ok = true → u.lane t lane = { l with cvs := rest } ∧ u.tile t = s.tile t ∧ u.ctr t.site .chkvec = s.ctr t.site .chkvec) ∧
        (ok = false → evtCheckVector ∈ (u.tile t).rp.rep.recov ∧
          u.ctr t.site .chkvec = satAdd (s.ctr t.site .chkvec) 1 ∧ (u.lane t lane).failedCv = true ∧
          ((l.failedCv && s.inReplay t) = false → (u.lane t lane).quar = l.quar ∧ (u.lane t lane).bins = l.bins) ∧
          ((l.failedCv && s.inReplay t) = true → (u.lane t lane).quar = true ∧
            (u.lane t lane).qcount = satAdd l.qcount 1 ∧
            (s.bbx.frozen = false → SMap.get BbxRec.init u.bbx.recs s.bbx.next.toNat = quarRecord s t lane)))

/-- R156–R159, R171–R174: a complete pass, of sizing slots or of warm-up, is accepted where it is plausible: the bin holds the new
values, its count rises by one, its bar is lifted, and the acceptance is reported; else it is rejected: the values stay, and the third
rejection in succession quarantines the lane, which is recorded.  Warm-up runs on a lane outside stages while the bin is not warm or is barred, and
loads the lanes of the site that are in the active set, where no neighbour test is still to come (R508) and the power cap has room for the site's stage (R528); a supply-warning window discards its pass and counts it. -/
def Obligations.PassesAreJudged : Prop :=
  ∀ (s : State) (t : PTile) (lane : Fin 2) (bin : Fin 4),
    let l := s.lane t lane
    let x := l.getBin bin.val
    let undriven (y : Lane) : Lane := { y with drive := .off }
    let judged (i : Instr) (sums : SMap Nat) : Prop := Completes i s fun u =>
      let m := u.lane t lane
      let b := m.getBin bin.val
      (∀ (r : PTile) (k : Fin 2), (r ≠ t ∨ k ≠ lane) → undriven (u.lane r k) = undriven (s.lane r k)) ∧
      u.tiles = s.tiles ∧ u.vats = s.vats ∧ u.vatMem = s.vatMem ∧ b.pass = none ∧
      (l.plausible bin.val (passCals sums) = true →
        b.held = true ∧ b.count = x.count + 1 ∧ b.wrap = (x.wrap || x.count == 0xFFFFFFFF) ∧ b.rej = x.rej ∧
        b.barred = false ∧ b.barwhy = 0 ∧ b.lbarred = false ∧ b.unstamped = true ∧ b.warm = (x.warm || decide (1 ≤ x.accepted)) ∧
        (∀ c : Nat, c < 520 → ∀ n : NewCal, (passCals sums)[c]? = some n →
          SMap.get 0 m.gain (520 * bin.val + c) = BitVec.ofInt 16 n.gain ∧
          SMap.get 0 m.offset (520 * bin.val + c) = BitVec.ofInt 12 n.off ∧ SMap.get 0 m.dens c = BitVec.ofInt 16 n.dens) ∧
        (∀ k : Nat, k < 520 * bin.val ∨ 520 * bin.val + 520 ≤ k →
          SMap.get 0 m.gain k = SMap.get 0 l.gain k ∧ SMap.get 0 m.offset k = SMap.get 0 l.offset k) ∧
        m.succ = 0 ∧ m.qcount = l.qcount ∧ (∀ k : Nat, k ≠ bin.val → m.getBin k = l.getBin k) ∧
        u.net.flits = s.net.flits ++ [acceptedFlit s t lane bin]) ∧
      (l.plausible bin.val (passCals sums) = false →
        b.rej = satAdd x.rej 1 ∧ b.count = x.count ∧ b.held = x.held ∧ b.barred = x.barred ∧
        m.gain = l.gain ∧ m.offset = l.offset ∧ m.dens = l.dens ∧ u.net = s.net ∧
        (l.succ < 2 → m.succ = l.succ + 1 ∧ m.quar = l.quar ∧ m.qcount = l.qcount ∧ u.bbx = s.bbx) ∧
        (2 ≤ l.succ → m.quar = true ∧ m.qcount = satAdd l.qcount 1 ∧
          (s.bbx.frozen = false → SMap.get BbxRec.init u.bbx.recs s.bbx.next.toNat = quarRecord s t lane)))
    (s.site t.site).up = true →
    (∀ p : Pass, x.pass = some p → p.slots = 16 → judged (.sizingPassResult t lane bin) p.sums ∧
      Completes (.sizingPassResult t lane bin) s fun u => OnlyLane s u t lane) ∧
    ((s.site t.site).arith = true → s.testsDue t.site = false → (s.tile t).pl.bad = false → (s.tile t).clk.running = false →
      (x.warm = false ∨ x.barred = true) → (l.quar = false ∨ l.lifting = true) →
      ((s.site t.site).warmSet.contains (laneKey t lane) = true ∨ s.warmFits t.site bin (laneKey t lane) = true) →
      ((s.site t.site).window = none → judged (.warmUp t lane bin) (warmSums s.nonce)) ∧
      ((s.site t.site).window ≠ none → Completes (.warmUp t lane bin) s fun u =>
        (∀ (r : PTile) (k : Fin 2), undriven (u.lane r k) = undriven (s.lane r k)) ∧ u.tiles = s.tiles ∧ u.net = s.net ∧
        u.ctr t.site .discard = satAdd (s.ctr t.site .discard) 1))

/-- R154, R172: a pass that has not completed within 16,384 slots is discarded and counted in DISCARD; a lane whose warm-up has not
completed 10 ms after its start is quarantined, and its tile has failed: the partition's reset, which follows, replaces it.
R160–R163: the supervisor stamps an acceptance with its counter; a bin is due at an age of 100 ms and barred at 499 ms, each with a
message that names its count; the lane takes a message, which has arrived in its order among the supervisor's writes (R237; the channel is log entry 25), only if the count is the bin's. -/
def Obligations.BinsAge : Prop :=
  (∀ (s : State) (t : PTile) (lane : Fin 2),
    let l := s.lane t lane
    (∀ (bin : Fin 4) (p : Pass), (l.getBin bin.val).pass = some p → 16384 ≤ p.total → p.slots < 16 →
      Completes (.sizingPassDiscard t lane bin) s fun u =>
        OnlyLane s u t lane ∧ (u.lane t lane).getBin bin.val = { l.getBin bin.val with pass := none } ∧
        (∀ k : Nat, k ≠ bin.val → (u.lane t lane).getBin k = l.getBin k) ∧ (u.lane t lane).gain = l.gain ∧
        u.ctr t.site .discard = satAdd (s.ctr t.site .discard) 1 ∧ u.tiles = s.tiles) ∧
    (∀ p : Fin 32, (s.site t.site).up = true → l.warmedUp = false → l.rewarm = true → (s.site t.site).warmSet ≠ [] →
      (s.tile t).pl.bad = false → (s.tile t).pl.failed = false → (s.tile t).pl.part = some p → (s.part p).oos = false → (s.part p).prev = none →
      1000000 ≤ s.sup.counter.toNat - (s.site t.site).warmFrom.toNat →
      Completes (.warmUpTimeout t lane) s fun u =>
        OnlyLane s u t lane ∧ (u.lane t lane).quar = true ∧ (l.quar = false → (u.lane t lane).qcount = satAdd l.qcount 1) ∧
        (u.tile t).pl.failed = true ∧ (u.tile t).sc = (s.tile t).sc ∧ (u.part p).resetDue = true ∧
        (∀ r : PTile, r ≠ t → u.tile r = s.tile r))) ∧
  (∀ (s : State) (t : PTile) (lane : Fin 2) (bin : Fin 4),
    let b := (s.lane t lane).getBin bin.val
    let sets (i : Instr) (c : Bin) : Prop := Completes i s fun u =>
      OnlyLane s u t lane ∧ (u.lane t lane).getBin bin.val = c ∧
      (∀ k : Nat, k ≠ bin.val → (u.lane t lane).getBin k = (s.lane t lane).getBin k) ∧
      (u.lane t lane).gain = (s.lane t lane).gain ∧ u.tiles = s.tiles ∧ u.parts = s.parts ∧ u.sup = s.sup
    (b.unstamped = true → s.net.ready (fun f => f.src == t.key && f.msg == .accepted lane bin) = true →
      sets (.acceptanceReport t lane bin) { b with unstamped := false, ts := s.sup.counter }) ∧
    (b.held = true → b.unstamped = false →
      (b.due = false → 10000000 ≤ s.sup.counter.toNat - b.ts.toNat → sets (.binDue t lane bin) { b with due := true } ∧
        Completes (.binDue t lane bin) s fun u => u.net.flits = s.net.flits ++ [sizingFlit s t lane bin false b.count]) ∧
      (b.barred = false → 49900000 ≤ s.sup.counter.toNat - b.ts.toNat →
        sets (.binBarred t lane bin) { b with due := true, barred := true, barwhy := 1 } ∧
        Completes (.binBarred t lane bin) s fun u => u.net.flits = s.net.flits ++ [sizingFlit s t lane bin true b.count])) ∧
    let arrives (bar : Bool) (n : Word) : Prop := s.net.inOrder (·.isWrite t.port0) t.port0 (.sizing lane bin bar n) = true
    (∀ bar : Bool, arrives bar b.count → sets (.dueBarMessage t lane bin bar b.count) { b with ldue := true, lbarred := b.lbarred || bar }) ∧
    (∀ (bar : Bool) (n : Word), n ≠ b.count → arrives bar n → sets (.dueBarMessage t lane bin bar n) b))

/-! ### Vats (R105–R143, R168–R170) -/

/-- R107, R109, R111, R112, R133, R134: a weight-load write of whole rows to a vat of the partition's load, or of a slice that is to be written
again, programs the rows and their count cells and leaves every other byte and vat; a row is retried up to three times, each retry
counts in WRETRY, and a row whose third retry fails costs its columns spares.  Another write to a bound vat writes nothing and is a deckle
fault.  Zero columns and padding rows hold zero codes.  The premises on loads, models that leave and vats that failed twice: those
evictions, restorations and replacements take place first, at the same gap (log entry 28); a write waits behind the supervisor's earlier
writes to the tile (R238). -/
def Obligations.WeightLoadWritesRows : Prop :=
  ∀ (s : State) (t : PTile) (vat row : Nat) (codes : List Byte) (differs cols : List Nat),
    let key := t.key * 96 + vat
    let v := s.vat key
    let verify := differs.zip cols
    let retries := (verify.map fun e => min 3 e.1).sum
    let badCols := (verify.map fun e => if 4 ≤ e.1 then max 1 e.2 else 0).sum
    let row64 (i : Nat) : List Byte := (codes.drop (64 * i)).take 64
    (∀ q : Fin 32, let m := (s.part q).load
      m.state ≠ 4 ∧ m.leaving = [] ∧ m.drop = [] ∧ (m.state = 9 → m.vats ≠ [])) → s.net.flits.any (·.isWrite t.port0) = false → vat < 96 → codes.length % 64 = 0 → row + codes.length / 64 ≤ 512 →
    (s.site t.site).arith = true → (s.site t.site).sleep = false → (∀ k : Nat, (s.vat k).testFails ≠ 2) →
    (∀ p : Fin 32, (v.part = none ∧ s.loadOf key = some p ∨
        v.part = some p ∧ v.tested = false ∧ v.testDue = false ∧ s.hasPackage p v.model = true) →
      (s.part p).idle = true → padFault v (s.sliceRows p key) row (rows64 codes) = false → v.spares + badCols ≤ 8 →
      (v.mode = 2 → ∀ i : Nat, i < codes.length / 64 → 2 ∉ rowCodes 2 (row64 i)) →
      Completes (.weightLoadWrite t vat row codes differs cols) s fun u =>
        (∀ i : Nat, i < codes.length → SMap.get 0 u.vatMem (key * 0x8000 + 64 * row + i) = codes.getD i 0) ∧
        (∀ k : Nat, k < key * 0x8000 + 64 * row ∨ key * 0x8000 + 64 * row + codes.length ≤ k →
          SMap.get 0 u.vatMem k = SMap.get 0 s.vatMem k) ∧
        (∀ i b : Nat, i < codes.length / 64 → b < 4 →
          SMap.get 0 (u.vat key).counts (4 * (row + i) + b) = (rowCounts v.mode (rowCodes v.mode (row64 i))).getD b 0) ∧
        (u.vat key).mode = v.mode ∧ (u.vat key).part = v.part ∧ (u.vat key).kw = v.kw ∧ (u.vat key).spares = v.spares + badCols ∧
        (∀ k : Nat, k ≠ key → u.vat k = s.vat k) ∧ u.ctr t.site .wretry = satAdd (s.ctr t.site .wretry) retries ∧
        u.tiles = s.tiles ∧ u.lanes = s.lanes) ∧
    (v.part ≠ none → (v.tested = true ∨ v.testDue = true) → Completes (.weightLoadWrite t vat row codes differs cols) s fun u =>
      u.vats = s.vats ∧ u.vatMem = s.vatMem ∧ u.parts = s.parts ∧
      ((s.bbx.ring t.site).frozen = false → ∃ r : BbxRec, r.event = evtDeckle ∧
        SMap.get BbxRec.init (u.bbx.ring t.site).recs (s.bbx.ring t.site).next = r))

/-- R169, R170, R132, R133: an acceptance test on a lane outside a stage or in a slot left for it.  Test a, then test b, then the vat is
tested; a spare readback is one test.  A first failure counts in ACCFAIL and the vat is to be written again.  Bytes stay.  The premise on partitions: one that waits
only for this test opens with it, and an install ends (R341, R465). -/
def Obligations.AcceptanceTests : Prop :=
  ∀ (s : State) (t : PTile) (lane : Fin 2) (vat : Nat) (readback : Bool),
    let key := t.key * 96 + vat
    let v := s.vat key
    let l := s.lane t lane
    let pass := if v.mode = 3 then readback else accPass l s.nonce v (!v.testA)
    (∀ p ∈ s.furnished, (s.part p).waits = false ∧ (s.part p).prev = none) →
    vat < 96 → v.testDue = true → (s.site t.site).up = true → (s.site t.site).arith = true → (s.site t.site).sleep = false →
    (∀ k : Nat, (s.vat k).testFails ≠ 2) →
    (v.mode = 3 ∨ (l.qualifies = true ∧ (l.accSlot = true ∨ (s.tile t).clk.running = false))) →
    (pass = true ∨ v.testFails = 0) →
    Completes (.vatAcceptanceTest t lane vat readback) s fun u =>
      u.vatMem = s.vatMem ∧ (∀ k : Nat, k ≠ key → u.vat k = s.vat k) ∧ (u.vat key).mode = v.mode ∧ (u.vat key).part = v.part ∧
      (pass = true → u.ctr t.site .accfail = s.ctr t.site .accfail ∧
        (v.mode = 3 ∨ v.testA = true → (u.vat key).tested = true ∧ (u.vat key).testDue = false) ∧
        (v.mode ≠ 3 → v.testA = false → (u.vat key).testA = true ∧ (u.vat key).testDue = true ∧ (u.vat key).tested = false)) ∧
      (pass = false → u.ctr t.site .accfail = satAdd (s.ctr t.site .accfail) 1 ∧ (u.vat key).testFails = 1 ∧
        (u.vat key).testA = false ∧ (u.vat key).rows = 0 ∧ (u.vat key).testDue = false) ∧
      (v.mode ≠ 3 → (u.lane t lane).accSlot = false) ∧ OnlyLane s u t lane

/-! ### Serving (R385–R422) -/

/-- R388–R393, R418, R419, R421: a request is answered in the order of R390's tests; a rejected one changes nothing but REJECTED and,
where its model is absent, the load that it starts, or the program change that it calls for; an accepted one takes the lowest FREE slot
in PREFILL with its frames reserved and its pages mapped (which frames: log entry 73).  A cancel ends its live slot at once with status 4 and masks it; of a kept status it is answered
again; of one whose status waits behind its tokens nothing is sent before them; one that is waiting is held, and takes effect with the decision; of an unknown one
status 0.  The premise on `ticket` is an
invariant of the model (no session stands with a used ticket, R554, R556). -/
def Obligations.RequestsAreAnswered : Prop :=
  ∀ (s : State) (n : Nat) (x : Session) (q : Request), Talks s n x →
    let P := s.part q.part
    (Completes (.submit n q) s fun u => ∃ (c d : BitVec 8) (bf bt : Nat), Received u n (.admitted q.id c d bf bt)) ∧
    (q.id ∈ x.heldCancels →
      ((∀ a : Plan, s.decide n x.node q ≠ .accept a) → Completes (.submit n q) s fun u =>
        (∃ c d : BitVec 8, Received u n (.admitted q.id c d 0 0)) ∧ Received u n (.status q.id ⟨0, 0, 0⟩) ∧ u.slots = s.slots) ∧
      (∀ a : Plan, s.decide n x.node q = .accept a → Completes (.submit n q) s fun u =>
        let y := SMap.get Slot.init u.slots (q.part.val * 128 + a.slot)
        Received u n (.admitted q.id 0x10 0 a.bf a.bt) ∧ y.st = .ended ∧ y.status = some ⟨4, 0, 0⟩ ∧ y.masked = true)) ∧
    (q.id ∉ x.heldCancels →
    let ans (c d : BitVec 8) : Prop := Completes (.submit n q) s fun u =>
      Received u n (.admitted q.id c d 0 0) ∧ u.slots = s.slots ∧ u.tiles = s.tiles ∧
      (u.part q.part).rejected = satAdd P.rejected 1 ∧ (u.part q.part).admitted = P.admitted ∧
      (u.part q.part).free = P.free ∧ (u.part q.part).rsv = P.rsv ∧ (u.part q.part).used = P.used ∧
      (u.part q.part).nodes = P.nodes ∧ ∀ p : Fin 32, p ≠ q.part → u.part p = s.part p
    let absent (id : BitVec 16) : Prop := P.model id = none ∧ (id = q.model ∨ (q.draft = some id ∧ P.model q.model ≠ none))
    (∀ d : BitVec 8, s.refusal n x.node q = some d → ans 0x16 d) ∧
    (s.refusal n x.node q = none →
      (P.thermClosed = true → ans 0x13 6) ∧
      (P.thermClosed = false → ∀ (fu : Furnish) (f : FurnPart) (g : Program),
        s.furnish = some fu → s.furnPart q.part = some f → P.program = some g →
        ((P.oos = true ∨ P.loaded = false ∨ P.resetDue = true ∨ P.open_ = false) → ans 0x13 8) ∧
        (P.oos = false → P.loaded = true → P.resetDue = false → P.open_ = true →
          (∀ id : BitVec 16, absent id → s.entryIndex q.part id = none → ans 0x14 2) ∧
          (∀ (id : BitVec 16) (e : Nat) (w : SwapEntry), absent id → s.entryIndex q.part id = some e →
            s.entryOf q.part (some e) = some w →
            let loading : Prop := (P.load.entry = some e ∧ P.load.state ≠ 0 ∧ P.load.state ≠ 8 ∧ P.load.state ≠ 9) ∨
              ∃ y ∈ P.load.queue ++ P.load.later, y.1 = e
            (w.auto = false → ¬ loading → ans 0x14 2) ∧ ((w.auto = true ∨ loading) → ans 0x14 1)) ∧
          ((∀ id : BitVec 16, ¬ absent id) →
            (∀ a : BitVec 16, q.adapter = some a → P.current a = none → ans 0x15 0) ∧
            ((∀ a : BitVec 16, q.adapter = some a → P.current a ≠ none) →
              (P.halted = true → ans 0x13 5) ∧
              (P.halted = false →
                ((∃ i : Fin 64, (s.site i).tstate = 1 ∧ q.part ∈ s.affected i) → ans 0x13 6) ∧
                ((∀ i : Fin 64, (s.site i).tstate = 1 → q.part ∉ s.affected i) →
                  (P.switching ≠ none → ans 0x13 7) ∧
                  (P.switching = none →
                    (effMode f q ≠ P.isExact → s.allFree q.part = false → ans 0x13 4) ∧
                    (effMode f q ≠ P.isExact → s.allFree q.part = true → ans 0x13 7 ∧
                      Completes (.submit n q) s fun u => (u.part q.part).switching = some (effMode f q)) ∧
                    (effMode f q = P.isExact →
                      let lres := (P.fullPrompt q).length + q.maxNew + (if q.draft.isSome then g.gamma + 1 else 1) - 1
                      (g.lengthClass < lres → ans 0x13 2) ∧
                      (lres ≤ g.lengthClass →
                        (s.freeSlot q.part = none → ans 0x11 1) ∧
                        (s.freeSlot q.part ≠ none → 512 ≤ s.occupied → ans 0x11 2) ∧
                        (s.freeSlot q.part ≠ none → s.occupied < 512 →
                          g.q * g.attnTiles < sumN ((s.slotsOf q.part).map (·.2.chunks)) +
                            sumN ((P.descsOf q).map fun d => Descriptor.chunksOf d lres) → ans 0x13 3))))))))))) ∧
    (∀ c d : BitVec 8, s.decide n x.node q = .reject c d → ans c d) ∧
    (∀ a : Plan, s.decide n x.node q = .accept a →
      Completes (.submit n q) s fun u =>
        let k := q.part.val * 128 + a.slot
        let y := SMap.get Slot.init u.slots k
        Received u n (.admitted q.id 0x10 0 a.bf a.bt) ∧ OtherSlots s u k ∧ s.freeSlot q.part = some a.slot ∧
        y.st = .prefill ∧ y.q = some q ∧ y.session = n ∧ y.lc = 64 * a.m ∧ y.lp = a.lp ∧ y.lres = a.lres ∧
        y.prompt = P.fullPrompt q ∧ y.toks = [] ∧ y.handed = 0 ∧ y.status = none ∧ y.rsv + y.used = a.need ∧
        y.bf = a.bf ∧ y.bt = a.bt ∧ y.tArr = s.now ∧
        (u.part q.part).admitted = satAdd P.admitted 1 ∧ (u.part q.part).rejected = P.rejected ∧
        (u.part q.part).rsv = P.rsv + y.rsv ∧
        (a.need ≤ P.free → (u.part q.part).free = P.free - a.need ∧ (u.part q.part).used = P.used + y.used) ∧
        (∀ (fu : Furnish) (f : FurnPart), s.furnish = some fu → s.furnPart q.part = some f →
          (u.part q.part).maps = P.maps ++ (s.admitPart q a y).slotMaps fu f y q) ∧
        (∀ p : Fin 32, p ≠ q.part → u.part p = s.part p) ∧ u.tiles = s.tiles) ∧
    (∀ (fu : Furnish) (f : FurnPart) (g : Program) (m : ModelInfo) (sl : Nat),
      s.furnish = some fu → s.furnPart q.part = some f → P.program = some g → P.model q.model = some m →
      q.draft = none → q.adapter = none → q.prompt.ref = none → q.exact = false → f.exact = .narrow →
      x.node.submit = true → P.paramsOk false q = true → P.badNarrow = false → P.isExact = false → f.tuning = false →
      (∀ e ∈ s.slots, ¬ (e.2.live = true ∧ e.2.session = n ∧ e.2.reqId = q.id)) →
      s.sup.pause.getLsbD q.part.val = false → P.doze = false → P.pkg = none → P.thermClosed = false → P.oos = false →
      P.loaded = true → P.resetDue = false → P.open_ = true → P.halted = false → P.switching = none →
      (∀ i : Fin 64, (s.site i).tstate = 1 → q.part ∉ s.affected i) →
      q.prompt.toks.length + q.maxNew ≤ g.lengthClass → s.freeSlot q.part = some sl → s.occupied < 512 → P.nodes = [] →
      sumN ((s.slotsOf q.part).map (·.2.chunks)) + Descriptor.chunksOf m.desc (q.prompt.toks.length + q.maxNew) ≤ g.q * g.attnTiles →
      fu.classes[q.cls.val]? = none → m.desc.need (q.prompt.toks.length + q.maxNew) ≤ P.free →
      Completes (.submit n q) s fun u => (∃ bf bt : Nat, Received u n (.admitted q.id 0x10 0 bf bt)) ∧
        (SMap.get Slot.init u.slots (q.part.val * 128 + sl)).st = .prefill ∧
        (SMap.get Slot.init u.slots (q.part.val * 128 + sl)).q = some q ∧
        (u.part q.part).admitted = satAdd P.admitted 1 ∧ u.tiles = s.tiles)) ∧
    (∀ id : BitVec 64,
      (∀ k : Nat, SMap.wf Slot.init s.slots = true → k < 4096 → (SMap.get Slot.init s.slots k).live = true →
        (SMap.get Slot.init s.slots k).session = n → (SMap.get Slot.init s.slots k).reqId = id →
        (∀ j : Nat, j ≠ k → ¬ ((SMap.get Slot.init s.slots j).live = true ∧ (SMap.get Slot.init s.slots j).session = n ∧
          (SMap.get Slot.init s.slots j).reqId = id)) →
        let y := SMap.get Slot.init s.slots k
        Completes (.cancel n id) s fun u =>
          let z := SMap.get Slot.init u.slots k
          z.st = .ended ∧ z.status = some ⟨4, 0, y.handed⟩ ∧ z.masked = true ∧ z.toks = y.toks ∧ z.portQ = y.portQ ∧
          z.rsv = y.rsv ∧ z.used = y.used ∧ OtherSlots s u k ∧ u.tiles = s.tiles ∧
          (y.portQ = [] → Received u n (.status id ⟨4, 0, y.handed⟩) ∧
            ∃ v : Session, u.session n = some v ∧ (id, ⟨4, 0, y.handed⟩) ∈ v.kept)) ∧
      (s.slotOf n id = none →
        (∀ e : BitVec 64 × Status, (x.kept.find? fun e => e.1 == id) = some e →
          Completes (.cancel n id) s fun u => Received u n (.status id e.2) ∧ u.slots = s.slots ∧ u.parts = s.parts) ∧
        ((x.kept.find? fun e => e.1 == id) = none → s.ending n id = true → Completes (.cancel n id) s fun u =>
          u.slots = s.slots ∧ u.parts = s.parts ∧
          ∃ v : Session, u.session n = some v ∧ v.unacked = x.unacked ∧ v.queued = x.queued) ∧
        ((x.kept.find? fun e => e.1 == id) = none → s.ending n id = false →
          (s.undecided n id = true → Completes (.cancel n id) s fun u =>
            (∃ v : Session, u.session n = some v ∧ v.heldCancels = id :: x.heldCancels) ∧ u.slots = s.slots ∧ u.parts = s.parts) ∧
          (s.undecided n id = false → Completes (.cancel n id) s fun u =>
            Received u n (.status id ⟨0, 0, 0⟩) ∧ u.slots = s.slots ∧ u.parts = s.parts))))

/-- R386, R387, R398–R400, R408, R412, R415, R421, R615: a tile's check report is taken once a step, the last one ends the step; an
unclean one ends every live slot, but one that only brings the marks of a supply-warning window calls for a replay (R521).  The release commits each slot's positions and hands its chosen tokens to the port up to the first
terminal status; a token that comes too late is not released, and its slot ends with DEADLINE.  The supervisor's writes are acknowledged or sent again, then the gate add begins the next step, in which the frames
that the positions in flight can fill are used (R378); a step that begins in a supply-warning window is to be replayed (R387, R521). -/
def Obligations.StepsRunThroughTheCouch : Prop :=
  ∀ (s : State) (p : Fin 32) (t : PTile) (rep : Report) (outs : List SlotLogits),
    let x := s.part p
    let c := x.couch
    (s.reportDue p t rep = true →
      (rep.unclean c.supplyEvent = false → Completes (.stependReport p t rep) s fun u =>
        (u.part p).couch.reports = c.reports ++ [t.key] ∧
        (u.part p).couch.gap = decide (c.reports.length + 1 = (s.tilesOf p).length ∧ c.replayDue = false) ∧
        (u.part p).couch.dirty = c.dirty ∧ (u.part p).resetDue = x.resetDue ∧ u.slots = s.slots ∧ u.tiles = s.tiles ∧
        (c.reports.length + 1 = (s.tilesOf p).length → c.replayDue = false →
          (u.part p).terr = if c.timing || rep.timing then satAdd x.terr 1 else x.terr)) ∧
      (rep.recov = [] → rep.fatal = [] → rep.invalid = true → c.supplyEvent = false → c.replayed = false → x.resetDue = false →
        Completes (.stependReport p t rep) s fun u =>
          (u.part p).couch.replayDue = true ∧ (u.part p).couch.supplyEvent = true ∧ (u.part p).couch.reports = c.reports ++ [t.key] ∧
          (u.part p).couch.gap = false ∧ (u.part p).couch.dirty = c.dirty ∧ (u.part p).resetDue = false ∧ u.slots = s.slots ∧
          u.tiles = s.tiles) ∧
      (rep.unclean c.supplyEvent = true → (rep.recov ≠ [] ∨ rep.fatal ≠ [] ∨ c.replayed = true) → x.resetDue = false →
        Completes (.stependReport p t rep) s fun u =>
        (u.part p).resetDue = true ∧ (u.part p).ended = satAdd x.ended (s.liveCount p) ∧ u.tiles = s.tiles ∧
        (∀ k : Nat, k / 128 = p.val → (SMap.get Slot.init u.slots k).live = false) ∧
        ∀ k : Nat, k / 128 ≠ p.val → SMap.get Slot.init u.slots k = SMap.get Slot.init s.slots k)) ∧
    (s.mayRelease p outs = true → SMap.wf Slot.init s.slots = true →
      Completes (.couchRelease p outs) s fun u =>
        (u.part p).couch.released = true ∧
        (x.binsDue = false → (∀ k : Nat, (s.vat k).testFails ≠ 2) → u.tiles = s.tiles ∧ ∀ r : Fin 32, r ≠ p → u.part r = s.part r) ∧
        (∀ k : Nat, k ∈ s.inFlight p → s.late (SMap.get Slot.init s.slots k) = true →
          (SMap.get Slot.init u.slots k).status = some ⟨5, 3, (SMap.get Slot.init s.slots k).handed⟩ ∧
          (SMap.get Slot.init u.slots k).toks = (SMap.get Slot.init s.slots k).toks) ∧
        (∀ k : Nat, k ∉ s.inFlight p →
          { SMap.get Slot.init u.slots k with nf := 0 } = { SMap.get Slot.init s.slots k with nf := 0 }) ∧
        ∀ (k : Nat) (q : Request) (o : SlotLogits), k ∈ s.inFlight p → (SMap.get Slot.init s.slots k).q = some q →
          s.late (SMap.get Slot.init s.slots k) = false → (outs.find? fun o => o.slot.val == k % 128) = some o →
          let y := SMap.get Slot.init s.slots k
          let z := SMap.get Slot.init u.slots k
          let cs := y.chosen q o
          let rel := releaseFrom q ((x.model q.model).map (·.desc.eos)) y.toks cs
          z.lc = (match y.st with | .prefill => y.lc + y.nf | _ => y.lc + cs.length) ∧
          z.toks = y.toks ++ rel.1 ∧ z.handed = y.handed + rel.1.length ∧
          (rel.1 ≠ [] → z.portQ = y.portQ ++ [⟨y.handed + 1, rel.1⟩]) ∧ (rel.1 = [] → z.portQ = y.portQ) ∧
          (rel.2 = none → z.st = if y.st = .prefill ∧ y.lp ≤ y.lc + y.nf then .decode else y.st) ∧
          (∀ code : BitVec 8, rel.2 = some code → z.st = .ended ∧ z.status = some ⟨code, 0, z.handed⟩)) ∧
    (∀ (a b : List (Nat × CfgWrite)) (w : CfgWrite), x.outWrites = a ++ (t.key, w) :: b → (∀ e ∈ a, e.1 ≠ t.key) →
      s.net.ready (·.isCfgAck t) = true → Completes (.configWriteAck p t) s fun u => (u.part p).outWrites = a ++ b ∧ (u.part p).couch = c ∧
        u.tiles = s.tiles ∧ ∀ r : Fin 32, r ≠ p → u.part r = s.part r) ∧
    Completes (.configWriteResend p) s (fun u => (∀ e ∈ x.outWrites, u.net.carries e = true) ∧
      s.net.flits <+: u.net.flits ∧ u.parts = s.parts ∧ u.tiles = s.tiles) ∧
    (s.mayStep p = true → Completes (.stepGateAdd p) s fun u =>
      (u.part p).couch.step = (if c.fresh then 0 else c.step + 1) ∧ (u.part p).couch.gap = false ∧
      (u.part p).couch.released = false ∧ (u.part p).couch.reports = [] ∧ (u.part p).couch.replayed = false ∧
      (u.part p).couch.replayDue = s.inWindow p ∧
      (∀ (fu : Furnish) (site : Fin 64) (r : SemRange), s.furnish = some fu → site.val ∈ s.sitesOf p →
        (fu.ranges.find? fun r => r.part = p && r.site.val = site.val) = some r → r.first < 1024 →
        (u.sem site (BitVec.ofNat 10 r.first)).value =
          ((s.sem site (BitVec.ofNat 10 r.first)).applied true 1).1) ∧
      (∀ r : PTile, r.key ∈ s.tilesOf p → (u.tile r).clk.wdCount = 0 ∧ (u.tile r).clk.wdRunning = true ∧
        (u.tile r).sc = (s.tile r).sc ∧ (u.tile r).mem = (s.tile r).mem) ∧
      (∀ r : PTile, r.key ∉ s.tilesOf p → u.tile r = s.tile r) ∧
      ∀ k : Nat, { SMap.get Slot.init u.slots k with used := 0, rsv := 0 } = { SMap.get Slot.init s.slots k with used := 0, rsv := 0 } ∧
        (SMap.get Slot.init u.slots k).used + (SMap.get Slot.init u.slots k).rsv =
          (SMap.get Slot.init s.slots k).used + (SMap.get Slot.init s.slots k).rsv)

/-- R269, R320, R326, R401–R407, R615: the first recoverable event of a step's running stages calls for a replay of the named
stage; one after the replay, and any event that is not replayed, ends the live slots, and a PARTITION reset follows; a site's reset or its
site-off in the gap ends them too, outside the count of R406 (R524, R533, R615); the first supply or thermal event of a step gives the
status (R526).  The replay restarts the stopped tiles from their checkpoints and restores the semaphores of the stage's tag.  A stage past its budget is a
timing program error. -/
def Obligations.EventsAndReplays : Prop :=
  ∀ (s : State) (p : Fin 32) (n : Notice),
    let x := s.part p
    let c := x.couch
    let ends (code detail : BitVec 8) : Prop := Completes (.faultNotice p n) s fun u =>
      (u.part p).resetDue = true ∧ (u.part p).couch.released = true ∧ (u.part p).couch.replayDue = c.replayDue ∧
      (u.part p).ended = satAdd x.ended (s.liveCount p) ∧ u.tiles = s.tiles ∧ u.sems = s.sems ∧
      (∀ k : Nat, k / 128 = p.val → (SMap.get Slot.init u.slots k).live = false ∧
        ((SMap.get Slot.init s.slots k).live = true →
          (SMap.get Slot.init u.slots k).status = some ⟨code, detail, (SMap.get Slot.init s.slots k).handed⟩)) ∧
      ∀ r : Fin 32, r ≠ p → u.part r = s.part r
    (x.open_ = true → x.resetDue = false → n.link = none → n.site = none → s.net.ready (·.isNotice p n) = true →
      (n.kind = .recoverable → c.gap = false → c.replayed = false → c.replayDue = false →
        Completes (.faultNotice p n) s fun u => (u.part p).couch.replayDue = true ∧ (u.part p).couch.replayTag = some n.tag ∧
          (u.part p).resetDue = false ∧ u.slots = s.slots ∧ u.tiles = s.tiles ∧ u.sems = s.sems) ∧
      (n.kind = .recoverable → c.gap = false → c.replayed = true → ends 5 1) ∧
      (n.kind = .program → ends 5 2) ∧ (n.kind = .hardware → ends 5 1) ∧ (n.kind = .thermalEnd → c.gap = false → ends (c.first.getD 6) 0) ∧
      (n.kind = .supplyEnd → c.gap = false → ends (c.first.getD 7) 0) ∧
      ((n.kind = .thermalEnd ∨ n.kind = .supplyEnd) → c.gap = true → Completes (.faultNotice p n) s fun u =>
        (u.part p).resetDue = true ∧ (u.part p).ended = x.ended ∧ u.tiles = s.tiles ∧
        (∀ k : Nat, k / 128 = p.val → (SMap.get Slot.init u.slots k).live = false ∧
          ((SMap.get Slot.init s.slots k).live = true → (SMap.get Slot.init u.slots k).status =
            some ⟨if n.kind = .thermalEnd then 6 else 7, 0, (SMap.get Slot.init s.slots k).handed⟩)) ∧
        ∀ r : Fin 32, r ≠ p → u.part r = s.part r)) ∧
    (s.mayReplay p = true → s.replayStage p = none → Completes (.stageReplay p) s fun u =>
      (u.part p).couch.replayDue = false ∧ (u.part p).couch.gap = true ∧ (u.part p).replays = x.replays ∧ u.slots = s.slots ∧
      u.tiles = s.tiles ∧ u.sems = s.sems) ∧
    (∀ r : BitVec 16, s.mayReplay p = true → s.replayStage p = some r → Completes (.stageReplay p) s fun u =>
      (u.part p).replays = satAdd x.replays 1 ∧ (u.part p).couch.replayDue = false ∧ (u.part p).couch.replayed = true ∧
      (∀ t : PTile, t.key ∈ s.stopped p r →
        let y := s.tile t
        let z := u.tile t
        z.sc.pc = y.sc.ckpt.pc ∧ z.sc.regs = y.sc.ckpt.regs ∧ z.sc.stagecnt = y.sc.ckpt.stagecnt ∧ z.sc.qdone = y.sc.ckpt.qdone ∧
        z.sc.wait = .none ∧ z.sc.halted = y.sc.halted ∧ z.mq = [] ∧ z.vq = [] ∧ z.lq = [] ∧ z.dq = [] ∧ z.sq = [] ∧
        z.mem = y.mem ∧ z.vec = y.vec ∧ z.rp.rep.recov = [] ∧ z.rp.rep.fatal = y.rp.rep.fatal) ∧
      (∀ t : PTile, t.key ∉ s.stopped p r → u.tile t = s.tile t) ∧
      (∀ (site : Fin 64) (i : BitVec 10),
        let e := s.sem site i
        (e.restores p r = true → e.mixed = false → u.sem site i = { e with value := e.snap }) ∧
        (e.restores p r = false → u.sem site i = e)) ∧
      (∀ w ∈ u.waiters, w.part ≠ p) ∧ (∀ d ∈ u.deferred, d.part = p → semTag d.word ≠ r) ∧ u.slots = s.slots) ∧
    ∀ t : PTile, (s.tile t).clk.overrun = true → (s.tile t).rp.logged.contains evtStageOverrun = false →
      Completes (.stageOverrun t) s fun u =>
        (u.tile t).rp.rep.timing = true ∧ evtStageOverrun ∈ (u.tile t).rp.logged ∧
        (u.tile t).rp.rep.fatal = (s.tile t).rp.rep.fatal ∧ (u.tile t).rp.rep.recov = (s.tile t).rp.rep.recov ∧
        (u.tile t).sc = (s.tile t).sc ∧ (u.tile t).mem = (s.tile t).mem ∧ ∀ r : PTile, r ≠ t → u.tile r = s.tile r

/-- R397, R398, R417, R420, R421, R473–R475: a token whose deadline comes within T_egress ends its slot with DEADLINE; the port sends a
slot's token frames in continuity, stamped where they leave at once, then its status; a frame out of continuity ends its request with FAULT 0x04 and closes the
partition; an ended slot becomes FREE and its
frames return. -/
def Obligations.SlotsEnd : Prop :=
  ∀ (s : State) (p : Fin 32) (slot : Fin 128),
    let k := p.val * 128 + slot.val
    let y := s.slot p slot
    let x := s.part p
    (s.late y = true → Completes (.deadlineExpiry p slot) s fun u =>
      (u.slot p slot).st = .ended ∧ (u.slot p slot).status = some ⟨5, 3, y.handed⟩ ∧ (u.slot p slot).toks = y.toks ∧
      OtherSlots s u k ∧ (u.part p).late = satAdd x.late 1 ∧ u.tiles = s.tiles ∧
      (s.bbx.frozen = false → (SMap.get BbxRec.init u.bbx.recs s.bbx.next.toNat).event = evtLate)) ∧
    (∀ (f : TokFrame) (rest : List TokFrame) (z : Session), y.portQ = f :: rest → s.session y.session = some z →
      (f.k = y.sent + 1 → Completes (.portTokenFrame p slot) s fun u =>
        (u.slot p slot).sent = y.sent + f.toks.length ∧ (u.slot p slot).portQ = rest ∧
        (u.slot p slot).tLast = (if z.canSend true = true then s.now else y.tLast) ∧
        (u.slot p slot).toks = y.toks ∧ Received u y.session (.tokens y.reqId f.k f.toks) ∧ OtherSlots s u k ∧
        (y.status = none → y.st ≠ .ended → u.parts = s.parts) ∧ (∀ r : Fin 32, r ≠ p → u.part r = s.part r) ∧
        (∀ st : Status, rest = [] → y.status = some st → y.statusSent = false →
          (u.slot p slot).statusSent = true ∧ Received u y.session (.status y.reqId st))) ∧
      (f.k ≠ y.sent + 1 → Completes (.portTokenFrame p slot) s fun u =>
        (u.slot p slot).portQ = [] ∧ (u.slot p slot).sent = y.sent ∧ (u.part p).open_ = false ∧ (u.part p).resetDue = true ∧
        u.sup.auditTokens = satAdd s.sup.auditTokens 1 ∧ u.sup.auditKind = 5 ∧ u.sup.auditPart = BitVec.ofNat 5 p.val ∧
        (y.statusSent = false → (u.slot p slot).status = some ⟨5, 4, y.sent⟩ ∧ Received u y.session (.status y.reqId ⟨5, 4, y.sent⟩)) ∧
        ∀ j : Nat, j / 128 = p.val → (SMap.get Slot.init u.slots j).live = false)) ∧
    (s.mayFree p y = true → Completes (.slotFree p slot) s fun u =>
      u.slot p slot = Slot.init ∧ OtherSlots s u k ∧ u.tiles = s.tiles ∧
      (y.adapt = none → (u.part p).free = x.free + y.rsv + y.used ∧ (u.part p).rsv = x.rsv - y.rsv ∧
        (u.part p).used = x.used - y.used) ∧
      ∀ r : Fin 32, r ≠ p → u.part r = s.part r)

/-! ### Models, programs, adapters (R424–R449) -/

/-- R425, R426, R432–R438: a trigger is answered as resident, joins a load of its model, or starts or queues one; the manifest that
verifies brings the load to state SHARDS, one that does not fails it with its reason, as does one that the cache has no room for; a shard
with its digest is the next one's turn, a bad one, or one that is late by 2 s, is read four times from each source; the last shard leads
to state EVICT with the vats chosen, and where no stage runs at once to WRITE, else to FORMAT or NO_ROOM; the commit makes the model
resident and binds its vats.  Only a load past state EVICT holds victims, whom a failure restores.  The load of a model that is resident
only fetches its package again (R440): its failure drops the model where slices of it are still to be written.  `calm` says that no
partition waits only for this load to open, and no install to end; `quiet` that no model of the partition is on its way out. -/
def Obligations.LoadsGoThroughTheirStates : Prop :=
  ∀ (s : State) (p : Fin 32),
    let x := s.part p
    let l := x.load
    let calm : Prop := ∀ q ∈ s.furnished, (s.part q).waits = false ∧ (s.part q).prev = none
    let quiet : Prop := calm ∧ l.leaving = [] ∧ l.drop = []
    let fails (i : Instr) (r : BitVec 4) : Prop := quiet → l.victims = [] → Completes i s fun u =>
      let half (m : ModelInfo) : Prop := m.id = l.model ∧ ∃ k ∈ m.vats, (s.vat k).filling = true
      (u.part p).load.reason = r ∧ u.tiles = s.tiles ∧
      ((∀ m ∈ x.models, ¬ half m) → (u.part p).models = x.models ∧ u.vatMem = s.vatMem ∧ u.vats = s.vats) ∧
      ((∃ m ∈ x.models, half m) → ∀ m ∈ (u.part p).models, m.id ≠ l.model) ∧
      (s.bbx.frozen = false → (SMap.get BbxRec.init u.bbx.recs s.bbx.next.toNat).event = evtLoadFail)
    (∀ (n : Nat) (z : Session) (model : BitVec 16), Talks s n z →
      (z.node.management = false → Completes (.modelLoad n p model) s fun u => Received u n rNotPermitted ∧ u.parts = s.parts) ∧
      (z.node.management = true →
        (s.entryIndex p model = none → Completes (.modelLoad n p model) s fun u => Received u n (rFailed 9) ∧
          (u.part p).models = x.models ∧ (u.part p).load.reason = 9 ∧
          (s.bbx.frozen = false → (SMap.get BbxRec.init u.bbx.recs s.bbx.next.toNat).event = evtLoadFail)) ∧
        (∀ e : Nat, s.entryIndex p model = some e →
          ((∃ m ∈ x.models, m.entry = e) → Completes (.modelLoad n p model) s fun u => Received u n rResident ∧ u.parts = s.parts) ∧
          ((∀ m ∈ x.models, m.entry ≠ e) →
            let running : Prop := l.state ≠ 0 ∧ l.state ≠ 8
            (¬ running → l.queue = [] → (∀ w ∈ l.later, w.1 ≠ e) →
              Completes (.modelLoad n p model) s fun u => (u.part p).load.state = 1 ∧ (u.part p).load.entry = some e ∧
                (u.part p).load.answer = [n] ∧ (u.part p).load.retry = 0 ∧ (u.part p).models = x.models ∧ u.tiles = s.tiles) ∧
            (running → l.entry = some e → l.state ≠ 9 →
              Completes (.modelLoad n p model) s fun u => (u.part p).load = { l with answer := l.answer ++ [n] }) ∧
            (running → l.entry ≠ some e ∨ l.state = 9 → (∀ w ∈ l.queue ++ l.later, w.1 ≠ e) →
              Completes (.modelLoad n p model) s fun u => (u.part p).load = { l with queue := l.queue ++ [(e, [n])] }) ∧
            (running → l.entry ≠ some e ∨ l.state = 9 → ∀ (a b : List (Nat × List Nat)) (who : List Nat), l.queue = a ++ (e, who) :: b →
              (∀ w ∈ a ++ b ++ l.later, w.1 ≠ e) → Completes (.modelLoad n p model) s fun u =>
                (u.part p).load = { l with queue := a ++ (e, who ++ [n]) :: b }))))) ∧
    (∀ (m : Manifest) (fu : Furnish) (w : SwapEntry), s.furnish = some fu → s.entryOf p l.entry = some w → l.state = 1 →
      s.answers p w = true → (s.site (s.cachePlace p)).serves = true →
      let k : Package := ⟨m.pubkey, m.pkgid, m.svn, m.total, m.shards.map (·.length), 0, (s.cachePlace p).val, none, m.digest⟩
      (∀ r : BitVec 4, m.fault fu s.ident.idKey 1 = some r → fails (.manifestFetched p m) r) ∧
      (m.fault fu s.ident.idKey 1 = none →
        ((m.pubkey ≠ w.pubkey ∨ m.pkgid ≠ w.pkgid) → fails (.manifestFetched p m) 2) ∧
        (m.pubkey = w.pubkey → m.pkgid = w.pkgid →
          (m.svn < w.minSvn → fails (.manifestFetched p m) 3) ∧
          (w.minSvn ≤ m.svn →
            (s.cached fu k = none → fails (.manifestFetched p m) 10) ∧
            (∀ c : Cache, s.cached fu k = some c →
              Completes (.manifestFetched p m) s fun u => (u.part p).load.state = 2 ∧ (u.part p).load.manifest = some m ∧
                (u.part p).load.shard = 0 ∧ (u.part p).load.nshard = BitVec.ofNat 16 m.nshard ∧ (u.part p).load.since = s.now ∧ u.cache = c ∧
                (u.part p).models = x.models ∧ u.tiles = s.tiles))))) ∧
    (s.now < l.since + readLimit → exec (.shardReadTimeout p) s = .next s) ∧
    (l.state = 1 → l.since + readLimit ≤ s.now → ∀ w : SwapEntry, s.entryOf p l.entry = some w →
      (l.src + 1 < w.sources.length → Completes (.shardReadTimeout p) s fun u =>
        (u.part p).load = { l with src := l.src + 1, since := s.now, cmds := 0 } ∧ u.vats = s.vats) ∧
      (w.sources.length = l.src + 1 → fails (.shardReadTimeout p) 4)) ∧
    (l.state = 2 → ∀ (digest : Nat) (lines : List Nat) (absent : Bool) (desc : Option Descriptor) (w : SwapEntry),
      s.entryOf p l.entry = some w →
      let serves := (s.site (s.cacheSite p)).serves
      let marked := s.loftMarks (if serves then lines.map fun o => loftLine (s.cacheSite p).val o else []) .double
      let read := Instr.shardReadComplete p ⟨digest, lines, absent⟩ desc
      let cacheRead := w.sources[l.src]? = some .cache
      let bad (i : Instr) (lost : List Nat) : Prop :=
        (l.tries < 3 → l.src < w.sources.length →
          Completes i s fun u => (u.part p).load = { l with
            retry := satAdd l.retry 1, tries := l.tries + 1, since := s.now, cmds := 0, badLines := lost } ∧ u.vats = s.vats) ∧
        (l.tries = 3 → l.src + 1 < w.sources.length → Completes i s fun u =>
          (u.part p).load = { l with
            retry := satAdd l.retry 1, tries := 0, src := l.src + 1, since := s.now, cmds := 0, badLines := lost } ∧ u.vats = s.vats) ∧
        (l.tries = 3 → w.sources.length = l.src + 1 → fails i 4)
      (l.since + readLimit ≤ s.now → bad (.shardReadTimeout p) l.badLines) ∧
      (s.answers p w = true → cacheRead ∨ serves = true →
        (absent = true ∨ l.digestDue ≠ some digest ∨ marked ≠ [] ∨ (cacheRead ∧ serves = false) → bad read (l.badLines ++ marked).dedup) ∧
      (absent = false → l.digestDue = some digest → marked = [] → serves = true →
        let done := read
        (l.shard + 1 ≠ l.nshard → Completes done s fun u => (u.part p).load = { l with
          desc := if l.shard = 0 then desc else l.desc, shard := l.shard + 1, src := 0, tries := 0, since := s.now, cmds := 0, badLines := [] } ∧
          u.vats = s.vats ∧ ∀ k ∈ l.badLines, SMap.wf Ecc.ok s.loftEcc = true → SMap.get Ecc.ok u.loftEcc k = .ok) ∧
        (l.shard + 1 = l.nshard →
          let last := if l.shard = 0 then desc else l.desc
          (last = none → fails done 5) ∧
          (∀ d : Descriptor, last = some d → (∀ m ∈ x.models, m.id ≠ l.model) →
            let fit := fitWith (emptyVats s.vats (l.drop ++ l.leaving.flatMap (·.vats))) (s.sliceTiles p d) (s.candidates p) ((s.candidates p).length + 1) 0
            (d.ok = false → fails done 5) ∧
            (d.ok = true → fit = none → fails done 7) ∧
            (∀ (vs : List ModelInfo) (ks : List Nat), d.ok = true → fit = some (vs, ks) →
              let leave (u : State) : Prop := ∀ m : ModelInfo, m ∈ (u.part p).models ↔ m ∈ x.models ∧ ∀ a ∈ vs, a.id ≠ m.id
              (x.idle = false → Completes done s fun u => (u.part p).load.state = 4 ∧ (u.part p).load.vats = ks ∧
                (u.part p).load.victims = vs ∧ u.vats = s.vats ∧ leave u) ∧
              (x.idle = true → Completes done s fun u => (u.part p).load.state = (if ks = [] then 7 else 5) ∧
                (u.part p).load.vats = ks ∧ (u.part p).load.desc = some d ∧ leave u ∧
                ∀ k : Nat, k ∉ ks → k ∉ vs.flatMap (·.vats) → k ∉ l.drop → k ∉ l.leaving.flatMap (·.vats) → u.vat k = s.vat k))))))) ∧
    (∀ (d : Descriptor) (e : Nat) (m : Manifest), l.desc = some d → l.entry = some e → l.manifest = some m → l.state = 7 →
      x.idle = true → calm → Completes (.loadCommit p) s fun u =>
        (u.part p).models = x.models ++ [⟨e, l.model, d, m.svn, 0, l.vats, m.digest, false⟩] ∧ (u.part p).load.loads = satAdd l.loads 1 ∧
        (∀ k ∈ l.vats, (u.vat k).part = some p ∧ (u.vat k).model = l.model ∧ (u.vat k).mode = (s.vat k).mode) ∧
        (∀ k : Nat, k ∉ l.vats → u.vat k = s.vat k) ∧ u.vatMem = s.vatMem)

/-- R329, R341, R342, R393, R426, R438, R441: a program package that the tests of R426 pass, with every shard of the digest that its table gives (R434), waits until every slot of the partition is
FREE; then the program that passes R329 is installed: its entry, budgets and code in every tile, the tiles reset, LOADED and the counts of
R342 once the warm-up of its lanes and the acceptance tests of the resident models are done; one that does not is refused with PROGRAM.  Once the supervisor's earlier writes are
acknowledged, a program change installs the other program, or marks it unusable.  Where a tile fails its reset, the programs that stood
before are the partition's again. -/
def Obligations.ProgramsAreInstalled : Prop :=
  ∀ (s : State) (p : Fin 32) (fu : Furnish) (f : FurnPart) (g : Program) (rows : List (PTile × Nat)),
    let x := s.part p
    let ground : Ground := s.ground f s.map
    let failing : Prop := ((s.writeProgram p g s.map).resetTiles rows (s.tilesOf p)).anyFailed p = true
    let installed (u : State) (ex : Bool) : Prop :=
      (u.part p).isExact = ex ∧ (u.part p).program = some g ∧
      (s.testsDone p = true → u.lanesWarm p = true → (u.part p).loaded = true ∧ (u.part p).terr = 0 ∧ (u.part p).halted = false ∧ (u.part p).switching = none ∧
        (u.part p).prev = none) ∧
      (s.testsDone p = false ∨ u.lanesWarm p = false → (u.part p).loaded = false ∧ (u.part p).prev ≠ none) ∧
      ∀ n : Nat, n < 64 * f.bw * f.bh →
        let y := u.tile (ground.tile n)
        y.sc.entry.toNat = g.entry.toNat / 4 * 4 ∧ y.sc.pc = y.sc.entry ∧ y.sc.regs = [] ∧ y.sc.wait = .none ∧ y.clk.budgets = g.stages ∧
        y.mq = [] ∧ y.vq = [] ∧ y.lq = [] ∧ y.dq = [] ∧ y.sq = [] ∧ y.pl.part = some f.part ∧
        ((∀ m : Nat, m < 64 * f.bw * f.bh → ground.tile m = ground.tile n → m = n) →
          ∀ i : Nat, i < 16384 → SMap.get 0 y.mem.istore i = (g.code fu s.net.trees ground n).getD i 0)
    let undone (u : State) : Prop := (u.part p).load.reason = 6 ∧ (u.part p).narrow = x.narrow ∧ (u.part p).exact = x.exact ∧
      (u.part p).isExact = x.isExact ∧ (u.part p).loaded = x.loaded ∧ (u.part p).prev = none
    let loadFails (u : State) : Prop :=
      s.bbx.frozen = false → (SMap.get BbxRec.init u.bbx.recs s.bbx.next.toNat).event = evtLoadFail
    s.furnish = some fu → s.furnPart p = some f →
    (∀ (n : Nat) (z : Session) (a : Program) (b : Option Program) (read : List Nat) (r : BitVec 4), Talks s n z → z.node.management = true →
      s.packageFault a b read = some r → Completes (.programPackageLoad n p a b read) s fun u => Received u n (rFailed r) ∧
        (u.part p) = { x with load := { x.load with reason := r } } ∧ u.tiles = s.tiles ∧ u.slots = s.slots ∧ loadFails u) ∧
    (∀ (n : Nat) (z : Session) (a : Program) (b : Option Program) (read : List Nat), Talks s n z → z.node.management = true →
      s.packageFault a b read = none → Completes (.programPackageLoad n p a b read) s fun u => (u.part p).pkg = some (a, b, n) ∧
        (u.part p).loaded = x.loaded ∧ (u.part p).program = x.program ∧ u.tiles = s.tiles ∧ u.slots = s.slots) ∧
    (∀ (n : Nat) (a : Program) (b : Option Program), x.pkg = some (a, b, n) → x.idle = true → s.allFree p = true →
      s.writesDone p = true → x.prev = none → (if f.exact = .exact then b else some a) = some g →
      (s.programOk p g s.map = true → ¬ failing → Completes (.programInstall p rows) s fun u =>
        installed u (decide (f.exact = .exact)) ∧ (u.part p).narrow = some a ∧ (u.part p).exact = b ∧ (u.part p).pkg = none ∧
        (s.testsDone p = true → u.lanesWarm p = true → ∀ z : Session, s.session n = some z → Received u n (.reply 0 0 []))) ∧
      (s.programOk p g s.map = true → failing → Completes (.programInstall p rows) s fun u =>
        undone u ∧ (u.part p).pkg = none ∧ loadFails u) ∧
      (s.programOk p g s.map = false → Completes (.programInstall p rows) s fun u =>
        (u.part p).load.reason = 6 ∧ (u.part p).pkg = none ∧ (u.part p).loaded = x.loaded ∧ (u.part p).program = x.program ∧
        u.tiles = s.tiles ∧ loadFails u)) ∧
    (∀ ex ok : Bool, s.writesDone p = true → x.prev = none → x.switching = some ex → (if ex then x.exact else x.narrow) = some g →
      (ok = true → s.programOk p g s.map = true → x.idle = true → s.allFree p = true →
        (¬ failing → Completes (.programChangeDone p ok rows) s fun u => installed u ex ∧ (u.part p).narrow = x.narrow ∧
          (u.part p).exact = x.exact) ∧
        (failing → Completes (.programChangeDone p ok rows) s fun u => undone u ∧ (u.part p).badExact = (x.badExact || ex) ∧
          (u.part p).badNarrow = (x.badNarrow || !ex))) ∧
      ((ok = false ∨ s.programOk p g s.map = false ∨ x.idle = false ∨ s.allFree p = false) → Completes (.programChangeDone p ok rows) s fun u =>
        (u.part p).switching = none ∧ (u.part p).load.reason = 6 ∧ (u.part p).isExact = x.isExact ∧
        (u.part p).badExact = (x.badExact || ex) ∧ (u.part p).badNarrow = (x.badNarrow || !ex) ∧ u.tiles = s.tiles))

/-- R442–R449: an install of a newer version takes the lowest FREE slot, FILLING, or waits; an equal version is installed already, a lower
one is refused.  In the gap the filled slot becomes CURRENT, its area in loft written, and the former one OLD, or FREE if no request holds it; a retired adapter
likewise.  A tuning job starts in a partition set to it with the lowest FREE slot as its working slot, its factors and masters zero where no
version is named, else those of the named one's slot; the release of each of its steps rounds the masters to the slot's factors with the
job's seed, the update's number and the element's index (log entry 31 for the update's place and the starting package); its export takes
a leaf of the device key, answers the package, in fragments of 8 KiB (R547), and frees the slot, or waits for a leaf; it is refused
where no job runs or the base model's digest is known no more (log entry 31). -/
def Obligations.AdaptersAndTuning : Prop :=
  ∀ (s : State) (n : Nat) (z : Session) (p : Fin 32), Talks s n z → z.node.management = true →
    let x := s.part p
    let others (u : State) : Prop := u.tiles = s.tiles ∧ u.slots = s.slots ∧ ∀ r : Fin 32, r ≠ p → u.part r = s.part r
    (∀ (m : Manifest) (d : AdapterDesc),
      let id := BitVec.ofNat 16 d.id
      (∀ r : BitVec 4, s.adapterFault p m d = some r → Completes (.adapterInstall n p m d) s fun u =>
        Received u n (rFailed r) ∧ (u.part p).refused = satAdd x.refused 1 ∧ (u.part p).adapters = x.adapters ∧ others u) ∧
      (s.adapterFault p m d = none →
        (x.current id ≠ none → x.version id = d.version → Completes (.adapterInstall n p m d) s fun u =>
          Received u n rInstalled ∧ (u.part p).adapters = x.adapters ∧ (u.part p).refused = x.refused ∧ others u) ∧
        (d.version < x.version id → Completes (.adapterInstall n p m d) s fun u =>
          Received u n (rFailed 3) ∧ (u.part p).refused = satAdd x.refused 1 ∧ (u.part p).adapters = x.adapters ∧ others u) ∧
        (x.version id < d.version →
          (∀ k : Nat, x.freeAdapter = some k → Completes (.adapterInstall n p m d) s fun u =>
            Received u n rStarted ∧ (u.part p).adapter k = ⟨.filling, id, d.version, 0, m.digest⟩ ∧ others u ∧
            ∀ j : Nat, j ≠ k → (u.part p).adapter j = x.adapter j) ∧
          (x.freeAdapter = none → Completes (.adapterInstall n p m d) s fun u =>
            Received u n rPending ∧ (u.part p).adapters = x.adapters ∧ ⟨id, d.version, n, m.digest⟩ ∈ (u.part p).pend ∧
            ∀ w ∈ (u.part p).pend, w.id = id → w = ⟨id, d.version, n, m.digest⟩)))) ∧
    (∀ (slot : Fin 64) (area : List Byte), (x.adapter slot.val).st = .filling → x.idle = true → SMap.wf AdSlot.init x.adapters = true →
      x.tunes slot.val = false → Completes (.adapterCommit p slot area) s fun u =>
        (∀ (g : Program) (i off k : Nat), x.program = some g → s.adapterArea p slot.val = some (i, off) → k < area.length →
          k < g.adapterArea → SMap.get 0 u.loft (loftKey i (off + k)) = area.getD k 0) ∧
        (s.adapterArea p slot.val = none → u.loft = s.loft) ∧
        (u.part p).adapter slot.val = { x.adapter slot.val with st := .current } ∧
        (u.part p).installed = satAdd x.installed 1 ∧ others u ∧
        ∀ k : Nat, x.current (x.adapter slot.val).id = some k →
          (0 < (x.adapter k).count → (u.part p).adapter k = { x.adapter k with st := .old }) ∧
          ((x.adapter k).count = 0 → x.pend = [] → ((u.part p).adapter k).st = .free)) ∧
    (∀ (id : BitVec 16) (k : Nat), x.current id = some k → k < 64 → SMap.wf AdSlot.init x.adapters = true →
      Completes (.adapterRetire n p id) s fun u => Received u n rDone ∧ others u ∧
        (0 < (x.adapter k).count → (u.part p).adapter k = { x.adapter k with st := .old }) ∧
        ((x.adapter k).count = 0 → x.pend = [] → ((u.part p).adapter k).st = .free)) ∧
    (∀ (f : FurnPart) (g : Program) (model id : BitVec 16) (rank steps : Nat) (source : TrainSource) (seed : BitVec 64) (start : Option Nat),
      s.furnPart p = some f → x.program = some g →
      (f.tuning = true → s.jobOk p g model id rank start = true →
        ∀ k : Nat, x.freeAdapter = some k →
        Completes (.tuningJob n p model id rank seed steps start source) s fun u => Received u n rDone ∧ others u ∧
          (u.part p).job = some ⟨model, id, rank, seed, steps, n, start, source, k, 0, x.idle⟩ ∧
          (u.part p).adapter k = ⟨.filling, id, 0, 0, 0⟩ ∧ (∀ j : Nat, j ≠ k → (u.part p).adapter j = x.adapter j) ∧
          (x.idle = false → u.loft = s.loft) ∧
          (x.idle = true → ∀ (v k0 : Nat) (r : Grant) (a : Factor), start = some v → x.current (BitVec.ofNat 16 v) = some k0 →
            s.adapterGrant p = some r → g.factors = [a] → factorFits a g.adapterArea r = true →
            ∀ i : Nat, i < 2 * a.count → SMap.get (0 : Byte) u.loft (loftKey r.site.val (r.base + k * g.adapterArea + a.at_ + i)) =
              SMap.get (0 : Byte) s.loft (loftKey r.site.val (r.base + k0 * g.adapterArea + a.at_ + i))) ∧
          (x.idle = true → start = none → ∀ (r : Grant) (a : Factor), s.adapterGrant p = some r → a ∈ g.factors → factorFits a g.adapterArea r = true →
            (∀ i : Nat, i < 4 * a.count → SMap.get (0 : Byte) u.loft (loftKey r.site.val (r.base + a.master + i)) = 0) ∧
            ∀ i : Nat, i < 2 * a.count →
              SMap.get (0 : Byte) u.loft (loftKey r.site.val (r.base + k * g.adapterArea + a.at_ + i)) = 0)) ∧
      ((f.tuning = false ∨ s.jobOk p g model id rank start = false ∨ x.freeAdapter = none) → Completes (.tuningJob n p model id rank seed steps start source) s fun u =>
        Received u n rRefused ∧ u.parts = s.parts)) ∧
    (∀ (j : Job) (b : Nat), x.job = some j → s.baseDigest p j.model = some b → s.ident.signings = [] →
      (s.ident.exhausted = false → s.ident.canSign = true → Completes (.adapterExport n p) s fun u =>
        (∀ g ∈ fragments (.package (s.exported p j b s.ident.lmsNext)), Received u n g) ∧ (u.part p).exports = satAdd x.exports 1 ∧ (u.part p).job = none ∧
        u.ident.lmsNext = s.ident.lmsNext + 1 ∧ others u ∧
        (x.pend = [] → ((u.part p).adapter j.slot).st = .free)) ∧
      (s.ident.exhausted = false → s.ident.canSign = false → Completes (.adapterExport n p) s fun u =>
        u.ident.signings = [.adapter n p] ∧ u.parts = s.parts) ∧
      (s.ident.exhausted = true → Completes (.adapterExport n p) s fun u =>
        Received u n (rFailed 0xB) ∧ (u.part p).exports = x.exports ∧ u.ident.lmsNext = s.ident.lmsNext)) ∧
    (∀ (j : Job) (g : Program) (r : Grant) (a : Factor), x.job = some j → x.program = some g → s.adapterGrant p = some r →
      g.factors = [a] → factorFits a g.adapterArea r = true → j.done < j.steps → j.ready = true → s.mayRelease p [] = true →
      s.inFlight p = [] → (∀ k ∈ x.load.vats ++ x.models.flatMap (·.vats), (s.vat k).testFails ≠ 2) →
      Completes (.couchRelease p []) s fun u => (u.part p).job = some { j with done := j.done + 1 } ∧
        ∀ i b : Nat, i < a.count → b < 2 →
          SMap.get (0 : Byte) u.loft (loftKey r.site.val (r.base + j.slot * g.adapterArea + a.at_ + 2 * i + b)) =
            BitVec.ofNat 8 (toHalf fBF16 true (rgen j.seed j.model a.tensor (BitVec.ofNat 32 j.done) (BitVec.ofNat 32 i))
              (s.masterAt r a i) / 256 ^ b)) ∧
    ((∀ j : Job, x.job = some j → s.baseDigest p j.model = none) → Completes (.adapterExport n p) s fun u => Received u n rRefused ∧ u.parts = s.parts ∧ u.ident = s.ident)

/-! ### Faults, audits, the black box (R457–R482) -/

/-- R23, R457, R461–R464, R473, R475, R487, R511: the stage watchdog's limit is EVT_TILE_HUNG; a failed self-test is EVT_SELFTEST, makes a tile without a partition bad, as a failed neighbour test does (R471), and
none runs on a site that sleeps (a lane whose unit fails is put under test: log entry 64); the
standby supervisor takes over, with what was on its way to the primary, and skips the reserved leaves, and where none is left the device
goes dark (log entry 38); the other reference input takes over, or both are lost and the arith clocks
stop, and a WARM follows recovery; a page, slot or token identity that does not hold, or a frame that stands in two places, closes its
partition, each with its own event; a read of a tile's counter
extends it to 64 bits. -/
def Obligations.FaultsAreDetected : Prop :=
  ∀ s : State,
    let lastRec (u : State) : BbxRec := SMap.get BbxRec.init u.bbx.recs s.bbx.next.toNat
    let serving : Prop := s.sup.phase = 12 ∨ s.sup.phase = 15
    (∀ (t : PTile) (p : Fin 32), (s.tile t).pl.part = some p →
      ((s.tile t).clk.wdRunning = true → (s.tile t).clk.wdLimit ≤ (s.tile t).clk.wdCount → (s.part p).open_ = true →
        Completes (.stageWatchdog t) s fun u => (u.tile t).clk.wdRunning = false ∧ (u.tile t).sc = (s.tile t).sc ∧
          (u.tile t).mem = (s.tile t).mem ∧ (∀ r : PTile, r ≠ t → u.tile r = s.tile r) ∧
          (∃ n : Notice, n.kind = .hardware ∧ n.code = evtTileHung ∧ noticeFlit s.net t (some p) n ∈ u.net.flits) ∧
          ((s.bbx.ring t.site).frozen = false →
            (SMap.get BbxRec.init (u.bbx.ring t.site).recs (s.bbx.ring t.site).next).event = evtTileHung)) ∧
      (∀ (fails : List (BitVec 4)) (verdicts : List (PTile × PTile × Bool)), s.mayTest t = true →
        Completes (.checkerSelfTest t ⟨fails, verdicts⟩) s fun u => u.tiles = s.tiles ∧ u.parts = s.parts ∧ u.net.flits.length = s.net.flits.length + (fails.filter isUnit).length ∧
        (fails.filter isUnit ≠ [] →
          noticeFlit s.net t (some p) ⟨.hardware, (s.tile t).sc.stagecnt, evtSelftest, some t, none, none⟩ ∈ u.net.flits) ∧
        ((3#4 ∈ fails) → (u.lane t 0).underTest = true) ∧ ((4#4 ∈ fails) → (u.lane t 1).underTest = true))) ∧
    (∀ (t : PTile) (found : SelfTest), (s.tile t).pl.part = none → s.mayTest t = true → s.isBad t.key = false →
      (found.fails.filter isUnit ≠ [] ∨ t.key ∈ foundBad found.verdicts) → Completes (.checkerSelfTest t found) s fun u => t.key ∈ u.flash.badTiles ∧ (u.tile t).pl.bad = true ∧ (u.tile t).pl.part = none) ∧
    (∀ (t : PTile) (found : SelfTest), (s.site t.site).sleep = true → Completes (.checkerSelfTest t found) s fun u => u = s) ∧
    (s.hasStandby = false → Completes .supervisorFailure s fun u => u.sup.phase = 15 ∧ u.slots = [] ∧ u.sessions = [] ∧
      (∀ i : Fin 4, (u.phwPort i).up = false) ∧ u.tiles = s.tiles ∧ u.loft = s.loft ∧ u.ident.lmsNext = s.ident.lmsNext) ∧
    (s.hasStandby = true → Completes .supervisorFailure s fun u => u.sup.standbyActive = true ∧ u.net.atStandby = true ∧
      u.ident = s.ident.readLms s.flash ∧ u.ident.lmsNext = u.ident.lmsLimit ∧ s.ident.lmsLimit ≤ u.ident.lmsLimit ∧ (∀ f ∈ u.net.flits, f.dcol ≠ 0 ∨ f.drow ≠ 0 ∨ f.dport ≠ 4) ∧
      (serving → u.sup.warmDue ≠ none ∧ (s.sup.warmDue = none → u.sup.warmDue = some 3)) ∧ (u.bbx.frozen = true ∨ u.bbx.freezeDue = true) ∧
      (s.bbx.frozen = false → (lastRec u).event = evtSupFail) ∧ (∀ k : Nat, (SMap.get Slot.init u.slots k).live = true → 4096 ≤ k) ∧
      u.tiles = s.tiles ∧ u.loft = s.loft) ∧
    (∀ (i j : Fin 2), j ≠ i → s.sup.refOk.length = 2 →
      (s.sup.refOk.getD j.val false = true →
        (i = s.sup.refSel → Completes (.refclkMonitorFail i) s fun u => u.sup.refSel = j ∧ u.sup.refOk.getD i.val true = false ∧
          u.sup.holdover = s.sup.holdover ∧ u.sites = s.sites ∧ (s.bbx.frozen = false → (lastRec u).event = evtRefclkSwitch)) ∧
        (i ≠ s.sup.refSel → Completes (.refclkMonitorFail i) s fun u => u.sup.refSel = s.sup.refSel ∧
          u.sup.refOk.getD i.val true = false ∧ u.sites = s.sites ∧ u.slots = s.slots)) ∧
      (s.sup.refOk.getD j.val false = false → s.sup.holdover = false →
        Completes (.refclkMonitorFail i) s fun u => u.sup.holdover = true ∧ (∀ k : Fin 64, (u.site k).arith = false) ∧
          (s.bbx.frozen = false → (lastRec u).event = evtRefclkLost)) ∧
      Completes (.refclkRecovered i) s fun u => u.sup.refOk.getD i.val false = true ∧ u.sup.holdover = false ∧ u.tiles = s.tiles ∧
        (s.sup.holdover = true → u.sup.refSel = i ∧ (serving → u.sup.warmDue ≠ none)) ∧
        (s.sup.holdover = false → u.sup.refSel = s.sup.refSel ∧ u.sup.warmDue = s.sup.warmDue)) ∧
    (∀ p : Fin 32, (s.part p).open_ = true → (s.part p).resetDue = false →
      let x := s.part p
      let held := ((s.slotsOf p).map fun e => e.2.rsv + e.2.used).sum + (x.nodes.map (·.frames)).sum + x.loose.length
      let pagesWrong : Prop := x.free + x.rsv + x.used ≠ x.total ∨ x.rsv + x.used ≠ held ∨ x.frames.dedup.length ≠ x.frames.length
      let slotsWrong : Prop := 512 < s.occupied ∨ ∃ e ∈ s.slotsOf p, e.2.sound = false
      let bad (i : Instr) (kind : BitVec 3) (ev : BitVec 16) : Prop := Completes i s fun u =>
        (u.part p).open_ = false ∧ (u.part p).resetDue = true ∧ u.sup.auditKind = kind ∧ u.sup.auditPart = BitVec.ofNat 5 p.val ∧
        (s.bbx.frozen = false → (lastRec u).event = ev) ∧ u.tiles = s.tiles ∧
        ∀ k : Nat, k / 128 = p.val → (SMap.get Slot.init u.slots k).live = false
      (x.idle = true →
        (pagesWrong → ¬ slotsWrong → bad (.pageSlotAudit p) 3 evtAuditPages) ∧
        (¬ pagesWrong → slotsWrong → bad (.pageSlotAudit p) 4 evtAuditSlots) ∧
        (pagesWrong → slotsWrong → bad (.pageSlotAudit p) 4 evtAuditPages ∧ Completes (.pageSlotAudit p) s fun u =>
          u.sup.auditPages = satAdd s.sup.auditPages 1 ∧ u.sup.auditSlots = satAdd s.sup.auditSlots 1 ∧
          (s.bbx.frozen = false → (SMap.get BbxRec.init u.bbx.recs (s.bbx.next + 1).toNat).event = evtAuditSlots)) ∧
        (¬ pagesWrong → ¬ slotsWrong → Completes (.pageSlotAudit p) s fun u => u = s)) ∧
      (s.tokenBad p ≠ none → (∀ q : Fin 32, q ≠ p → s.tokenBad q = none) → bad .tokenCountAudit 5 evtAuditTokens)) ∧
    ((∀ p : Fin 32, s.tokenBad p = none) → Completes .tokenCountAudit s fun u => u = s) ∧
    ∀ t : PTile, Completes (.tileCounterRead t) s fun u =>
      (u.tile t).pl.ext.setWidth 48 = (s.tile t).sc.cyc ∧ (u.tile t).sc = (s.tile t).sc ∧ (u.tile t).mem = (s.tile t).mem ∧
      (u.tile t).pl.ext.toNat = ((s.tile t).pl.ext.toNat + ((s.tile t).sc.cyc - (s.tile t).pl.ext.setWidth 48).toNat) % 2 ^ 64

/-- R6, R476–R479, R482: a site's waiting copies leave in order; a record that R477 allows and that has arrived takes the next place of the
ring, or counts as lost while the rings are stopped; SNAP and device-fatal events call for a freeze, which waits for the copies on the
network and stops every ring; the flush writes the ring, oldest first, without its oldest 64 records where it is full, into the slot that
has no valid image, with the CRC of its bytes; where every slot is valid then, the one of the lowest sequence number is erased (the
moment is the model's choice, log entry 78); the image writes that waited are made. -/
def Obligations.BlackBoxKeepsRecords : Prop :=
  ∀ (s : State) (site : Fin 64),
    let b := s.bbx
    (∀ (r : BbxRec) (rest : List BbxRec), (b.ring site).waiting = r :: rest → (s.site site).up = true →
      Completes (.bbxCopyForward site) s fun u => (u.bbx.ring site).waiting = rest ∧
        (u.bbx.ring site).recs = (b.ring site).recs ∧ (∀ j : Fin 64, j ≠ site → u.bbx.ring j = b.ring j) ∧
        u.net.flits = s.net.flits ++ [mkFlit 0 (storeAt site) s.net.supAt none 0 (.bbx r)]) ∧
    (∀ r : BbxRec, (BbxRec.sound r = false ∨ s.net.ready (fun f => f.msg == .bbx r) = false) →
      exec (.bbxRecordArrival r) s = .next s) ∧
    (∀ r : BbxRec, BbxRec.sound r = true → s.net.ready (fun f => f.msg == .bbx r) = true →
      (b.frozen = false → Completes (.bbxRecordArrival r) s fun u => SMap.get BbxRec.init u.bbx.recs b.next.toNat = r ∧
        u.bbx.next = b.next + 1 ∧ u.bbx.wrap = (b.wrap || b.next == 0xFFFF) ∧ u.bbx.lost = b.lost ∧
        (∀ k : Nat, k ≠ b.next.toNat → SMap.get BbxRec.init u.bbx.recs k = SMap.get BbxRec.init b.recs k) ∧ u.tiles = s.tiles) ∧
      (b.frozen = true → Completes (.bbxRecordArrival r) s fun u => u.bbx.recs = b.recs ∧ u.bbx.next = b.next ∧
        u.bbx.lost = satAdd b.lost 1)) ∧
    ((s.site site).up = true → Completes (.siteCounterRefresh site) s fun u => (u.site site).ts = s.sup.counter ∧
      (u.site site).tstate = (s.site site).tstate ∧ ∀ j : Fin 64, j ≠ site → u.site j = s.site j) ∧
    (b.frozen = false → b.freezeDue = false → Completes .bbxSnap s fun u => u.bbx.freezeDue = true ∧
      u.bbx.freezeEvent = evtFreezeReq ∧ (SMap.get BbxRec.init u.bbx.recs b.next.toNat).event = evtFreezeReq ∧ u.parts = s.parts ∧
      u.slots = s.slots) ∧
    (b.frozen = true → Completes .bbxSnap s fun u => u = s) ∧
    (s.net.copying = true → exec .bbxFreezeComplete s = .next s) ∧
    (b.freezeDue = true → b.frozen = false → s.net.copying = false → Completes .bbxFreezeComplete s fun u =>
      u.bbx.frozen = true ∧ u.bbx.flushing = true ∧ u.bbx.freezeDue = false ∧ (s.sup.tripDue = true → u.sup.trip = true) ∧ (∀ j : Fin 64, (u.bbx.ring j).frozen = true) ∧
      u.bbx.recs = b.recs ∧ (u.bbx.image b.target).valid = false ∧ (u.bbx.image b.target).event = b.freezeEvent ∧
      (u.bbx.image b.target).seq = BitVec.ofNat 32 (b.newestSeq + 1) ∧
      ∀ i : Nat, i ≠ b.target → u.bbx.image i = b.image i) ∧
    (b.flushing = true → (b.image b.target).valid = false →
      let written : Image := Image.sealed { b.image b.target with recs := b.ordered.drop (b.ordered.length - 65472) }
      let after (i : Nat) : Image := if i = b.target then written else b.image i
      written.valid = true ∧ written.seq = (b.image b.target).seq ∧ written.crc = crc32 written.body ∧
      Completes (.bbxFlushComplete true) s (fun u => u.bbx.flushing = false ∧ u.bbx.frozen = false ∧
        u.bbx.flfail = b.flfail ∧ (∀ j : Fin 64, (u.bbx.ring j).frozen = false) ∧
        ((∃ i : Nat, i < 8 ∧ i ≠ b.target ∧ (b.image i).valid = false) → ∀ i : Nat, u.bbx.image i = after i) ∧
        ((∀ i : Nat, i < 8 → i ≠ b.target → (b.image i).valid = true) → ∃ k : Nat, k < 8 ∧ u.bbx.image k = Image.init ∧
          (∀ j : Nat, j < 8 → (after k).seq ≤ (after j).seq) ∧ ∀ i : Nat, i ≠ k → u.bbx.image i = after i) ∧
        u.bbx.recs = b.recs ∧ u.sup.imageDue = [] ∧
        ∀ (n : Option Nat) (g : Furnish), s.sup.imageDue = [(n, .furnish g)] →
          (if s.sup.furnB then u.flash.furnA else u.flash.furnB) = some g) ∧
      Completes (.bbxFlushComplete false) s fun u => u.bbx.flushing = false ∧ u.bbx.frozen = false ∧ u.bbx.flfail = true ∧
        (u.bbx.image b.target).valid = false ∧ u.bbx.recs = b.recs)

/-! ### Start-up, resets, power (R286, R488–R535) -/

/-- R489–R500, R573–R586: an image without both signatures, or with an HSS signature outside R577 and R579, does not verify; POR leaves the fuses, the flash with the repair log and the black-box images, and nothing else; start-up without
two verified images, or with the dies of both supervisors held off (R576), halts in step 15, and with them takes over what the furnish states, powers the sites that came up, and leaves every vat
EMPTY, every lane of a mapped tile to warm up or quarantined, and the frames with unusable loft rows out of use; WARM ends sessions and slots, takes their pages out of the tables,
records its source, does not start in holdover, resets what the Reset columns name also where it halts, and keeps the loft that has not changed hands and the package
cache, but on sites whose supplies were lost or that are held off, the rings and, where no tile has failed, the spare map.  (A blank flash, and that warm-up is left to WARM_UP events, are the
model's: log entry 39.) -/
def Obligations.StartUpAndWarm : Prop :=
  ∀ (s : State) (o : BootObs),
    let fw := pickCopy s.firmwareOk s.flash.fwA s.flash.fwB
    let fu := pickCopy s.furnishOk s.flash.furnA s.flash.furnB
    let seen := s.ident.readLoft.observe o
    let leaves (u : State) : Prop := u.ident.lmsNext = (s.ident.readLms s.flash).lmsNext ∧ u.ident.lmsLimit = (s.ident.readLms s.flash).lmsLimit
    Completes .por s (fun u => u.sup.phase = 1 ∧ u.sup.counter = 0 ∧ u.sup.rstKind = 0 ∧ (∀ t : PTile, u.tile t = Tile.init) ∧
      (∀ (t : PTile) (k : Fin 2), u.lane t k = Lane.init) ∧ (∀ k : Nat, u.vat k = Vat.init) ∧ (∀ i : Fin 64, (u.site i).up = false) ∧
      (∀ k : Nat, SMap.get 0 u.loft k = 0) ∧ u.furnish = none ∧ u.sessions = [] ∧ u.slots = [] ∧ u.parts = [] ∧ u.bbx.recs = [] ∧
      u.bbx.images = s.bbx.images ∧ u.flash = s.flash ∧ u.map = s.map ∧ u.ident.fused = s.ident.fused ∧
      u.ident.revoked = s.ident.revoked ∧ u.ident.fwFuse = s.ident.fwFuse ∧ u.ident.furnFuse = s.ident.furnFuse ∧
      u.ident.lmsNext = s.ident.lmsNext ∧ u.ident.lmsLimit = s.ident.lmsLimit ∧ u.fuses = s.fuses ∧ u.ident.dieSeeds = s.ident.dieSeeds ∧
      u.ident.loftKeys = []) ∧
    (s.sup.phase = 1 → s.sup.trip = false →
      ((o.supPFail = true ∧ o.supSFail = true ∨ o.flashOk = false ∨ fw = none ∨ fu = none ∨ supervisor o.supPFail (BootObs.ringOff seen) = none) →
        Completes (.startUp o) s fun u => u.sup.phase = 15 ∧ u.furnish = none ∧ u.parts = [] ∧ u.flash = s.flash ∧ leaves u) ∧
      (∀ (a b c : Bool) (v : Firmware) (w : Furnish), ¬ (o.supPFail = true ∧ o.supSFail = true) → o.flashOk = true →
        fw = some (a, v) → fu = some (b, w) → supervisor o.supPFail (BootObs.ringOff seen) = some c → Completes (.startUp o) s fun u =>
          (u.sup.phase = 9 ∨ u.sup.phase = 10 ∨ u.sup.phase = 12) ∧ u.furnish = some w ∧ u.sup.fwB = a ∧ u.sup.furnB = b ∧
          u.sup.cap = BitVec.ofNat 16 w.cap ∧ u.sup.standbyActive = c ∧ u.ident.fwRun = v.svn ∧ u.ident.furnRun = w.svn ∧
          leaves u ∧ u.ident.ringOff = BootObs.ringOff seen ∧ (∀ i : Fin 64, (u.site i).up = !(BootObs.off seen i.val)) ∧
          (∀ k : Nat, (u.vat k).mode = 0 ∧ (u.vat k).part = none) ∧
          (∀ (t : PTile) (k : Fin 2), t.key ∈ mappedKeys u.map →
            (u.lane t k).bins = [] ∧ (u.lane t k).quar = o.coldLanes.any fun e => laneKey e.1 e.2 == laneKey t k) ∧
          ∀ f ∈ w.parts, (∀ g ∈ w.parts, g.part = f.part → g = f) → (u.part f.part).total = w.poolFrames f ∧
            (u.part f.part).kept = u.flash.deadFrames.filter (w.inPool f) ∧
            (u.part f.part).free = w.poolFrames f - (u.part f.part).kept.length ∧ (u.part f.part).models = [] ∧ (u.part f.part).loaded = false)) ∧
    (∀ g : SigCheck, (g.ecdsa = false ∨ g.hss = false ∨ 2 ^ 384 ≤ g.block.r ∨ 2 ^ 384 ≤ g.block.s ∨
        g.block.hss = [] ∨ 65536 < g.block.hss.length ∨ g.levels = [] ∨ 8 < g.levels.length ∨
        (∃ l ∈ g.levels, l.lms.sha2 = false ∨ l.ots ≠ l.lms ∨ l.height < 5 ∨ 25 < l.height ∨ l.w ∉ [1, 2, 4, 8])) →
      (∀ f : Firmware, f.sig = g → s.firmwareOk f = false) ∧ ∀ f : Furnish, f.sig = g → s.furnishOk f = false) ∧
    Completes .resetNLow s (fun u => u = { s with sup := u.sup } ∧ u.sup.phase = s.sup.phase ∧
      (s.sup.warmDue = none → s.sup.phase = 12 ∨ s.sup.phase = 15 → u.sup.warmDue = some 2 ∧ u.sup.warmAt = s.sup.counter) ∧
      (s.sup.warmDue ≠ none ∨ (s.sup.phase ≠ 12 ∧ s.sup.phase ≠ 15) → u.sup = s.sup)) ∧
    ((s.sup.holdover = true ∨ s.sup.warmDue = none) → exec (.warmReset o) s = .next s) ∧
    (s.warmReady = true →
      let lost (i : Nat) : Prop := (s.site (Fin.ofNat 64 i)).up = false ∨ (s.site (Fin.ofNat 64 i)).inReset = true ∨ BootObs.off seen i = true
      Completes (.warmReset o) s fun u =>
      u.sup.rstKind = 1 ∧ some u.sup.rstSource = s.sup.warmDue ∧ u.sup.warms = satAdd s.sup.warms 1 ∧ u.sup.warmDue = none ∧
      u.sup.counter = s.sup.counter ∧ u.sessions = [] ∧ u.slots = [] ∧ leaves u ∧ u.bbx.rings = s.bbx.rings ∧
      (∀ k ∈ u.cache.packages, k ∈ s.cache.packages) ∧ (∀ k ∈ s.cache.packages, ¬ lost k.site → k ∈ u.cache.packages) ∧
      u.bbx.images = s.bbx.images ∧ u.flash.furnA = s.flash.furnA ∧ u.flash.furnB = s.flash.furnB ∧
      u.flash.rowRepairs = s.flash.rowRepairs ∧ u.flash.loftRepaired = s.flash.loftRepaired ∧
      ((∀ t : PTile, (s.tile t).pl.failed = false) → (∀ k ∈ mappedKeys s.map, s.isBad k = false) → o.coldLanes = [] → u.map = s.map ∧
        (o.vatColumns = [] → u.flash = { s.flash with loftPending := u.flash.loftPending }) ∧
        ((∀ p : Fin 32, (s.part p).loaded = false) → u.bbx = s.bbx)) ∧
      ((s.sup.phase = 15 ∨ o.flashOk = false ∨ fw = none ∨ fu = none ∨ supervisor s.sup.standbyActive (BootObs.ringOff seen) = none) → u.sup.phase = 15 ∧ u.flash = s.flash ∧ u.map = s.map ∧
        u.bbx = s.bbx ∧ (∀ r : Nat, SMap.get 0 u.roots r = 0) ∧ u.sup.overcap = false ∧ u.sup.auditPages = 0 ∧
        (∀ (i : Fin 64) (c : Ctr), c ≠ .loftUe → c ≠ .loftCe → u.ctr i c = 0) ∧
        ∀ (t : PTile) (k : Fin 2), u.lane t k = (s.lane t k).cold) ∧
      (∀ (a b : Bool) (v : Firmware) (w : Furnish), s.sup.phase ≠ 15 → o.flashOk = true → fw = some (a, v) → fu = some (b, w) →
        supervisor s.sup.standbyActive (BootObs.ringOff seen) ≠ none →
        u.furnish = some w ∧ (u.sup.phase = 9 ∨ u.sup.phase = 10 ∨ u.sup.phase = 12) ∧ (∀ (site : Fin 64) (p : Fin 32), (u.part p).open_ = false →
          SMap.get 0 u.roots (rootKey site p) = 0 ∧ SMap.get 0 u.roots (rootKey site p + 1) = 0) ∧
        (∀ k : Nat, changedHands s.furnish w k = false → ¬ lost (k / 2 ^ 34) → SMap.get 0 u.loft k = SMap.get 0 (s.unmapped allParts) k) ∧
        (∀ k : Nat, changedHands s.furnish w k = true ∨ lost (k / 2 ^ 34) → SMap.get 0 u.loft k = 0)))

/-- R286, R494–R499, R519, R525, R554: what a TILE, PARTITION, site SUPPLY, device SUPPLY and LINK reset clears, and what it leaves. -/
def Obligations.ResetsClearTheirParts : Prop :=
  ∀ s : State,
    (∀ (t : PTile) (rows : List Nat), (s.site t.site).up = true → (s.tile t).clk.running = false →
      (∀ p : Fin 32, (s.tile t).pl.part = some p → (s.part p).prev = none) →
      Completes (.tileReset t rows) s fun u =>
        let x := s.tile t
        let y := u.tile t
        y.sc.pc = x.sc.entry ∧ y.sc.cyc = x.sc.cyc ∧ (∀ r : Reg, y.sc.reg r = 0) ∧ y.sc.stagecnt = 0 ∧ y.sc.step = 0 ∧
        y.sc.pressovf = 0 ∧ y.sc.slipsTotal = 0 ∧ (∀ k : Nat, y.sc.qd k = 0) ∧ y.sc.wait = .none ∧ y.sc.halted = false ∧
        y.mq = [] ∧ y.vq = [] ∧ y.lq = [] ∧ y.dq = [] ∧ y.sq = [] ∧ (∀ a : Nat, SMap.get 0 y.mem.scr a = 0) ∧
        (∀ b : Nat, y.mem.bank b = ⟨.on, none⟩) ∧ y.mem.istore = x.mem.istore ∧ y.vec = x.vec ∧ y.mx.acc = x.mx.acc ∧
        y.sc.stopped = x.sc.stopped ∧ y.rp.rep = Report.clean ∧
        (∀ k : Fin 2, (s.lane t k).quar = false → (u.lane t k).bins = (s.lane t k).bins) ∧
        (∀ (k : Fin 2) (b : Nat), (s.lane t k).quar = true → (u.lane t k).getBin b =
          { Bin.init with count := ((s.lane t k).getBin b).count, rej := ((s.lane t k).getBin b).rej, wrap := ((s.lane t k).getBin b).wrap }) ∧
        (x.mem.spent rows = false → (∀ r : PTile, r ≠ t → u.tile r = s.tile r) ∧ (∀ k : Fin 2, (u.lane t k).underTest = false ∧
          (u.lane t k).rewarm = ((s.lane t k).rewarm || (s.lane t k).quar) ∧ (u.lane t k).lifting = (s.lane t k).quar)) ∧
        (x.mem.spent rows = true → ∀ p : Fin 32, x.pl.part = some p → (s.part p).oos = false →
          y.pl.failed = true ∧ (u.part p).resetDue = true)) ∧
    (∀ (p : Fin 32) (failed : List PTile) (rows : List (PTile × Nat)) (routers : List PTile) (verdicts : List (PTile × PTile × Bool)),
      ((s.part p).open_ = true ∨ (s.part p).resetDue = true) → (s.part p).oos = false →
      (∀ i ∈ s.sitesOf p, (s.site (Fin.ofNat 64 i)).up = true ∧ (s.site (Fin.ofNat 64 i)).inReset = false) →
      Completes (.partitionReset p ⟨failed, routers, verdicts⟩ rows) s fun u =>
        (u.part p).resetDue = false ∧ ((s.part p).thermClosed = true → (u.part p).open_ = false) ∧
        ((s.part p).waking = true → (u.part p).open_ = true → (u.part p).doze = false) ∧
        (∀ k : Nat, k / 128 = p.val → SMap.get Slot.init u.slots k = Slot.init) ∧
        ((u.part p).open_ = false →
          ∀ site : Fin 64, SMap.get 0 u.roots (rootKey site p) = 0 ∧ SMap.get 0 u.roots (rootKey site p + 1) = 0) ∧
        (∀ r ∈ routers, r.key ∈ u.net.badRouters) ∧
        (∀ (site : Fin 64) (i : BitVec 10), (s.sem site i).owner.toNat = p.val → (u.sem site i).value = (s.sem site i).init ∧
          (u.sem site i).tag = 0) ∧
        (∀ (site : Fin 64) (i : BitVec 10), (s.sem site i).owner.toNat ≠ p.val → u.sem site i = s.sem site i) ∧
        (∀ w ∈ u.waiters, w.part ≠ p) ∧ (∀ d ∈ u.deferred, d.part ≠ p) ∧
        (∀ t : PTile, t.key ∈ u.tilesOf p → (u.tile t).sc.pc = (u.tile t).sc.entry ∧ (u.tile t).sc.halted = false ∧
          (u.tile t).sc.stopped = false ∧ (u.tile t).mem.istoreEcc = [] ∧ (u.tile t).mq = [] ∧ (u.tile t).vq = [] ∧ (u.tile t).lq = [] ∧ (u.tile t).dq = [] ∧ (u.tile t).sq = [] ∧
          (u.tile t).rp.rep = Report.clean) ∧
        (u.part p).couch.reports = [] ∧ (u.part p).couch.replayDue = false) ∧
    (∀ site : Fin 64, (s.site site).up = false ∨ s.sup.starting = true → exec (.siteSupplyReset site) s = .next s) ∧
    (∀ site : Fin 64, (s.site site).up = true → s.sup.starting = false →
      Completes (.siteSupplyReset site) s fun u =>
        (u.site site).up = false ∧ (u.site site).inReset = true ∧ (u.site site).dom = 0 ∧ (∀ j : Fin 64, j ≠ site → u.site j = s.site j) ∧
        (∀ t : PTile, t.site = site → (∀ a : Nat, SMap.get 0 (u.tile t).mem.scr a = 0) ∧ (u.tile t).sc.cyc = 0 ∧
          (u.tile t).mem.istore = []) ∧
        (∀ t : PTile, t.site ≠ site → u.tile t = s.tile t) ∧
        (∀ (t : PTile) (v : Nat), t.site = site → v < 96 → (u.vat (t.key * 96 + v)).rows = 0 ∧ (u.vat (t.key * 96 + v)).tested = false ∧
          ((s.vat (t.key * 96 + v)).part = none → (u.vat (t.key * 96 + v)).mode = 0)) ∧
        (∀ k ∈ u.cache.packages, k.site ≠ site.val) ∧
        (∀ (t : PTile) (k : Fin 2), t.site = site → (u.lane t k).bins = [] ∧ (u.lane t k).quar = false ∧
          (u.lane t k).qcount = (s.lane t k).qcount) ∧
        (∀ a : Nat, a < 2 ^ 34 → SMap.get 0 u.loft (site.val * 2 ^ 34 + a) = 0) ∧
        (∀ k : Nat, k / 2 ^ 34 ≠ site.val → SMap.get 0 u.loft k = SMap.get 0 s.loft k) ∧ (∀ c : Ctr, u.ctr site c = 0) ∧
        (∀ (j : Fin 64) (c : Ctr), j ≠ site → u.ctr j c = s.ctr j c) ∧
        (∀ p ∈ s.affected site, (u.part p).resetDue = true) ∧ (∀ p : Fin 32, p ∉ s.affected site → u.part p = s.part p) ∧
        (∀ k : Nat, (∃ p ∈ s.affected site, k / 128 = p.val) → (SMap.get Slot.init u.slots k).live = false)) ∧
    ((s.bbx.flushing = true ∨ s.bbx.freezeDue = true ∨ s.sup.trip = true ∨ s.sup.starting = true ∨ s.sup.devRuns = true) →
      exec .deviceSupplyReset s = .next s) ∧
    (s.bbx.flushing = false → s.bbx.freezeDue = false → s.sup.trip = false → s.sup.starting = false → s.sup.devRuns = false →
      (s.sup.supplyDue = true ∨ ∃ i : Fin 64, (s.site i).up = true) →
    Completes .deviceSupplyReset s (fun u => u.sup.supplyDue = false ∧ u.sup.devRuns = true ∧ u.sup.rstKind = 2 ∧ u.sup.devrst = satAdd s.sup.devrst 1 ∧
      u.sup.counter = s.sup.counter ∧ (∀ i : Fin 64, ((s.site i).up = true ∨ (s.site i).inReset = true) →
        (u.site i).up = false ∧ (u.site i).inReset = true) ∧ (∀ (i : Fin 64) (c : Ctr), u.ctr i c = 0) ∧ u.ident = s.ident ∧
      u.flash = s.flash)) ∧
    (∀ port : Nat,
      (port < 8 → Completes (.linkReset true port) s fun u =>
        let x := s.plkPort (Fin.ofNat 8 port)
        let y := u.plkPort (Fin.ofNat 8 port)
        y.state = 0 ∧ y.partner = 0 ∧ y.losses = (if x.state = 3 then satAdd x.losses 1 else x.losses) ∧
        (x.state = 3 → y.unread = true) ∧ ∀ j : Fin 8, j.val ≠ port → u.plkPort j = s.plkPort j) ∧
      (port < 4 → SMap.wf Session.init s.sessions = true → Completes (.linkReset false port) s fun u =>
        (u.phwPort (Fin.ofNat 4 port)).up = false ∧ u.slots = s.slots ∧
        ∀ (n : Nat) (z : Session), s.session n = some z →
          (z.port.val = port → z.lost = none → u.session n = some { z with lost := some s.now }) ∧
          ((z.port.val ≠ port ∨ z.lost ≠ none) → u.session n = some z)))

/-- R335, R504–R509, R519–R535: a supply warning opens the site's window and sends its notice, whose arrival is the event of every affected
partition; the window closes, or outlasts its replay; a reset level or a low
48 V input ends the steps with SUPPLY; recovery restores the sites; the governor holds, OVERCAP and CAP are kept; samples throttle a
site, switch it off or trip the device, whose supplies go off when the rings are frozen, and clearing needs its time below the clearing
temperatures; doze, wake, standby and site sleep: a partition that must reopen is awake only then. -/
def Obligations.PowerEventsTakeEffect : Prop :=
  ∀ s : State,
    let lastEv (u : State) (ev : BitVec 16) : Prop :=
      s.bbx.frozen = false → (SMap.get BbxRec.init u.bbx.recs s.bbx.next.toNat).event = ev
    (∀ site : Fin 64,
      let x := s.site site
      let one (i : Instr) (y : Site) : Prop := Completes i s fun u => u.site site = y ∧ (∀ j : Fin 64, j ≠ site → u.site j = s.site j) ∧
        u.tiles = s.tiles ∧ u.parts = s.parts ∧ u.slots = s.slots ∧ u.lanes = s.lanes
      (∀ d : Domain, x.up = true → x.inReset = false →
        (x.window = none → Completes (.supplyWarningWindowOpen site d) s fun u => (u.site site).window = some s.sup.counter ∧
          (u.site site).dom = x.dom ||| domBit d ∧ (u.site site).warn = x.warn ∧ u.parts = s.parts ∧ u.slots = s.slots ∧
          (∀ j : Fin 64, j ≠ site → u.site j = s.site j) ∧
          u.net.flits = s.net.flits ++ [mkFlit 0 (storeAt site) s.net.supAt none 0 (.notice (supplyNotice (some site)))]) ∧
        (s.sup.starting = true → exec (.supplyResetLevel site d) s = .next s) ∧
        (s.sup.starting = false → Completes (.supplyResetLevel site d) s fun u => (u.site site).inReset = true ∧ (u.site site).resets = satAdd x.resets 1 ∧
          (u.site site).dom = x.dom ||| domBit d ∧ lastEv u evtSupplyReset ∧
          ∀ p ∈ s.affected site, (s.part p).open_ = true → (s.part p).resetDue = false → (u.part p).resetDue = true ∧
            ∀ k : Nat, k / 128 = p.val → (SMap.get Slot.init s.slots k).live = true →
              (SMap.get Slot.init u.slots k).status = some ⟨if (s.part p).couch.gap then 7 else (s.part p).couch.first.getD 7, 0,
                (SMap.get Slot.init s.slots k).handed⟩)) ∧
      (∀ p : Fin 32, s.net.ready (·.isNotice p (supplyNotice (some site))) = true →
        Completes (.faultNotice p (supplyNotice (some site))) s fun u => lastEv u evtSupplyWarn ∧ u.sites = s.sites ∧ u.tiles = s.tiles ∧
          (∀ q ∈ s.affected site, (s.part q).open_ = true → (s.part q).resetDue = false → (s.part q).couch.gap = false →
            (s.part q).couch.replayed = false → (u.part q).couch.replayDue = true ∧ (u.part q).couch.supplyEvent = true) ∧
          ∀ q : Fin 32, q ∉ s.affected site → u.part q = s.part q) ∧
      (x.window ≠ none → x.inReset = false → (∃ p : Fin 32, s.windowEnds site p = true) → Completes (.supplyWindowClose site) s fun u =>
        (u.site site).window = none ∧ (u.site site).warn = satAdd x.warn 1 ∧
        (u.site site).long = (if x.windowLong then x.long else satAdd x.long 1) ∧
        ∀ p : Fin 32, s.windowEnds site p = true → (u.part p).resetDue = true ∧
          ∀ k : Nat, k / 128 = p.val → (SMap.get Slot.init u.slots k).live = false) ∧
      (x.window ≠ none → x.inReset = false → (∀ p : Fin 32, s.windowEnds site p = false) →
        one (.supplyWindowClose site) { x with window := none, windowLong := false, dom := 0, warn := satAdd x.warn 1 }) ∧
      (∀ p : Fin 32, s.windowTooLong site p = true → p ∈ s.affected site → (s.part p).couch.replayDue = true →
        (s.part p).couch.supplyEvent = true → (s.part p).open_ = true → (s.part p).resetDue = false →
        Completes (.supplyWindowLong site p) s fun u => (u.site site).windowLong = true ∧
          (u.site site).long = (if x.windowLong then x.long else satAdd x.long 1) ∧ (u.part p).resetDue = true ∧
          ∀ k : Nat, k / 128 = p.val → (SMap.get Slot.init u.slots k).live = false) ∧
      (∀ rows : List Nat, s.sup.vinLow = false → s.sup.trip = false → x.inReset = true → x.up = false →
        Completes (.siteSupplyRecovered ⟨site, rows, []⟩) s fun u =>
          (u.site site).up = true ∧ (u.site site).inReset = false ∧ (u.site site).arith = (!s.sup.holdover && x.tstate != 2 && !x.sleep) ∧
          (∀ r ∈ rows, (site.val, r) ∈ u.flash.loftPending) ∧ u.tiles = s.tiles ∧ u.parts = s.parts) ∧
      (∀ o : SiteObs, o.site = site → s.sup.vinLow = true ∨ s.sup.trip = true ∨ x.inReset = false ∨ x.up = true →
        exec (.siteSupplyRecovered o) s = .next s) ∧
      (∀ (above : Bool) (held : Nat), x.up = true → one (.governorWindow site above held) { x with govHold := if above then held else 0 }) ∧
      (x.tstate = 1 → x.coolFor s.sup.counter 10000000 = true → one (.throttleClear site) { x with tstate := 0, coolSince := none }) ∧
      (x.tstate = 2 → x.coolFor s.sup.counter 100000000 = true → Completes (.siteOffClear site) s fun u =>
        (u.site site).tstate = 0 ∧ (u.site site).arith = (!s.sup.holdover && x.up) ∧ (u.site site).selfref = false ∧ u.tiles = s.tiles) ∧
      (∀ v : ThermSample, (x.up = true ∨ x.inReset = true) →
        let m := tempsOf v
        (m.trip = true → s.sup.trip = false → s.sup.tripDue = false → Completes (.thermalSample site v) s fun u => lastEv u evtThermTrip ∧
          (s.bbx.frozen = true → u.sup.trip = true ∧ ∀ i : Fin 64, (u.site i).up = false) ∧
          (s.bbx.frozen = false → u.bbx.freezeDue = true ∧ u.sup.tripDue = true ∧ u.sup.trip = false) ∧
          ∀ k : Nat, k < 4096 → (SMap.get Slot.init u.slots k).live = false) ∧
        (m.trip = false → m.off = true → x.tstate ≠ 2 → x.inReset = false → Completes (.thermalSample site v) s fun u =>
          (u.site site).tstate = 2 ∧ (u.site site).offs = satAdd x.offs 1 ∧ (u.site site).arith = false ∧
          (u.site site).selfref = true ∧ u.sup.trip = s.sup.trip ∧ lastEv u evtSiteOff ∧
          ∀ p ∈ s.standing site, (u.part p).open_ = false ∧ (u.part p).thermClosed = true ∧ (u.part p).resetDue = true) ∧
        (m.off = false → m.over 840 760 = true → x.tstate = 0 → Completes (.thermalSample site v) s fun u =>
          (u.site site).tstate = 1 ∧ (u.site site).throt = satAdd x.throt 1 ∧ u.parts = s.parts ∧ u.slots = s.slots) ∧
        (m.off = false → m.over 840 760 = false → Completes (.thermalSample site v) s fun u =>
          (u.site site).tstate = x.tstate ∧ (u.site site).up = x.up ∧ u.parts = s.parts ∧ u.slots = s.slots ∧ u.tiles = s.tiles)) ∧
      (s.maySleep site = true → Completes (.siteSleepEntry site) s fun u => (u.site site).sleep = true ∧ (u.site site).arith = false ∧
        (u.site site).selfref = true ∧ (u.site site).up = true ∧ (∀ p ∈ s.partsOn site, (u.part p).open_ = false) ∧
        (∀ t : PTile, t.site = site → ∀ b : Nat, b < 16 → (u.tile t).mem.bank b = ⟨.off, none⟩) ∧
        ∀ t : PTile, t.site ≠ site → u.tile t = s.tile t)) ∧
    (s.sup.vinLow = false → s.sup.starting = true →
      Completes .input48vLow s fun u => u = { s with sup := { s.sup with vinLow := true } }) ∧
    (s.sup.vinLow = false → s.sup.starting = false → Completes .input48vLow s fun u => u.sup.vinLow = true ∧ u.sup.supplyDue = !s.sup.devRuns ∧ lastEv u evtSupplyDevice ∧ u.tiles = s.tiles ∧
      ∀ k : Nat, k < 4096 → (SMap.get Slot.init s.slots k).live = true →
        (SMap.get Slot.init u.slots k).status = some ⟨7, 0, (SMap.get Slot.init s.slots k).handed⟩) ∧
    (∀ obs : List SiteObs, s.sup.vinLow = false ∨ s.sup.trip = true → exec (.input48vRestored obs) s = .next s) ∧
    (∀ obs : List SiteObs, s.sup.vinLow = true → s.sup.trip = false → (∀ o ∈ obs, o.vatColumns = []) →
      Completes (.input48vRestored obs) s fun u => u.sup.vinLow = false ∧ u.tiles = s.tiles ∧ u.parts = s.parts ∧
      (∀ o ∈ obs, (s.site o.site).inReset = true → (s.site o.site).up = false → ∀ r ∈ o.loftRows, (o.site.val, r) ∈ u.flash.loftPending) ∧
      ∀ i : Fin 64, ((s.site i).inReset = true → (s.site i).up = false → (u.site i).up = true ∧ (u.site i).inReset = false ∧
          (u.site i).dom = 0 ∧ (u.site i).ts = s.sup.counter ∧
          (u.site i).arith = (!s.sup.holdover && (s.site i).tstate != 2 && !(s.site i).sleep)) ∧
        (((s.site i).inReset = false ∨ (s.site i).up = true) → u.site i = s.site i)) ∧
    (∀ die : Fin 8, die.val < 2 → Completes (.vlkResetLevel die) s fun u =>
      (u.phwPort (Fin.ofNat 4 (2 * die.val))).up = false ∧ (u.phwPort (Fin.ofNat 4 (2 * die.val + 1))).up = false ∧
        u.tiles = s.tiles ∧ u.parts = s.parts) ∧
    (∀ die : Fin 8, 2 ≤ die.val → die.val < 6 → (∀ q ∈ s.furnished, (s.part q).prev = none) → Completes (.vlkResetLevel die) s fun u =>
      (u.plkPort (Fin.ofNat 8 (2 * (die.val - 2)))).state = 0 ∧ (u.plkPort (Fin.ofNat 8 (2 * (die.val - 2) + 1))).state = 0 ∧
        u.tiles = s.tiles) ∧
    (∀ die : Fin 8, 6 ≤ die.val → Completes (.vlkResetLevel die) s fun u =>
      let a := Fin.ofNat 4 (2 * (die.val - 6))
      (u.stoPort a).failed = satAdd (s.stoPort a).failed (s.driveReaders a).length ∧ (u.stoPort a).present = (s.stoPort a).present ∧
        u.plk = s.plk) ∧
    (∀ v : BitVec 16, s.sup.cap < v → Completes (.overcap v) s fun u => u = { s with sup := { s.sup with overcap := true } }) ∧
    (∀ v : Word, Completes (.pwrCapWrite v) s fun u => u = { s with sup := u.sup } ∧ u.sup.phase = s.sup.phase ∧
      let c := v.toNat % 65536
      (capAccepted s.furnish c = true → u.sup.cap.toNat = c ∧ u.sup.capRefused = (s.sup.capRefused && !v.getLsbD 31)) ∧
      (capAccepted s.furnish c = false → u.sup.cap = s.sup.cap ∧ u.sup.capRefused = true)) ∧
    ∀ (n : Nat) (z : Session) (p : Fin 32), Talks s n z →
      (z.node.management = true →
        (Completes (.doze n p) s fun u => (u.part p).doze = true ∧ (u.part p).open_ = (s.part p).open_ ∧ Received u n rDone ∧
          u.tiles = s.tiles ∧ ∀ r : Fin 32, r ≠ p → u.part r = s.part r) ∧
        (s.sup.standby = false → Completes (.wake n p) s fun u => Received u n rDone ∧ u.tiles = s.tiles ∧
          (let x := s.part p
           let at_once : Prop := x.oos = true ∨ (s.sleepingOf [p] = [] ∧ (x.thermClosed = true ∨ x.open_ = true))
           (at_once → u.part p = { x with doze := false }) ∧
           (¬ at_once → u.part p = { x with resetDue := x.resetDue || !x.thermClosed, waking := true, retest := true })) ∧
          (∀ i : Fin 64, i.val ∈ s.sitesOf p → (s.site i).sleep = true → (u.site i).sleep = false ∧
            ((s.site i).tstate ≠ 2 → (u.site i).selfref = false ∧ (u.site i).arith = (!s.sup.holdover && (s.site i).up)) ∧
            ((s.site i).tstate = 2 → u.site i = { s.site i with sleep := false })) ∧
          ∀ r : Fin 32, r ≠ p → u.part r = s.part r) ∧
        Completes (.standby n) s fun u => u.sup.standby = true ∧ Received u n rDone ∧ u.tiles = s.tiles ∧
          ∀ f : FurnPart, s.furnPart f.part = some f → (u.part f.part).doze = true ∧ (u.part f.part).waking = false) ∧
      (z.node.management = false → Completes (.doze n p) s fun u => Received u n rNotPermitted ∧ u.parts = s.parts)

/-! ### Ports and sessions (R545–R556, R570) -/

/-- R488, R489, R545, R546, R549–R556, R570, R585: a port that is up announces in step 12, each 100 ms (the first at once: log entry 77), and
its lanes come up only on a device that has booted; a handshake of a listed node that finds room is signed with
one leaf and opens a session when its finish verifies, else it is refused and counted; ACK frees the window for what is queued, within
the node's credit but for urgent frames; 20 µs without progress send the window again, which counts; a session that is silent for 200 ms is lost, a resume within 2 s takes over its requests and frames, and the end of grace ends
them with SESSION_LOST. -/
def Obligations.SessionsOpenAndEnd : Prop :=
  ∀ s : State,
    (∀ port : Fin 4,
      let x := s.phwPort port
      (s.announces port = true → x.beacons = 0 ∨ x.lastBeacon + 10000000 ≤ s.now → Completes (.beacon port) s fun u =>
        (u.phwPort port).beacons = x.beacons + 1 ∧ (u.phwPort port).lastBeacon = s.now ∧
        (u.phwPort port).beacon = some (s.beaconOf port) ∧ (u.phwPort port).txfr = satAdd x.txfr 1 ∧ u = { s with phw := u.phw } ∧ ∀ j : Fin 4, j ≠ port → u.phwPort j = s.phwPort j) ∧
      (∀ (bytes : List Byte) (tagOk : Bool),
        let h := FrameHeader.parse bytes
        (x.up = true → frameOk bytes tagOk = false → Completes (.droppedFrame port bytes tagOk) s fun u =>
          u.phwPort port = { x with badfr := satAdd x.badfr 1 } ∧ u = { s with phw := u.phw } ∧ ∀ j : Fin 4, j ≠ port → u.phwPort j = s.phwPort j) ∧
        (x.up = true → frameOk bytes tagOk = true → ∀ y : Session, s.heardOn port h.session = some y → y.ticketUsed = false →
          (h.seq ≠ y.rxSeq → Completes (.droppedFrame port bytes tagOk) s fun u =>
            u.session h.session = some { y with lastRx := s.now } ∧ (u.phwPort port).last = some (.ack h.session y.rxSeq y.grant) ∧
            (u.phwPort port).txfr = satAdd x.txfr 1 ∧ (u.phwPort port).badfr = x.badfr ∧ u.slots = s.slots) ∧
          (h.seq = y.rxSeq → exec (.droppedFrame port bytes tagOk) s = .next s))) ∧
      ((s.announces port = false ∨ (x.beacons ≠ 0 ∧ s.now < x.lastBeacon + 10000000)) → exec (.beacon port) s = .next s) ∧
      (s.sup.running = true → s.sup.trip = false → s.ident.ringOff.getLsbD (2 + port.val / 2) = false →
        Completes (.portLanesUp port) s fun u =>
        u.phwPort port = { x with up := true } ∧ u = { s with phw := u.phw }) ∧
      ((s.sup.running = false ∨ s.sup.trip = true ∨ s.ident.ringOff.getLsbD (2 + port.val / 2) = true) → Completes (.portLanesUp port) s fun u => u = s) ∧
      (s.announces port = true → ∀ node : Nat,
        (s.furnNode node ≠ none → s.roomFor port = true → s.ident.signings = [] → s.ident.canSign = true →
          Completes (.hsInit port node) s fun u => u.ident.lmsNext = s.ident.lmsNext + 1 ∧ u.sessions = s.sessions ∧
            (∃ n : Nat, u.hs n = some ⟨port, node, s.now, some s.ident.lmsNext⟩) ∧
            (u.phwPort port).rxfr = satAdd x.rxfr 1 ∧ (u.phwPort port).txfr = satAdd x.txfr 1 ∧
            (u.phwPort port).authfail = x.authfail) ∧
        ((s.furnNode node = none ∨ s.roomFor port = false ∨ s.ident.exhausted = true) →
          Completes (.hsInit port node) s fun u => u.ident = s.ident ∧ u.handshakes = s.handshakes ∧ u.sessions = s.sessions ∧
            (u.phwPort port).authfail = satAdd x.authfail 1))) ∧
    (∀ (n : Nat) (h : Hs), s.hs n = some h →
      (h.resp ≠ none → s.announces h.port = true → s.now ≤ h.start + 100000000 → ∀ (nd : Node) (sig : SigCheck),
        s.furnNode h.node = some nd →
        (sig.ok = true → s.roomFor h.port = true → s.ident.exhausted = false → Completes (.hsFin n sig) s fun u =>
          ∃ z : Session, u.session n = some z ∧ z.port = h.port ∧ z.node = nd ∧ z.lost = none ∧ z.ticketUsed = false ∧
            z.seq = 0 ∧ z.unacked = [] ∧ z.lastRx = s.now ∧ (u.phwPort h.port).authfail = (s.phwPort h.port).authfail) ∧
        ((sig.ok = false ∨ s.ident.exhausted = true) → Completes (.hsFin n sig) s fun u => u.sessions = s.sessions ∧
          (u.phwPort h.port).authfail = satAdd (s.phwPort h.port).authfail 1)) ∧
      (h.start + 100000000 ≤ s.now → Completes (.handshakeTimeout n) s fun u => u.hs n = none ∧ u.sessions = s.sessions ∧
        (∀ g ∈ u.ident.signings, g ≠ .hs n) ∧ u.ident.lmsNext = s.ident.lmsNext)) ∧
    (∀ (n : Nat) (x : Session), Talks s n x →
      Completes (.keyUpdate n) s (fun u => ∃ z : Session, u.session n = some z ∧ z.epoch = x.epoch + 1 ∧ z.epochStart = x.seq ∧
        z.unacked = x.unacked ∧ z.queued = x.queued ∧ u.slots = s.slots) ∧
      (∀ a : AckInfo,
        let k := (a.ack - x.acked).toNat
        let rest := x.unacked.drop k
        let w : Session := { x with unacked := rest, credit := a.credit, epochs := x.epochs.drop k }
        let y : Session := w.rekey
        let out := leave a.credit y.unacked.length (false, false) x.queued
        (2 ^ 31 - 2048 ≤ (x.seq - x.epochStart).toNat → rest.length < min 1024 a.credit →
          y.unacked = rest ++ [.keyUpdate (x.epoch + 1)] ∧ y.epochs = w.epochs ++ [x.epoch] ∧
          y.seq = x.seq + 1 ∧ y.epoch = x.epoch + 1 ∧ y.epochStart = x.seq + 1) ∧
        ((x.seq - x.epochStart).toNat < 2 ^ 31 - 2048 ∨ min 1024 a.credit ≤ rest.length → y = w) ∧
        ((∀ f ∈ x.queued, f.urgent = true) → out = (x.queued.take (1024 - y.unacked.length), x.queued.drop (1024 - y.unacked.length))) ∧
        ((∀ f ∈ x.queued, f.urgent = false) →
          out = (x.queued.take (min 1024 a.credit - y.unacked.length), x.queued.drop (min 1024 a.credit - y.unacked.length))) ∧
        (k ≤ x.unacked.length → Completes (.ack n a) s fun u => ∃ z : Session, u.session n = some z ∧ z.acked = a.ack ∧
          z.credit = a.credit ∧ z.unacked = y.unacked ++ out.1 ∧ z.queued = out.2 ∧ z.seq = y.seq + BitVec.ofNat 32 out.1.length ∧ z.epoch = y.epoch ∧
          z.epochs = y.epochs ++ (out.1.map fun _ => y.epoch) ∧
          z.ackAt = (if k = 0 ∧ rest ≠ [] then x.ackAt else s.now) ∧ u.slots = stampSent s.slots n s.now out.1) ∧
        (x.unacked.length < k → Completes (.ack n a) s fun u => ∃ z : Session, u.session n = some z ∧
          z.acked = x.acked ∧ z.unacked = x.unacked ∧ z.queued = x.queued ∧ z.credit = x.credit ∧ z.seq = x.seq)) ∧
      (x.unacked ≠ [] → x.ackAt + 2000 ≤ s.now → Completes (.retransmitTimeout n) s fun u =>
        (u.phwPort x.port).retx = satAdd (s.phwPort x.port).retx x.unacked.length ∧
        u.session n = some { x with ackAt := s.now } ∧ u.slots = s.slots) ∧
      (x.unacked = [] ∨ s.now < x.ackAt + 2000 → exec (.retransmitTimeout n) s = .next s) ∧
      (((s.phwPort x.port).up = false ∨ x.lastRx + 20000000 ≤ s.now) → Completes (.sessionLoss n) s fun u =>
        u.session n = some { x with lost := some s.now } ∧ (u.phwPort x.port).lost = satAdd (s.phwPort x.port).lost 1 ∧
        u.slots = s.slots) ∧
      (∀ (ticket old : Nat) (y : Session), s.resumable ticket = some (old, y) → old ≠ n → s.session old = some y →
        SMap.wf Session.init s.sessions = true →
        Completes (.resume n ticket) s fun u => u.session old = none ∧
          (∀ f ∈ y.unacked ++ y.queued, Received u n f) ∧
          (∃ z : Session, u.session n = some z ∧ z.ticketUsed = false ∧ z.lost = none ∧
            (∀ e ∈ y.heldCancels, e ∈ z.heldCancels)) ∧
          (∀ k : Nat, (SMap.get Slot.init s.slots k).live = true →
            (SMap.get Slot.init u.slots k).session =
              (if (SMap.get Slot.init s.slots k).session = old then n else (SMap.get Slot.init s.slots k).session) ∧
            (SMap.get Slot.init u.slots k).toks = (SMap.get Slot.init s.slots k).toks)) ∧
      (∀ ticket : Nat, s.resumable ticket = none → Completes (.resume n ticket) s fun u =>
        Received u n (.resumeReply false [] 0) ∧ u.slots = s.slots)) ∧
    ∀ (n t : Nat) (x : Session), s.session n = some x → x.lost = some t →
      (t + 200000000 ≤ s.now ∨ 67108864 ≤ (x.queued.map Frame.bytes).sum) → Completes (.graceEnd n) s fun u =>
        u.session n = none ∧ u.tiles = s.tiles ∧
        ∀ k : Nat, (SMap.get Slot.init s.slots k).session = n → (SMap.get Slot.init s.slots k).live = true →
          (SMap.get Slot.init u.slots k).st = .ended ∧
          (SMap.get Slot.init u.slots k).status = some ⟨8, 0, (SMap.get Slot.init s.slots k).handed⟩

/-! ### Management, identity (R539, R547, R553, R567–R597) -/

/-- R581: only a session with management authorisation may blow a revoke fuse, and the slot that signed the furnish in use, a revoked
slot and the last unrevoked slot are refused. -/
def Obligations.OwnerSlotsAreRevoked : Prop :=
  ∀ (s : State) (n : Nat) (x : Session) (slot : Fin 4), Talks s n x →
    let d := s.ident
    let refused : Prop := (s.furnish ≠ none ∧ d.inUse.toNat = slot.val) ∨ d.revoked.getLsbD slot.val = true ∨
      (∀ k : Fin 4, k ≠ slot → d.fused.getLsbD k.val = true → d.revoked.getLsbD k.val = true)
    (x.node.management = false → Completes (.revokeOwner n slot) s fun u => u.ident = d ∧ Received u n rNotPermitted) ∧
    (x.node.management = true → refused → Completes (.revokeOwner n slot) s fun u => u.ident = d ∧ Received u n rRefused) ∧
    (x.node.management = true → ¬ refused → Completes (.revokeOwner n slot) s fun u =>
      u.ident = { d with revoked := u.ident.revoked } ∧ u.ident.revoked.getLsbD slot.val = true ∧
      (∀ k : Fin 4, k ≠ slot → u.ident.revoked.getLsbD k.val = d.revoked.getLsbD k.val) ∧ Received u n rDone)

/-- R3, R485, R513, R547, R553, R568, R569, R583–R591: the answers to management, register and attestation messages; SVN_COMMIT; the leaves of
the device key and the record that reserves them; images, which wait for a flush, and console commands; the boundary scan. -/
def Obligations.ManagementAnswers : Prop :=
  ∀ s : State,
    let quiet (g : FlashImage) : Prop :=
      s.bbx.flushing = false ∧ s.bbx.freezeDue = false ∧ ∀ e ∈ s.sup.imageDue, sameRegion e.2 g = false
    (∀ (n : Nat) (x : Session), Talks s n x →
      (∀ k : Nat, Completes (.telemetry n (some k)) s fun u => u.slots = s.slots ∧ u.parts = s.parts ∧
        ∃ z : Session, u.session n = some z ∧ z.telemEvery = (if 10 ≤ k ∧ k ≤ 60000 then some k else x.telemEvery)) ∧
      (∀ k : Nat, x.telemEvery = some k →
        ((∀ t : Nat, x.lastTelem = some t → t + k * 100000 ≤ s.now) → Completes (.telemetry n none) s fun u =>
          (∀ g ∈ fragments (.telemetry (smbusRegs.map s.readReg)), Received u n g) ∧ u.slots = s.slots ∧ u.parts = s.parts) ∧
        (∀ t : Nat, x.lastTelem = some t → s.now < t + k * 100000 → exec (.telemetry n none) s = .next s)) ∧
      (x.telemEvery = none → exec (.telemetry n none) s = .next s) ∧
      (∀ (sel : Word) (count : Nat), Completes (.bbxRead n sel count) s fun u => u.bbx = s.bbx ∧
        ∀ g ∈ fragments (.bbxData ((List.range count).map fun k => s.bbx.record sel (sel.toNat % 65536 + k))), Received u n g) ∧
      (x.node.register = false → ∀ (a : RegAddr) (v : Word),
        Completes (.mgmtRegisterRead n a) s (fun u => Received u n rNotPermitted ∧ u.plk = s.plk) ∧
        Completes (.mgmtRegisterWrite n a v) s (fun u => Received u n rNotPermitted ∧ u.sup = s.sup ∧ u.ctrs = s.ctrs) ∧
        Completes (.supWarmReq n v) s fun u => Received u n rNotPermitted ∧ u.sup = s.sup) ∧
      (x.node.register = true →
        (∀ a : RegAddr, a.block ≠ .phw → Completes (.mgmtRegisterRead n a) s fun u => Received u n (.reply 0 0 [s.readReg a]) ∧
          u.tiles = s.tiles ∧ u.sites = s.sites ∧ u.sup = s.sup ∧
          (∀ j : Fin 8, (u.plkPort j).losses = (s.plkPort j).losses)) ∧
        (∀ i : Fin 64, (s.sem i (s.site i).semSel).ecc = .double → (s.bbx.ring i).frozen = false →
          Completes (.mgmtRegisterRead n ⟨.sem i, 0x14⟩) s fun u => u.sems = s.sems ∧
            (SMap.get BbxRec.init (u.bbx.ring i).recs (s.bbx.ring i).next).event = evtSramUe) ∧
        (∀ v : Word, Completes (.mgmtRegisterWrite n ⟨.sup, 0x4600⟩ v) s fun u => u.sup = { s.sup with pause := v } ∧
          Received u n rDone ∧ u.tiles = s.tiles) ∧
        (∀ (i : Fin 64) (v : Word), Completes (.mgmtRegisterWrite n ⟨.site i, 0x450⟩ v) s fun u => u.roots = s.roots ∧
          Received u n rDone) ∧
        Completes (.supWarmReq n 0x5741524D) s (fun u => u.sup = s.sup.requestWarm 1 ∧ Received u n rDone) ∧
        ∀ v : Word, v ≠ 0x5741524D → Completes (.supWarmReq n v) s fun u => u.sup = s.sup) ∧
      (x.node.management = true →
        (∀ g : FlashImage, (∃ e ∈ s.sup.imageDue, sameRegion e.2 g = true) → Completes (.flashImageWrite n g) s fun u =>
          Received u n rBusy ∧ u.flash = s.flash ∧ u.sup = s.sup) ∧
        (∀ g : FlashImage, (∀ e ∈ s.sup.imageDue, sameRegion e.2 g = false) → s.bbx.flushing = true ∨ s.bbx.freezeDue = true →
          Completes (.flashImageWrite n g) s fun u =>
            u.flash = s.flash ∧ u.sup = { s.sup with imageDue := s.sup.imageDue ++ [(some n, g)] }) ∧
        (∀ g : Firmware, quiet (.firmware g) → Completes (.flashImageWrite n (.firmware g)) s fun u => Received u n rDone ∧
          (s.sup.fwB = true → u.flash = { s.flash with fwA := some g }) ∧
          (s.sup.fwB = false → u.flash = { s.flash with fwB := some g })) ∧
        (∀ g : Furnish, quiet (.furnish g) → Completes (.flashImageWrite n (.furnish g)) s fun u => Received u n rDone ∧ u.furnish = s.furnish ∧
          (s.sup.furnB = true → u.flash = { s.flash with furnA := some g }) ∧
          (s.sup.furnB = false → u.flash = { s.flash with furnB := some g })) ∧
        (∀ furnish : Bool,
          let now' := if furnish then s.ident.furnFuse else s.ident.fwFuse
          let run := if furnish then s.ident.furnRun else s.ident.fwRun
          (s.sup.phase = 12 → now' ≠ run → Completes (.svnCommit n furnish) s fun u => Received u n rDone ∧
            u.ident.fwFuse = (if furnish then s.ident.fwFuse else s.ident.fwRun) ∧
            u.ident.furnFuse = (if furnish then s.ident.furnRun else s.ident.furnFuse) ∧ u.ident.lmsNext = s.ident.lmsNext ∧
            (∀ f : Firmware, f.svn < u.ident.fwFuse → u.firmwareOk f = false) ∧
            (∀ f : Furnish, f.svn < u.ident.furnFuse → u.furnishOk f = false)) ∧
          ((s.sup.phase ≠ 12 ∨ now' = run) → Completes (.svnCommit n furnish) s fun u => u.ident = s.ident ∧
            Received u n rRefused))) ∧
      (∀ (nonce : BitVec 256) (parts : Word), s.ident.signings = [] →
        (s.ident.canSign = true → Completes (.attest n nonce parts) s fun u => u.ident.lmsNext = s.ident.lmsNext + 1 ∧
          ∀ g ∈ fragments (.report (s.attestReport nonce parts s.ident.lmsNext)), Received u n g) ∧
        (s.ident.exhausted = true → Completes (.attest n nonce parts) s fun u => u.ident.lmsNext = s.ident.lmsNext ∧
          Received u n rExhausted) ∧
        (s.ident.exhausted = false → s.ident.canSign = false → Completes (.attest n nonce parts) s fun u =>
          u.ident.lmsNext = s.ident.lmsNext ∧ u.ident.signings = [.report n nonce parts]))) ∧
    (s.ident.lmsLimit < s.ident.lmsNext + 256 → s.ident.lmsLimit < 2 ^ 40 → Completes (.lmsReservationWrite true) s fun u =>
      u.ident = s.ident ∧ (SMap.get LmsRecord.init u.flash.lms s.flash.lmsAt).valid = false) ∧
    (s.ident.lmsLimit < s.ident.lmsNext + 256 → s.ident.lmsLimit < 2 ^ 40 → Completes (.lmsReservationWrite false) s fun u =>
      u.ident.lmsLimit = s.ident.lmsLimit + 1024 ∧ s.ident.lmsNext ≤ u.ident.lmsNext ∧
      (let place := s.flash.lmsAt
       let r := SMap.get LmsRecord.init u.flash.lms place
       r.seq = s.ident.lmsSeq + 1 ∧ r.limit = u.ident.lmsLimit ∧ r.valid = true ∧
       (place % 16384 = 16383 → ∀ k : Nat, k / 16384 ≠ place / 16384 → SMap.get LmsRecord.init u.flash.lms k = LmsRecord.init) ∧
       (place % 16384 ≠ 16383 → ∀ k : Nat, k ≠ place → SMap.get LmsRecord.init u.flash.lms k = SMap.get LmsRecord.init s.flash.lms k)) ∧
      (s.ident.signings = [] → u.ident.lmsNext = s.ident.lmsNext)) ∧
    (s.ident.treeDue = true → Completes (.lmsTreeBuild false) s fun u => u.ident = { s.ident with building := true }) ∧
    (s.ident.building = true → Completes (.lmsTreeBuild true) s fun u => u.ident.building = false ∧
      u.ident.lmsTrees = s.ident.lmsTrees + 1 ∧ u.ident.lmsLimit = s.ident.lmsLimit) ∧
    (∀ a : RegAddr, Completes (.smbusBlockRead a) s fun u => u = { s with sup := { s.sup with console := [s.smbus a] } } ∧
      (smbusReads a = true → s.smbus a = s.readReg a)) ∧
    Completes (.uartConsoleCommand .status) s (fun u =>
      u = { s with sup := { s.sup with console := [s.readReg ⟨.sup, 0x4E00⟩, s.readReg ⟨.sup, 0x4E04⟩] } }) ∧
    (∀ c : Challenge,
      (s.challengeOk c = true ↔ c.sig.ok = true ∧ ((∃ (m : Nat) (nd : Node), c.signer = some m ∧ s.furnNode m = some nd ∧ nd.management = true) ∨
        (c.signer = none ∧ s.furnish = none ∧ c.key = s.ident.recovery))) ∧
      (s.challengeOk c = true →
    Completes (.uartConsoleCommand (.warm c)) s (fun u => u.sup = s.sup.requestWarm 5 ∧ u.tiles = s.tiles) ∧
    (∀ g : Firmware, s.sup.fwB = false → quiet (.firmware g) → Completes (.uartConsoleCommand (.firmware c g)) s fun u =>
      u = { s with flash := { s.flash with fwB := some g } }) ∧
    (∀ g : Furnish, s.sup.furnB = false → quiet (.furnish g) → Completes (.uartConsoleCommand (.furnish c g)) s fun u =>
      u = { s with flash := { s.flash with furnB := some g } })) ∧
      (s.challengeOk c = false →
    ∀ (g : Firmware) (h : Furnish), Completes (.uartConsoleCommand (.warm c)) s (fun u => u = s) ∧
      Completes (.uartConsoleCommand (.firmware c g)) s (fun u => u = s) ∧
      Completes (.uartConsoleCommand (.furnish c h)) s fun u => u = s)) ∧
    (∀ tdi : List Bool, Completes (.jtagScan false tdi) s (fun u => u = { s with sup := { s.sup with boundary := tdi } }) ∧
      Completes (.jtagScan true tdi) s fun u => u = s) ∧
    (∀ port : Fin 8, Completes (.plkPortLossesRead port) s fun u =>
      u.plkPort port = { s.plkPort port with unread := false } ∧ ∀ j : Fin 8, j ≠ port → u.plkPort j = s.plkPort j) ∧
    ∀ (v : Word),
      Completes (.registerWrite ⟨.sup, 0x4600⟩ v) s (fun u => u = { s with sup := { s.sup with pause := v } }) ∧
      Completes (.registerWrite ⟨.thm, 0⟩ v) s (fun u => u.sup.fanFloor = v.setWidth 8 ∧ u.sites = s.sites) ∧
      Completes (.registerWrite ⟨.pwr, 8⟩ v) s (fun u => u.sup.overcap = (s.sup.overcap && !v.getLsbD 31) ∧ u.sup.cap = s.sup.cap) ∧
      Completes (.registerWrite ⟨.bbx, 0x10⟩ v) s (fun u => u.readReg ⟨.bbx, 0x10⟩ = v &&& 0xF07FFFFF) ∧
      (∀ a : RegAddr, (a.block = .phw ∨ a.block = .plk ∨ a.block = .sto ∨ a.block = .sec) →
        Completes (.registerWrite a v) s fun u => u = s) ∧
      ∀ i : Fin 64,
        Completes (.registerWrite ⟨.site i, 0x44C⟩ v) s (fun u => u.readReg ⟨.site i, 0x44C⟩ = v &&& 0x1F) ∧
        Completes (.registerWrite ⟨.site i, 0x450⟩ v) s (fun u => u.readReg ⟨.site i, 0x450⟩ = v &&& 0xFFFFF001) ∧
        Completes (.registerWrite ⟨.site i, 0x454⟩ v) s (fun u => u.readReg ⟨.site i, 0x454⟩ = v &&& 0xFF) ∧
        Completes (.registerWrite ⟨.sem i, 0x10⟩ v) s (fun u => u.readReg ⟨.sem i, 0x10⟩ = v &&& 0x3FF) ∧
        Completes (.registerWrite ⟨.vat i, 0x20⟩ v) s (fun u => u.readReg ⟨.vat i, 0x20⟩ = v &&& 0xFF7F) ∧
        (v.getLsbD 31 = true → Completes (.registerWrite ⟨.net i, 0x18⟩ v) s fun u =>
          u.readReg ⟨.net i, 0x18⟩ = s.readReg ⟨.net i, 0x18⟩ &&& 0x7FFFFFFF)

/-- R61, R104, R141, R179, R223, R257, R278, R384: a clear leaves its counter at zero, whatever increments came before; the other
counters, and any black-box record of the event, stand.  A CLEAR register clears the counters whose bits are written as 1. -/
def Obligations.ClearsLeaveZero : Prop :=
  ∀ (s : State) (site : Fin 64) (v : Word),
    let clears (i : Instr) (k : Ctr) : Prop := Completes i s fun u =>
      u.ctr site k = 0 ∧ u.bbx = s.bbx ∧ u = { s with ctrs := u.ctrs } ∧
      ∀ (j : Fin 64) (c : Ctr), (j ≠ site ∨ c ≠ k) → u.ctr j c = s.ctr j c
    let word (a : RegAddr) (l : List Ctr) : Prop := Completes (.registerWrite a v) s fun u =>
      u = { s with ctrs := u.ctrs } ∧ u.bbx = s.bbx ∧
      (∀ (n : Nat) (k : Ctr), l[n]? = some k → u.ctr site k = if v.getLsbD n then 0 else s.ctr site k) ∧
      ∀ (j : Fin 64) (c : Ctr), (j ≠ site ∨ c ∉ l) → u.ctr j c = s.ctr j c
    clears (.siteNumClearFallback site) .fallback ∧ clears (.siteNumClearSat site) .sat ∧
    clears (.siteNumClearFmtfault site) .fmtfault ∧ clears (.siteChkClearAccecc site) .accecc ∧
    clears (.siteChkClearVparity site) .vparity ∧ clears (.siteChkClearResidue site) .residue ∧
    clears (.siteChkClearAbft site) .abft ∧ clears (.vatCntClearWretry site) .wretry ∧ clears (.vatCntClearOvr site) .ovr ∧
    clears (.vatCntClearZero site) .zero ∧ clears (.vatCntClearWide site) .wide ∧ clears (.vatCntClearSplit site) .split ∧
    clears (.vatCntClearCheck site) .check ∧ clears (.szCntClearAccfail site) .accfail ∧
    clears (.szCntClearDiscard site) .discard ∧ clears (.szCntClearChkvec site) .chkvec ∧
    clears (.siteScrClearDmawait site) .dmawait ∧ clears (.siteScrClearCe site) .scrCe ∧ clears (.loftClearUe site) .loftUe ∧
    clears (.loftClearCe site) .loftCe ∧ clears (.netCntClearAudit site) .netAudit ∧ clears (.netCntClearPressovf site) .pressovf ∧
    clears (.netCntClearFence site) .netFence ∧ clears (.netCntClearE2e site) .e2e ∧ clears (.netCntClearHcrc site) .hcrc ∧
    clears (.semCntClearAudit site) .semAudit ∧ clears (.semCntClearError site) .semError ∧
    clears (.semCntClearFence site) .semFence ∧ clears (.siteKvClearVerfault site) .verfault ∧ clears (.siteKvClearHold site) .hold ∧
    word ⟨.site site, 0x40C⟩ [.fmtfault, .sat, .fallback] ∧ word ⟨.site site, 0x420⟩ [.abft, .residue, .vparity, .accecc] ∧
    word ⟨.vat site, 0x18⟩ [.check, .split, .wide, .zero, .ovr, .wretry] ∧ word ⟨.sz site, 0xC⟩ [.chkvec, .discard, .accfail] ∧
    word ⟨.site site, 0x458⟩ [.scrCe, .dmawait] ∧ word ⟨.loft site, 0x10⟩ [.loftCe, .loftUe] ∧
    word ⟨.net site, 0x14⟩ [.hcrc, .e2e, .netFence, .pressovf, .netAudit] ∧
    word ⟨.sem site, 0xC⟩ [.semFence, .semError, .semAudit] ∧ word ⟨.site site, 0x468⟩ [.hold, .verfault]

/-! ### Peer links and storage (R557–R566, R571, R572) -/

/-- R434, R440, R558–R566, R571, R572: a link to the listed partner comes up with a leaf of the device key, in its turn, and 64 frames of
credit, any other stays in AUTH; a good frame keeps the link and returns credits, a data frame owes one; a bad frame is asked for again, its
second failure, lost lock or 10 µs of silence loses the port; a clean verdict counts for the couch, another ends its own slots; the shards of a
trusted package that the cache holds are served, in frames of up to 2,048 B, others answered as absent; drives are enumerated, with the namespaces
that the device reads, count their reads, fail those that take 2 s, and lose them.  (Which slots depend on a port, and that the credit of a
frame goes with the next frame, are the model's: log entry 47.) -/
def Obligations.PeersAndDrives : Prop :=
  ∀ s : State,
    (∀ port : Fin 8,
      let x := s.plkPort port
      let lost (i : Instr) : Prop := Completes i s fun u => (u.plkPort port).state = 1 ∧ (u.plkPort port).partner = 0 ∧
        (u.plkPort port).losses = satAdd x.losses 1 ∧ (u.plkPort port).unread = true ∧ (u.plkPort port).sent = [] ∧
        (u.plkPort port).out = [] ∧ ((∀ q ∈ s.furnished, (s.part q).prev = none) → u.tiles = s.tiles) ∧
        (∀ j : Fin 8, j ≠ port → u.plkPort j = s.plkPort j) ∧
        ∀ k ∈ s.peerSlots port, (SMap.get Slot.init s.slots k).live = true →
          (SMap.get Slot.init u.slots k).status = some ⟨5, 5, (SMap.get Slot.init s.slots k).handed⟩
      (∀ (partner pp : Nat) (sig : SigCheck),
        (x.state ≠ 3 → s.sup.running = true → s.diesOff = false → s.ident.ringOff.getLsbD (4 + port.val / 2) = false →
          s.ident.signings = [] →
          (s.ident.canSign = true → Completes (.peerLinkUp port partner pp sig) s fun u =>
            u.ident.lmsNext = s.ident.lmsNext + 1 ∧ u.parts = s.parts ∧
            (s.peerKnown port partner pp sig = true → (u.plkPort port).state = 3 ∧ (u.plkPort port).partner = partner ∧
              (u.plkPort port).credit = 64 ∧ (u.plkPort port).lastFrame = s.now) ∧
            (s.peerKnown port partner pp sig = false → (u.plkPort port).state = 2)) ∧
          (s.ident.exhausted = false → s.ident.canSign = false → Completes (.peerLinkUp port partner pp sig) s fun u =>
            u.ident.lmsNext = s.ident.lmsNext ∧ u.ident.signings = [.peer port partner pp sig] ∧ (u.plkPort port).state = 2) ∧
          (s.ident.exhausted = true → Completes (.peerLinkUp port partner pp sig) s fun u =>
            u.ident.lmsNext = s.ident.lmsNext ∧ u.ident.signings = [] ∧ (u.plkPort port).state = 2)) ∧
        ((x.state = 3 ∨ s.ident.ringOff.getLsbD (4 + port.val / 2) = true ∨ s.diesOff = true ∨ s.sup.running = false) →
          exec (.peerLinkUp port partner pp sig) s = .next s)) ∧
      (2 ≤ x.state.toNat → lost (.peerLoss port) ∧ (x.lastFrame + 1000 ≤ s.now → lost (.peerIdleTimeout port))) ∧
      (x.state.toNat < 2 → exec (.peerLoss port) s = .next s ∧ exec (.peerIdleTimeout port) s = .next s ∧
        ∀ f : PeerFrame, exec (.peerFrame port f) s = .next s) ∧
      (x.state = 2 → ∀ f : PeerFrame, Completes (.peerFrame port f) s fun u => u = { s with plk := u.plk } ∧
        (u.plkPort port).state = 2 ∧ (u.plkPort port).arrived = x.arrived ∧
        (u.plkPort port).feccor = satAdd x.feccor f.corrected ∧ (u.plkPort port).fecunc = satAdd x.fecunc f.uncorrectable) ∧
      (x.state = 3 →
        (∀ f : PeerFrame, f.crcOk = true → f.uncorrectable = 0 →
          let c := min 64 (x.credit + f.credit)
          (f.idle = true → Completes (.peerFrame port f) s fun u => u = { s with plk := u.plk } ∧
            (u.plkPort port).state = 3 ∧ (u.plkPort port).lastFrame = s.now ∧ (u.plkPort port).losses = x.losses ∧
            (u.plkPort port).feccor = satAdd x.feccor f.corrected ∧ (u.plkPort port).fecunc = satAdd x.fecunc 0 ∧
            (u.plkPort port).owed = 0 ∧ (u.plkPort port).arrived = x.arrived ∧
            (u.plkPort port).out = x.out.drop c ∧ (u.plkPort port).sent = x.sent.drop f.credit ++ x.out.take c ∧
            (u.plkPort port).credit + min c x.out.length = c) ∧
          (f.idle = false → Completes (.peerFrame port f) s fun u =>
            (u.plkPort port).state = 3 ∧ (u.plkPort port).lastFrame = s.now ∧ (u.plkPort port).owed = 1 ∧
            (u.plkPort port).arrived = x.arrived ++ [⟨f.sender, f.part, f.transfer, f.index, f.payload⟩] ∧
            (f.verdict = none → u = { s with plk := u.plk }) ∧
            (f.verdict = some .clean → port ∈ (u.part f.part).couch.peers ∧ u.slots = s.slots ∧
              ∀ q : Fin 32, q ≠ f.part → u.part q = s.part q) ∧
            (∀ (slots : List (Fin 128)) (code detail : BitVec 8), f.verdict = some (.ended slots code detail) →
              ∀ k ∈ s.liveSlots [f.part], (∃ n ∈ slots, k % 128 = n.val) → (SMap.get Slot.init s.slots k).live = true →
                (SMap.get Slot.init u.slots k).status = some ⟨code, detail, (SMap.get Slot.init s.slots k).handed⟩))) ∧
        (∀ f : PeerFrame, (f.crcOk = false ∨ f.uncorrectable ≠ 0) →
          (f.retransmission = false → Completes (.peerFrame port f) s fun u =>
            (u.plkPort port).state = 3 ∧ (u.plkPort port).retry = satAdd x.retry 1 ∧ u = { s with plk := u.plk }) ∧
          (f.retransmission = true → lost (.peerFrame port f))) ∧
        ∀ pk id shard : Nat,
          let mine (k : Package) : Prop := k.pubkey = pk ∧ k.pkgid = id ∧ shard < k.got ∧
            (s.site (Fin.ofNat 64 k.site)).serves = true ∧ ∃ fu : Furnish, s.furnish = some fu ∧ ∃ q ∈ fu.publishers, q.pubkey = pk
          ((∃ k ∈ s.cache.packages, mine k) → ∃ k ∈ s.cache.packages, mine k ∧
            Completes (.peerShardRequest port pk id shard) s fun u => u.cache.packages.head? = some k ∧
              u = { s with cache := u.cache, plk := u.plk } ∧
              (u.plkPort port).sent ++ (u.plkPort port).out = x.sent ++ x.out ++ (k.pieces shard).zipIdx.map fun e => ⟨x.transfers, e.2, e.1⟩) ∧
          ((∀ k ∈ s.cache.packages, ¬ mine k) → Completes (.peerShardRequest port pk id shard) s fun u =>
              u = { s with plk := u.plk } ∧
              (u.plkPort port).sent ++ (u.plkPort port).out = x.sent ++ x.out ++ [⟨x.transfers, 0, .absent pk id shard⟩])) ∧
      (x.state ≠ 3 → ∀ pk id shard : Nat, exec (.peerShardRequest port pk id shard) s = .next s)) ∧
    ∀ port : Fin 4,
      let x := s.stoPort port
      let readers := s.driveReaders port
      let late := readers.filter fun p => (s.part p).load.since + readLimit ≤ s.now
      let still := ∀ q ∈ s.furnished, (s.part q).prev = none
      let same (u : State) : Prop := (still → u.tiles = s.tiles) ∧ u.plk = s.plk ∧ ∀ j : Fin 4, j ≠ port → u.stoPort j = s.stoPort j
      let gone (u : State) : Prop := same u ∧ u.stoPort port = { x with
        present := false, speed := 0, width := 0, spaces := [], failed := satAdd x.failed readers.length }
      (x.present = false → ∀ e : Bool, exec (.nvmeReadComplete port e) s = .next s) ∧
      (x.present = true → Completes (.nvmeReadComplete port false) s fun u =>
        u.stoPort port = { x with reads := satAdd x.reads 1 } ∧ same u ∧
        (s.commanding port = [] → u.parts = s.parts) ∧
        ∀ p : Fin 32, s.commanding port = [p] → (u.part p).load.cmds = (s.part p).load.cmds + 1) ∧
      (x.present = true → Completes (.nvmeReadComplete port true) s fun u =>
        u.stoPort port = { x with failed := satAdd x.failed 1 } ∧ same u ∧
        (∀ p : Fin 32, s.commanding port = [p] → (s.part p).load.state = 2 → (s.part p).load.tries < 3 →
          (u.part p).load.retry = satAdd (s.part p).load.retry 1)) ∧
      Completes (.nvmeReadTimeout port) s (fun u =>
        u.stoPort port = { x with failed := satAdd x.failed (min 1 late.length) } ∧ same u ∧
        (∀ p : Fin 32, late.head? = some p → (s.part p).load.state = 2 → (s.part p).load.tries < 3 →
          (u.part p).load.retry = satAdd (s.part p).load.retry 1)) ∧
      Completes (.nvmeSurpriseRemoval port) s gone ∧ Completes (.nvmeLinkDown port) s gone ∧
      (s.diesOff = false → s.ident.ringOff.getLsbD (8 + port.val / 2) = false →
        ∀ (speed : BitVec 3) (width : BitVec 4) (spaces : List Namespace), Completes (.nvmeInsertion port speed width spaces) s fun u =>
        u.stoPort port = { x with
          present := true, speed := speed, width := width, spaces := spaces.filter fun n => (n.lba == 512 || n.lba == 4096) && !n.metadata } ∧ u.parts = s.parts ∧ same u)

/-! ### The whole block -/

/-- Every command of the table answers a next state in every state, and leaves the queue of the commands behind it as it was: no command ends a
run.  What each does is said by the other statements. -/
def Obligations.EveryCommandCompletes : Prop :=
  ∀ (c : Instr) (s : State), Completes c s fun u => u.pending = s.pending

/-- R585, R586: no step signs with a leaf that is not reserved, and the next leaf and LIMIT never go back, over every command and every reset: so no
leaf signs twice. -/
def Obligations.SigningLeavesAscend : Prop :=
  ∀ s u : State, step s = .next u → Ident.sound s.ident = true →
    Ident.sound u.ident = true ∧ s.ident.lmsNext ≤ u.ident.lmsNext ∧ s.ident.lmsLimit ≤ u.ident.lmsLimit

/-- Every step keeps the vats' codes and the lofts in canonical form (equal contents are equal data), and no session ever stands with a used
ticket: a ticket is valid for one use, and RESUME replaces it (R554, R556). -/
def Obligations.StepKeepsInv : Prop :=
  ∀ s u : State, step s = .next u → s.Inv → u.Inv

/-- The block right after POR (R181, R286, R494, R499): the queue is empty, the supervisor counter is zero and start-up stands in step 1;
every tile's core stands at its reset values; every bin is barred and due; every vat is EMPTY; no site is powered.  The invariants hold.
(The values that the spec does not give are the model's: log entries 2 to 4.) -/
def Obligations.ResetValues : Prop :=
  let s := State.reset
  s.pending = [] ∧ s.sup.counter = 0 ∧ s.sup.phase = 1 ∧ s.sup.rstKind = 0 ∧ s.Inv ∧ Ident.sound s.ident = true ∧
  (∀ (t : PTile) (r : Reg), (s.tile t).sc.reg r = 0) ∧ (∀ t : PTile, (s.tile t).sc.pc = (s.tile t).sc.entry ∧
    (s.tile t).sc.stagecnt = 0 ∧ (s.tile t).sc.step = 0 ∧ (s.tile t).sc.cyc = 0 ∧ (s.tile t).sc.wait = .none) ∧
  (∀ (t : PTile) (k : Fin 2) (b : Nat), ((s.lane t k).getBin b).barred = true ∧ ((s.lane t k).getBin b).barwhy = 3 ∧
    ((s.lane t k).getBin b).due = true ∧ ((s.lane t k).getBin b).held = false) ∧
  (∀ k : Nat, (s.vat k).mode = 0) ∧ (∀ i : Fin 64, (s.site i).up = false) ∧ (∀ (i : Fin 64) (c : Ctr), s.ctr i c = 0)
end

