-- ==== Sys2Proof/Laws/Map.lean ====
section
/-! SUPPORT. The laws of sparse maps: a read after a write gives the value written, every other key reads as before, and
every operation keeps the canonical form. -/

namespace Sys2Proof.Machine.SMap

variable {V : Type}

/-- Every key of a map exceeds `lo`, and the keys rise. -/
def Above (lo : Option Nat) (m : List (Nat × V)) : Prop := rising lo m = true

theorem above_cons {lo : Option Nat} {a : Nat} {v : V} {r : List (Nat × V)} :
    Above lo ((a, v) :: r) ↔ (∀ b, lo = some b → b < a) ∧ Above (some a) r := by
  cases lo <;> simp [Above, rising]

theorem Above.weaken {lo lo' : Option Nat} {m : List (Nat × V)} (h : Above lo m)
    (hl : ∀ b, lo' = some b → ∃ c, lo = some c ∧ b ≤ c) : Above lo' m := by
  cases m with
  | nil => rfl
  | cons e r =>
    obtain ⟨a, v⟩ := e
    rw [above_cons] at h ⊢
    refine ⟨fun b hb => ?_, h.2⟩
    obtain ⟨c, hc, hbc⟩ := hl b hb
    exact Nat.lt_of_le_of_lt hbc (h.1 c hc)

theorem Above.none {lo : Option Nat} {m : List (Nat × V)} (h : Above lo m) : Above none m :=
  h.weaken fun b hb => by cases hb

theorem get_put_self (d : V) (m : List (Nat × V)) (k : Nat) (v : V) : get d (put m k v) k = v := by
  induction m with
  | nil => simp [put, get]
  | cons e r ih =>
    obtain ⟨a, w⟩ := e
    simp only [put]
    split_ifs with h1 h2 <;> simp_all [get]

theorem get_put_ne (d : V) (m : List (Nat × V)) {k j : Nat} (v : V) (h : j ≠ k) : get d (put m k v) j = get d m j := by
  induction m with
  | nil => simp only [put, get, if_neg h]
  | cons e r ih =>
    obtain ⟨a, w⟩ := e
    simp only [put]
    split_ifs with h1 h2
    · subst h1
      simp only [get, if_neg h]
    · simp only [get, if_neg h]
    · simp only [get, ih]

theorem get_del_self (d : V) (m : List (Nat × V)) (k : Nat) : get d (del m k) k = d := by
  induction m with
  | nil => rfl
  | cons e r ih =>
    obtain ⟨a, w⟩ := e
    simp only [del]
    split_ifs with h1
    · exact ih
    · simp only [get, if_neg h1, ih]

theorem get_del_ne (d : V) (m : List (Nat × V)) {k j : Nat} (h : j ≠ k) : get d (del m k) j = get d m j := by
  induction m with
  | nil => rfl
  | cons e r ih =>
    obtain ⟨a, w⟩ := e
    simp only [del]
    split_ifs with h1
    · subst h1
      simp only [get, if_neg h, ih]
    · simp only [get, ih]

theorem Above.put {lo : Option Nat} {m : List (Nat × V)} (hm : Above lo m) {k : Nat} (hk : ∀ b, lo = some b → b < k) (v : V) :
    Above lo (put m k v) := by
  induction m generalizing lo with
  | nil => exact above_cons.2 ⟨hk, rfl⟩
  | cons e r ih =>
    obtain ⟨a, w⟩ := e
    have h := above_cons.1 hm
    simp only [SMap.put]
    split_ifs with h1 h2
    · subst h1
      exact above_cons.2 h
    · exact above_cons.2 ⟨hk, above_cons.2 ⟨fun b hb => by cases hb; exact h2, h.2⟩⟩
    · exact above_cons.2 ⟨h.1, ih h.2 fun b hb => by cases hb; omega⟩

theorem Above.del {lo : Option Nat} {m : List (Nat × V)} (hm : Above lo m) (k : Nat) : Above lo (del m k) := by
  induction m generalizing lo with
  | nil => rfl
  | cons e r ih =>
    obtain ⟨a, w⟩ := e
    have h := above_cons.1 hm
    simp only [SMap.del]
    split_ifs with h1
    · exact ih (h.2.weaken fun b hb => ⟨a, rfl, Nat.le_of_lt (h.1 b hb)⟩)
    · exact above_cons.2 ⟨h.1, ih h.2⟩

theorem Above.filter {lo : Option Nat} {m : List (Nat × V)} (hm : Above lo m) (q : Nat × V → Bool) : Above lo (m.filter q) := by
  induction m generalizing lo with
  | nil => rfl
  | cons e r ih =>
    obtain ⟨a, w⟩ := e
    have h := above_cons.1 hm
    rw [List.filter_cons]
    split_ifs
    · exact above_cons.2 ⟨h.1, ih h.2⟩
    · exact (ih h.2).weaken fun b hb => ⟨a, rfl, Nat.le_of_lt (h.1 b hb)⟩

theorem mem_put {m : List (Nat × V)} {k : Nat} {v : V} {e : Nat × V} (h : e ∈ put m k v) : e = (k, v) ∨ e ∈ m := by
  induction m with
  | nil => simpa [put] using h
  | cons x r ih =>
    obtain ⟨a, w⟩ := x
    simp only [put] at h
    split_ifs at h <;> simp only [List.mem_cons] at h ⊢
    · tauto
    · tauto
    · rcases h with h | h
      · tauto
      · have := ih h; tauto

theorem mem_del {m : List (Nat × V)} {k : Nat} {e : Nat × V} (h : e ∈ del m k) : e ∈ m := by
  induction m with
  | nil => exact h
  | cons x r ih =>
    obtain ⟨a, w⟩ := x
    simp only [del] at h
    split_ifs at h <;> simp only [List.mem_cons] at h ⊢
    · exact Or.inr (ih h)
    · rcases h with h | h
      · tauto
      · have := ih h; tauto

section Canonical
variable [DecidableEq V]

/-- The canonical form: rising keys, no entry at the value of an unlisted key. -/
theorem wf_iff {d : V} {m : List (Nat × V)} : wf d m = true ↔ Above none m ∧ ∀ e ∈ m, e.2 ≠ d := by
  simp [wf, Above]

@[simp] theorem wf_nil (d : V) : wf d ([] : List (Nat × V)) = true := rfl

/-- A read after a write to the same key gives the value written. -/
@[simp] theorem get_set_self (d : V) (m : List (Nat × V)) (k : Nat) (v : V) : get d (set d m k v) k = v := by
  simp only [set]
  split_ifs with hv
  · rw [hv]; exact get_del_self d m k
  · exact get_put_self d m k v

/-- A write leaves every other key alone. -/
theorem get_set_ne (d : V) (m : List (Nat × V)) {k j : Nat} (v : V) (hj : j ≠ k) : get d (set d m k v) j = get d m j := by
  simp only [set]
  split_ifs
  · exact get_del_ne d m hj
  · exact get_put_ne d m v hj

/-- What a key reads as after a write. -/
theorem get_set (d : V) (m : List (Nat × V)) (k j : Nat) (v : V) :
    get d (set d m k v) j = if j = k then v else get d m j := by
  split_ifs with h
  · rw [h]; exact get_set_self d m k v
  · exact get_set_ne d m v h

theorem wf_set {d : V} {m : List (Nat × V)} (h : wf d m = true) (k : Nat) (v : V) : wf d (set d m k v) = true := by
  obtain ⟨h1, h2⟩ := wf_iff.1 h
  simp only [set]
  split_ifs with hv
  · exact wf_iff.2 ⟨h1.del k, fun e he => h2 e (mem_del he)⟩
  · refine wf_iff.2 ⟨h1.put (fun b hb => by cases hb) v, fun e he => ?_⟩
    rcases mem_put he with rfl | he
    · exact hv
    · exact h2 e he

theorem wf_filter {d : V} {m : List (Nat × V)} (h : wf d m = true) (q : Nat × V → Bool) : wf d (m.filter q) = true := by
  obtain ⟨h1, h2⟩ := wf_iff.1 h
  exact wf_iff.2 ⟨h1.filter q, fun e he => h2 e (List.mem_filter.1 he).1⟩

theorem wf_del {d : V} {m : List (Nat × V)} (h : wf d m = true) (k : Nat) : wf d (del m k) = true := by
  obtain ⟨h1, h2⟩ := wf_iff.1 h
  exact wf_iff.2 ⟨h1.del k, fun e he => h2 e (mem_del he)⟩

theorem wf_clear {d : V} {m : List (Nat × V)} (h : wf d m = true) (lo hi : Nat) : wf d (clear m lo hi) = true := wf_filter h _

theorem mem_mapVals {d : V} {f : Nat → V → V} {m : List (Nat × V)} {e : Nat × V} (h : e ∈ mapVals d f m) : e.2 ≠ d := by
  induction m with
  | nil => cases h
  | cons x r ih =>
    simp only [mapVals] at h
    split_ifs at h with hd
    · exact ih (mem_del h)
    · rcases List.mem_cons.1 h with rfl | h
      · exact hd
      · exact ih h

theorem Above.mapVals {d : V} (f : Nat → V → V) {lo : Option Nat} {m : List (Nat × V)} (hm : Above lo m) :
    Above lo (mapVals d f m) := by
  induction m generalizing lo with
  | nil => rfl
  | cons e r ih =>
    obtain ⟨a, w⟩ := e
    have h := above_cons.1 hm
    simp only [SMap.mapVals]
    split_ifs
    · exact ((ih h.2).del a).weaken fun b hb => ⟨a, rfl, Nat.le_of_lt (h.1 b hb)⟩
    · exact above_cons.2 ⟨h.1, ih h.2⟩

theorem wf_mapVals {d : V} {m : List (Nat × V)} (h : wf d m = true) (f : Nat → V → V) : wf d (mapVals d f m) = true :=
  wf_iff.2 ⟨(wf_iff.1 h).1.mapVals f, fun _ he => mem_mapVals he⟩

/-- Every listed value is changed, and an unlisted key still reads as the default. -/
theorem get_mapVals (d : V) (f : Nat → V → V) (m : List (Nat × V)) (k : Nat) :
    get d (mapVals d f m) k = if has m k then f k (get d m k) else d := by
  induction m with
  | nil => rfl
  | cons e r ih =>
    obtain ⟨a, w⟩ := e
    have hh : has ((a, w) :: r) k = (k == a || has r k) := rfl
    by_cases hk : k = a
    · subst hk
      rw [hh, beq_self_eq_true, Bool.true_or, if_pos rfl]
      simp only [mapVals]
      split_ifs with h1
      · rw [get_del_self, get, if_pos rfl, h1]
      · rw [get, if_pos rfl, get, if_pos rfl]
    · have hb : (k == a) = false := by simpa using hk
      rw [hh, hb, Bool.false_or, get, if_neg hk, ← ih]
      simp only [mapVals]
      split_ifs with h1
      · exact get_del_ne d _ hk
      · rw [get, if_neg hk]

theorem wf_setRange {d : V} {m : List (Nat × V)} (h : wf d m = true) (b : Nat) (n : Nat) (f : Nat → V) :
    wf d (setRange d m b n f) = true := by
  induction n with
  | zero => exact h
  | succ n ih => exact wf_set ih _ _

theorem wf_setList {d : V} {m : List (Nat × V)} (h : wf d m = true) (b : Nat) (vs : List V) : wf d (setList d m b vs) = true := by
  induction vs generalizing m b with
  | nil => exact h
  | cons v vs ih => exact ih (wf_set h b v) (b + 1)

theorem wf_modifyAll {d : V} {m : List (Nat × V)} (h : wf d m = true) (f : Nat → V → V) (ks : List Nat) :
    wf d (modifyAll d f ks m) = true := by
  induction ks generalizing m with
  | nil => exact h
  | cons k ks ih => exact ih (wf_set h k _)

/-- A write of a list leaves every key outside its range alone. -/
theorem get_setList_ne (d : V) (m : List (Nat × V)) {b j : Nat} (vs : List V) (hj : j < b ∨ b + vs.length ≤ j) :
    get d (setList d m b vs) j = get d m j := by
  induction vs generalizing m b with
  | nil => rfl
  | cons v vs ih =>
    simp only [List.length_cons] at hj
    rw [setList, ih _ (by omega), get_set_ne d m v (by omega)]

/-- A write of a list is read back. -/
theorem get_setList_self (d : V) (m : List (Nat × V)) (b : Nat) (vs : List V) {i : Nat} (hi : i < vs.length) :
    get d (setList d m b vs) (b + i) = vs[i] := by
  induction vs generalizing m b i with
  | nil => cases hi
  | cons v vs ih =>
    cases i with
    | zero =>
      simp only [setList, Nat.add_zero, List.getElem_cons_zero]
      rw [get_setList_ne d _ vs (by omega), get_set_self]
    | succ i =>
      have := ih (set d m b v) (b + 1) (i := i) (by simpa using hi)
      simpa [setList, Nat.add_assoc, Nat.add_comm 1 i] using this

end Canonical

end Sys2Proof.Machine.SMap
end

