-- ==== Sys2Proof/Laws/State.lean ====
section
/-! SUPPORT. The fields of the state under each update, and the parts read back: true by definition, so that no later proof
unfolds a record update. -/

namespace Sys2Proof.Machine

/-- Physical tiles have different keys. -/
theorem PTile.key_inj {a b : PTile} (h : a.key = b.key) : a = b := by
  obtain ⟨s, y, x⟩ := a
  obtain ⟨s', y', x'⟩ := b
  simp only [PTile.key] at h
  have hs : s.val = s'.val := by omega
  have hy : y.val = y'.val := by omega
  have hx : x.val = x'.val := by omega
  simp only [PTile.mk.injEq]
  exact ⟨Fin.ext hs, Fin.ext hy, Fin.ext hx⟩

theorem PTile.key_ne {a b : PTile} (h : a ≠ b) : a.key ≠ b.key := fun e => h (PTile.key_inj e)

/-- Lanes have different keys. -/
theorem laneKey_inj {a b : PTile} {m n : Fin 2} (h : laneKey a m = laneKey b n) : a = b ∧ m = n := by
  simp only [laneKey] at h
  exact ⟨PTile.key_inj (by omega), Fin.ext (by omega)⟩

/-! ### `State.setTile` -/

section

variable (s : State) (t : PTile) (x : Tile)

@[simp] theorem State.setTile_pending : (s.setTile t x).pending = s.pending := rfl
@[simp] theorem State.setTile_lanes : (s.setTile t x).lanes = s.lanes := rfl
@[simp] theorem State.setTile_vats : (s.setTile t x).vats = s.vats := rfl
@[simp] theorem State.setTile_vatMem : (s.setTile t x).vatMem = s.vatMem := rfl
@[simp] theorem State.setTile_sites : (s.setTile t x).sites = s.sites := rfl
@[simp] theorem State.setTile_ctrs : (s.setTile t x).ctrs = s.ctrs := rfl
@[simp] theorem State.setTile_roots : (s.setTile t x).roots = s.roots := rfl
@[simp] theorem State.setTile_loft : (s.setTile t x).loft = s.loft := rfl
@[simp] theorem State.setTile_loftEcc : (s.setTile t x).loftEcc = s.loftEcc := rfl
@[simp] theorem State.setTile_loftHits : (s.setTile t x).loftHits = s.loftHits := rfl
@[simp] theorem State.setTile_loftQ : (s.setTile t x).loftQ = s.loftQ := rfl
@[simp] theorem State.setTile_sems : (s.setTile t x).sems = s.sems := rfl
@[simp] theorem State.setTile_waiters : (s.setTile t x).waiters = s.waiters := rfl
@[simp] theorem State.setTile_deferred : (s.setTile t x).deferred = s.deferred := rfl
@[simp] theorem State.setTile_net : (s.setTile t x).net = s.net := rfl
@[simp] theorem State.setTile_map : (s.setTile t x).map = s.map := rfl
@[simp] theorem State.setTile_furnish : (s.setTile t x).furnish = s.furnish := rfl
@[simp] theorem State.setTile_parts : (s.setTile t x).parts = s.parts := rfl
@[simp] theorem State.setTile_slots : (s.setTile t x).slots = s.slots := rfl
@[simp] theorem State.setTile_sessions : (s.setTile t x).sessions = s.sessions := rfl
@[simp] theorem State.setTile_handshakes : (s.setTile t x).handshakes = s.handshakes := rfl
@[simp] theorem State.setTile_phw : (s.setTile t x).phw = s.phw := rfl
@[simp] theorem State.setTile_plk : (s.setTile t x).plk = s.plk := rfl
@[simp] theorem State.setTile_sto : (s.setTile t x).sto = s.sto := rfl
@[simp] theorem State.setTile_bbx : (s.setTile t x).bbx = s.bbx := rfl
@[simp] theorem State.setTile_sup : (s.setTile t x).sup = s.sup := rfl
@[simp] theorem State.setTile_ident : (s.setTile t x).ident = s.ident := rfl
@[simp] theorem State.setTile_flash : (s.setTile t x).flash = s.flash := rfl
@[simp] theorem State.setTile_fuses : (s.setTile t x).fuses = s.fuses := rfl
@[simp] theorem State.setTile_cache : (s.setTile t x).cache = s.cache := rfl
@[simp] theorem State.setTile_nonce : (s.setTile t x).nonce = s.nonce := rfl

end

/-! ### `State.setLane` -/

section

variable (s : State) (t : PTile) (l : Fin 2) (x : Lane)

@[simp] theorem State.setLane_pending : (s.setLane t l x).pending = s.pending := rfl
@[simp] theorem State.setLane_tiles : (s.setLane t l x).tiles = s.tiles := rfl
@[simp] theorem State.setLane_vats : (s.setLane t l x).vats = s.vats := rfl
@[simp] theorem State.setLane_vatMem : (s.setLane t l x).vatMem = s.vatMem := rfl
@[simp] theorem State.setLane_sites : (s.setLane t l x).sites = s.sites := rfl
@[simp] theorem State.setLane_ctrs : (s.setLane t l x).ctrs = s.ctrs := rfl
@[simp] theorem State.setLane_roots : (s.setLane t l x).roots = s.roots := rfl
@[simp] theorem State.setLane_loft : (s.setLane t l x).loft = s.loft := rfl
@[simp] theorem State.setLane_loftEcc : (s.setLane t l x).loftEcc = s.loftEcc := rfl
@[simp] theorem State.setLane_loftHits : (s.setLane t l x).loftHits = s.loftHits := rfl
@[simp] theorem State.setLane_loftQ : (s.setLane t l x).loftQ = s.loftQ := rfl
@[simp] theorem State.setLane_sems : (s.setLane t l x).sems = s.sems := rfl
@[simp] theorem State.setLane_waiters : (s.setLane t l x).waiters = s.waiters := rfl
@[simp] theorem State.setLane_deferred : (s.setLane t l x).deferred = s.deferred := rfl
@[simp] theorem State.setLane_net : (s.setLane t l x).net = s.net := rfl
@[simp] theorem State.setLane_map : (s.setLane t l x).map = s.map := rfl
@[simp] theorem State.setLane_furnish : (s.setLane t l x).furnish = s.furnish := rfl
@[simp] theorem State.setLane_parts : (s.setLane t l x).parts = s.parts := rfl
@[simp] theorem State.setLane_slots : (s.setLane t l x).slots = s.slots := rfl
@[simp] theorem State.setLane_sessions : (s.setLane t l x).sessions = s.sessions := rfl
@[simp] theorem State.setLane_handshakes : (s.setLane t l x).handshakes = s.handshakes := rfl
@[simp] theorem State.setLane_phw : (s.setLane t l x).phw = s.phw := rfl
@[simp] theorem State.setLane_plk : (s.setLane t l x).plk = s.plk := rfl
@[simp] theorem State.setLane_sto : (s.setLane t l x).sto = s.sto := rfl
@[simp] theorem State.setLane_bbx : (s.setLane t l x).bbx = s.bbx := rfl
@[simp] theorem State.setLane_sup : (s.setLane t l x).sup = s.sup := rfl
@[simp] theorem State.setLane_ident : (s.setLane t l x).ident = s.ident := rfl
@[simp] theorem State.setLane_flash : (s.setLane t l x).flash = s.flash := rfl
@[simp] theorem State.setLane_fuses : (s.setLane t l x).fuses = s.fuses := rfl
@[simp] theorem State.setLane_cache : (s.setLane t l x).cache = s.cache := rfl
@[simp] theorem State.setLane_nonce : (s.setLane t l x).nonce = s.nonce := rfl

end

/-! ### `State.setSite` -/

section

variable (s : State) (i : Fin 64) (x : Site)

@[simp] theorem State.setSite_pending : (s.setSite i x).pending = s.pending := rfl
@[simp] theorem State.setSite_tiles : (s.setSite i x).tiles = s.tiles := rfl
@[simp] theorem State.setSite_lanes : (s.setSite i x).lanes = s.lanes := rfl
@[simp] theorem State.setSite_vats : (s.setSite i x).vats = s.vats := rfl
@[simp] theorem State.setSite_vatMem : (s.setSite i x).vatMem = s.vatMem := rfl
@[simp] theorem State.setSite_ctrs : (s.setSite i x).ctrs = s.ctrs := rfl
@[simp] theorem State.setSite_roots : (s.setSite i x).roots = s.roots := rfl
@[simp] theorem State.setSite_loft : (s.setSite i x).loft = s.loft := rfl
@[simp] theorem State.setSite_loftEcc : (s.setSite i x).loftEcc = s.loftEcc := rfl
@[simp] theorem State.setSite_loftHits : (s.setSite i x).loftHits = s.loftHits := rfl
@[simp] theorem State.setSite_loftQ : (s.setSite i x).loftQ = s.loftQ := rfl
@[simp] theorem State.setSite_sems : (s.setSite i x).sems = s.sems := rfl
@[simp] theorem State.setSite_waiters : (s.setSite i x).waiters = s.waiters := rfl
@[simp] theorem State.setSite_deferred : (s.setSite i x).deferred = s.deferred := rfl
@[simp] theorem State.setSite_net : (s.setSite i x).net = s.net := rfl
@[simp] theorem State.setSite_map : (s.setSite i x).map = s.map := rfl
@[simp] theorem State.setSite_furnish : (s.setSite i x).furnish = s.furnish := rfl
@[simp] theorem State.setSite_parts : (s.setSite i x).parts = s.parts := rfl
@[simp] theorem State.setSite_slots : (s.setSite i x).slots = s.slots := rfl
@[simp] theorem State.setSite_sessions : (s.setSite i x).sessions = s.sessions := rfl
@[simp] theorem State.setSite_handshakes : (s.setSite i x).handshakes = s.handshakes := rfl
@[simp] theorem State.setSite_phw : (s.setSite i x).phw = s.phw := rfl
@[simp] theorem State.setSite_plk : (s.setSite i x).plk = s.plk := rfl
@[simp] theorem State.setSite_sto : (s.setSite i x).sto = s.sto := rfl
@[simp] theorem State.setSite_bbx : (s.setSite i x).bbx = s.bbx := rfl
@[simp] theorem State.setSite_sup : (s.setSite i x).sup = s.sup := rfl
@[simp] theorem State.setSite_ident : (s.setSite i x).ident = s.ident := rfl
@[simp] theorem State.setSite_flash : (s.setSite i x).flash = s.flash := rfl
@[simp] theorem State.setSite_fuses : (s.setSite i x).fuses = s.fuses := rfl
@[simp] theorem State.setSite_cache : (s.setSite i x).cache = s.cache := rfl
@[simp] theorem State.setSite_nonce : (s.setSite i x).nonce = s.nonce := rfl

end

/-! ### `State.setPart` -/

section

variable (s : State) (p : Fin 32) (x : Part)

@[simp] theorem State.setPart_pending : (s.setPart p x).pending = s.pending := rfl
@[simp] theorem State.setPart_tiles : (s.setPart p x).tiles = s.tiles := rfl
@[simp] theorem State.setPart_lanes : (s.setPart p x).lanes = s.lanes := rfl
@[simp] theorem State.setPart_vats : (s.setPart p x).vats = s.vats := rfl
@[simp] theorem State.setPart_vatMem : (s.setPart p x).vatMem = s.vatMem := rfl
@[simp] theorem State.setPart_sites : (s.setPart p x).sites = s.sites := rfl
@[simp] theorem State.setPart_ctrs : (s.setPart p x).ctrs = s.ctrs := rfl
@[simp] theorem State.setPart_roots : (s.setPart p x).roots = s.roots := rfl
@[simp] theorem State.setPart_loft : (s.setPart p x).loft = s.loft := rfl
@[simp] theorem State.setPart_loftEcc : (s.setPart p x).loftEcc = s.loftEcc := rfl
@[simp] theorem State.setPart_loftHits : (s.setPart p x).loftHits = s.loftHits := rfl
@[simp] theorem State.setPart_loftQ : (s.setPart p x).loftQ = s.loftQ := rfl
@[simp] theorem State.setPart_sems : (s.setPart p x).sems = s.sems := rfl
@[simp] theorem State.setPart_waiters : (s.setPart p x).waiters = s.waiters := rfl
@[simp] theorem State.setPart_deferred : (s.setPart p x).deferred = s.deferred := rfl
@[simp] theorem State.setPart_net : (s.setPart p x).net = s.net := rfl
@[simp] theorem State.setPart_map : (s.setPart p x).map = s.map := rfl
@[simp] theorem State.setPart_furnish : (s.setPart p x).furnish = s.furnish := rfl
@[simp] theorem State.setPart_slots : (s.setPart p x).slots = s.slots := rfl
@[simp] theorem State.setPart_sessions : (s.setPart p x).sessions = s.sessions := rfl
@[simp] theorem State.setPart_handshakes : (s.setPart p x).handshakes = s.handshakes := rfl
@[simp] theorem State.setPart_phw : (s.setPart p x).phw = s.phw := rfl
@[simp] theorem State.setPart_plk : (s.setPart p x).plk = s.plk := rfl
@[simp] theorem State.setPart_sto : (s.setPart p x).sto = s.sto := rfl
@[simp] theorem State.setPart_bbx : (s.setPart p x).bbx = s.bbx := rfl
@[simp] theorem State.setPart_sup : (s.setPart p x).sup = s.sup := rfl
@[simp] theorem State.setPart_ident : (s.setPart p x).ident = s.ident := rfl
@[simp] theorem State.setPart_flash : (s.setPart p x).flash = s.flash := rfl
@[simp] theorem State.setPart_fuses : (s.setPart p x).fuses = s.fuses := rfl
@[simp] theorem State.setPart_cache : (s.setPart p x).cache = s.cache := rfl
@[simp] theorem State.setPart_nonce : (s.setPart p x).nonce = s.nonce := rfl

end

/-! ### `State.setSlot` -/

section

variable (s : State) (p : Fin 32) (n : Fin 128) (x : Slot)

@[simp] theorem State.setSlot_pending : (s.setSlot p n x).pending = s.pending := rfl
@[simp] theorem State.setSlot_tiles : (s.setSlot p n x).tiles = s.tiles := rfl
@[simp] theorem State.setSlot_lanes : (s.setSlot p n x).lanes = s.lanes := rfl
@[simp] theorem State.setSlot_vats : (s.setSlot p n x).vats = s.vats := rfl
@[simp] theorem State.setSlot_vatMem : (s.setSlot p n x).vatMem = s.vatMem := rfl
@[simp] theorem State.setSlot_sites : (s.setSlot p n x).sites = s.sites := rfl
@[simp] theorem State.setSlot_ctrs : (s.setSlot p n x).ctrs = s.ctrs := rfl
@[simp] theorem State.setSlot_roots : (s.setSlot p n x).roots = s.roots := rfl
@[simp] theorem State.setSlot_loft : (s.setSlot p n x).loft = s.loft := rfl
@[simp] theorem State.setSlot_loftEcc : (s.setSlot p n x).loftEcc = s.loftEcc := rfl
@[simp] theorem State.setSlot_loftHits : (s.setSlot p n x).loftHits = s.loftHits := rfl
@[simp] theorem State.setSlot_loftQ : (s.setSlot p n x).loftQ = s.loftQ := rfl
@[simp] theorem State.setSlot_sems : (s.setSlot p n x).sems = s.sems := rfl
@[simp] theorem State.setSlot_waiters : (s.setSlot p n x).waiters = s.waiters := rfl
@[simp] theorem State.setSlot_deferred : (s.setSlot p n x).deferred = s.deferred := rfl
@[simp] theorem State.setSlot_net : (s.setSlot p n x).net = s.net := rfl
@[simp] theorem State.setSlot_map : (s.setSlot p n x).map = s.map := rfl
@[simp] theorem State.setSlot_furnish : (s.setSlot p n x).furnish = s.furnish := rfl
@[simp] theorem State.setSlot_parts : (s.setSlot p n x).parts = s.parts := rfl
@[simp] theorem State.setSlot_sessions : (s.setSlot p n x).sessions = s.sessions := rfl
@[simp] theorem State.setSlot_handshakes : (s.setSlot p n x).handshakes = s.handshakes := rfl
@[simp] theorem State.setSlot_phw : (s.setSlot p n x).phw = s.phw := rfl
@[simp] theorem State.setSlot_plk : (s.setSlot p n x).plk = s.plk := rfl
@[simp] theorem State.setSlot_sto : (s.setSlot p n x).sto = s.sto := rfl
@[simp] theorem State.setSlot_bbx : (s.setSlot p n x).bbx = s.bbx := rfl
@[simp] theorem State.setSlot_sup : (s.setSlot p n x).sup = s.sup := rfl
@[simp] theorem State.setSlot_ident : (s.setSlot p n x).ident = s.ident := rfl
@[simp] theorem State.setSlot_flash : (s.setSlot p n x).flash = s.flash := rfl
@[simp] theorem State.setSlot_fuses : (s.setSlot p n x).fuses = s.fuses := rfl
@[simp] theorem State.setSlot_cache : (s.setSlot p n x).cache = s.cache := rfl
@[simp] theorem State.setSlot_nonce : (s.setSlot p n x).nonce = s.nonce := rfl

end

/-! ### `State.setSem` -/

section

variable (s : State) (i : Fin 64) (k : BitVec 10) (x : Sem)

@[simp] theorem State.setSem_pending : (s.setSem i k x).pending = s.pending := rfl
@[simp] theorem State.setSem_tiles : (s.setSem i k x).tiles = s.tiles := rfl
@[simp] theorem State.setSem_lanes : (s.setSem i k x).lanes = s.lanes := rfl
@[simp] theorem State.setSem_vats : (s.setSem i k x).vats = s.vats := rfl
@[simp] theorem State.setSem_vatMem : (s.setSem i k x).vatMem = s.vatMem := rfl
@[simp] theorem State.setSem_sites : (s.setSem i k x).sites = s.sites := rfl
@[simp] theorem State.setSem_ctrs : (s.setSem i k x).ctrs = s.ctrs := rfl
@[simp] theorem State.setSem_roots : (s.setSem i k x).roots = s.roots := rfl
@[simp] theorem State.setSem_loft : (s.setSem i k x).loft = s.loft := rfl
@[simp] theorem State.setSem_loftEcc : (s.setSem i k x).loftEcc = s.loftEcc := rfl
@[simp] theorem State.setSem_loftHits : (s.setSem i k x).loftHits = s.loftHits := rfl
@[simp] theorem State.setSem_loftQ : (s.setSem i k x).loftQ = s.loftQ := rfl
@[simp] theorem State.setSem_waiters : (s.setSem i k x).waiters = s.waiters := rfl
@[simp] theorem State.setSem_deferred : (s.setSem i k x).deferred = s.deferred := rfl
@[simp] theorem State.setSem_net : (s.setSem i k x).net = s.net := rfl
@[simp] theorem State.setSem_map : (s.setSem i k x).map = s.map := rfl
@[simp] theorem State.setSem_furnish : (s.setSem i k x).furnish = s.furnish := rfl
@[simp] theorem State.setSem_parts : (s.setSem i k x).parts = s.parts := rfl
@[simp] theorem State.setSem_slots : (s.setSem i k x).slots = s.slots := rfl
@[simp] theorem State.setSem_sessions : (s.setSem i k x).sessions = s.sessions := rfl
@[simp] theorem State.setSem_handshakes : (s.setSem i k x).handshakes = s.handshakes := rfl
@[simp] theorem State.setSem_phw : (s.setSem i k x).phw = s.phw := rfl
@[simp] theorem State.setSem_plk : (s.setSem i k x).plk = s.plk := rfl
@[simp] theorem State.setSem_sto : (s.setSem i k x).sto = s.sto := rfl
@[simp] theorem State.setSem_bbx : (s.setSem i k x).bbx = s.bbx := rfl
@[simp] theorem State.setSem_sup : (s.setSem i k x).sup = s.sup := rfl
@[simp] theorem State.setSem_ident : (s.setSem i k x).ident = s.ident := rfl
@[simp] theorem State.setSem_flash : (s.setSem i k x).flash = s.flash := rfl
@[simp] theorem State.setSem_fuses : (s.setSem i k x).fuses = s.fuses := rfl
@[simp] theorem State.setSem_cache : (s.setSem i k x).cache = s.cache := rfl
@[simp] theorem State.setSem_nonce : (s.setSem i k x).nonce = s.nonce := rfl

end

/-! ### `State.commit` -/

section

variable (s : State) (t : PTile) (f : Fx)

@[simp] theorem State.commit_pending : (s.commit t f).pending = s.pending := rfl
@[simp] theorem State.commit_vats : (s.commit t f).vats = s.vats := rfl
@[simp] theorem State.commit_vatMem : (s.commit t f).vatMem = s.vatMem := rfl
@[simp] theorem State.commit_sites : (s.commit t f).sites = s.sites := rfl
@[simp] theorem State.commit_roots : (s.commit t f).roots = s.roots := rfl
@[simp] theorem State.commit_loft : (s.commit t f).loft = s.loft := rfl
@[simp] theorem State.commit_loftEcc : (s.commit t f).loftEcc = s.loftEcc := rfl
@[simp] theorem State.commit_loftHits : (s.commit t f).loftHits = s.loftHits := rfl
@[simp] theorem State.commit_loftQ : (s.commit t f).loftQ = s.loftQ := rfl
@[simp] theorem State.commit_sems : (s.commit t f).sems = s.sems := rfl
@[simp] theorem State.commit_waiters : (s.commit t f).waiters = s.waiters := rfl
@[simp] theorem State.commit_deferred : (s.commit t f).deferred = s.deferred := rfl
@[simp] theorem State.commit_map : (s.commit t f).map = s.map := rfl
@[simp] theorem State.commit_furnish : (s.commit t f).furnish = s.furnish := rfl
@[simp] theorem State.commit_parts : (s.commit t f).parts = s.parts := rfl
@[simp] theorem State.commit_slots : (s.commit t f).slots = s.slots := rfl
@[simp] theorem State.commit_sessions : (s.commit t f).sessions = s.sessions := rfl
@[simp] theorem State.commit_handshakes : (s.commit t f).handshakes = s.handshakes := rfl
@[simp] theorem State.commit_phw : (s.commit t f).phw = s.phw := rfl
@[simp] theorem State.commit_plk : (s.commit t f).plk = s.plk := rfl
@[simp] theorem State.commit_sto : (s.commit t f).sto = s.sto := rfl
@[simp] theorem State.commit_sup : (s.commit t f).sup = s.sup := rfl
@[simp] theorem State.commit_ident : (s.commit t f).ident = s.ident := rfl
@[simp] theorem State.commit_flash : (s.commit t f).flash = s.flash := rfl
@[simp] theorem State.commit_fuses : (s.commit t f).fuses = s.fuses := rfl
@[simp] theorem State.commit_cache : (s.commit t f).cache = s.cache := rfl

end

/-! ### Parts read back -/

@[simp] theorem State.tile_setTile (s : State) (t : PTile) (x : Tile) : (s.setTile t x).tile t = x :=
  SMap.get_set_self Tile.init s.tiles t.key x

theorem State.tile_setTile_ne (s : State) {t r : PTile} (x : Tile) (h : r ≠ t) : (s.setTile t x).tile r = s.tile r :=
  SMap.get_set_ne Tile.init s.tiles x (PTile.key_ne h)

@[simp] theorem State.lane_setLane (s : State) (t : PTile) (l : Fin 2) (x : Lane) : (s.setLane t l x).lane t l = x :=
  SMap.get_set_self Lane.init s.lanes (laneKey t l) x

theorem State.lane_setLane_ne (s : State) {t r : PTile} {l m : Fin 2} (x : Lane) (h : r ≠ t ∨ m ≠ l) :
    (s.setLane t l x).lane r m = s.lane r m :=
  SMap.get_set_ne Lane.init s.lanes x fun e => by
    obtain ⟨h1, h2⟩ := laneKey_inj e
    rcases h with h | h
    · exact h h1
    · exact h h2

@[simp] theorem State.site_setSite (s : State) (i : Fin 64) (x : Site) : (s.setSite i x).site i = x :=
  SMap.get_set_self Site.init s.sites i.val x

theorem State.site_setSite_ne (s : State) {i j : Fin 64} (x : Site) (h : j ≠ i) : (s.setSite i x).site j = s.site j :=
  SMap.get_set_ne Site.init s.sites x fun e => h (Fin.ext e)

@[simp] theorem State.part_setPart (s : State) (p : Fin 32) (x : Part) : (s.setPart p x).part p = x :=
  SMap.get_set_self Part.init s.parts p.val x

theorem State.part_setPart_ne (s : State) {p q : Fin 32} (x : Part) (h : q ≠ p) : (s.setPart p x).part q = s.part q :=
  SMap.get_set_ne Part.init s.parts x fun e => h (Fin.ext e)

@[simp] theorem State.sem_setSem (s : State) (i : Fin 64) (k : BitVec 10) (x : Sem) : (s.setSem i k x).sem i k = x :=
  SMap.get_set_self Sem.unowned s.sems (i.val * 1024 + k.toNat) x

theorem State.sem_setSem_ne (s : State) {i j : Fin 64} {k l : BitVec 10} (x : Sem) (h : j ≠ i ∨ l ≠ k) :
    (s.setSem i k x).sem j l = s.sem j l :=
  SMap.get_set_ne Sem.unowned s.sems x fun e => by
    have hk := k.isLt
    have hl := l.isLt
    rcases h with h | h
    · exact h (Fin.ext (by omega))
    · exact h (BitVec.eq_of_toNat_eq (by omega))

/-- What a tile reads as after a step of tile `t` is committed. -/
@[simp] theorem State.tile_commit (s : State) (t : PTile) (f : Fx) : (s.commit t f).tile t = f.tile :=
  SMap.get_set_self Tile.init s.tiles t.key f.tile

theorem State.tile_commit_ne (s : State) {t r : PTile} (f : Fx) (h : r ≠ t) : (s.commit t f).tile r = s.tile r :=
  SMap.get_set_ne Tile.init s.tiles f.tile (PTile.key_ne h)

end Sys2Proof.Machine
end

