-- ==== Sys2Proof/Laws/Memory.lean ====
section
/-! SUPPORT. The byte memories of the block: a scratchpad byte after a write, and that every operation on a scratchpad, on
the lofts and on the vats' codes keeps the canonical form, which the memories have at reset. -/

namespace Sys2Proof.Machine

/-! ### Scratchpads -/

@[simp] theorem TileMem.write_scr (m : TileMem) (off : Nat) (bs : List Byte) :
    (m.write off bs).scr = SMap.setList 0 m.scr off bs := rfl

theorem TileMem.write_wf {m : TileMem} (h : Memory.wf m.scr = true) (off : Nat) (bs : List Byte) :
    Memory.wf (m.write off bs).scr = true := SMap.wf_setList h off bs

theorem TileMem.writeAll_wf {m : TileMem} (h : Memory.wf m.scr = true) (l : List (Nat × List Byte)) :
    Memory.wf (m.writeAll l).scr = true := by
  induction l generalizing m with
  | nil => exact h
  | cons e r ih => exact ih (TileMem.write_wf h e.1 e.2)

theorem TileMem.bankDone_wf {m : TileMem} (h : Memory.wf m.scr = true) (b : Nat) : Memory.wf (m.bankDone b).scr = true := by
  unfold TileMem.bankDone
  split
  · exact h
  · dsimp only
    split_ifs
    · exact SMap.wf_clear h _ _
    · exact h

theorem TileMem.reset_wf (m : TileMem) (failed : List Nat) : Memory.wf (m.reset failed).scr = true := rfl

/-! ### Lofts -/

theorem applyEdits_wf (s : State) {m : SMap Byte} (h : Memory.wf m = true) (l : List PageEdit) :
    Memory.wf (applyEdits s m l) = true := by
  induction l generalizing m with
  | nil => exact h
  | cons e r ih =>
    unfold applyEdits
    split
    · exact ih h
    · exact ih (SMap.wf_setList h _ _)

theorem State.putLoft_wf {s : State} (h : Memory.wf s.loft = true) (site off : Nat) (bs : List Byte) :
    Memory.wf (s.putLoft site off bs).loft = true := SMap.wf_setList h _ _

/-! ### Codes of the vats -/

theorem emptyCodes_wf {m : SMap Byte} (h : Memory.wf m = true) (ks : List Nat) : Memory.wf (emptyCodes m ks) = true :=
  SMap.wf_filter h _

theorem State.fillRows_wf {s : State} (h : Memory.wf s.vatMem = true) (t : PTile) (key row : Nat) (codes : List Byte)
    (verify : List (Nat × Nat)) : Memory.wf (s.fillRows t key row codes verify).vatMem = true := SMap.wf_setList h _ _

/-! ### Reset -/

theorem State.reset_vatMem_wf : Memory.wf State.reset.vatMem = true := rfl

theorem State.reset_loft_wf : Memory.wf State.reset.loft = true := rfl

theorem State.reset_scr_wf (t : PTile) : Memory.wf (State.reset.tile t).mem.scr = true := rfl

end Sys2Proof.Machine
end

