-- ==== Sys2Proof/Laws/Pages.lean ====
section
/-! SUPPORT. What the supervisor's work on page tables can change: the lofts with their error counts and records, the network's
flits, and a partition's edit queues and mapped pages; that it keeps the lofts' canonical form; and that mapping a slot adds exactly
its pages. -/

namespace Sys2Proof.Machine

/-- `u` is `s` but for the lofts, what a loft read counts and records, the flits, the free values drawn, and the edit queues and
mapped pages of partition `p`. -/
def PagesOnly (p : Fin 32) (s u : State) : Prop :=
  (∃ (l : SMap Byte) (e : SMap Ecc) (c : SMap Word) (b : Bbx) (f : Flash) (fs : List Flit) (n : Nat) (ps : SMap Part),
    u = { s with loft := l, loftEcc := e, ctrs := c, bbx := b, flash := f, net := s.net.send fs, nonce := n, parts := ps }) ∧
  (∀ r : Fin 32, r ≠ p → u.part r = s.part r) ∧
  (∃ (qs : List EditQ) (ms : List PageMap), u.part p = { s.part p with editQs := qs, maps := ms }) ∧
  (Memory.wf s.loft = true → Memory.wf u.loft = true)

theorem Net.send_nil (n : Net) : n.send [] = n := by unfold Net.send; rw [List.append_nil]

theorem Net.send_send (n : Net) (a b : List Flit) : (n.send a).send b = n.send (a ++ b) := by
  unfold Net.send; rw [List.append_assoc]

namespace PagesOnly

variable {p : Fin 32} {s t u : State}

theorem refl (s : State) : PagesOnly p s s :=
  ⟨⟨s.loft, s.loftEcc, s.ctrs, s.bbx, s.flash, [], s.nonce, s.parts, by rw [Net.send_nil]⟩, fun _ _ => rfl, ⟨_, _, rfl⟩, id⟩

theorem trans (h : PagesOnly p s t) (k : PagesOnly p t u) : PagesOnly p s u := by
  obtain ⟨⟨l, e, c, b, f, fs, n, ps, rfl⟩, h2, ⟨qs, ms, h3⟩, h4⟩ := h
  obtain ⟨⟨l', e', c', b', f', fs', n', ps', rfl⟩, k2, ⟨qs', ms', k3⟩, k4⟩ := k
  refine ⟨⟨l', e', c', b', f', fs ++ fs', n', ps', ?_⟩, fun r hr => (k2 r hr).trans (h2 r hr), ⟨qs', ms', ?_⟩, fun h => k4 (h4 h)⟩
  · rw [Net.send_send]
  · rw [k3, h3]

/-- A fold of steps that are each of the kind. -/
theorem fold {α : Type} (f : State → α → State) (hf : ∀ s a, PagesOnly p s (f s a)) (l : List α) (s : State) :
    PagesOnly p s (l.foldl f s) := by
  induction l generalizing s with
  | nil => exact refl s
  | cons a r ih => exact (hf s a).trans (ih (f s a))

theorem tiles (h : PagesOnly p s u) : u.tiles = s.tiles := by obtain ⟨⟨_, _, _, _, _, _, _, _, rfl⟩, _⟩ := h; rfl
theorem slots (h : PagesOnly p s u) : u.slots = s.slots := by obtain ⟨⟨_, _, _, _, _, _, _, _, rfl⟩, _⟩ := h; rfl
theorem sessions (h : PagesOnly p s u) : u.sessions = s.sessions := by obtain ⟨⟨_, _, _, _, _, _, _, _, rfl⟩, _⟩ := h; rfl
theorem sup (h : PagesOnly p s u) : u.sup = s.sup := by obtain ⟨⟨_, _, _, _, _, _, _, _, rfl⟩, _⟩ := h; rfl
theorem furnish (h : PagesOnly p s u) : u.furnish = s.furnish := by obtain ⟨⟨_, _, _, _, _, _, _, _, rfl⟩, _⟩ := h; rfl
theorem other (h : PagesOnly p s u) {r : Fin 32} (hr : r ≠ p) : u.part r = s.part r := h.2.1 r hr

end PagesOnly

/-- A fold of steps that change no partition. -/
theorem foldl_parts {α : Type} (f : State → α → State) (hf : ∀ s a, (f s a).parts = s.parts) (l : List α) (s : State) :
    (l.foldl f s).parts = s.parts := by
  induction l generalizing s with
  | nil => rfl
  | cons a r ih => exact (ih _).trans (hf s a)

/-- A step on lofts alone. -/
theorem pagesOnly_loft (p : Fin 32) (s : State) (l : SMap Byte) (e : SMap Ecc) (n : Nat)
    (h : Memory.wf s.loft = true → Memory.wf l = true) : PagesOnly p s { s with loft := l, loftEcc := e, nonce := n } :=
  ⟨⟨l, e, s.ctrs, s.bbx, s.flash, [], n, s.parts, by rw [Net.send_nil]⟩, fun _ _ => rfl, ⟨_, _, rfl⟩, h⟩

/-! ### Loft reads of the supervisor -/

@[simp] theorem State.loftErrs_parts (s : State) (site : Fin 64) (ls : List Nat) : (s.loftErrs site none ls).parts = s.parts := rfl
@[simp] theorem State.loftErrs_loft (s : State) (site : Fin 64) (p : Option (Fin 32)) (ls : List Nat) :
    (s.loftErrs site p ls).loft = s.loft := rfl
@[simp] theorem State.loftErrs_furnish (s : State) (site : Fin 64) (p : Option (Fin 32)) (ls : List Nat) :
    (s.loftErrs site p ls).furnish = s.furnish := rfl

theorem State.loftErrs_only (p : Fin 32) (s : State) (site : Fin 64) (ls : List Nat) : PagesOnly p s (s.loftErrs site none ls) :=
  ⟨⟨s.loft, s.loftEcc, _, _, _, [], s.nonce, s.parts, by rw [Net.send_nil]; rfl⟩, fun _ _ => rfl, ⟨_, _, rfl⟩, id⟩

theorem State.entryErrs_only (p : Fin 32) (s : State) (l : List (Nat × Nat)) : PagesOnly p s (s.entryErrs none l) := by
  induction l generalizing s with
  | nil => exact .refl s
  | cons e r ih => exact (State.loftErrs_only p s _ _).trans (ih _)

@[simp] theorem State.entryErrs_parts (s : State) (l : List (Nat × Nat)) : (s.entryErrs none l).parts = s.parts := by
  induction l generalizing s with
  | nil => rfl
  | cons e r ih => exact ih _

@[simp] theorem State.entryErrs_part (s : State) (l : List (Nat × Nat)) (r : Fin 32) : (s.entryErrs none l).part r = s.part r := by
  simp only [State.part, State.entryErrs_parts]

/-! ### Edits -/

theorem State.makeEdit_only (t : State) (e : PageEdit) : PagesOnly e.part t (t.makeEdit e) := by
  unfold State.makeEdit
  dsimp only
  split
  · exact .refl t
  · split
    · refine ⟨⟨t.loft, t.loftEcc, t.ctrs, t.bbx, t.flash, _, t.nonce, _, rfl⟩, fun r hr => ?_,
        ⟨_, (t.part e.part).maps, SMap.get_set_self Part.init t.parts e.part.val _⟩, id⟩
      exact SMap.get_set_ne Part.init t.parts _ fun h => hr (Fin.ext h)
    · refine ⟨⟨_, t.loftEcc, t.ctrs, t.bbx, t.flash, [], t.nonce, _, by rw [Net.send_nil]⟩, fun r hr => ?_,
        ⟨(t.part e.part).editQs, ((t.part e.part).noted e).maps, (SMap.get_set_self Part.init t.parts e.part.val _).trans ?_⟩,
        fun h => applyEdits_wf t h _⟩
      · exact SMap.get_set_ne Part.init t.parts _ fun h => hr (Fin.ext h)
      · unfold Part.noted
        split <;> rfl

theorem State.pageEdit_only (s : State) (e : PageEdit) : PagesOnly e.part s (s.pageEdit e) :=
  (State.entryErrs_only e.part s _).trans (State.makeEdit_only _ e)

/-- An edit of a page that the partition has mapped, or of a table, adds no mapping. -/
def editKnown (e : PageEdit) (ms : List PageMap) : Prop := e.level ≠ 3 ∨ ms.any (·.hit e) = true

theorem Part.noted_known {x : Part} {e : PageEdit} (h : editKnown e x.maps) : x.noted e = x := by
  unfold Part.noted
  refine if_neg fun a => ?_
  simp only [Bool.and_eq_true, beq_iff_eq, Bool.not_eq_true'] at a
  rcases h with h | h
  · exact h a.1.1
  · exact Bool.noConfusion (a.2.symm.trans h)

/-- Such an edit changes no mapping. -/
theorem State.makeEdit_maps (s : State) (e : PageEdit) (h : editKnown e (s.part e.part).maps) (r : Fin 32) :
    ((s.makeEdit e).part r).maps = (s.part r).maps := by
  unfold State.makeEdit
  dsimp only
  split
  · rfl
  · split
    all_goals
      by_cases hr : r = e.part
      · subst hr
        refine (congrArg Part.maps (SMap.get_set_self Part.init s.parts e.part.val _)).trans ?_
        first
        | rfl
        | rw [Part.noted_known h]
      · exact congrArg Part.maps (SMap.get_set_ne Part.init s.parts _ fun k => hr (Fin.ext k))

theorem State.pageEdit_maps (s : State) (e : PageEdit) (h : editKnown e (s.part e.part).maps) (r : Fin 32) :
    ((s.pageEdit e).part r).maps = (s.part r).maps := by
  unfold State.pageEdit
  rw [State.makeEdit_maps _ _ (by rwa [State.entryErrs_part]), State.entryErrs_part]

theorem State.tableEdit_only (s : State) (p : Fin 32) (sup : Fin 64) (m : PageMap) (level : Fin 4) :
    PagesOnly p s (s.tableEdit p sup m level) := by
  unfold State.tableEdit
  dsimp only
  split
  · exact .refl s
  · split
    · exact .refl s
    · exact (pagesOnly_loft p s _ s.loftEcc s.nonce fun h => SMap.wf_filter h _).trans (State.pageEdit_only _ _)

theorem State.tableEdit_maps (s : State) (p : Fin 32) (sup : Fin 64) (m : PageMap) {level : Fin 4} (h : level ≠ 3) (r : Fin 32) :
    ((s.tableEdit p sup m level).part r).maps = (s.part r).maps := by
  unfold State.tableEdit
  dsimp only
  split
  · rfl
  · split
    · rfl
    · exact State.pageEdit_maps _ _ (.inl h) r

theorem State.mapPages_only (s : State) (p : Fin 32) (sup : Fin 64) (l : List PageMap) : PagesOnly p s (s.mapPages p sup l) := by
  induction l generalizing s with
  | nil => exact .refl s
  | cons m r ih =>
    exact ((PagesOnly.fold _ (fun s l => s.tableEdit_only p sup m l) _ s).trans (State.pageEdit_only _ _)).trans (ih _)

/-- Pages that stand among the partition's mapped ones are mapped with no change there. -/
theorem State.mapPages_maps (s : State) (p : Fin 32) (sup : Fin 64) (l : List PageMap) (h : ∀ m ∈ l, m ∈ (s.part p).maps) (r : Fin 32) :
    ((s.mapPages p sup l).part r).maps = (s.part r).maps := by
  induction l generalizing s with
  | nil => rfl
  | cons m q ih =>
    have h3 : ∀ r : Fin 32, (([0, 1, 2].foldl (fun s l => s.tableEdit p sup m l) s).part r).maps = (s.part r).maps := fun r => by
      simp only [List.foldl]
      rw [State.tableEdit_maps _ _ _ _ (by decide), State.tableEdit_maps _ _ _ _ (by decide), State.tableEdit_maps _ _ _ _ (by decide)]
    have one : ∀ r : Fin 32, ((s.mapPage p sup m).part r).maps = (s.part r).maps := fun r => by
      refine (State.pageEdit_maps _ _ (.inr ?_) r).trans (h3 r)
      rw [h3]
      exact List.any_eq_true.2 ⟨m, h m (List.mem_cons_self ..), by simp [PageMap.hit]⟩
    refine (ih _ fun a ha => ?_).trans (one r)
    rw [one]
    exact h a (List.mem_cons_of_mem _ ha)

/-! ### Copies -/

theorem State.copyPage_only (s : State) (p : Fin 32) (h : BitVec 16) (v n : Nat) (src : Option Nat) :
    PagesOnly p s (s.copyPage p h v n src) := by
  unfold State.copyPage
  split
  · exact .refl s
  · cases src with
    | none => exact pagesOnly_loft p s _ _ _ fun w => State.putLoft_wf w _ _ _
    | some f => exact (State.loftErrs_only p s _ _).trans (pagesOnly_loft p _ _ _ _ fun w => State.putLoft_wf w _ _ _)

theorem State.copyPage_parts (s : State) (p : Fin 32) (h : BitVec 16) (v n : Nat) (src : Option Nat) :
    (s.copyPage p h v n src).parts = s.parts := by
  unfold State.copyPage
  split
  · rfl
  · cases src <;> rfl

theorem State.copySums_only (s : State) (p : Fin 32) (h : BitVec 16) (v n : Nat) (src : Nat → Option Nat) :
    PagesOnly p s (s.copySums p h v n src) := .fold _ (fun s i => s.copyPage_only p h _ _ _) _ s

theorem State.copySums_parts (s : State) (p : Fin 32) (h : BitVec 16) (v n : Nat) (src : Nat → Option Nat) :
    (s.copySums p h v n src).parts = s.parts := foldl_parts _ (fun s _ => s.copyPage_parts p h _ _ _) _ s

/-- A write of bytes at an address of a handle. -/
theorem State.putSeq_only (s : State) (p : Fin 32) (h : BitVec 16) (a : Nat) (bs : List Byte) : PagesOnly p s (s.putSeq p h a bs) := by
  have one (s : State) (a : Nat) (bs : List Byte) : PagesOnly p s (match (s.part p).mapOf h (a / 65536) with
      | none => s
      | some m => s.putLoft (m.frame / 2 ^ 18) (m.frame % 2 ^ 18 * 65536 + a % 65536) bs) := by
    split
    · exact .refl s
    · exact pagesOnly_loft p s _ _ s.nonce fun w => State.putLoft_wf w _ _ _
  exact (one s _ _).trans (one _ _ _)

theorem State.putSeq_parts (s : State) (p : Fin 32) (h : BitVec 16) (a : Nat) (bs : List Byte) : (s.putSeq p h a bs).parts = s.parts := by
  have one (s : State) (a : Nat) (bs : List Byte) : (match (s.part p).mapOf h (a / 65536) with
      | none => s
      | some m => s.putLoft (m.frame / 2 ^ 18) (m.frame % 2 ^ 18 * 65536 + a % 65536) bs).parts = s.parts := by
    split <;> rfl
  exact (one _ _ _).trans (one s _ _)

theorem State.pageErrs_only (s : State) (p : Fin 32) (h : BitVec 16) (v n : Nat) : PagesOnly p s (s.pageErrs p h v n) := by
  unfold State.pageErrs
  split
  · exact .refl s
  · exact State.loftErrs_only p s _ _

theorem State.pageErrs_parts (s : State) (p : Fin 32) (h : BitVec 16) (v n : Nat) : (s.pageErrs p h v n).parts = s.parts := by
  unfold State.pageErrs
  split <;> rfl

/-- A summary written, with the marks of what it stands for. -/
theorem State.putSummary_only (s : State) (p : Fin 32) (h : BitVec 16) (src n a : Nat) (bs : List Byte) :
    PagesOnly p s (s.putSummary p h src n a bs) := by
  unfold State.putSummary
  dsimp only
  split
  · exact (s.putSeq_only p h a bs).trans (pagesOnly_loft p _ _ _ _ id)
  · exact s.putSeq_only p h a bs

theorem State.putSummary_parts (s : State) (p : Fin 32) (h : BitVec 16) (src n a : Nat) (bs : List Byte) :
    (s.putSummary p h src n a bs).parts = s.parts := by
  unfold State.putSummary
  dsimp only
  split <;> exact s.putSeq_parts p h a bs

theorem State.formSums_only (s : State) (p : Fin 32) (h : BitVec 16) (d : Descriptor) (l m : Nat) : PagesOnly p s (s.formSums p h d l m) :=
  ((PagesOnly.fold _ (fun s _ => s.pageErrs_only p h _ _) _ s).trans (.fold _ (fun s _ => s.putSummary_only p h _ _ _ _) _ _)).trans
    (.fold _ (fun s _ => s.putSummary_only p h _ _ _ _) _ _)

theorem State.formSums_parts (s : State) (p : Fin 32) (h : BitVec 16) (d : Descriptor) (l m : Nat) :
    (s.formSums p h d l m).parts = s.parts :=
  ((foldl_parts _ (fun s _ => s.putSummary_parts p h _ _ _ _) _ _).trans (foldl_parts _ (fun s _ => s.putSummary_parts p h _ _ _ _) _ _)).trans
    (foldl_parts _ (fun s _ => s.pageErrs_parts p h _ _) _ s)

theorem State.copyShared_only (s : State) (p : Fin 32) (k : Nat) (y : Slot) (key : PNode) (d : Descriptor) :
    PagesOnly p s (s.copyShared p k y key d) := by
  refine .fold _ (fun s l => ?_) _ s
  have first {c : Prop} [Decidable c] (v n : Nat) (src : Option Nat) : PagesOnly p s (if c then s else s.copyPage p y.ht v n src) := by
    split
    · exact .refl s
    · exact State.copyPage_only s p _ _ _ _
  dsimp only
  split
  · exact (first _ _ _).trans ((State.copySums_only _ p _ _ _ _).trans (State.copySums_only _ p _ _ _ _))
  · exact (first _ _ _).trans (State.formSums_only _ p _ _ _ _)

/-- Copies change no partition. -/
theorem State.copyShared_parts (s : State) (p : Fin 32) (k : Nat) (y : Slot) (key : PNode) (d : Descriptor) :
    (s.copyShared p k y key d).parts = s.parts := by
  refine foldl_parts _ (fun s l => ?_) _ s
  have first {c : Prop} [Decidable c] (v n : Nat) (src : Option Nat) :
      (if c then s else s.copyPage p y.ht v n src).parts = s.parts := by
    split
    · rfl
    · exact State.copyPage_parts s p _ _ _ _
  dsimp only
  split
  · exact (State.copySums_parts _ p _ _ _ _).trans ((State.copySums_parts _ p _ _ _ _).trans (first _ _ _))
  · exact (State.formSums_parts _ p _ _ _ _).trans (first _ _ _)

theorem State.setPart_maps_only (s : State) (p : Fin 32) (l : List PageMap) :
    PagesOnly p s (s.setPart p { s.part p with maps := l }) :=
  ⟨⟨s.loft, s.loftEcc, s.ctrs, s.bbx, s.flash, [], s.nonce, _, by rw [Net.send_nil]; rfl⟩, fun _ hr => State.part_setPart_ne s _ hr,
    ⟨(s.part p).editQs, l, State.part_setPart s p _⟩, id⟩

/-- Mapping a slot. -/
theorem State.mapSlot_only (s : State) (q : Request) (k : Nat) (y : Slot) : PagesOnly q.part s (s.mapSlot q k y) := by
  unfold State.mapSlot
  dsimp only
  split
  · have h (fu : Furnish) (f : FurnPart) := (s.setPart_maps_only q.part ((s.part q.part).maps ++ (s.part q.part).slotMaps fu f y q)).trans
      (State.mapPages_only _ q.part f.supSite ((s.part q.part).slotMaps fu f y q))
    split
    · exact h _ _
    · split
      · exact h _ _
      · exact (h _ _).trans (State.copyShared_only _ _ _ _ _ _)
  · exact .refl s

/-- Mapping a slot adds exactly its pages. -/
theorem State.mapSlot_maps {s : State} {q : Request} {fu : Furnish} {f : FurnPart} (hu : s.furnish = some fu)
    (hf : s.furnPart q.part = some f) (k : Nat) (y : Slot) :
    ((s.mapSlot q k y).part q.part).maps = (s.part q.part).maps ++ (s.part q.part).slotMaps fu f y q := by
  have h : ((State.mapPages (s.setPart q.part { s.part q.part with maps := (s.part q.part).maps ++ (s.part q.part).slotMaps fu f y q })
      q.part f.supSite ((s.part q.part).slotMaps fu f y q)).part q.part).maps =
      (s.part q.part).maps ++ (s.part q.part).slotMaps fu f y q := by
    rw [State.mapPages_maps, State.part_setPart]
    intro m hm
    rw [State.part_setPart]
    exact List.mem_append_right _ hm
  unfold State.mapSlot
  simp only [hu, hf]
  split
  · exact h
  · split
    · exact h
    · simpa only [State.part, State.copyShared_parts] using h

theorem State.pageEdits_only (s : State) (p : Fin 32) (l : List PageEdit) (h : ∀ e ∈ l, e.part = p) : PagesOnly p s (s.pageEdits l) := by
  induction l generalizing s with
  | nil => exact .refl s
  | cons e r ih =>
    have he := s.pageEdit_only e
    rw [h e (List.mem_cons_self ..)] at he
    exact he.trans (ih _ fun a ha => h a (List.mem_cons_of_mem _ ha))

/-- The start of a slot's return. -/
theorem State.startReturn_only (s : State) (k : Nat) : PagesOnly (Fin.ofNat 32 (k / 128)) s (s.startReturn k) := by
  unfold State.startReturn
  dsimp only
  split
  · refine (State.pageEdits_only s _ _ fun e he => ?_).trans (State.setPart_maps_only _ _ _)
    obtain ⟨m, _, rfl⟩ := List.mem_map.1 he
    rfl
  · exact .refl s

/-- It returns nothing of a slot that has not ended. -/
theorem State.startReturn_live {s : State} {k : Nat} (h : (SMap.get Slot.init s.slots k).st ≠ .ended) : s.startReturn k = s := by
  unfold State.startReturn
  exact if_neg fun a => h a.1

end Sys2Proof.Machine
end

