-- ==== Sys2Proof/Laws/Tile.lean ====
section
/-! SUPPORT. The scalar core: registers read back, the issue of an instruction that meets `Issues`, and what the two closing
operations of a scalar instruction leave. -/

namespace Sys2Proof.Machine

/-! ### Registers -/

theorem Scalar.reg_zero (c : Scalar) : c.reg 0 = 0 := rfl

theorem Scalar.reg_setReg (c : Scalar) (rd r : Reg) (v : Word) :
    (c.setReg rd v).reg r = if r = rd ∧ r ≠ 0 then v else c.reg r := by
  simp only [Scalar.reg, Scalar.setReg]
  by_cases h0 : r = 0
  · rw [if_pos h0, if_pos h0, if_neg fun h => h.2 h0]
  rw [if_neg h0, if_neg h0]
  by_cases hd : rd = 0
  · rw [if_pos hd, if_neg fun h => h0 (h.1.trans hd)]
  rw [if_neg hd]
  by_cases hr : r = rd
  · rw [if_pos ⟨hr, h0⟩, hr, SMap.get_set_self]
  · rw [if_neg fun h => hr h.1, SMap.get_set_ne]
    exact fun e => hr (BitVec.eq_of_toNat_eq e)

@[simp] theorem Scalar.reg_setReady (c : Scalar) (rd r : Reg) (n : Nat) : (c.setReady rd n).reg r = c.reg r := rfl
@[simp] theorem Scalar.setReady_pc (c : Scalar) (rd : Reg) (n : Nat) : (c.setReady rd n).pc = c.pc := rfl
@[simp] theorem Scalar.setReg_pc (c : Scalar) (rd : Reg) (v : Word) : (c.setReg rd v).pc = c.pc := rfl

/-! ### Issue -/

@[simp] theorem State.onTile_true (s : State) (t : PTile) (f : Ctx → Fx → Fx) :
    s.onTile t true f = s.commit t (f ⟨t, s⟩ (Fx.ofTile (s.tile t))) := rfl

@[simp] theorem State.onTile_false (s : State) (t : PTile) (f : Ctx → Fx → Fx) : s.onTile t false f = s := rfl

/-- An instruction that meets `Issues` runs at once. -/
theorem Fx.issue_of_issues {s : State} {t : PTile} {rs : List Reg} (h : Issues s t rs) (body : Fx → Fx) :
    (Fx.ofTile (s.tile t)).issue ⟨t, s⟩ rs body = body (Fx.ofTile (s.tile t)) := by
  have hw : (Fx.ofTile (s.tile t)).readyWait ⟨t, s⟩ rs = Fx.ofTile (s.tile t) := by
    simp [Fx.readyWait, Fx.ofTile, Nat.sub_eq_zero_of_le h.ready]
  have hl : (Fx.ofTile (s.tile t)).lockstep ⟨t, s⟩ = Fx.ofTile (s.tile t) := by
    simp [Fx.lockstep, Fx.ofTile, h.lock]
  have ht : (Fx.ofTile (s.tile t)).tile = s.tile t := rfl
  simp only [Fx.issue, ht, h.free, hw, hl]
  rw [if_neg h.word]
  simp

/-- The step of such an instruction. -/
theorem State.issue_eq {s : State} {t : PTile} {rs : List Reg} (h : Issues s t rs) (body : Ctx → Fx → Fx) :
    (s.onTile t (s.canIssue t) fun c f => f.issue c rs (body c)) = s.commit t (body ⟨t, s⟩ (Fx.ofTile (s.tile t))) := by
  rw [h.can, State.onTile_true, Fx.issue_of_issues h]

/-! ### A step that changes one tile only -/

/-- A step that sends nothing out of the tile leaves the rest of the block. -/
theorem State.commit_only (s : State) (t : PTile) (x : Tile) : OnlyTile s (s.commit t (Fx.ofTile x)) t where
  others r hr := State.tile_commit_ne s (Fx.ofTile x) hr
  rest := by simp [State.commit, Fx.ofTile, Net.send, ctrAddAll, Bbx.siteLogAll, drivesOn]

/-- The next cycle starts at `npc`: the tile of an instruction that has done no more than this. -/
def Tile.retired (x : Tile) (n : Nat) (npc : BitVec 16) : Tile :=
  { x.pass n with sc := { (x.pass n).sc with pc := npc, blocked := [], seq := (x.pass n).sc.seq + 1 } }

theorem Fx.retire_ofTile (x : Tile) (n : Nat) (npc : BitVec 16) :
    (Fx.ofTile x).retire n npc = Fx.ofTile (x.retired n npc) := rfl

theorem Fx.next_ofTile (x : Tile) : (Fx.ofTile x).next = Fx.ofTile (x.retired 1 (x.sc.pc + 4)) := rfl

/-- The tile with a result written. -/
def Tile.wrote (x : Tile) (rd : Reg) (v : Word) (lat : Nat) : Tile :=
  { x with sc :=
    if lat ≤ 1 then x.sc.setReg rd v else (x.sc.setReg rd v).setReady rd (x.sc.cyc.toNat + lat) }

theorem Fx.result_ofTile (x : Tile) (rd : Reg) (v : Word) (lat : Nat) :
    (Fx.ofTile x).result rd v lat = Fx.ofTile (x.wrote rd v lat) := rfl

@[simp] theorem Tile.wrote_pc (x : Tile) (rd : Reg) (v : Word) (lat : Nat) : (x.wrote rd v lat).sc.pc = x.sc.pc := by
  simp only [Tile.wrote]; split <;> rfl

/-- A scalar instruction that writes one result and retires (R288). -/
theorem State.commit_wrote (s : State) (t : PTile) (rd : Reg) (v : Word) (lat n : Nat) (npc : BitVec 16) :
    Wrote s (s.commit t (Fx.ofTile (((s.tile t).wrote rd v lat).retired n npc))) t rd v npc where
  only := State.commit_only s t _
  units := by simp only [State.tile_commit]; constructor <;> rfl
  mem := by simp only [State.tile_commit]; rfl
  control := by
    simp only [State.tile_commit, Fx.ofTile, Tile.retired, Tile.pass, Tile.wrote]
    split <;> constructor <;> rfl
  regs r := by
    simp only [State.tile_commit, Fx.ofTile, Tile.retired, Tile.pass, Tile.wrote]
    rw [← Scalar.reg_setReg]
    split <;> rfl
  pc := by simp only [State.tile_commit]; rfl

/-- A scalar instruction that only goes on. -/
theorem State.commit_moved (s : State) (t : PTile) (n : Nat) (npc : BitVec 16) :
    Moved s (s.commit t (Fx.ofTile ((s.tile t).retired n npc))) t npc where
  only := State.commit_only s t _
  units := by simp only [State.tile_commit]; constructor <;> rfl
  mem := by simp only [State.tile_commit]; rfl
  control := by simp only [State.tile_commit]; constructor <;> rfl
  regs r := by simp only [State.tile_commit]; rfl
  pc := by simp only [State.tile_commit]; rfl

/-- A register-register instruction that meets `Issues`. -/
theorem State.alu_wrote {s : State} {t : PTile} {rd ra rb : Reg} (h : Issues s t [ra, rb, rd]) (lat : Nat)
    (op : Word → Word → Word) :
    Wrote s (s.alu t rd ra rb lat op) t rd (op ((s.tile t).sc.reg ra) ((s.tile t).sc.reg rb)) ((s.tile t).sc.pc + 4) := by
  rw [State.alu, State.issue_eq h fun _ g =>
    (g.result rd (op (g.tile.sc.reg ra) (g.tile.sc.reg rb)) lat).next]
  simp only [Fx.result_ofTile, Fx.next_ofTile, Tile.wrote_pc]
  exact State.commit_wrote s t rd _ lat 1 _

/-- A register-immediate instruction that meets `Issues`. -/
theorem State.aluImm_wrote {s : State} {t : PTile} {rd ra : Reg} (h : Issues s t [ra, rd]) (op : Word → Word) :
    Wrote s (s.aluImm t rd ra op) t rd (op ((s.tile t).sc.reg ra)) ((s.tile t).sc.pc + 4) := by
  rw [State.aluImm, State.issue_eq h fun _ g => (g.result rd (op (g.tile.sc.reg ra)) 1).next]
  simp only [Fx.result_ofTile, Fx.next_ofTile, Tile.wrote_pc]
  exact State.commit_wrote s t rd _ 1 1 _

/-- A branch that meets `Issues`. -/
theorem State.branch_moved {s : State} {t : PTile} {ra rb : Reg} (h : Issues s t [ra, rb]) (off : BitVec 16)
    (cond : Word → Word → Bool) :
    Moved s (s.branch t ra rb off cond) t
      (if cond ((s.tile t).sc.reg ra) ((s.tile t).sc.reg rb) then branchTo (s.tile t).sc.pc off.toInt
        else (s.tile t).sc.pc + 4) := by
  rw [State.branch, State.issue_eq h fun _ g =>
    if cond (g.tile.sc.reg ra) (g.tile.sc.reg rb) then g.retire 3 (branchTo g.tile.sc.pc off.toInt) else g.next]
  cases hc : cond ((s.tile t).sc.reg ra) ((s.tile t).sc.reg rb)
  · rw [if_neg (by simp [Fx.ofTile, hc]), if_neg (by simp)]
    exact State.commit_moved s t 1 _
  · rw [if_pos (by simp [Fx.ofTile, hc]), if_pos rfl]
    exact State.commit_moved s t 3 _

end Sys2Proof.Machine
end

