-- ==== Sys2Proof/Laws/Pump.lean ====
section
/-! SUPPORT. What the units may do when they take commands from their queues (`Fx.pump`): the memories, the vector registers,
the matrix core and the scalar core's registers stay, marks of the check report are only added, and a command leaves its
queue only with such a mark. -/

namespace Sys2Proof.Machine

/-! ### Queues of a tile -/

@[simp] theorem Tile.queue_setQueue_self (x : Tile) (k : Queue) (l : List QCmd) : (x.setQueue k l).queue k = l := by
  cases k <;> rfl

theorem Tile.queue_setQueue_ne (x : Tile) {k j : Queue} (l : List QCmd) (h : j ≠ k) :
    (x.setQueue k l).queue j = x.queue j := by
  cases k <;> cases j <;> first | rfl | exact absurd rfl h

/-- Marks in the tile's check report. -/
def Fx.marks (f : Fx) : Nat := f.tile.rp.rep.recov.length + f.tile.rp.rep.fatal.length

/-- The same command, whatever its progress. -/
structure QCmd.Same (e e' : QCmd) : Prop where
  op : e'.op = e.op
  f1 : e'.f1 = e.f1
  f2 : e'.f2 = e.f2
  f3 : e'.f3 = e.f3
  mod : e'.mod = e.mod
  a : e'.a = e.a
  b : e'.b = e.b
  c : e'.c = e.c
  pc : e'.pc = e.pc
  tag : e'.tag = e.tag
  seq : e'.seq = e.seq

theorem QCmd.Same.refl (e : QCmd) : e.Same e := by constructor <;> rfl

theorem QCmd.Same.trans {a b d : QCmd} (h : a.Same b) (k : b.Same d) : a.Same d :=
  ⟨k.op.trans h.op, k.f1.trans h.f1, k.f2.trans h.f2, k.f3.trans h.f3, k.mod.trans h.mod, k.a.trans h.a,
    k.b.trans h.b, k.c.trans h.c, k.pc.trans h.pc, k.tag.trans h.tag, k.seq.trans h.seq⟩

/-! ### What stays -/

/-- The parts of a tile that the units leave alone when they take commands. -/
structure Tile.Fixed (x y : Tile) : Prop where
  mx : y.mx = x.mx
  vec : y.vec = x.vec
  clk : y.clk = x.clk
  pl : y.pl = x.pl
  scr : y.mem.scr = x.mem.scr
  scrEcc : y.mem.scrEcc = x.mem.scrEcc
  suspects : y.mem.suspects = x.mem.suspects
  onceBad : y.mem.onceBad = x.mem.onceBad
  spareRows : y.mem.spareRows = x.mem.spareRows
  istore : y.mem.istore = x.mem.istore
  istoreEcc : y.mem.istoreEcc = x.mem.istoreEcc
  regs : y.sc.regs = x.sc.regs
  ready : y.sc.ready = x.sc.ready
  pc : y.sc.pc = x.sc.pc
  entry : y.sc.entry = x.sc.entry
  cyc : y.sc.cyc = x.sc.cyc
  stagecnt : y.sc.stagecnt = x.sc.stagecnt
  step : y.sc.step = x.sc.step
  bin : y.sc.bin = x.sc.bin
  pressovf : y.sc.pressovf = x.sc.pressovf
  seq : y.sc.seq = x.sc.seq
  wait : y.sc.wait = x.sc.wait
  ckpt : y.sc.ckpt = x.sc.ckpt
  bankCur : ∀ b, (y.mem.bank b).cur = (x.mem.bank b).cur

theorem Tile.Fixed.refl (x : Tile) : x.Fixed x := by constructor <;> intros <;> rfl

theorem Tile.Fixed.trans {x y z : Tile} (h : x.Fixed y) (k : y.Fixed z) : x.Fixed z := by
  obtain ⟨h1, h2, h3, h4, h5, h6, h7, h8, h9, h10, h11, h12, h13, h14, h15, h16, h17, h18, h19, h20, h21, h22, h23, h24⟩ := h
  obtain ⟨k1, k2, k3, k4, k5, k6, k7, k8, k9, k10, k11, k12, k13, k14, k15, k16, k17, k18, k19, k20, k21, k22, k23, k24⟩ := k
  exact ⟨k1.trans h1, k2.trans h2, k3.trans h3, k4.trans h4, k5.trans h5, k6.trans h6, k7.trans h7, k8.trans h8,
    k9.trans h9, k10.trans h10, k11.trans h11, k12.trans h12, k13.trans h13, k14.trans h14, k15.trans h15,
    k16.trans h16, k17.trans h17, k18.trans h18, k19.trans h19, k20.trans h20, k21.trans h21, k22.trans h22,
    k23.trans h23, fun b => (k24 b).trans (h24 b)⟩

/-- A command of `x` is still in its queue. -/
def Tile.HasCmds (x y : Tile) : Prop := ∀ k, ∀ e ∈ x.queue k, ∃ e' ∈ y.queue k, e.Same e'

/-- What the units do from `f` to `g`. -/
structure Fx.Keeps (f g : Fx) : Prop where
  fixed : f.tile.Fixed g.tile
  marks : f.marks ≤ g.marks
  cmds : f.tile.HasCmds g.tile ∨ f.marks < g.marks

theorem Fx.Keeps.refl (f : Fx) : f.Keeps f :=
  ⟨Tile.Fixed.refl _, Nat.le_refl _, .inl fun _ e he => ⟨e, he, QCmd.Same.refl e⟩⟩

theorem Fx.Keeps.trans {f g h : Fx} (a : f.Keeps g) (b : g.Keeps h) : f.Keeps h where
  fixed := a.fixed.trans b.fixed
  marks := Nat.le_trans a.marks b.marks
  cmds := by
    rcases a.cmds with ha | ha
    · rcases b.cmds with hb | hb
      · refine .inl fun k e he => ?_
        obtain ⟨e1, h1, s1⟩ := ha k e he
        obtain ⟨e2, h2, s2⟩ := hb k e1 h1
        exact ⟨e2, h2, s1.trans s2⟩
      · exact .inr (Nat.lt_of_le_of_lt a.marks hb)
    · exact .inr (Nat.lt_of_lt_of_le ha b.marks)

theorem Fx.Keeps.ite {f g h : Fx} {p : Prop} [Decidable p] (a : f.Keeps g) (b : f.Keeps h) :
    f.Keeps (if p then g else h) := by split <;> assumption

/-- A change that keeps the fixed parts and adds a mark. -/
theorem Fx.Keeps.of_mark {f g : Fx} (h : f.tile.Fixed g.tile) (k : f.marks < g.marks) : f.Keeps g :=
  ⟨h, Nat.le_of_lt k, .inr k⟩

/-- A change that keeps the fixed parts, the report and the commands. -/
theorem Fx.Keeps.of_cmds {f g : Fx} (h : f.tile.Fixed g.tile) (r : f.marks ≤ g.marks) (k : f.tile.HasCmds g.tile) :
    f.Keeps g := ⟨h, r, .inl k⟩

/-- The queues themselves are unchanged. -/
theorem Tile.HasCmds.of_eq {x y : Tile} (h : ∀ k, y.queue k = x.queue k) : x.HasCmds y :=
  fun k e he => ⟨e, (h k).symm ▸ he, QCmd.Same.refl e⟩

/-- One queue has its commands changed in their progress only. -/
theorem Tile.HasCmds.of_updCmd (x : Tile) (k : Queue) (n : Nat) (g : QCmd → QCmd) (hg : ∀ e : QCmd, e.Same (g e)) :
    x.HasCmds (x.setQueue k (updCmd n g (x.queue k))) := by
  intro j e he
  by_cases hj : j = k
  · subst hj
    rw [Tile.queue_setQueue_self]
    refine ⟨if e.seq = n then g e else e, List.mem_map_of_mem he, ?_⟩
    split
    · exact hg e
    · exact QCmd.Same.refl e
  · rw [Tile.queue_setQueue_ne _ _ hj]
    exact ⟨e, he, QCmd.Same.refl e⟩

theorem Tile.Fixed.setQueue (x : Tile) (k : Queue) (l : List QCmd) : x.Fixed (x.setQueue k l) := by constructor <;> intros <;> rfl
theorem Tile.Fixed.complete (x : Tile) (k : Queue) (n : Nat) : x.Fixed (x.complete k n) := by constructor <;> intros <;> rfl
theorem Tile.Fixed.discard (x : Tile) (k : Queue) (n : Nat) : x.Fixed (x.discard k n) := by constructor <;> intros <;> rfl

/-! ### Events -/

theorem Fx.raise_fixed (f : Fx) (c : Ctx) (u : Nat) (ev : BitVec 16) (d : BitVec 64) (m : Mark) (o : Bool) :
    f.tile.Fixed (f.raise c u ev d m o).tile := by constructor <;> intros <;> rfl

theorem Fx.raise_marks (f : Fx) (c : Ctx) (u : Nat) (ev : BitVec 16) (d : BitVec 64) (m : Mark) (o : Bool) :
    (f.raise c u ev d m o).marks = f.marks + (if m = .none then 0 else 1) := by
  cases m <;> simp [Fx.marks, Fx.raise, Nat.add_assoc, Nat.add_comm, Nat.add_left_comm]

theorem Fx.raise_keeps (f : Fx) (c : Ctx) (u : Nat) (ev : BitVec 16) (d : BitVec 64) (m : Mark) (o : Bool) :
    f.Keeps (f.raise c u ev d m o) :=
  .of_cmds (f.raise_fixed c u ev d m o) (by rw [raise_marks]; omega) (.of_eq fun _ => rfl)

@[simp] theorem Fx.count_tile (f : Fx) (k : Ctr) (n : Nat) : (f.count k n).tile = f.tile := by
  simp only [Fx.count]; split <;> rfl

theorem Fx.count_keeps (f : Fx) (k : Ctr) (n : Nat) : f.Keeps (f.count k n) := by
  simp only [Fx.count]
  split
  · exact .refl f
  · exact ⟨.refl _, Nat.le_refl _, .inl (.of_eq fun _ => rfl)⟩

/-- A completion or a discard that comes with an event's mark. -/
theorem Fx.Keeps.set_of_mark {f g : Fx} {y : Tile} (h : f.tile.Fixed g.tile) (hy : g.tile.Fixed y)
    (hr : y.rp = g.tile.rp) (k : f.marks < g.marks) : f.Keeps (g.set y) :=
  .of_mark (h.trans hy) (by simpa [Fx.marks, Fx.set, hr] using k)

theorem Fx.slip_keeps (f : Fx) (c : Ctx) (cause unit : Nat) (pc : BitVec 16) : f.Keeps (f.slip c cause unit pc) := by
  simp only [Fx.slip]
  split
  · refine Fx.Keeps.trans ?_ (Fx.raise_keeps _ _ _ _ _ _ _)
    exact .of_cmds (by constructor <;> intros <;> rfl) (Nat.le_refl _) (.of_eq fun _ => rfl)
  · exact .of_cmds (by constructor <;> intros <;> rfl) (Nat.le_refl _) (.of_eq fun _ => rfl)

theorem Fx.slips_keep (c : Ctx) (unit : Nat) (pc : BitVec 16) (l : List Nat) (f : Fx) :
    f.Keeps (l.foldl (fun g n => g.slip c n unit pc) f) := by
  induction l generalizing f with
  | nil => exact .refl f
  | cons n l ih => exact (f.slip_keeps c n unit pc).trans (ih _)

theorem Fx.slipCmd_keeps (f : Fx) (c : Ctx) (k : Queue) (q : QCmd) (l : List Nat) : f.Keeps (f.slipCmd c k q l) := by
  simp only [Fx.slipCmd]
  refine (Fx.slips_keep c _ _ _ f).trans (.of_cmds (.setQueue _ _ _) (Nat.le_refl _) ?_)
  exact .of_updCmd _ _ _ _ fun e => by constructor <;> rfl

/-- A waiting command takes its turn, and its causes count. -/
theorem Fx.askVat_keeps (f : Fx) (c : Ctx) (k : Queue) (q : QCmd) : f.Keeps (f.askVat c k q) := by
  unfold Fx.askVat
  split
  · exact .refl f
  · exact .of_cmds (.setQueue _ _ _) (Nat.le_refl _) (.of_updCmd _ _ _ _ fun e => by constructor <;> rfl)

theorem Fx.vatSlip_keeps (f : Fx) (c : Ctx) (k : Queue) (q : QCmd) (l : List Nat) : f.Keeps (f.vatSlip c k q l) :=
  (f.askVat_keeps c k q).trans (Fx.slipCmd_keeps ..)

theorem Fx.insnFault_fixed (f : Fx) (c : Ctx) (unit : Nat) (pc : BitVec 16) (w : Nat) :
    f.tile.Fixed (f.insnFault c unit pc w).tile := by constructor <;> intros <;> rfl

theorem Fx.insnFault_marks (f : Fx) (c : Ctx) (unit : Nat) (pc : BitVec 16) (w : Nat) :
    (f.insnFault c unit pc w).marks = f.marks + 1 :=
  f.raise_marks c unit evtInsnFault (BitVec.ofNat 64 (pc.toNat * 2 ^ 32 + w)) .program true

theorem Fx.deckle_marks (f : Fx) (c : Ctx) (unit d : Nat) : (f.deckle c unit d).marks = f.marks + 1 :=
  f.raise_marks c unit evtDeckle _ .program false

theorem Fx.bankOff_marks (f : Fx) (c : Ctx) (unit d : Nat) : (f.bankOff c unit d).marks = f.marks + 1 :=
  f.raise_marks c unit evtBankOff _ .program true

/-! ### What each unit does at issue -/

/-- Sending the flits of a part, with a tile that keeps what the units leave alone. -/
theorem Fx.access_keeps (f : Fx) (c : Ctx) (q : QCmd) {x : Tile} (h : f.tile.Fixed x) (r : x.rp = f.tile.rp)
    (k : f.tile.HasCmds x) : f.Keeps (f.access c q x) :=
  .of_cmds h (by simp [Fx.marks, Fx.access, Fx.set, r]) k

theorem Fx.translate_keeps (f : Fx) (c : Ctx) (q : QCmd) (e : TlbEntry) (w : Bool) : f.Keeps (f.translate c q e w) := by
  simp only [Fx.translate]
  split
  · exact .of_mark (by constructor <;> intros <;> rfl) (by
      simp only [Fx.marks, Fx.set, Fx.raise, Tile.complete, Tile.setQueue]; simp)
  cases f.tile.dma.firstVer e.handle e.vpage <;> simp only
  · exact f.access_keeps c q (by constructor <;> intros <;> rfl) rfl (.of_eq fun k => by cases k <;> rfl)
  · split
    · refine .of_mark ?_ ?_
      · simp only [Fx.set, Fx.count_tile]; constructor <;> intros <;> rfl
      · simp only [Fx.marks, Fx.set, Fx.count_tile, Fx.raise, Tile.complete, Tile.setQueue]; simp
    · exact f.access_keeps c q (by constructor <;> intros <;> rfl) rfl (.of_eq fun k => by cases k <;> rfl)

theorem Fx.dmaPart_keeps (f : Fx) (c : Ctx) (q : QCmd) : f.Keeps (f.dmaPart c q) := by
  have base : ∀ d : Dma, f.Keeps (f.set { f.tile with dma := d }) := fun d =>
    .of_cmds (by constructor <;> intros <;> rfl) (Nat.le_refl _) (.of_eq fun k => by cases k <;> rfl)
  simp only [Fx.dmaPart]
  split
  · split
    · exact (base _).trans (Fx.translate_keeps ..)
    · exact base _
  · exact .ite ((base _).trans (Fx.vatSlip_keeps ..))
      (f.access_keeps c q (by constructor <;> intros <;> rfl) rfl (.of_eq fun k => by cases k <;> rfl))

/-- Marks a command as issued. -/
theorem Fx.issued_keeps (f : Fx) (k : Queue) (n : Nat) (g : QCmd → QCmd) (hg : ∀ e : QCmd, e.Same (g e)) :
    f.Keeps (f.set (f.tile.setQueue k (updCmd n g (f.tile.queue k)))) :=
  .of_cmds (.setQueue _ _ _) (Nat.le_refl _) (.of_updCmd _ _ _ _ hg)

/-- A refused command: an event with its mark, then the completion. -/
theorem Fx.refused_keeps (f : Fx) (k : Queue) (n : Nat) {g : Fx} (h : f.tile.Fixed g.tile) (m : f.marks < g.marks) :
    f.Keeps (g.set (g.tile.complete k n)) := .set_of_mark h (.complete _ _ _) rfl m

theorem Fx.dcopyIssue_keeps (f : Fx) (c : Ctx) (q : QCmd) : f.Keeps (f.dcopyIssue c q) := by
  have h1 := f.issued_keeps .dq q.seq (QCmd.issue f.tile.sc.cyc.toNat) fun e => by constructor <;> rfl
  simp only [Fx.dcopyIssue]
  split
  · refine Fx.Keeps.trans ?_ (Fx.dmaPart_keeps _ _ _)
    refine h1.trans (.of_cmds ?_ (Nat.le_refl _) ?_)
    · constructor <;> intros <;> rfl
    · exact .of_eq fun k => by cases k <;> rfl
  · refine h1.trans (Fx.refused_keeps _ _ _ ?_ ?_)
    · rw [Fx.count_tile]; constructor <;> intros <;> rfl
    · simp only [Fx.marks, Fx.count_tile]; exact Nat.lt_of_lt_of_eq (Nat.lt_succ_self _) (Fx.deckle_marks ..).symm

theorem Fx.semIssue_keeps (f : Fx) (c : Ctx) (q : QCmd) : f.Keeps (f.semIssue c q) := by
  have h1 := f.issued_keeps .sq q.seq (fun e => { e.issue f.tile.sc.cyc.toNat with age := 0 }) fun e => by
    constructor <;> rfl
  simp only [Fx.semIssue]
  split
  · refine h1.trans (Fx.refused_keeps _ _ _ ?_ ?_)
    · constructor <;> intros <;> rfl
    · exact Nat.lt_of_lt_of_eq (Nat.lt_succ_self _) (Fx.deckle_marks ..).symm
  · exact h1.trans ⟨.refl _, Nat.le_refl _, .inl (.of_eq fun _ => rfl)⟩

theorem Fx.levalIssue_keeps (f : Fx) (c : Ctx) (q : QCmd) : f.Keeps (f.levalIssue c q) := by
  have h1 := f.issued_keeps .lq q.seq (fun e => { e.issue f.tile.sc.cyc.toNat with
      sub := (c.lane q.lane).unfit c.s.sup.counter, win := c.site.window.isSome, swaps := (c.lane q.lane).swaps }) fun e => by
    constructor <;> rfl
  simp only [Fx.levalIssue]
  refine .ite h1 ?_
  refine h1.trans (Fx.refused_keeps _ _ _ ?_ ?_)
  · constructor <;> intros <;> rfl
  · exact Nat.lt_of_lt_of_eq (Nat.lt_succ_self _) (Fx.deckle_marks ..).symm

theorem Fx.issueCmd_keeps (f : Fx) (c : Ctx) (k : Queue) (q : QCmd) : f.Keeps (f.issueCmd c k q) := by
  have h1 := f.issued_keeps k q.seq (QCmd.issue f.tile.sc.cyc.toNat) fun e => by constructor <;> rfl
  simp only [Fx.issueCmd]
  split
  · exact .set_of_mark (Fx.insnFault_fixed ..) (.discard _ _ _) rfl (by rw [Fx.insnFault_marks]; omega)
  split
  · exact f.refused_keeps _ _ (Fx.raise_fixed ..) (by rw [Fx.bankOff_marks]; omega)
  split
  · exact f.levalIssue_keeps c q
  · exact ⟨h1.fixed, h1.marks, h1.cmds⟩
  · exact f.dcopyIssue_keeps c q
  · exact f.semIssue_keeps c q
  · exact f.semIssue_keeps c q
  · exact f.semIssue_keeps c q
  · exact f.semIssue_keeps c q
  · split
    · exact f.refused_keeps _ _ (Fx.raise_fixed ..) (by rw [Fx.deckle_marks]; omega)
    · split
      · exact h1.trans (.of_cmds (by constructor <;> intros <;> rfl) (Nat.le_refl _) (.of_eq fun k => by cases k <;> rfl))
      · exact h1

theorem TileMem.bank_wake (m : TileMem) (a b : Nat) : (m.wake b).bank a = if a = b then
    (if (m.bank b).cur = .ret ∧ (m.bank b).next = none then ⟨.ret, some .on⟩ else m.bank b) else m.bank a :=
  SMap.get_set Bank.init m.banks b a _

/-- Waking a bank changes the banks only, and none of them changes its present state. -/
theorem TileMem.wakeAll_fixed (bs : List Nat) (m : TileMem) :
    { m.wakeAll bs with banks := m.banks } = m ∧ ∀ b, ((m.wakeAll bs).bank b).cur = (m.bank b).cur := by
  induction bs generalizing m with
  | nil => exact ⟨rfl, fun _ => rfl⟩
  | cons b bs ih =>
    obtain ⟨h, k⟩ := ih (m.wake b)
    simp only [TileMem.wakeAll]
    rw [TileMem.mk.injEq] at h ⊢
    refine ⟨⟨h.1, rfl, h.2.2⟩, fun a => (k a).trans ?_⟩
    rw [TileMem.bank_wake]
    split_ifs with hab hw
    · rw [hab]; exact hw.1.symm
    · rw [hab]
    · rfl

theorem Fx.wakeAll_keeps (f : Fx) (bs : List Nat) : f.Keeps (f.set { f.tile with mem := f.tile.mem.wakeAll bs }) := by
  obtain ⟨h, k⟩ := TileMem.wakeAll_fixed bs f.tile.mem
  rw [TileMem.mk.injEq] at h
  exact .of_cmds ⟨rfl, rfl, rfl, rfl, h.1, h.2.2.1, h.2.2.2.1, h.2.2.2.2.1, h.2.2.2.2.2.1, h.2.2.2.2.2.2.1,
    h.2.2.2.2.2.2.2, rfl, rfl, rfl, rfl, rfl, rfl, rfl, rfl, rfl, rfl, rfl, rfl, k⟩ (Nat.le_refl _)
    (.of_eq fun k => by cases k <;> rfl)

theorem Fx.losePort_keeps (f : Fx) (c : Ctx) (e : QCmd) : f.Keeps (f.losePort c e) := by
  have slips (l : List Nat) (f : Fx) : f.Keeps (l.foldl (fun g _ => g.slip c 5 (e.op.unit e.lane) e.pc) f) := by
    induction l generalizing f with
    | nil => exact .refl f
    | cons n l ih => exact (f.slip_keeps c 5 _ _).trans (ih _)
  simp only [Fx.losePort]
  refine (slips _ f).trans (.of_cmds (.setQueue _ _ _) (Nat.le_refl _) ?_)
  exact .of_updCmd _ _ _ _ fun e => by constructor <;> rfl

theorem Fx.losePorts_keeps (c : Ctx) (l : List QCmd) (f : Fx) : f.Keeps (f.losePorts c l) := by
  induction l generalizing f with
  | nil => exact .refl f
  | cons e r ih => exact (f.losePort_keeps c e).trans (ih _)

theorem Fx.arbitrate_keeps (f : Fx) (c : Ctx) : f.Keeps (f.arbitrate c) := Fx.losePorts_keeps c _ f

theorem Fx.tryCmd_keeps (f : Fx) (c : Ctx) (k : Queue) (q : QCmd) : f.Keeps (f.tryCmd c k q) := by
  simp only [Fx.tryCmd]
  refine .ite (.refl f) (.ite (.ite ((f.issueCmd_keeps c k q).trans (Fx.arbitrate_keeps ..)) ?_) (f.slipCmd_keeps c k q _))
  refine Fx.Keeps.trans ?_ (Fx.slipCmd_keeps _ _ _ _ _)
  exact .ite ((f.wakeAll_keeps _).trans (Fx.askVat_keeps ..)) (f.wakeAll_keeps _)

theorem Fx.trySq_keeps (c : Ctx) (l : List QCmd) (f : Fx) : f.Keeps (f.trySq c l) := by
  induction l generalizing f with
  | nil => exact .refl f
  | cons q l ih =>
    simp only [Fx.trySq]
    split
    · exact (f.tryCmd_keeps c .sq q).trans (ih _)
    · exact f.tryCmd_keeps c .sq q

theorem Fx.tryAll_keeps (c : Ctx) (k : Queue) (l : List QCmd) (f : Fx) :
    f.Keeps (l.foldl (fun h q => h.tryCmd c k q) f) := by
  induction l generalizing f with
  | nil => exact .refl f
  | cons q l ih => exact (f.tryCmd_keeps c k q).trans (ih _)

theorem Fx.tryDma_keeps (f : Fx) (c : Ctx) : f.Keeps (f.tryDma c) := by
  unfold Fx.tryDma
  split
  · exact .ite (f.dmaPart_keeps c _) (.refl f)
  · exact .refl f

theorem Fx.pumpOnce_keeps (f : Fx) (c : Ctx) : f.Keeps (f.pumpOnce c) := by
  simp only [Fx.pumpOnce]
  exact (((((f.tryDma_keeps c).trans (Fx.tryAll_keeps c _ _ _)).trans (Fx.tryAll_keeps ..)).trans (Fx.tryAll_keeps ..)).trans
    (Fx.tryAll_keeps ..)).trans (Fx.trySq_keeps ..)

theorem Fx.pumpAll_keeps (c : Ctx) (n : Nat) (f : Fx) : f.Keeps (f.pumpAll n c) := by
  induction n generalizing f with
  | zero => exact .refl f
  | succ n ih =>
    simp only [Fx.pumpAll]
    split
    · exact (f.pumpOnce_keeps c).trans (ih _)
    · exact f.pumpOnce_keeps c

/-- Everything the units may do when they take commands. -/
theorem Fx.pump_keeps (f : Fx) (c : Ctx) : f.Keeps (f.pump c) := Fx.pumpAll_keeps c _ f

/-- A completion: the same, but for the commands of its queue. -/
theorem Fx.finish_fixed (f : Fx) (c : Ctx) (k : Queue) (n : Nat) : f.tile.Fixed (f.finish c k n).tile :=
  Tile.Fixed.trans (y := f.tile.complete k n) (.complete f.tile k n) (Fx.pump_keeps (f.set (f.tile.complete k n)) c).fixed

end Sys2Proof.Machine
end

