-- ==== Sys2Proof/WellFormed.lean ====
section
/-! DEFINITION. Well-formed commands: the operands that the types of `Instr` leave wider than the spec's ranges lie in them.
The meanings are total on every command; these are the commands that a sender can send. -/

namespace Sys2Proof

/-- A register is named by the offset of its word. -/
def RegAddr.aligned (a : RegAddr) : Bool := a.offset % 4 == 0

/-- A row of a 2 MiB scratchpad of 64 B rows (R187). -/
def rowOk (row : Nat) : Bool := row < 0x8000

/-- Each failed vat column and each failed readback is of one of the 96 vats (R105), with at most its 512 columns. -/
def BootObs.wellFormed (o : BootObs) : Bool := (o.vatColumns.all fun e => e.2.1 < 96 && e.2.2 ≤ 512) &&
  o.digestsFailed.all fun e => e.2 < 96

/-- The failed vat columns are of the site's own vats. -/
def SiteObs.wellFormed (o : SiteObs) : Bool := o.vatColumns.all fun e => e.1.site == o.site && e.2.1 < 96 && e.2.2 ≤ 512

/-- A prefill quota of at most 32 positions and at most 8 drafts a step, or none (R377, R386, R410). -/
def Program.counts (g : Program) : Bool := 1 ≤ g.kp && g.kp ≤ 32 && g.gamma ≤ 8

/-- The checks of each command. -/
def Instr.wellFormed : Instr → Bool
  | .aluAdd .. | .aluSub .. | .aluAnd .. | .aluOr .. | .aluXor .. | .aluSll .. | .aluSrl .. | .aluSra ..
  | .aluSlt .. | .aluSltu .. | .aluMul .. | .aluMulhu .. | .aluMin .. | .aluMax .. | .aluMinu .. | .aluMaxu ..
  | .addi .. | .andi .. | .ori .. | .xori .. | .slti .. | .sltiu .. | .shi .. | .lui .. | .lw .. | .sw ..
  | .beq .. | .bne .. | .blt .. | .bge .. | .bltu .. | .bgeu .. | .jal .. | .jalr .. | .csrr .. | .nop ..
  | .stage .. | .stageRetire .. | .send .. | .sendRetire .. | .stepend .. | .stependRetire .. | .fence ..
  | .fenceRetire .. | .bank .. | .bankStateChangeDone .. | .qwait .. | .qwaitComplete .. | .wld .. | .wldv ..
  | .weightLoadComplete .. | .wsp .. | .osp .. | .passComplete .. | .abftVerdict .. | .vadd .. | .vsub ..
  | .vmul .. | .vfma .. | .vmin .. | .vmax .. | .vand .. | .vor .. | .vxor .. | .vshl .. | .vshr .. | .vclt ..
  | .vceq .. | .vsel .. | .vcvt .. | .venc .. | .vexp .. | .vrcp .. | .vrsq .. | .vred .. | .vscan .. | .vamax ..
  | .vtopk .. | .vdraw .. | .vsmax .. | .vdrain .. | .vld .. | .vst .. | .vsrch .. | .vrot .. | .vbcst ..
  | .vectorCommandComplete .. | .leval .. | .levalComplete .. | .productVerdict .. | .ldrive .. | .loadDriveEnd ..
  | .substituteStart .. | .substituteComplete .. | .dcopy .. | .dcopyComplete .. | .tlbMissWalkDone ..
  | .dpress .. | .dmcast .. | .treeInjectionComplete .. | .dmaWaitLimit .. | .remoteScrAccess .. | .sadd ..
  | .ssub .. | .swait .. | .sread .. | .semAckArrival .. | .semAckTimeout .. | .semOpAdd .. | .semOpSub ..
  | .semOpWaitGe .. | .semOpRead .. | .semDeferredPerform .. | .semAudit .. | .flitHop .. | .transferArrival ..
  | .pressInput .. | .multicastFlit .. | .creditReturn .. | .creditAuditStart .. | .auditMarker .. | .auditEcho ..
  | .loftRefreshSlot .. | .loftAccess .. | .loftReadDone .. | .configWrite .. => true
  | .tlbInvalidation _ _ vpage => vpage < 2 ^ 28
  | .pageTableEdit e => e.vpage < 2 ^ 28
  | .editNotice .. | .editApply .. | .frameRelease .. => true
  | .weightLoadWrite _ vat row codes differs badCols => vat < 96 && codes.length % 64 == 0 && row + codes.length / 64 ≤ 512 &&
      differs.length ≤ codes.length / 64 && badCols.length == differs.length && differs.all (· ≤ 4) && badCols.all (· ≤ 516)
  | .sizingSlot .. | .checkVectorVerdict .. | .closingCheckVector .. | .sizingPassResult ..
  | .sizingPassDiscard .. | .acceptanceReport .. | .binDue .. | .binBarred .. | .dueBarMessage .. | .warmUp ..
  | .warmUpTimeout .. => true
  | .vatAcceptanceTest _ _ vat _ => vat < 96
  | .submit .. => true
  | .programChangeDone _ _ rows => rows.all fun e => rowOk e.2
  | .cancel .. | .stependReport .. | .couchRelease .. | .configWriteAck .. | .configWriteResend ..
  | .stepGateAdd .. | .faultNotice .. | .stageReplay .. | .stageOverrun .. | .deadlineExpiry .. | .slotFree ..
  | .portTokenFrame .. | .modelLoad .. | .manifestFetched .. | .shardReadComplete .. | .shardReadTimeout ..
  | .loadCommit .. => true
  | .programPackageLoad _ _ narrow exact _ => narrow.counts && exact.all Program.counts
  | .programInstall _ rows => rows.all fun e => rowOk e.2
  | .adapterInstall .. | .adapterCommit .. | .adapterRetire .. | .tuningJob .. | .adapterExport ..
  | .stageWatchdog .. | .checkerSelfTest .. | .supervisorFailure .. | .refclkMonitorFail .. | .refclkRecovered .. => true
  | .partitionReset _ _ rows => rows.all fun e => rowOk e.2
  | .tileReset _ rows => rows.all rowOk
  | .pageSlotAudit .. | .bbxCopyForward .. | .bbxRecordArrival .. | .siteCounterRefresh .. | .bbxSnap ..
  | .bbxFreezeComplete .. | .bbxFlushComplete .. | .tileCounterRead .. | .por .. => true
  | .startUp obs => obs.wellFormed
  | .resetNLow .. => true
  | .warmReset obs => obs.wellFormed
  | .siteSupplyReset .. | .deviceSupplyReset .. => true
  | .linkReset peer port => port < (if peer then 8 else 4)
  | .supplyWarningWindowOpen .. | .supplyWindowClose .. | .supplyWindowLong .. | .supplyResetLevel ..
  | .input48vLow .. | .vlkResetLevel .. | .governorWindow ..
  | .overcap .. => true
  | .siteSupplyRecovered o => o.wellFormed
  | .input48vRestored l => l.all (·.wellFormed)
  | .thermalSample _ x => x.compute.length == 16 && x.base.length == 8 && x.loft.length == 4
  | .throttleClear .. | .siteOffClear .. | .doze .. | .wake .. | .standby .. | .siteSleepEntry .. | .beacon ..
  | .hsInit .. | .hsFin .. | .handshakeTimeout .. | .keyUpdate .. | .ack .. | .retransmitTimeout ..
  | .sessionLoss .. | .resume .. | .graceEnd .. | .telemetry .. => true
  | .bbxRead _ _ count => count ≤ 0x10000
  | .mgmtRegisterRead _ a => a.aligned
  | .mgmtRegisterWrite _ a _ => a.aligned
  | .flashImageWrite .. | .attest .. | .revokeOwner .. | .svnCommit .. | .lmsReservationWrite ..
  | .lmsTreeBuild .. | .peerLinkUp .. | .peerLoss .. | .peerIdleTimeout .. | .peerShardRequest ..
  | .nvmeReadComplete .. | .nvmeReadTimeout .. | .nvmeSurpriseRemoval .. => true
  | .peerFrame _ f => f.payload.length ≤ 2048 && f.credit ≤ 64 && f.transfer < 2 ^ 32 && f.index < 2 ^ 32
  | .nvmeInsertion _ speed width _ => 1 ≤ speed.toNat && speed.toNat ≤ 5 && [1, 2, 4, 8].contains width.toNat
  | .uartConsoleCommand .. => true
  | .smbusBlockRead a => a.aligned
  | .siteNumClearFallback .. | .siteNumClearSat .. | .siteNumClearFmtfault .. | .siteChkClearAccecc ..
  | .siteChkClearVparity .. | .siteChkClearResidue .. | .siteChkClearAbft .. | .vatCntClearWretry ..
  | .vatCntClearOvr .. | .vatCntClearZero .. | .vatCntClearWide .. | .vatCntClearSplit .. | .vatCntClearCheck ..
  | .szCntClearAccfail .. | .szCntClearDiscard .. | .szCntClearChkvec .. | .siteScrClearDmawait ..
  | .siteScrClearCe .. | .loftClearUe .. | .loftClearCe .. | .netCntClearAudit .. | .netCntClearPressovf ..
  | .netCntClearFence .. | .netCntClearE2e .. | .netCntClearHcrc .. | .semCntClearAudit .. | .semCntClearError ..
  | .semCntClearFence .. | .siteKvClearVerfault .. | .siteKvClearHold .. | .supWarmReq .. | .pwrCapWrite ..
  | .plkPortLossesRead .. => true
  | .registerWrite a _ => a.aligned
  | .droppedFrame _ bytes _ => bytes.length == 32
  | .tokenCountAudit .. | .portLanesUp .. | .nvmeLinkDown .. | .jtagScan .. => true

end Sys2Proof
end

