-- ==== Sys2Proof/Tests/Slice0.lean ====
section
/-! SUPPORT. Tests: an ill-formed term for each check of `Instr.wellFormed`, known answers from the spec's tables, and for
each statement with hypotheses a state and operands that meet them. -/

namespace Sys2Proof.Tests

open Sys2Proof.Machine

/-! ### Small states -/

/-- Tile P(0, 0, 0), and its neighbour P(0, 1, 0). -/
def t0 : PTile := ⟨0, 0, 0⟩
def t1 : PTile := ⟨0, 0, 1⟩

/-- A powered site. -/
def site0 : Site := { Site.init with up := true, arith := true }

/-- A tile of partition 0. -/
def tile0 : Tile := { Tile.init with pl := { Tile.init.pl with part := some 0 } }

/-- Site 0 runs, with tile `x` at P(0, 0, 0). -/
def onTile (x : Tile) : State := { State.reset with sites := [(0, site0)], tiles := [(0, x)] }

/-- The scalar core of that tile changed. -/
def onCore (f : Scalar → Scalar) : State := onTile { tile0 with sc := f tile0.sc }

/-- A control node with every authorisation, and its session 1. -/
def node0 : Node := ⟨7, true, true, true, true⟩
def session0 : Session := { Session.init with node := node0, ticket := 5, ticketUsed := false }
def talking (x : Session) : State :=
  { State.reset with sessions := [(1, x)], phw := [(0, { PhwPort.init with up := true })], sup := { Sup.init with phase := 12 } }

/-! ### Ill-formed commands -/

theorem test_wf_smoke :
    (Instr.tlbInvalidation t0 0 (2 ^ 28)).wellFormed = false ∧ (Instr.pageTableEdit ⟨0, 0, 3, 2 ^ 28, 0⟩).wellFormed = false ∧
    (Instr.weightLoadWrite t0 96 0 [] [] []).wellFormed = false ∧ (Instr.weightLoadWrite t0 0 0 [1] [] []).wellFormed = false ∧
    (Instr.weightLoadWrite t0 0 513 [] [] []).wellFormed = false ∧ (Instr.weightLoadWrite t0 0 0 [] [0] [0]).wellFormed = false ∧ (Instr.weightLoadWrite t0 0 0 (List.replicate 64 0) [0] []).wellFormed = false ∧
    (Instr.weightLoadWrite t0 0 0 (List.replicate 64 0) [5] [0]).wellFormed = false ∧
    (Instr.weightLoadWrite t0 0 0 (List.replicate 64 0) [4] [517]).wellFormed = false ∧
    (Instr.vatAcceptanceTest t0 0 96 true).wellFormed = false ∧
    (Instr.programChangeDone 0 true [(t0, 0x8000)]).wellFormed = false ∧
    (Instr.programInstall 0 [(t0, 0x8000)]).wellFormed = false ∧
    (Instr.partitionReset 0 ⟨[], [], []⟩ [(t0, 0x8000)]).wellFormed = false ∧ (Instr.tileReset t0 [0x8000]).wellFormed = false ∧
    (Instr.startUp ⟨[], [], [], [], [(t0, 96, 1)], [], [], false, false, true, []⟩).wellFormed = false ∧
    (Instr.warmReset ⟨[], [], [], [], [(t0, 0, 513)], [], [], false, false, true, []⟩).wellFormed = false ∧
    (Instr.linkReset true 8).wellFormed = false ∧ (Instr.linkReset false 4).wellFormed = false ∧
    (Instr.thermalSample 0 ⟨[], [], []⟩).wellFormed = false ∧ (Instr.bbxRead 1 0 0x10001).wellFormed = false ∧
    (Instr.mgmtRegisterRead 1 ⟨.sup, 2⟩).wellFormed = false ∧ (Instr.mgmtRegisterWrite 1 ⟨.sup, 1⟩ 0).wellFormed = false ∧
    (Instr.registerWrite ⟨.thm, 3⟩ 0).wellFormed = false ∧ (Instr.smbusBlockRead ⟨.pwr, 5⟩).wellFormed = false ∧
    (Instr.nvmeInsertion 0 6 4 []).wellFormed = false ∧ (Instr.nvmeInsertion 0 5 3 []).wellFormed = false := by decide

theorem test_wf_accepts :
    (Instr.aluAdd t0 1 2 3).wellFormed = true ∧ (Instr.weightLoadWrite t0 95 511 (List.replicate 64 0) [4] [516]).wellFormed = true ∧
    (Instr.linkReset true 7).wellFormed = true ∧ (Instr.nvmeInsertion 0 5 8 []).wellFormed = true := by decide

/-- The table gives no row a bit, so no word spells a command. -/
theorem test_decode_none : decodeTableWord 32 0 = none ∧ State.reset.withFetchWord 32 0 = State.reset := by decide

/-! ### Scalar core (R283–R292) -/

theorem test_front : ({ State.reset with pending := [.por] } : State).pending = .por :: [] := rfl

theorem test_idle : State.reset.pending = [] ∧ State.reset.sup.phase ≠ 10 := by decide

theorem test_issues : Issues (onTile tile0) t0 [1, 2, 3] ∧ Issues (onTile tile0) t0 [1, 2] ∧ Issues (onTile tile0) t0 [1] ∧
    Issues (onTile tile0) t0 [] :=
  ⟨⟨by decide, by decide, by decide, by decide, by decide⟩, ⟨by decide, by decide, by decide, by decide, by decide⟩,
    ⟨by decide, by decide, by decide, by decide, by decide⟩, ⟨by decide, by decide, by decide, by decide, by decide⟩⟩

theorem test_csrr_part : (onTile tile0).tile t0 = tile0 ∧ tile0.pl.part = some 0 := by decide

/-- The bounds of SHI: 0 and 31 left, 32 and 63 logical, 64 and 95 arithmetic, 96 reserved. -/
theorem test_shi_bounds : (31 : BitVec 16).toNat < 32 ∧ 32 ≤ (32 : BitVec 16).toNat ∧ (63 : BitVec 16).toNat < 64 ∧
    64 ≤ (64 : BitVec 16).toNat ∧ (95 : BitVec 16).toNat < 96 ∧ 96 ≤ (96 : BitVec 16).toNat ∧
    (3 : Reg).toNat < 4 ∧ 4 ≤ (4 : Reg).toNat ∧ 16 ≤ (16 : BitVec 16).toNat := by decide

/-- The last word of the scratchpad can be read and written; the next one and an odd address fault. -/
def lsState (a : Word) : State := onCore fun c => c.setReg 1 a

theorem test_ls : 
    Issues (lsState 0x1FFFFC) t0 [1, 2] ∧ (BitVec.ofInt 32 ((((lsState 0x1FFFFC).tile t0).sc.reg 1).toInt + 0)).toNat = 0x1FFFFC ∧
    ((lsState 0x1FFFFC).tile t0).scalarHolds ⟨t0, lsState 0x1FFFFC⟩ [.scr 0x7FFF 0x7FFF] [] = [] ∧
    ((lsState 0x1FFFFC).tile t0).scalarHolds ⟨t0, lsState 0x1FFFFC⟩ [] [.scr 0x7FFF 0x7FFF] = [] ∧
    ((lsState 0x1FFFFC).tile t0).mem.bank 15 = ⟨.on, none⟩ ∧
    Issues (lsState 0x200000) t0 [1, 2] ∧ 0x200000 ≤ (BitVec.ofInt 32 ((((lsState 0x200000).tile t0).sc.reg 1).toInt + 0)).toNat ∧
    (BitVec.ofInt 32 ((((lsState 2).tile t0).sc.reg 1).toInt + 0)).toNat % 4 ≠ 0 :=
  ⟨⟨by decide, by decide, by decide, by decide, by decide⟩, by decide, by decide, by decide, by decide,
    ⟨by decide, by decide, by decide, by decide, by decide⟩, by decide, by decide⟩

/-- A tile in each planned wait. -/
theorem test_waits : ((onCore fun c => { c with wait := .stage 2 }).tile t0).sc.wait = .stage 2 ∧
    (onCore fun c => { c with wait := .send }).tileRuns t0 = true ∧
    ((onCore fun c => { c with wait := .send }).tile t0).sc.wait = .send ∧
    ((onCore fun c => { c with wait := .stepend }).tile t0).sc.wait = .stepend ∧
    ((onCore fun c => { c with wait := .fence 31 }).tile t0).sc.wait = .fence 31 ∧
    (∀ k : Queue, (tile0).queue k = []) ∧ tile0.mx.abftDue = 0 ∧ tile0.rp.recovInStage = false ∧
    (∀ l : Fin 2, ((onTile tile0).lane t0 l).verdicts = [] ∧ ((onTile tile0).lane t0 l).cvs = [] ∧
      ((onTile tile0).lane t0 l).since = false) :=
  ⟨by decide, by decide, by decide, by decide, by decide, fun k => by cases k <;> rfl, by decide, by decide, by decide⟩

/-- BANK with a mask that names the highest bank; a bank on its way to OFF. -/
def bankTile : Tile := { tile0 with mem := { TileMem.init with banks := [(15, ⟨.on, some .off⟩)] } }

theorem test_banks : ((onTile tile0).tile t0).scalarHolds ⟨t0, onTile tile0⟩ []
      ((maskedBanks 0x8000).map fun n => .scr (2048 * n) (2048 * n + 2047)) = [] ∧
    (∀ n : Nat, n < 16 → (tile0.mem.bank n).next = none) ∧
    ((onTile bankTile).site t0.site).up = true ∧ (((onTile bankTile).tile t0).mem.bank 15).next = some .off := by decide

/-! ### Queue commands (R287, R293–R295) -/

theorem test_words : wordFault .vq .vadd 1 2 3 11 = false ∧ wordFault .mq .wld 1 2 3 0 = false ∧ wordFault .mq .wldv 1 2 3 0 = false ∧
    wordFault .mq .wsp 1 2 3 0 = false ∧ wordFault .mq .osp 1 2 3 0 = false ∧ wordFault .lq .leval 1 2 3 3 = false ∧
    wordFault .lq .ldrive 0 0 0 1 = false ∧ wordFault .dq .dcopy 30 2 31 0 = false ∧ wordFault .dq .dpress 1 2 0 0 = false ∧
    wordFault .dq .dmcast 1 2 0 0 = false ∧ wordFault .sq .sadd 1 2 0 0 = false ∧ wordFault .sq .swait 1 2 0 0 = false ∧
    wordFault .sq .sread 1 2 3 0 = false ∧ wordFault .vq .vamax 30 1 0 11 = false ∧ wordFault .vq .vtopk 28 1 0 0 = false ∧
    wordFault .mq .qwait 1 0 0 4 = false ∧ wordFault .sq .qwait 1 0 0 0 = false := by decide

def written0 (op : QOp) (k : Queue) : Prop :=
  Issues (onTile tile0) t0 (cmdRegs op 2 4 6) ∧ tile0.written k < 16 ∧
    (op = .qwait ∨ tile0.entries ⟨t0, onTile tile0⟩ + (mkCmd ⟨t0, onTile tile0⟩ tile0 op 2 4 6 0).need ⟨t0, onTile tile0⟩ tile0 ≤ 64)

theorem test_written : written0 .wld .mq ∧ written0 .vld .vq ∧ written0 .leval .lq ∧ written0 .dcopy .dq ∧ written0 .sread .sq :=
  ⟨⟨⟨by decide, by decide, by decide, by decide, by decide⟩, by decide, by decide⟩,
    ⟨⟨by decide, by decide, by decide, by decide, by decide⟩, by decide, by decide⟩,
    ⟨⟨by decide, by decide, by decide, by decide, by decide⟩, by decide, by decide⟩,
    ⟨⟨by decide, by decide, by decide, by decide, by decide⟩, by decide, by decide⟩,
    ⟨⟨by decide, by decide, by decide, by decide, by decide⟩, by decide, by decide⟩⟩

/-! ### Known answers: the spec's worked examples -/

/-- The example after R12: logical tile (37, 50). -/
theorem test_nominal : nominal 37 50 = ⟨50, 2, 5⟩ ∧ (nominal 37 50).col = 37 ∧ (nominal 37 50).row = 56 := by decide

/-- The block of the worked example of one I4 block: 3.5, 0.75, −1.625, the value `x`, zeros. -/
def block0 (x : FV) : List FV :=
  [.fin false 7 (-1), .fin false 3 (-2), .fin true 13 (-3), x] ++ List.replicate 28 (.fin false 0 0)

/-- The worked example of one I4 block: at k = 1; with u = 32 in I8; without fallback; a block of 2^−36. -/
theorem test_block :
    (encBlock 1 false false true (block0 (.fin false 0 0)) []).codes.take 3 = [0x7, 0x2, 0xD] ∧
    (encBlock 1 false false true (block0 (.fin false 0 0)) []).scale = 0x01 ∧
    (encBlock 1 false false true (block0 (.fin false 1 5)) []).codes.take 4 = [0x07, 0x02, 0xFD, 0x40] ∧
    (encBlock 1 false false true (block0 (.fin false 1 5)) []).scale = 0x81 ∧
    (encBlock 1 false false false (block0 (.fin false 1 5)) []).codes.take 4 = [4, 1, 0xE, 7] ∧
    (encBlock 1 false false false (block0 (.fin false 1 5)) []).scale = 0 ∧
    (encBlock 1 false false true (List.replicate 32 (.fin false 1 (-36))) []).scale = 0x1F := by decide +kernel

/-- The correction of plane 2, slice 1 in the worked example of an I4 product: 56 sixteenths. -/
theorem test_correct : (⟨16302, 1, 131⟩ : Cal).correct true 1 4 = 56 := by decide

/-- Saturation at both ends (R68, R297). -/
theorem test_saturates : satInt 32 (2 ^ 31) = 2 ^ 31 - 1 ∧ satInt 32 (-2 ^ 31 - 1) = -2 ^ 31 := by decide

/-- R52: the three vectors of the rounding generator. -/
theorem test_rgen : rgen 0 0 0 0 0 = 0x813EAC35 ∧ rgen 0 0 0 0 1 = 0x29254FA2 ∧ rgen 0x9E3779B9 0 0 0 0 = 0xA933C40D := by decide

/-! ### Units (R75–R81, R117–R130, R294–R309) -/

/-- A command of the given operation, issued to its unit. -/
def cmd (op : QOp) : QCmd :=
  { op := op, f1 := 1, f2 := 2, f3 := 3, mod := 0, a := 0, b := 0, c := 0, pc := 0, tag := 0, seq := 0, st := .issued, slipped := [],
    sub := false, age := 0, at_ := 0, win := false, swaps := 0, lost := [], vatAsk := none }

set_option maxRecDepth 8000 in
/-- A QWAIT whose count is reached, with the greatest distance too. -/
theorem test_qwait : ∀ n ∈ [0, 0x8001],
    let q : QCmd := { cmd .qwait with mod := 1, st := .queued, a := BitVec.ofNat 64 n }
    (onTile { tile0 with mq := [q] }).tileRuns t0 = true ∧ (tile0.setQueue .mq [q]).queue .mq = [q] ∧
    ((tile0.sc.qd (q.mod.toNat % 8)).toNat + 2 ^ 16 - q.a.toNat % 2 ^ 16) % 2 ^ 16 < 2 ^ 15 := by decide

set_option maxRecDepth 8000 in
theorem test_matrix : (∀ op ∈ [QOp.wld, .wldv, .wsp, .osp], (onTile { tile0 with mq := [cmd op] }).tileRuns t0 = true ∧
    ((onTile { tile0 with mq := [cmd op] }).tile t0).running .mq = some (cmd op)) ∧
    ({ Vat.init with mode := 1 } : Vat).mode ≠ 0 ∧
    (∀ b : Bool, ((onTile { tile0 with mx := { Matrix.init with abftDue := 1, abftBad := [b] } }).tile t0).mx.abftDue ≠ 0 ∧
      ((onTile { tile0 with mx := { Matrix.init with abftDue := 1, abftBad := [b] } }).tile t0).mx.abftBad.headD false = b) := by decide

set_option maxRecDepth 8000 in
theorem test_raw : (List.replicate 32 (1 : Int)).length = 32 := by decide

set_option maxRecDepth 8000 in
theorem test_vector : (∀ op ∈ [QOp.vadd, .vsub, .vmul, .vfma, .vmin, .vmax, .vand, .vor, .vxor, .vshl, .vshr, .vclt, .vceq, .vsel, .vcvt, .venc,
      .vexp, .vrcp, .vrsq, .vred, .vscan, .vamax, .vtopk, .vdraw, .vsmax, .vdrain, .vbcst, .vrot, .vld, .vst, .vsrch], (onTile { tile0 with vq := [cmd op] }).tileRuns t0 = true ∧
    ((onTile { tile0 with vq := [cmd op] }).tile t0).running .vq = some (cmd op)) ∧
    ({ cmd .vadd with mod := 27 } : QCmd).mod.toNat = 27 ∧ (cmd .vsmax).f1.toNat + 3 ≤ ({ cmd .vsmax with f2 := 4 } : QCmd).f2.toNat := by decide

set_option maxRecDepth 8000 in
/-- An LEVAL of zeros in a supply-warning window, and one that has run in a window that is closed. -/
theorem test_product :
    let s := { onTile { tile0 with lq := [cmd .leval] } with sites := [(0, { site0 with window := some 0 })] }
    s.tileRuns t0 = true ∧ (s.tile t0).laneRunning 0 = some (cmd .leval) ∧ (s.site t0.site).window.isSome = true ∧
    (levalIn (s.tile t0).mem (cmd .leval).ra (cmd .leval).leFb).zero = true ∧
    ((onTile { tile0 with lq := [{ cmd .leval with win := true }] }).tile t0).laneRunning 0 = some { cmd .leval with win := true } := by
  decide

def verd (v : Verd) : State :=
  { onTile tile0 with
    lanes := [(0, { Lane.init with verdicts := [v], failedChk := true })]
    parts := [(0, { Part.init with couch := { Couch.init with replayed := true, replayTag := some 0 } })] }

set_option maxRecDepth 8000 in
theorem test_verdicts : (∀ v ∈ [⟨0, 0, 0, 0, true, false, false⟩, ⟨0, 0, 0, 0, false, true, false⟩, ⟨0, 0, 0, 0, false, true, true⟩,
      (⟨0, 101, 0, 0, false, false, false⟩ : Verd)],
    ((verd v).lane t0 0).verdicts = [v] ∧ ((verd v).site t0.site).up = true ∧ (verd v).inReplay t0 = true ∧
    ((verd v).lane t0 0).failedChk = true) ∧ (200 * (0 : Int).natAbs : Int) + 100 < 101 + (0 : Int).natAbs + 3200 * 0 := by decide

set_option maxRecDepth 8000 in
theorem test_lanes :
    let d := { onTile { tile0 with lq := [cmd .ldrive] } with lanes := [(0, { Lane.init with drive := .ending })] }
    let q := { cmd .leval with sub := true }
    let e := onTile { tile0 with lq := [q] }
    let r := onTile { tile0 with lq := [q], mx := { Matrix.init with sub := some 0 } }
    (d.tile t0).laneRunning 0 = some (cmd .ldrive) ∧ (d.lane t0 0).drive = .ending ∧ (d.site t0.site).up = true ∧
    e.tileRuns t0 = true ∧ (e.tile t0).nextSub = some q ∧ q.lane = (0 : Fin 2).val ∧ (e.tile t0).mx.sub = none ∧
    (e.tile t0).running .mq = none ∧ (⟨t0, e⟩ : Ctx).vatWaits (e.tile t0) t0 q.leVat q = [] ∧ r.tileRuns t0 = true ∧ (r.tile t0).nextSub = some q ∧ (r.tile t0).mx.sub = some 0 := by decide

/-! ### Copies and page tables (R193–R212, R310, R366–R370) -/

/-- A tile with one copy in the given phase. -/
def copying (src dst : BitVec 64) (ph : DmaPh) : Tile :=
  { tile0 with dq := [{ cmd .dcopy with a := src, b := dst, c := 64 }], dma := { Dma.init with ph := ph } }

set_option maxRecDepth 8000 in
/-- The copies of 64 B from the tile to its neighbour, and back; to loft, and back; of a vat. -/
theorem test_copies :
    let out := copying 0 (BitVec.ofNat 64 (2 ^ 53)) .access
    let back := copying (BitVec.ofNat 64 (2 ^ 53)) 0 .access
    let loft := copying 0 (BitVec.ofNat 64 (2 * 2 ^ 60)) .access
    let load := copying (BitVec.ofNat 64 (2 * 2 ^ 60)) 0 .loftQueued
    let vat := copying (BitVec.ofNat 64 (2 ^ 60)) 0 .access
    let q (x : Tile) : QCmd := x.dq.getD 0 (cmd .dcopy)
    (∀ x ∈ [out, back], x.copying = some (q x) ∧ adSpace ((q x).farAddr x) = 0 ∧
      physOf [] (adC ((q x).farAddr x)) (adR ((q x).farAddr x)) = t1) ∧ t0 ≠ t1 ∧
    (q out).outward out = true ∧ (q back).outward back = false ∧
    (∀ x ∈ [loft, load], x.copying = some (q x) ∧ partLoft x (q x) = some (0, 0)) ∧
    (∀ x ∈ [out, back, loft, load, vat], (onTile x).net.dataDue t0.key = false) ∧
    (onTile loft).loftAhead 0 t0.key (channelsOf 0 64) = false ∧
    (0, t0.key) ∈ ({ onTile load with loftQ := [(0, 0)] } : State).loftQ ∧
    ({ onTile load with loftQ := [(0, 0)] } : State).loftAhead 0 t0.key (channelsOf 0 64) = false ∧
    (q loft).outward loft = true ∧ (q load).outward load = false ∧
    adSpace ((q vat).farAddr vat) = 1 ∧ (site0).selfref = false := by decide

set_option maxRecDepth 8000 in
theorem test_banks_on : ∀ b : Nat, tile0.mem.bank b = ⟨.on, none⟩ := fun _ => rfl

set_option maxRecDepth 8000 in
theorem test_copy_ends :
    let x := copying 0 (BitVec.ofNat 64 (2 ^ 53)) .served
    let q : QCmd := x.dq.getD 0 (cmd .dcopy)
    x.dq = [q] ∧ q.st = .issued ∧ q.op = .dcopy ∧ x.dma.ph = .served ∧ q.len ≤ x.dma.pos + partLen x q ∧
    (copying 0 0 .access).dma.ph = .access ∧ (onTile x).net.dataDue t0.key = false ∧
    ({ tile0 with dq := [cmd .dpress] } : Tile).dma.ph = .idle := by decide

/-- A signature block that verifies: one level of LMS with SHA-256, of height 5, W 1. -/
def sig0 : SigCheck := ⟨true, true, ⟨1, 1, [0, 0, 0, 0]⟩, [⟨.sha256, 5, .sha256, 1⟩]⟩

set_option maxRecDepth 8000 in
/-- Accesses that have waited past the limit of 256 cycles: a copy at its own bank, and a delivery of a tree (R193). -/
theorem test_dma_wait :
    let x0 := copying 0 (BitVec.ofNat 64 (2 ^ 53)) .access
    let x := { x0 with sc := { Scalar.init with cyc := 257 }, dma := { x0.dma with since := some (t0.key, 0) } }
    let f := { mkFlit 3 t0.port0 t0.port0 (some 0) 0 .counter with bankWait := some 0 }
    let y := { onTile { tile0 with sc := { Scalar.init with cyc := 257 } } with net := { Net.init with flits := [f] } }
    (⟨t0, onTile x⟩ : Ctx).dmaWait < (onTile x).dmaWaited t0 t0 ∧ x.dmaSince.isSome = true ∧
    (⟨t0, y⟩ : Ctx).dmaWait < y.dmaWaited t0 t0 ∧ (y.tile t0).dmaSince = none := by decide

/-- A partition of one block on site 0, with a grant, a page table in the loft, and sequence-mode gates. -/
def furnPart0 : FurnPart :=
  { part := 0, bx := 0, byy := 0, bw := 1, bh := 1, bwMode := .uniform, power := .static, share := 300, g64 := 64, dmaWait := 64,
    slipHalt := 0, exact := .narrow, tuning := false, pool := [0], adapterGrant := none, supSite := 0 }

def furnish0 : Furnish :=
  { sig := sig0, slot := 0, key := 0, digest := 3, svn := 0, magic := Furnish.asciiMagic, fmtver := 1, binding := 0, length := 4096, nsection := 1, sections := [2], reserved := [], cap := 800, fanFloor := 0, cacheBytes := 1000, pause := 0,
    sleepUnassigned := true, reamId := 0, parts := [furnPart0], grants := [⟨0, 0, 0, 2 ^ 26⟩], ranges := [⟨0, 0, 0, 4, true, 0, 0⟩],
    quotas := [⟨0, 0, 8⟩], classes := List.replicate 16 ⟨0xFFFFFFFF, 0xFFFFFFFF⟩,
    swap := [⟨0, 1, 1, 1, 0, [.nvme 0 0 0, .cache], false, false, false⟩], publishers := [⟨1, 1, 0⟩], nodes := [node0], ream := [⟨0, 9, 3⟩] }

/-- The entries of all levels of the page table of handle 0: V = bit 63, addresses 0, 0x1000, 0x2000 and 0x3000; page 0 of handle 0
is valid or not. -/
def tables (leaf : List (Nat × Byte)) : State :=
  { onTile { tile0 with dq := [cmd .dcopy], dma := { Dma.init with ph := .walk 0 0 } } with
    furnish := some furnish0
    loft := [(1, 0x10), (7, 0x80), (0x1001, 0x20), (0x1007, 0x80), (0x2001, 0x30), (0x2007, 0x80)] ++ leaf }

def leaf0 : List (Nat × Byte) := [(0x3002, 1), (0x3007, 0x80)]

set_option maxRecDepth 8000 in
theorem test_tables :
    (tables []).editAt ⟨0, 0, 3, 0, 0⟩ = some (0, 0x3000) ∧ ((tables []).pte 0 0x3000).v = false ∧
    (tables leaf0).editAt ⟨0, 0, 3, 0, 0⟩ = some (0, 0x3000) ∧ ((tables leaf0).pte 0 0x3000).v = true ∧
    (tables []).editAt ⟨0, 0, 0, 0, 0⟩ = some (0, 0) ∧
    (tables leaf0).loftMarks (((tables leaf0).walkReads ((tables leaf0).rootOf 0 0).1 ((tables leaf0).rootOf 0 0).2 0 0).map
      fun e => loftLine e.1 e.2) .double = [] ∧
    (onTile tile0).walk 0 0 0 0 = none ∧ (tables leaf0).walk 0 0 0 0 = some ⟨0, 0, 0, 0x10000, false, 0⟩ ∧
    ((tables leaf0).tile t0).dma.ph = .walk 0 0 ∧ ((tables leaf0).tile t0).dq = [cmd .dcopy] ∧
    (cmd .dcopy).outward ((tables leaf0).tile t0) = true ∧
    granted (some furnish0) (some 0) 0 0x10000 0x10000 = true ∧ Dma.init.firstVer 0 0 = none := by decide

set_option maxRecDepth 8000 in
/-- A copy into the tile needs no write permission. -/
theorem test_inward : (copying (BitVec.ofNat 64 (4 * 2 ^ 60)) 0 (.walk 0 0)).dq.all
    (fun q => !q.outward (copying (BitVec.ofNat 64 (4 * 2 ^ 60)) 0 (.walk 0 0))) = true := by decide

set_option maxRecDepth 8000 in
/-- An edit that waits, an edit that is applied; notices of a handle in and outside the walk table. -/
theorem test_edits :
    let q : EditQ := ⟨3, [⟨0, 3, 3, 0, 0⟩], [], 1, false, []⟩
    let r : EditQ := ⟨3, [⟨0, 3, 3, 0, 0⟩], [], 1, true, [0]⟩
    let s := { onTile tile0 with parts := [(0, { Part.init with editQs := [q] })] }
    let u := { onTile tile0 with parts := [(0, { Part.init with editQs := [r] })] }
    ((s.part 0).editQs.find? fun a => a.handle = 3 && !a.applied) = some q ∧
    ((u.part 0).editQs.find? fun a => a.handle = 3 && a.applied) = some r ∧ (∀ k ∈ q.waiting, q.edits.length ≤ s.net.acks k (.editAck 3)) ∧
    (3 : BitVec 16) ∈ ({ Dma.init with walks := [3] } : Dma).walks ∧ (3 : BitVec 16) ∉ Dma.init.walks ∧
    ({ Dma.init with walkOvf := true } : Dma).walkOvf = true ∧
    (∀ m ∈ [Msg.edit 3, .tlbInval 3 0, .cfg (.watchdog 9)],
      ({ Net.init with flits := [mkFlit 2 t0.port0 t0.port0 none 0 m] } : Net).inOrder (·.isWrite t0.port0) t0.port0 m = true) ∧
    (∀ w ∈ [CfgWrite.entry 4, .istore 0 [0], .scratch 0 [1], .tree 1 TreeEntry.init], (onTile tile0).inGap t0 w = true ∧ (onTile tile0).mayWrite t0 w = true) ∧
    (∀ k ∈ q.waiting, r.invals.length ≤ s.net.acks k (.invalAck 3)) ∧ editCovers ⟨0, 3, 2, 512, 0⟩ 1023 = true ∧ editCovers ⟨0, 3, 2, 512, 0⟩ 511 = false ∧ (∀ n : Nat, tile0.mem.answers 0 64 ≠ .wait n) ∧ tile0.mem.answers 0 64 = .go := by
  refine ⟨by decide, by decide, by decide, by decide, by decide, by decide, by decide, by decide, by decide, by decide, by decide, fun n h => ?_, by decide⟩
  have : tile0.mem.answers 0 64 = .go := by decide
  simp [this] at h

/-! ### Semaphores (R259–R273) -/

/-- Entry 1 of the store of site 0. -/
def semState (e : Sem) : State := { onTile tile0 with sems := [(1, e)], furnish := some furnish0 }

/-- ADD of 3 to entry 1 with tag 0. -/
def semOp (n : Nat) : BitVec 64 := BitVec.ofNat 64 (2 ^ 60 + 2 ^ 32 + n)

def owned : Sem := { Sem.unowned with owner := 0, value := 2 }

set_option maxRecDepth 8000 in
theorem test_sems :
    let s := semState owned
    (∀ k ∈ [1, 2, 3, 4], s.storeTakes 0 t0 (setSemOp k (semOp 3)) = true) ∧ (s.tile t0).pl.part = some 0 ∧ semIdx (semOp 3) = 1 ∧ semN (semOp 3) ≠ 0x80000000 ∧
    ((semOp 3).toNat / 2 ^ 42) % 4 = 0 ∧ (s.sem 0 1).owner.toNat = 0 ∧ (s.sem 0 1).share = 0 ∧ (s.sem 0 1).ecc = .ok ∧
    (semTag (semOp 3) - (s.sem 0 1).tag).toNat < 2 ^ 15 ∧ (0x7FFF : BitVec 16).toNat < 2 ^ 15 ∧
    (s.sem 0 1).owner ≠ 63 ∧ (semN (semOp 2)).toInt ≤ (s.sem 0 1).value.toInt ∧ ¬ (semN (semOp 3)).toInt ≤ (s.sem 0 1).value.toInt ∧
    (s.waiters.filter fun w => w.site = 0 && w.part = 0).length < s.quota 0 0 ∧
    ((semState Sem.unowned).sem 0 1).owner = 63 ∧
    ({ owned with owner := 1, share := 1 } : Sem).share.getLsbD 0 = true ∧
    ({ owned with owner := 1 } : Sem).owner.toNat ≠ 0 ∧ ({ owned with seq := true, share := 2 } : Sem).share ≠ 0 ∧
    (s.deferred.filter fun d => d.site = 0 && d.part = 0).length < 64 := by decide

set_option maxRecDepth 8000 in
/-- An acknowledgement of an SREAD, an operation that has timed out, a deferred operation of a step that is over, and sums
that differ. -/
theorem test_sem_events :
    let q : QCmd := { cmd .sread with a := 1, age := 4096 }
    let s := onTile { tile0 with sq := [q] }
    let d : Deferred := ⟨0, 0, semOp 3, 3⟩
    let u := { semState { owned with seq := true } with
      deferred := [d]
      parts := [(0, { Part.init with couch := { Couch.init with fresh := false, step := 4, released := false } })] }
    (s.site t0.site).up = true ∧ s.net.ready (semAckFlit t0 0 (semOp 7)) = true ∧ (s.tile t0).sq = [q] ∧ ackFor (s.tile t0) 0 (semOp 7) = some q ∧ timedOut (s.tile t0) = some q ∧
    u.deferred = [d] ∧ (u.part 0).stepClosed d.step = true ∧ (u.sem d.site (semIdx d.word)).seq = true ∧
    (semState owned).semBad 0 = [0] ∧ ((semState owned).site 0).up = true := by decide

/-! ### Network (R224–R250) -/

/-- A flit from P(0, 0, 0) to P(0, 1, 0), of a partition or of none. -/
def flit0 (p : Option (Fin 32)) (m : Msg) : Flit := mkFlit 1 t0.port0 t1.port0 p 0 m

set_option maxRecDepth 8000 in
theorem test_hop : ∀ p ∈ [none, some (0 : Fin 32)],
    let s := { onTile tile0 with net := { Net.init with flits := [flit0 p .counter] } }
    s.net.flits = [] ++ flit0 p .counter :: [] ∧ s.net.crossing t1 4 1 = some (flit0 p .counter) ∧ (s.site t1.site).up = true ∧
    (s.net.link (linkKey (tileAt 0 0).key 2 1)).aOff.toNat < 8 ∧ s.fenced t1 (flit0 p .counter) = p.isSome := by decide

/-- A press input at its router. -/
def treeFlit (x : TreeFlit) : Flit := { mkFlit 3 t0.port0 t0.port0 (some 0) 0 (.tree x.id x.rank x.use x.index x.words x.ovf) with inPort := 1 }

def press0 (mask : BitVec 10) : TreeEntry := { TreeEntry.init with v := true, pmask := mask, port := 2 }

def treeState (e : TreeEntry) (f : Flit) : State :=
  { onTile tile0 with net := { Net.init with flits := [f], trees := [(1, e)] } }

def input0 : TreeFlit := ⟨1, 0, false, 0, List.replicate 16 1, false, false⟩

set_option maxRecDepth 8000 in
/-- An input of an entry that is not valid; of another use; that is held; that completes a sum, towards port 2 and into the tile; of a rank that
clashes. -/
theorem test_press :
    let f := treeFlit input0
    let n (e : TreeEntry) : Net := (treeState e f).net
    let held (r : BitVec 4) : PressIn := ⟨t0.key, 2, 1, r, false, 0, List.replicate 16 1, false, false⟩
    let own : PressIn := ⟨t0.key, 1, 1, 0, false, 0, List.replicate 16 1, false, false⟩
    let two (r : BitVec 4) : Net := { n (press0 6) with press := [held r] }
    f.asTree = some input0 ∧ (∀ e ∈ [TreeEntry.init, press0 6], (n e).flits = [f] ∧ (n e).treeAt t0 1 false f = true) ∧
    ((n TreeEntry.init).tree t0 1).v = false ∧ (press0 6).v = true ∧ f.part.map (·.val) = some (press0 6).part.toNat ∧
    (press0 6).pmask.getLsbD 1 = true ∧ input0.use ≠ ({ press0 6 with use := true } : TreeEntry).use ∧ input0.use = (press0 6).use ∧
    ((n (press0 6)).press.filter fun y => y.router == t0.key).length < 32 ∧
    (press0 6).pmask.getLsbD 2 = true ∧ ((n (press0 6)).inputs t0 1 0).all (·.port ≠ 2) = true ∧
    (∀ m < 10, (press0 6).pmask.getLsbD m = true → ∃ y ∈ (two 1).inputs t0 1 0 ++ [own], y.port = m) ∧
    (((two 1).inputs t0 1 0 ++ [own]).map (·.rank)).Nodup ∧
    ¬ (((two 0).inputs t0 1 0 ++ [own]).map (·.rank)).Nodup ∧
    (press0 6).port ≠ 0 ∧ ({ press0 6 with port := 0 } : TreeEntry).port = 0 ∧ tile0.mem.bank 0 = ⟨.on, none⟩ := by decide

set_option maxRecDepth 8000 in
/-- A multicast flit of an entry that does not take it, that only passes it on, that delivers it at the last row of the scratchpad, and whose
bank is OFF or in retention; a transfer that arrives. -/
theorem test_multicast :
    let e : TreeEntry := { TreeEntry.init with v := true, kind := true, pmask := 5, port := 1, lrow := 0x7FFF }
    let f := treeFlit input0
    let s := treeState e f
    let b (k : Bk) : TileMem := { TileMem.init with banks := [(15, ⟨k, none⟩)] }
    s.net.treeAt t0 1 true f = true ∧ (s.net.tree t0 1).v = true ∧ f.part.map (·.val) = some e.part.toNat ∧ e.port.toNat = 1 ∧
    ({ e with port := 2 } : TreeEntry).port.toNat ≠ 1 ∧ ({ e with pmask := 4 } : TreeEntry).pmask.getLsbD 0 = false ∧
    e.pmask.getLsbD 0 = true ∧ (e.lrow.toNat + input0.index) * 64 + 64 ≤ 0x200000 ∧ (s.tile t0).mem.bank 15 = ⟨.on, none⟩ ∧
    ((b .off).bank 15).cur = .off ∧ ((b .ret).bank 15).cur = .ret ∧ input0.words.length = 16 ∧
    (mkFlit 1 t0.port0 t0.port0 none 0 (.data true)).arrived t0.port0 = true := by decide

set_option maxRecDepth 8000 in
theorem test_ranks : List.Perm [1, 2] [2, 1] ∧ ([1, 2] : List Nat).Nodup := by decide

def linkState (x : LinkCnt) : State := { onTile tile0 with net := { Net.init with links := [(linkKey 0 2 1, x)] } }

set_option maxRecDepth 8000 in
theorem test_credits :
    ((linkState ⟨1, 0, 1, 1, 1, none, none, false⟩).net.link (linkKey t0.key 2 1)).c ≠
      ((linkState ⟨1, 0, 1, 1, 1, none, none, false⟩).net.link (linkKey t0.key 2 1)).g ∧
    (linkState ⟨1, 1, 0, 1, 1, none, none, false⟩).net.unbalanced = [] ∧
    (∀ m ∈ [1, 2], ((linkState ⟨1, 1, 0, 1, 1, some (BitVec.ofNat 16 m), some (BitVec.ofNat 16 m), false⟩).net.link (linkKey t0.key 2 1)).marker = some (BitVec.ofNat 16 m) ∧
      ((linkState ⟨1, 1, 0, 1, 1, some (BitVec.ofNat 16 m), some (BitVec.ofNat 16 m), false⟩).net.link (linkKey t0.key 2 1)).echo = some (BitVec.ofNat 16 m)) ∧
    ((linkState ⟨1, 1, 0, 1, 1, none, none, false⟩).net.link (linkKey t0.key 2 1)).r = 1 ∧
    ((linkState ⟨1, 1, 0, 1, 1, none, none, false⟩).net.link (linkKey t0.key 2 1)).g ≠ 2 := by decide

/-! ### Sizing and vats (R105–R182) -/

/-- Lane 0 of P(0, 0, 0), the site's window and the tile's clock. -/
def laneState (l : Lane) (win : Option (BitVec 64)) (running : Bool) : State :=
  { onTile { tile0 with clk := { StageClock.init with running := running, no := 1, active := [1] } } with
    sites := [(0, { site0 with window := win })]
    lanes := [(0, l)] }

/-- A lane whose bin 0 is `b`. -/
def binLane (b : Bin) : Lane := { Lane.init with bins := [(0, b)] }

set_option maxRecDepth 8000 in
theorem test_slots : ∀ a b : Bool,
    let win := if a then some 0 else none
    let p : Option Pass := if b then some ⟨15, 15, []⟩ else none
    let l := { binLane { Bin.init with pass := p } with slotClock := 496, since := true }
    let s := laneState l win true
    (s.site t0.site).up = true ∧ (s.site t0.site).arith = true ∧ (s.tile t0).clk.running = true ∧ (s.tile t0).clk.keeps 0 = true ∧
    (s.tile t0).clk.keeps 1 = false ∧ (s.lane t0 0).inSlot = true ∧
    (s.lane t0 0).quar = false ∧ (s.owesTest t0 && (s.lane t0 0).qualifies) = false ∧
    ((s.lane t0 0).getBin 0).pass = p ∧ p.all (fun p => p.slots < 16) = true ∧ (s.site t0.site).window = win := by decide

set_option maxRecDepth 8000 in
theorem test_slot_left :
    let l := { binLane { Bin.init with held := true, lbarred := false } with slotClock := 496 }
    let s := { laneState l none true with vats := [(95, { Vat.init with mode := 1, testDue := true })] }
    (s.lane t0 0).inSlot = true ∧ (s.lane t0 0).quar = false ∧ (s.owesTest t0 && (s.lane t0 0).qualifies) = true := by decide

set_option maxRecDepth 8000 in
theorem test_check_vectors :
    let l := { Lane.init with since := true, cvs := [false], failedCv := true }
    let s := { laneState l none false with
      tiles := [(0, { tile0 with sc := { tile0.sc with wait := .send } })]
      parts := [(0, { Part.init with couch := { Couch.init with replayed := true, replayTag := some 0 } })] }
    (s.tile t0).sc.wait = .send ∧ (s.tile t0).quiet .lq = true ∧ (s.lane t0 0).since = true ∧ s.tileRuns t0 = true ∧
    (s.lane t0 0).cvs = [false] ∧ ((s.lane t0 0).failedCv && s.inReplay t0) = true ∧
    ({ Lane.init with cvs := [true] } : Lane).cvs = [true] := by decide

/-- The sums of a converter of gain 1, no offset and no density. -/
def goodSum (k : Nat) : Nat := if k < 2048 then [0, 768, 1152, 768].getD (k % 4) 0 else [0, 12288, 18432, 12288].getD (k % 4) 0

def goodSums : SMap Nat := (List.range 2080).map fun k => (k, goodSum k)

theorem get_table (f : Nat → Nat) (l : List Nat) (k : Nat) (h : k ∈ l) : SMap.get 0 (l.map fun k => (k, f k)) k = f k := by
  induction l with
  | nil => cases h
  | cons a r ih =>
    simp only [List.map_cons, SMap.get]
    split_ifs with e
    · rw [e]
    · exact ih ((List.mem_cons.1 h).resolve_left e)

theorem get_goodSums (k : Nat) (h : k < 2080) : SMap.get 0 goodSums k = goodSum k :=
  get_table goodSum _ k (List.mem_range.2 h)

set_option maxRecDepth 8000 in
theorem goodCal_ok (data : Bool) : (newCal data 0 (if data then 768 else 12288) (if data then 1152 else 18432)
    (if data then 768 else 12288)).ok = true := by cases data <;> decide +kernel

/-- A plausible pass of a bin that holds no values yet, after 16 slots of a lane outside stages. -/
theorem test_plausible : (binLane { Bin.init with pass := some ⟨16, 16, goodSums⟩ }).plausible 0 (passCals goodSums) = true := by
  have held : ((binLane { Bin.init with pass := some ⟨16, 16, goodSums⟩ }).getBin 0).held = false := rfl
  simp only [Lane.plausible, List.all_eq_true, List.mem_range, held, Bool.not_false, Bool.true_or, Bool.and_true]
  intro c hc
  have g : (passCals goodSums).getD c ⟨0, 0, 0, false⟩ = newCal (decide (c < 512)) (SMap.get 0 goodSums (4 * c))
      (SMap.get 0 goodSums (4 * c + 1)) (SMap.get 0 goodSums (4 * c + 2)) (SMap.get 0 goodSums (4 * c + 3)) := by
    simp [passCals, List.getD_eq_getElem?_getD, List.getElem?_map, List.getElem?_range hc]
  rw [g, get_goodSums _ (by omega), get_goodSums _ (by omega), get_goodSums _ (by omega), get_goodSums _ (by omega)]
  have m0 : 4 * c % 4 = 0 := by omega
  have m1 : (4 * c + 1) % 4 = 1 := by omega
  have m2 : (4 * c + 2) % 4 = 2 := by omega
  have m3 : (4 * c + 3) % 4 = 3 := by omega
  by_cases h : c < 512
  · have e := goodCal_ok true
    simp only [goodSum, m0, m1, m2, m3, show 4 * c < 2048 by omega, show 4 * c + 1 < 2048 by omega,
      show 4 * c + 2 < 2048 by omega, show 4 * c + 3 < 2048 by omega, if_true, h, decide_true]
    exact e
  · have e := goodCal_ok false
    simp only [goodSum, m0, m1, m2, m3, show ¬ 4 * c < 2048 by omega, show ¬ 4 * c + 1 < 2048 by omega,
      show ¬ 4 * c + 2 < 2048 by omega, show ¬ 4 * c + 3 < 2048 by omega, if_false, h, decide_false]
    exact e

theorem test_implausible : (newCal true 0 0 0 0).ok = false := by decide +kernel

set_option maxRecDepth 8000 in
theorem test_passes :
    let s := laneState { binLane { Bin.init with pass := some ⟨16, 16, []⟩ } with succ := 2 } none false
    (s.site t0.site).up = true ∧ (s.site t0.site).arith = true ∧ (s.tile t0).pl.bad = false ∧ (s.tile t0).clk.running = false ∧
    ((s.lane t0 0).getBin 0).pass = some ⟨16, 16, []⟩ ∧ ((s.lane t0 0).getBin 0).warm = false ∧ (s.lane t0 0).quar = false ∧
    2 ≤ (s.lane t0 0).succ ∧ Lane.init.succ < 2 ∧ (s.site t0.site).window = none ∧
    ({ site0 with window := some 0 } : Site).window ≠ none ∧ ({ Lane.init with quar := true, lifting := true } : Lane).lifting = true := by decide

set_option maxRecDepth 8000 in
theorem test_ages :
    let b : Bin := { Bin.init with held := true, due := false, barred := false, pass := some ⟨15, 16384, []⟩ }
    let s (n : Nat) : State := { laneState (binLane b) none false with sup := { Sup.init with counter := BitVec.ofNat 64 n } }
    (((s 0).lane t0 0).getBin 0).pass = some ⟨15, 16384, []⟩ ∧ ((s 0).lane t0 0).warmed = false ∧ ((s 0).lane t0 0).quar = false ∧
    ((s 0).tile t0).pl.bad = false ∧ ((s 0).tile t0).pl.failed = false ∧ ((s 0).tile t0).pl.part = some 0 ∧ ((s 0).part 0).oos = false ∧
    ({ Lane.init with quar := true, rewarm := true } : Lane).rewarm = true ∧
    1000000 ≤ (s 1000000).sup.counter.toNat - ((s 1000000).site t0.site).warmFrom.toNat ∧
    (((s 0).lane t0 0).getBin 0).held = true ∧ (((s 0).lane t0 0).getBin 0).unstamped = false ∧
    10000000 ≤ (s 10000000).sup.counter.toNat - b.ts.toNat ∧ 49900000 ≤ (s 49900000).sup.counter.toNat - b.ts.toNat ∧
    b.due = false ∧ b.barred = false ∧ ({ b with unstamped := true } : Bin).unstamped = true := by decide

set_option maxRecDepth 8000 in
/-- The last row of the last vat in a load; a vat that is bound; tests of a spare and of an ACTIVE vat. -/
theorem test_vats :
    let s := { onTile tile0 with parts := [(0, { Part.init with load := { Load.init with state := 5, vats := [95] } })] }
    (∀ q : Fin 32, (s.part q).load.state ≠ 4) ∧ (List.replicate 64 (0 : Byte)).length % 64 = 0 ∧
    511 + (List.replicate 64 (0 : Byte)).length / 64 ≤ 512 ∧ (s.site t0.site).up = true ∧ (s.vat 95).part = none ∧
    s.loadOf 95 = some 0 ∧ (s.part 0).idle = true ∧ (s.vat 95).spares + 8 ≤ 8 ∧ 2 ∉ rowCodes 2 (List.replicate 64 0) ∧
    ({ Vat.init with part := some 0 } : Vat).part ≠ none ∧ ({ Vat.init with part := some 0 } : Vat).tested = false ∧
    ({ Vat.init with part := some 0, testDue := true } : Vat).testDue = true ∧
    (binLane { Bin.init with held := true, lbarred := false }).qualifies = true ∧
    ({ Vat.init with mode := 3, testDue := true } : Vat).testFails = 0 := by decide

/-! ### Serving (R385–R422) -/

/-- A package of two shards; of an adapter, its base model's manifest has digest 5. -/
def manifest0 (kind : Nat) : Manifest :=
  { magic := pkgMagic, fmtver := 1, kind := kind, sigoff := 384, pubkey := 1, pkgid := 1, svn := 0, nshard := 2, total := 100,
    base := if kind = 3 then 5 else 0, reserved := List.replicate 115 0,
    shards := [⟨0, 60, 11, List.replicate 10 0⟩, ⟨1, 40, 12, List.replicate 10 0⟩], sig := sig0, digest := 77 }

def prog0 : Program :=
  { pkg := manifest0 2, exact := false, bw := 1, bh := 1, bwMode := .uniform, power := .static, entry := 0, stages := [⟨100, 0, 0, [], [], []⟩], images := [[0]],
    tileTable := List.replicate 64 0, memPlan := [], powerPlan := [], links := [], trees := [], sems := [], patches := [], kp := 16, q := 64, attnTiles := 64,
    lengthClass := 1024, gamma := 0, adapterRank := 8, adapterArea := 64, factors := [], slotTable := [], bindTable := 0, segments := [] }

def model0 : ModelInfo := ⟨0, 1, ⟨1, 1, 128, 100, 64, 16, 16, 1, [], 1, 1, true, true, 2, [], []⟩, 0, 0, [], 5, false⟩

def part1 : Part :=
  { Part.init with open_ := true, loaded := true, narrow := some prog0, models := [model0], free := 1024, total := 1024 }

def serving (x : Part) : State :=
  { talking session0 with sites := [(0, site0)], furnish := some furnish0, parts := [(0, x)] }

def req0 : Request :=
  { id := 3, part := 0, model := 1, adapter := none, prompt := ⟨none, [1, 2, 3]⟩, maxNew := 4, tau := 0, topK := 0, topP := 0x3F800000,
    stops := [], seed := 0, draft := none, exact := false, cls := 0, noIndex := false }

theorem test_talks : Talks (talking session0) 1 session0 ∧ Talks (serving part1) 1 session0 ∧ session0.heldCancels = [] :=
  ⟨⟨by decide, by decide, by decide⟩, ⟨by decide, by decide, by decide⟩, by decide⟩

set_option maxRecDepth 8000 in
theorem test_submit :
    let s := serving part1
    (serving { part1 with doze := true }).refusal 1 node0 req0 = some 3 ∧ s.refusal 1 { node0 with submit := false } req0 = some 1 ∧
    s.refusal 1 node0 { req0 with exact := true } = some 2 ∧ s.refusal 1 node0 { req0 with maxNew := 0 } = some 4 ∧
    s.refusal 1 node0 req0 = none ∧ s.furnish = some furnish0 ∧ s.furnPart 0 = some furnPart0 ∧ part1.program = some prog0 ∧
    (serving { part1 with models := [] }).entryIndex 0 2 = none ∧ ({ part1 with models := [] } : Part).model 1 = none ∧
    part1.current 9 = none ∧ effMode furnPart0 req0 = part1.isExact ∧
    (∀ i : Fin 64, (s.site i).tstate ≠ 1) ∧
    ({ s with sites := [(0, { site0 with tstate := 1 })] } : State).throttles 0 = true := by decide

set_option maxRecDepth 8000 in
theorem test_accepts : ∃ a, (serving part1).decide 1 node0 req0 = .accept a ∧ a.need ≤ part1.free :=
  ⟨_, rfl, by decide⟩

/-- Words written out from the formats of R287–R290 and R298: ADDI s1, s2, 5; ADD s1, s2, s3; WLD with its fields; a reserved
opcode, ALU function, system function and command. -/
theorem test_insn_words :
    insnOf t0 (BitVec.ofNat 32 (0x02 * 2 ^ 26 + 1 * 2 ^ 21 + 2 * 2 ^ 16 + 5)) = some (.addi t0 1 2 5) ∧
    insnOf t0 (BitVec.ofNat 32 (0x01 * 2 ^ 26 + 1 * 2 ^ 21 + 2 * 2 ^ 16 + 3 * 2 ^ 11)) = some (.aluAdd t0 1 2 3) ∧
    insnOf t0 (BitVec.ofNat 32 (0x20 * 2 ^ 26 + 1 * 2 ^ 21 + 2 * 2 ^ 16 + 3 * 2 ^ 11 + 1 * 2 ^ 6 + 9)) = some (.wld t0 1 2 3 9) ∧
    insnOf t0 0 = none ∧ insnOf t0 (BitVec.ofNat 32 (0x01 * 2 ^ 26 + 16)) = none ∧
    insnOf t0 (BitVec.ofNat 32 (0x1A * 2 ^ 26 + 6)) = none ∧ insnOf t0 (BitVec.ofNat 32 (0x20 * 2 ^ 26 + 5 * 2 ^ 6)) = none := by decide

set_option maxRecDepth 8000 in
/-- The pages of the request's slot: one of entries and one of summaries (R343, R345, R371, R392); the first of the pool's frames. -/
theorem test_pages : part1.slotMaps furnish0 furnPart0 { Slot.init with lres := 7 } req0 =
    [⟨0, 0, 0, true, false⟩, ⟨0, 2 ^ 27, 1, true, false⟩] := by decide

/-- The worked examples of EX-32: layer 31 begins at 0x7C0_0000_0000; 4,000 positions behind 2,048 shared ones take 1,392 frames. -/
theorem test_ex32 :
    let d := { model0.desc with layers := 58, kvHeads := 5 }
    d.layerPage 31 * 65536 = 0x7C000000000 ∧ d.need 4000 - d.shared 32 = 1392 := by decide

set_option maxRecDepth 8000 in
/-- A page leaves the mapping with its frame's return; one that a node of the tree holds gives no frame back (R420). -/
theorem test_return :
    let m : PageMap := ⟨3, 7, 20, true, true⟩
    let n : PNode := { part1.keyOf 1 none false 0 with pages := [(7, 20)] }
    m.after [m.removal 0] = none ∧ ({ Part.init with maps := [m] } : Part).gives (m.removal 0) = 1 ∧
    ({ Part.init with maps := [m], nodes := [n] } : Part).gives (m.removal 0) = 0 := by decide

theorem test_package_counts : (Instr.programPackageLoad 1 0 { prog0 with kp := 33 } none []).wellFormed = false ∧
    (Instr.programPackageLoad 1 0 prog0 (some { prog0 with gamma := 9 }) []).wellFormed = false := by decide

def slot0 : Slot := { Slot.init with st := .decode, q := some req0, session := 1, lc := 3, lp := 3, nf := 1, rsv := 1 }

def slotState (x : Part) (y : Slot) : State := { serving x with slots := [(0, y)] }

set_option maxRecDepth 8000 in
theorem test_cancel :
    (slotState part1 slot0).slotOf 1 3 = some 0 ∧ slot0.live = true ∧ slot0.session = 1 ∧ slot0.reqId = 3 ∧
    (serving part1).slotOf 1 3 = none ∧ (serving part1).undecided 1 3 = false ∧
    ({ serving part1 with pending := [.submit 1 req0] } : State).undecided 1 3 = true ∧
    (({ session0 with kept := [(3, ⟨4, 0, 0⟩)] } : Session).kept.find? fun e => e.1 == 3) = some (3, ⟨4, 0, 0⟩) := by decide

set_option maxRecDepth 8000 in
/-- A report of a step's stages; a release in the gap with the outputs of its slot; a gate add; writes not acknowledged. -/
theorem test_step :
    let c := { Couch.init with fresh := false, released := false }
    let o : SlotLogits := ⟨0, [List.replicate 100 0], []⟩
    (serving { part1 with couch := { c with gap := false } }).reportDue 0 t0 Report.clean = true ∧ Report.clean.unclean false = false ∧
    (⟨[], [0x101], false, false⟩ : Report).unclean false = true ∧
    (slotState { part1 with couch := c } slot0).mayRelease 0 [o] = true ∧
    SMap.wf Slot.init (slotState part1 slot0).slots = true ∧
    (slotState part1 slot0).mayStep 0 = true ∧ (slotState { part1 with couch := { c with released := true } } slot0).mayStep 0 = true ∧
    (serving part1).mayStep 0 = false ∧
    (0, CfgWrite.entry 4) ∈ ({ part1 with outWrites := [(0, .entry 4)] } : Part).outWrites ∧ part1.binsDue = false ∧
    (serving part1).net.ready (·.isCfgAck t0) = true := by decide

set_option maxRecDepth 8000 in
theorem test_events :
    let c := { Couch.init with fresh := false, released := false, gap := false }
    let s := serving { part1 with couch := { c with replayDue := true, replayTag := some 0 } }
    s.net.ready (·.isNotice 0 ⟨.recoverable, 0, evtVatCheck, some t0, none, none⟩) = true ∧ s.mayReplay 0 = true ∧ t0.key ∈ s.stopped 0 0 ∧ (s.part 0).open_ = true ∧ (s.part 0).resetDue = false ∧
    owned.restores 0 0 = true ∧ owned.mixed = false ∧ c.replayed = false ∧ c.replayDue = false ∧ ({ c with replayed := true } : Couch).replayed = true ∧
    ({ StageClock.init with running := true, no := 1, cycles := 101, budgets := [⟨100, 0, 0, [], [], []⟩] } : StageClock).overrun = true := by decide

set_option maxRecDepth 8000 in
theorem test_ends :
    let f : TokFrame := ⟨1, [5]⟩
    let done := { slot0 with st := .ended, statusSent := true, portQ := [] }
    (slotState part1 slot0).late slot0 = true ∧ (slotState part1 { slot0 with portQ := [f] }).session slot0.session = some session0 ∧
    f.k = slot0.sent + 1 ∧ (⟨2, [5]⟩ : TokFrame).k ≠ slot0.sent + 1 ∧ (slotState part1 done).mayFree 0 done = true ∧ done.adapt = none := by
  decide

/-! ### Models, programs, adapters (R424–R449) -/

set_option maxRecDepth 8000 in
theorem test_loads :
    let l : Load := { Load.init with state := 1, entry := some 0 }
    let s := serving { part1 with load := l }
    s.entryIndex 0 1 = some 0 ∧ s.entryIndex 0 2 = none ∧ (∃ m ∈ part1.models, m.entry = 0) ∧ node0.management = true ∧
    (∀ m ∈ ({ part1 with models := [] } : Part).models, m.entry ≠ 0) ∧ Load.init.state = 0 ∧ Load.init.queue = [] ∧
    ({ l with entry := some 1 } : Load).entry ≠ some 0 ∧ (s.entryOf 0 l.entry).isSome = true ∧
    (manifest0 1).fault furnish0 9 1 = none ∧ (manifest0 3).fault furnish0 9 1 = some 5 ∧
    (s.entryOf 0 l.entry).all (fun w => w.pubkey == 1 && w.pkgid == 1 && w.minSvn ≤ 0 && w.sources.length == 2) = true ∧
    (s.cached furnish0 ⟨1, 1, 0, 100, [60, 40], 0, 0, none, 77⟩).isSome = true ∧
    ({ l with tries := 2, src := 0 } : Load).tries < 3 ∧ ({ l with tries := 3 } : Load).tries = 3 ∧
    ({ l with shard := 0, nshard := 2 } : Load).shard + 1 ≠ 2 ∧ ({ l with shard := 1, nshard := 2 } : Load).shard + 1 = 2 := by decide

set_option maxRecDepth 8000 in
/-- A partition in each of the states of R390, and a load that can commit in the gap. -/
theorem test_part_states :
    let q := { part1 with switching := some true }
    let f := serving { part1 with isExact := true, exact := some prog0 }
    let d := { part1 with load := { Load.init with state := 7, entry := some 0, manifest := some (manifest0 1), desc := some model0.desc } }
    q.switching ≠ none ∧ ({ part1 with halted := true } : Part).halted = true ∧ ({ part1 with thermClosed := true } : Part).thermClosed = true ∧
    effMode furnPart0 req0 ≠ (f.part 0).isExact ∧ ({ f with slots := [(0, slot0)] } : State).allFree 0 = false ∧
    d.load.state = 7 ∧ d.load.entry = some 0 ∧ d.load.manifest = some (manifest0 1) ∧ d.load.desc = some model0.desc ∧ d.idle = true := by
  decide

set_option maxRecDepth 8000 in
/-- A descriptor without slices passes and takes no vat; one of head width 64 does not pass. -/
theorem test_descriptors : model0.desc.ok = true ∧ ({ model0.desc with headWidth := 64 } : Descriptor).ok = false ∧
    fitWith [] ((serving part1).sliceTiles 0 model0.desc) ((serving part1).candidates 0)
      (((serving part1).candidates 0).length + 1) 0 = some ([], []) := by decide

set_option maxRecDepth 8000 in
/-- The one-block program passes R329 on its partition; with another bandwidth mode it does not. -/
theorem test_programs :
    let s := serving { part1 with open_ := false, pkg := some (prog0, none, 1), switching := some false }
    s.programOk 0 prog0 s.map = true ∧ s.programOk 0 { prog0 with bwMode := .neighbour } s.map = false ∧
    (s.part 0).idle = true ∧ s.allFree 0 = true ∧ (s.part 0).pkg = some (prog0, none, 1) ∧ (s.part 0).switching = some false ∧
    furnPart0.exact ≠ .exact := by decide

set_option maxRecDepth 8000 in
theorem test_adapters :
    let d : AdapterDesc := ⟨4, 2, 8, [], [11, 12]⟩
    let a : SMap AdSlot := [(0, ⟨.current, 4, 1, 1, 0⟩)]
    let full : Part := { part1 with adapters := (List.range 64).map fun k => (k, ⟨.current, BitVec.ofNat 16 (100 + k), 1, 0, 0⟩) }
    let s := serving part1
    s.adapterFault 0 (manifest0 3) d = none ∧ s.adapterFault 0 (manifest0 1) d = some 5 ∧ part1.version 4 = 0 ∧
    part1.freeAdapter = some 0 ∧ full.freeAdapter = none ∧ ({ part1 with adapters := a } : Part).current 4 = some 0 ∧
    ({ part1 with adapters := a } : Part).version 4 = 1 ∧ SMap.wf AdSlot.init a = true ∧
    (({ part1 with adapters := [(63, ⟨.filling, 4, 1, 0, 0⟩)] } : Part).adapter 63).st = .filling ∧
    8 ≤ prog0.adapterRank ∧ part1.job = none ∧ ({ part1 with job := some ⟨1, 4, 8, 0, 1, 1, none, .messages, 0, 0, true⟩ } : Part).job ≠ none ∧
    ({ furnPart0 with tuning := true } : FurnPart).tuning = true ∧ furnPart0.tuning = false := by decide

set_option maxRecDepth 8000 in
/-- The area of slot 1 lies A bytes into the adapter grant, and the commit in the gap writes it (R443, R444). -/
theorem test_area :
    let fu := { furnish0 with parts := [{ furnPart0 with adapterGrant := some 0 }] }
    let s := { serving { part1 with adapters := [(1, ⟨.filling, 4, 1, 0, 0⟩)] } with furnish := some fu }
    s.adapterArea 0 1 = some (0, 64) ∧ s.adapterArea 0 (2 ^ 20) = none ∧ (serving part1).adapterArea 0 1 = none ∧
    (s.writeArea 0 1 [0xA5, 0, 0x5A]).loft = [(64, 0xA5), (66, 0x5A)] := by decide

/-- The device key with a leaf, before its next reservation, and after its last leaf. -/
def key0 : Ident := { Ident.init with lmsLimit := 1024 }

set_option maxRecDepth 8000 in
theorem test_key : key0.canSign = true ∧ key0.exhausted = false ∧ key0.signings = [] ∧ Ident.init.canSign = false ∧
    ({ key0 with lmsNext := 2 ^ 40 } : Ident).exhausted = true ∧ Ident.init.lmsLimit < Ident.init.lmsNext + 256 ∧
    ({ key0 with lmsNext := 2 ^ 19 } : Ident).treeDue = true ∧ Ident.sound key0 = true ∧ Ident.sound Ident.init = true := by decide

/-! ### Faults and the black box (R457–R482) -/

set_option maxRecDepth 8000 in
theorem test_faults :
    let x := { tile0 with clk := { StageClock.init with wdRunning := true, wdLimit := 5, wdCount := 5 } }
    let s := { serving part1 with tiles := [(0, x)] }
    let lost := { slotState part1 { slot0 with sent := 2 } with sessions := [] }
    (s.tile t0).pl.part = some 0 ∧ (s.tile t0).clk.wdRunning = true ∧ (s.tile t0).clk.wdLimit ≤ (s.tile t0).clk.wdCount ∧
    s.mayTest t0 = true ∧ s.sup.refOk.length = 2 ∧ s.sup.refOk.getD 1 false = true ∧ s.sup.holdover = false ∧
    ({ Sup.init with refOk := [true, false] } : Sup).refOk.getD 1 false = false ∧
    (s.part 0).open_ = true ∧ (s.part 0).resetDue = false ∧ part1.idle = true ∧ part1.free + part1.rsv + part1.used = part1.total ∧
    ({ part1 with free := 0 } : Part).free + part1.rsv + part1.used ≠ part1.total ∧ lost.tokenBad 0 ≠ none ∧ s.tokenBad 0 = none := by
  decide

theorem test_occupied : 512 < ({ State.reset with slots := (List.range 513).map fun k => (k, slot0) } : State).occupied := by
  simp only [State.occupied, List.filter_map, List.length_map]
  rw [List.filter_eq_self.2 (by intro k _; rfl)]
  simp

set_option maxRecDepth 8000 in
theorem test_bbx :
    let b := Bbx.init []
    let w := { b with rings := [(0, { SiteRing.init with waiting := [BbxRec.init] })] }
    (w.ring 0).waiting = BbxRec.init :: [] ∧ b.frozen = false ∧ b.freezeDue = false ∧ ({ b with frozen := true } : Bbx).frozen = true ∧
    ({ b with freezeDue := true } : Bbx).freezeDue = true ∧ ({ b with flushing := true } : Bbx).flushing = true ∧
    (b.image b.target).valid = false ∧ (site0).up = true := by decide

/-! ### Start-up, resets, power (R486–R535) -/

def obs0 : BootObs := ⟨[], [], [], [], [], [], [], false, false, true, []⟩

/-- A firmware image of 1,024 B before its block. -/
def fw0 : Firmware := ⟨sig0, 0, 0, 1024, 6⟩

/-- A flash with both images. -/
def flash0 : Flash := { Flash.init with fwA := some fw0, furnB := some furnish0 }

set_option maxRecDepth 8000 in
theorem test_startup :
    let s := { State.reset with flash := flash0 }
    s.sup.phase = 1 ∧ s.sup.trip = false ∧ pickCopy State.reset.firmwareOk State.reset.flash.fwA State.reset.flash.fwB = none ∧
    pickCopy s.firmwareOk s.flash.fwA s.flash.fwB = some (false, fw0) ∧
    pickCopy s.furnishOk s.flash.furnA s.flash.furnB = some (true, furnish0) ∧ obs0.flashOk = true ∧
    ({ s with sup := { Sup.init with warmDue := some 1 } } : State).warmReady = true ∧
    changedHands (some furnish0) furnish0 0 = false ∧ changedHands none furnish0 0 = true := by decide

set_option maxRecDepth 8000 in
theorem test_resets :
    let s := serving part1
    (s.site t0.site).up = true ∧ (s.tile t0).clk.running = false ∧ (s.part 0).oos = false ∧ (s.part 0).thermClosed = false ∧
    (∀ i ∈ s.sitesOf 0, (s.site (Fin.ofNat 64 i)).up = true ∧ (s.site (Fin.ofNat 64 i)).inReset = false) ∧
    0 ∈ s.affected 0 ∧ SMap.wf Session.init s.sessions = true ∧ s.session 1 = some session0 ∧ session0.port.val = 0 ∧
    session0.lost = none := by decide

set_option maxRecDepth 8000 in
theorem test_power :
    let c := { Couch.init with fresh := false, gap := false, replayDue := true, supplyEvent := true }
    let x : Site := { site0 with window := some 0 }
    let s := { serving { part1 with couch := c } with sites := [(0, x)], sup := { Sup.init with counter := 101 } }
    let cool : Site := { site0 with coolSince := some 0 }
    let sleepy := serving { part1 with doze := true }
    (s.site 0).up = true ∧ (s.site 0).inReset = false ∧ (s.site 0).window ≠ none ∧ site0.window = none ∧ s.windowTooLong 0 0 = true ∧
    0 ∈ s.affected 0 ∧ (s.part 0).couch.replayDue = true ∧ (s.part 0).couch.supplyEvent = true ∧
    ({ Site.init with inReset := true } : Site).up = false ∧ s.sup.vinLow = false ∧
    cool.coolFor 10000000 10000000 = true ∧ cool.coolFor 100000000 100000000 = true ∧ sleepy.maySleep 0 = true ∧
    Sup.init.cap < (1 : BitVec 16) ∧ capAccepted (some furnish0) 800 = true ∧ capAccepted (some furnish0) 799 = false ∧
    s.sup.standby = false := by decide

/-- Samples at the thresholds of R530–R535: a trip at 115 °C, a site-off at 110 °C, a throttle at 105 °C, and one below. -/
def sample (t : Int) : ThermSample := ⟨List.replicate 16 t, List.replicate 8 400, List.replicate 4 400⟩

set_option maxRecDepth 8000 in
theorem test_temperatures : (tempsOf (sample 920)).trip = true ∧ (tempsOf (sample 880)).trip = false ∧ (tempsOf (sample 880)).off = true ∧
    (tempsOf (sample 840)).off = false ∧ (tempsOf (sample 840)).over 840 760 = true ∧ (tempsOf (sample 839)).off = false ∧
    (tempsOf (sample 839)).over 840 760 = false := by decide

/-! ### Sessions, management, peers (R545–R597) -/

set_option maxRecDepth 8000 in
theorem test_sessions :
    let h : Hs := ⟨0, 7, 0, some 0⟩
    let s := { talking session0 with furnish := some furnish0, handshakes := [(1, h)], ident := key0 }
    let old : Session := { session0 with lost := some 0, ticket := 9 }
    let u := { s with sessions := [(1, session0), (2, old)] }
    s.announces 0 = true ∧ (s.phwPort 0).up = true ∧ s.furnNode 7 = some node0 ∧ s.furnNode 8 = none ∧ s.roomFor 0 = true ∧
    s.hs 1 = some h ∧ h.resp ≠ none ∧ s.now ≤ h.start + 100000000 ∧ sig0.ok = true ∧
    ({ sig0 with hss := false } : SigCheck).ok = false ∧ (session0.acked - session0.acked).toNat ≤ session0.unacked.length ∧
    session0.unacked.length < (session0.acked + 1 - session0.acked).toNat ∧ (s.phwPort 1).up = false ∧
    u.resumable 9 = some (2, old) ∧ u.session 2 = some old ∧ SMap.wf Session.init u.sessions = true ∧ u.resumable 5 = none ∧
    old.lost = some 0 := by decide

theorem test_times : 200000000 ≤ ({ State.reset with sup := { Sup.init with counter := 200000000 } } : State).now ∧
    20000000 ≤ ({ State.reset with sup := { Sup.init with counter := 20000000 } } : State).now ∧
    100000000 ≤ ({ State.reset with sup := { Sup.init with counter := 100000000 } } : State).now := by decide

/-- The only fused slot cannot be revoked; the second of two can, unless the furnish in use is its own. -/
theorem test_revoke :
    let d := { Ident.init with fused := 3 }
    (∀ k : Fin 4, k ≠ 0 → Ident.init.fused.getLsbD k.val = true → Ident.init.revoked.getLsbD k.val = true) ∧
    ¬ (∀ k : Fin 4, k ≠ 1 → d.fused.getLsbD k.val = true → d.revoked.getLsbD k.val = true) ∧ d.revoked.getLsbD 1 = false ∧
    d.inUse.toNat ≠ (1 : Fin 4).val ∧ node0.register = true ∧ ({ node0 with register := false } : Node).register = false := by decide

set_option maxRecDepth 8000 in
theorem test_management :
    let s := { talking session0 with ident := { key0 with fwRun := 1 } }
    s.sup.phase = 12 ∧ s.ident.fwFuse ≠ s.ident.fwRun ∧ s.ident.furnFuse = s.ident.furnRun ∧ s.sup.fwB = false ∧
    (⟨.plk, 0x100⟩ : RegAddr).block ≠ .phw ∧ smbusReads ⟨.sup, 0x4E00⟩ = true ∧ ({ key0 with building := true } : Ident).building = true := by
  decide

set_option maxRecDepth 8000 in
theorem test_peers :
    let k : Package := ⟨1, 1, 0, 100, [60, 40], 2, 0, none, 77⟩
    let s := { serving part1 with
      plk := [(0, { PlkPort.init with state := 3 })]
      sto := [(0, { StoPort.init with present := true })]
      cache := ⟨[k]⟩
      ident := key0 }
    let r := serving { part1 with load := { Load.init with state := 2, entry := some 0, manifest := some (manifest0 1) } }
    (s.plkPort 0).state = 3 ∧ (s.plkPort 1).state ≠ 3 ∧ s.peerKnown 0 9 3 sig0 = true ∧ s.peerKnown 0 8 3 sig0 = false ∧
    s.ident.canSign = true ∧ (s.plkPort 0).lastFrame + 1000 ≤ ({ s with sup := { Sup.init with counter := 1000 } } : State).now ∧
    (s.cache.packages.find? fun q => q.pubkey == k.pubkey && q.pkgid == k.pkgid) = some k ∧
    (∃ q ∈ furnish0.publishers, q.pubkey = k.pubkey) ∧ (s.stoPort 0).present = true ∧ (r.driveReaders 0).head? = some 0 ∧
    (r.part 0).load.state = 2 ∧ (r.part 0).load.tries < 3 ∧ s.sup.trip = false := by decide

/-! ### Witnesses of the remaining premises -/

/-- Nothing waits at a tile that has nothing queued. -/
theorem pumpDue_none (s : State) (t : PTile) (h : (s.tile t).waiting = 0) (g : ((s.tile t).dma.ph == .vatWait) = false) :
    s.pumpDue t = false := by simp [State.pumpDue, h, g]

theorem test_quiet : (∀ p ∈ State.reset.furnished, (State.reset.part p).waits = true → State.reset.mayOpen p = false) ∧
    (∀ p ∈ State.reset.furnished, (State.reset.part p).prev = none) ∧
    ∀ t : PTile, (State.reset.canIssue t = true → State.reset.atReserved t = false) ∧ State.reset.pumpDue t = false :=
  ⟨by decide, by decide, fun t => ⟨fun _ => rfl, rfl⟩⟩

/-- A core of a loaded partition stands at a word of zeros. -/
def atZero : State := { onTile tile0 with parts := [(0, { Part.init with loaded := true })] }

theorem test_reserved : atZero.pending = [] ∧ atZero.sup.phase ≠ 10 ∧ atZero.canIssue t0 = true ∧ (atZero.tile t0).pl.part = some 0 ∧
    (atZero.part 0).loaded = true ∧ (∀ r : PTile, atZero.pumpDue r = false) ∧
    SMap.get Ecc.ok (atZero.tile t0).mem.istoreEcc ((atZero.tile t0).sc.pc.toNat / 4) ≠ .double ∧
    (SMap.get (0 : Word) (atZero.tile t0).mem.istore ((atZero.tile t0).sc.pc.toNat / 4)).toNat / 2 ^ 26 = 0 := by
  refine ⟨by decide, by decide, by decide, by decide, by decide, fun r => ?_, by decide, by decide⟩
  have h : atZero.tile r = tile0 ∨ atZero.tile r = Tile.init := by
    by_cases e : r.key = 0
    · exact Or.inl (by simp [State.tile, atZero, onTile, SMap.get, e])
    · exact Or.inr (by simp [State.tile, atZero, onTile, SMap.get, e])
  rcases h with h | h <;> exact pumpDue_none _ _ (by rw [h]; decide) (by rw [h]; decide)

/-- No unit takes the port of the last bank, and no lane wants it. -/
theorem test_port_free :
    let x := (lsState 0x1FFFFC).tile t0
    15 ∉ x.takenBy (unitRank 0) x.sc.cyc.toNat ∧
    ((x.take (unitRank 0) [⟨x.sc.cyc.toNat, x.sc.cyc.toNat, 15⟩]).wanted (unitRank 0) x.sc.cyc.toNat 15) = false := by decide

set_option maxRecDepth 8000 in
/-- A read of loft queued ahead on the same channel: the write waits too. -/
theorem test_loft_ahead :
    let loft := copying 0 (BitVec.ofNat 64 (2 * 2 ^ 60)) .access
    let s := { onTile loft with tiles := [(0, loft), (t1.key, copying (BitVec.ofNat 64 (2 * 2 ^ 60)) 0 .loftQueued)], loftQ := [(0, t1.key)] }
    s.loftAhead 0 t0.key (channelsOf 0 64) = true ∧ (s.site 0).selfref = false := by decide

set_option maxRecDepth 8000 in
/-- An echo of another count on a balanced link; a marker that the counts behind it do not reach; a credit that may return. -/
theorem test_audit_clauses :
    let k := linkKey t0.key 2 1
    let l (x : LinkCnt) : LinkCnt := (linkState x).net.link k
    (l ⟨5, 5, 0, 5, 5, none, some 4, false⟩).echo = some 4 ∧ (l ⟨5, 5, 0, 5, 5, none, some 4, false⟩).c = (l ⟨5, 5, 0, 5, 5, none, some 4, false⟩).g ∧
    (l ⟨5, 5, 0, 5, 5, none, some 4, false⟩).g ≠ 4 ∧
    (let x := l ⟨5, 5, 0, 4, 4, some 5, none, false⟩; x.marker = some 5 ∧ x.r - (x.s - 5) ≠ 5) ∧
    (let x := l ⟨6, 5, 1, 6, 6, some 5, none, false⟩; x.marker = some 5 ∧ x.r - (x.s - 5) = 5) ∧
    (l ⟨5, 4, 1, 5, 5, none, none, false⟩).echo = none ∧ (l ⟨5, 4, 1, 5, 5, none, none, false⟩).c ≠ 4 := by decide

set_option maxRecDepth 8000 in
/-- A warm-up stage that the cap has room for; a lane that has not warmed up in time. -/
theorem test_warm_up :
    let l := { binLane { Bin.init with held := true } with rewarm := true }
    let s (n : Nat) : State := { laneState l none false with
      sup := { Sup.init with counter := BitVec.ofNat 64 n }, sites := [(0, { site0 with warmSet := [0] })] }
    (s 0).warmFits 0 0 0 = true ∧ ((s 0).site 0).warmSet.contains (laneKey t0 0) = true ∧ ((s 0).lane t0 0).warmedUp = false ∧
    ((s 0).lane t0 0).rewarm = true ∧ ((s 0).site t0.site).warmSet ≠ [] ∧ ((s 0).part 0).prev = none ∧
    1000000 ≤ (s 1000000).sup.counter.toNat - ((s 1000000).site t0.site).warmFrom.toNat := by decide

set_option maxRecDepth 8000 in
/-- A slice that a remap has left to be written again, its package in the cache; codes that its zero columns and padding allow. -/
theorem test_rewrite :
    let m := { model0 with vats := [95] }
    let s := { serving { part1 with models := [m] } with
      tiles := [(0, tile0)], cache := ⟨[⟨1, 1, 0, 100, [60, 40], 2, 0, some model0.desc, 5⟩]⟩
      vats := [(95, { Vat.init with mode := 1, part := some 0, model := 1 })] }
    (s.vat 95).part = some 0 ∧ (s.vat 95).tested = false ∧ (s.vat 95).testDue = false ∧ s.hasPackage 0 (s.vat 95).model = true ∧
    (s.part 0).idle = true ∧ padFault (s.vat 95) (s.sliceRows 0 95) 511 (rows64 (List.replicate 64 0)) = false ∧
    (s.site t0.site).arith = true ∧ (s.site t0.site).sleep = false ∧
    ({ Vat.init with mode := 3, testDue := true } : Vat).testDue = true := by decide

theorem test_no_failures (k : Nat) : ((serving part1).vat k).testFails ≠ 2 := by
  simp [serving, State.vat, talking, State.reset, SMap.get, Vat.init]

set_option maxRecDepth 8000 in
/-- A request whose shape meets every test of R390, with the classes left out of the furnish. -/
theorem test_accept_shape :
    let fu := { furnish0 with classes := [] }
    let s := { serving part1 with furnish := some fu }
    s.furnPart 0 = some furnPart0 ∧ part1.program = some prog0 ∧ part1.model 1 = some model0 ∧ part1.paramsOk part1.isExact req0 = true ∧
    part1.badNarrow = false ∧ s.sup.pause.getLsbD 0 = false ∧ part1.pkg = none ∧ part1.switching = none ∧
    (∀ i : Fin 64, (s.site i).tstate ≠ 1) ∧ req0.prompt.toks.length + req0.maxNew ≤ prog0.lengthClass ∧ s.freeSlot 0 = some 0 ∧
    s.occupied < 512 ∧ part1.nodes = [] ∧
    sumN ((s.slotsOf 0).map (·.2.chunks)) + Descriptor.chunksOf model0.desc (req0.prompt.toks.length + req0.maxNew) ≤ prog0.q * prog0.attnTiles ∧
    fu.classes[req0.cls.val]? = none ∧ model0.desc.need (req0.prompt.toks.length + req0.maxNew) ≤ part1.free := by decide

set_option maxRecDepth 8000 in
/-- The states that the answers of R390 name: a load that is running, an AUTO entry, a status that waits behind its tokens. -/
theorem test_answers :
    let l := { Load.init with state := 2, entry := some 0 }
    let y := { slot0 with st := .ended, status := some ⟨4, 0, 1⟩, portQ := [⟨1, [5]⟩] }
    l.entry = some 0 ∧ l.state ≠ 0 ∧ l.state ≠ 8 ∧ (slotState part1 y).slotOf 1 3 = none ∧ (slotState part1 y).ending 1 3 = true ∧
    (serving part1).ending 1 3 = false ∧ ({ session0 with heldCancels := [3] } : Session).heldCancels = [3] ∧
    (serving { part1 with models := [] }).entryIndex 0 1 = some 0 ∧ ((serving part1).entryOf 0 (some 0)).isSome = true ∧
    (serving { part1 with free := 1, total := 1 }).decide 1 node0 req0 = .reject 0x12 0 := by decide

set_option maxRecDepth 8000 in
/-- A read, a late one, and the loads that end: without a descriptor, with one that fits and with one that does not. -/
theorem test_shards :
    let l (n : BitVec 16) (src tries : Nat) : Load :=
      { Load.init with state := 2, entry := some 0, manifest := some (manifest0 1), shard := n, nshard := 2, src := src, tries := tries, model := 1 }
    let k : Package := ⟨1, 1, 0, 100, [60, 40], 2, 0, some model0.desc, 77⟩
    let s (n : Nat) : State := { serving { part1 with load := l 0 0 0, models := [] } with
      cache := ⟨[k]⟩, sup := { Sup.init with counter := BitVec.ofNat 64 n } }
    (l 0 0 0).digestDue = some 11 ∧ (l 1 0 0).digestDue = some 12 ∧ (l 0 0 0).digestDue ≠ some 12 ∧ ((s 0).site ((s 0).cacheSite 0)).serves = true ∧
    (s 0).loftMarks [loftLine 0 0] .double = [] ∧
    ({ s 0 with loftEcc := [(0, .double)] } : State).loftMarks [loftLine 0 0] .double ≠ [] ∧
    ({ site0 with sleep := true } : Site).serves = false ∧ SMap.wf Ecc.ok (s 0).loftEcc = true ∧
    (s 0).now < (l 0 0 0).since + readLimit ∧ (l 0 0 0).since + readLimit ≤ (s 200000000).now ∧
    (l 0 0 2).tries < 3 ∧ (l 0 1 3).tries = 3 ∧ (l 0 0 3).src + 1 < 2 ∧ (l 0 1 3).src + 1 = 2 ∧
    (l 0 0 0).shard + 1 ≠ (l 0 0 0).nshard ∧ (l 1 0 0).shard + 1 = (l 1 0 0).nshard ∧ (l 1 0 0).desc = none ∧
    (∀ m ∈ ((s 0).part 0).models, m.id ≠ (l 0 0 0).model) ∧ ((s 0).entryOf 0 (some 0)).all (fun w => w.sources.length == 2) = true := by
  decide

/-- The 96 vats of tile 0, of partition 0. -/
def full : SMap Vat := (List.range 96).map fun k => (k, { Vat.init with mode := 3, part := some 0, model := 1 })

set_option maxRecDepth 30000 in
/-- A victim makes room for one slice; nothing makes room without one. -/
theorem test_fit : fitWith full [0] [{ model0 with vats := [0] }] 2 0 = some ([{ model0 with vats := [0] }], [0]) ∧
    fitWith full [0] [] 1 0 = none := by decide +kernel

set_option maxRecDepth 8000 in
/-- Packages that are refused and that pass; an install that can start; one whose acceptance tests are still to be made. -/
theorem test_installs :
    let s := serving { part1 with pkg := some (prog0, none, 1) }
    s.packageFault prog0 none [11, 12] = none ∧ s.packageFault prog0 none [11, 13] = some 4 ∧ s.packageFault { prog0 with pkg := manifest0 1 } none [11, 12] = some 5 ∧
    s.packageFault { prog0 with pkg := { manifest0 2 with pubkey := 9 } } none [11, 12] = some 2 ∧
    s.writesDone 0 = true ∧ (s.part 0).prev = none ∧ s.testsDone 0 = true ∧
    ({ serving { part1 with models := [{ model0 with vats := [95] }] } with vats := [(95, { Vat.init with mode := 1 })] } : State).testsDone 0 = false ∧
    ({ part1 with switching := some false } : Part).switching = some false := by decide

set_option maxRecDepth 30000 in
/-- A suspect row that fails in a bank with no spare row left fails the tile of an install; one that passes does not. -/
theorem test_failing :
    let x := { tile0 with mem := { TileMem.init with suspects := [0], spareRows := [(0, 32)] } }
    let s := { serving { part1 with pkg := some (prog0, none, 1) } with tiles := [(0, x)] }
    ((s.writeProgram 0 prog0 s.map).resetTiles [(⟨0, 0, 0⟩, 0)] (s.tilesOf 0)).anyFailed 0 = true ∧
    ((s.writeProgram 0 prog0 s.map).resetTiles [] (s.tilesOf 0)).anyFailed 0 = false := by decide +kernel

set_option maxRecDepth 8000 in
/-- A tuning job that may start, from the adapter of its id; one that is ready to round its masters. -/
theorem test_tuning :
    let fa : Factor := ⟨7, 0, 0, 16⟩
    let g := { prog0 with factors := [fa], adapterRank := 8 }
    let f := { furnPart0 with tuning := true, adapterGrant := some 0 }
    let x := { part1 with narrow := some g, adapters := [(0, ⟨.current, 4, 1, 0, 0⟩)] }
    let j : Job := ⟨1, 4, 8, 0, 2, 1, some 4, .messages, 1, 0, true⟩
    let c := { Couch.init with fresh := false, released := false }
    let s := { serving x with furnish := some { furnish0 with parts := [f] } }
    let u := { s with parts := [(0, { x with job := some j, couch := c })] }
    s.furnPart 0 = some f ∧ f.tuning = true ∧ s.jobOk 0 g 1 4 8 (some 4) = true ∧ s.jobOk 0 g 1 0 8 none = false ∧
    x.freeAdapter = some 1 ∧ x.idle = true ∧ x.current 4 = some 0 ∧ s.adapterGrant 0 = some ⟨0, 0, 0, 2 ^ 26⟩ ∧
    factorFits fa g.adapterArea ⟨0, 0, 0, 2 ^ 26⟩ = true ∧
    (u.part 0).job = some j ∧ j.done < j.steps ∧ j.ready = true ∧ u.mayRelease 0 [] = true ∧ u.inFlight 0 = [] ∧
    x.version 4 = 1 ∧ s.adapterFault 0 { manifest0 3 with base := 6 } ⟨4, 2, 8, [], [11, 12]⟩ = some 5 ∧
    s.adapterFault 0 (manifest0 3) ⟨4, 2, 8, [], [11, 13]⟩ = some 4 := by decide

set_option maxRecDepth 8000 in
/-- A spare tile that may be tested; a site that sleeps; a frame that stands in two places; a slot that holds no request. -/
theorem test_fault_clauses :
    let s := onTile Tile.init
    let m : PageMap := ⟨0, 0, 20, true, false⟩
    let x := { part1 with maps := [m, m], free := 1022, used := 2 }
    let y := { slot0 with used := 1 }
    (s.tile t0).pl.part = none ∧ s.mayTest t0 = true ∧ [3#4].filter isUnit ≠ [] ∧ s.isBad t0.key = false ∧
    ({ site0 with sleep := true } : Site).sleep = true ∧ x.frames.dedup.length ≠ x.frames.length ∧ y.sound = true ∧
    ({ y with q := none } : Slot).sound = false ∧ x.idle = true ∧ (∀ p : Fin 32, s.tokenBad p = none) := by decide

/-- A record of the first event of R481, of the supervisor. -/
def rec0 : BbxRec := ⟨0, BitVec.ofNat 32 (0xFF * 2 ^ 17), evtVatCheck, 0, 0, 0⟩

set_option maxRecDepth 8000 in
/-- Records that are sound and not; copies on the network; an image slot that is left, and none. -/
theorem test_bbx_clauses :
    let b := Bbx.init []
    let copy := mkFlit 0 (storeAt 0) (0, 0, 0) none 0 (.bbx rec0)
    let s (fs : List Flit) : State := { State.reset with net := { Net.init with flits := fs } }
    let valid : SMap Image := (List.range 8).map fun k => (k, { Image.init with valid := k != 0, seq := BitVec.ofNat 32 (k + 1) })
    BbxRec.sound rec0 = true ∧ BbxRec.sound { rec0 with event := 0 } = false ∧ (s []).net.ready (fun f => f.msg == .bbx rec0) = true ∧
    (s [copy]).net.ready (fun f => f.msg == .bbx rec0) = false ∧ (s [copy]).net.copying = true ∧ (s []).net.copying = false ∧
    ({ b with freezeDue := true } : Bbx).freezeDue = true ∧ (b.image b.target).valid = false ∧
    (∃ i : Nat, i < 8 ∧ i ≠ b.target ∧ (b.image i).valid = false) ∧
    (let w := Bbx.init valid; w.target = 0 ∧ (w.image w.target).valid = false ∧ ∀ i : Nat, i < 8 → i ≠ w.target → (w.image i).valid = true) ∧
    ({ Sup.init with tripDue := true, imageDue := [(none, .furnish furnish0)] } : Sup).tripDue = true := by
  refine ⟨by decide, by decide, by decide, by decide, by decide, by decide, by decide, by decide, ⟨1, by decide⟩, by decide, by decide⟩

set_option maxRecDepth 8000 in
/-- A device without images; a WARM that is due, at once, in holdover and after the 3 s; no tile that has failed. -/
theorem test_warm :
    let s := { State.reset with flash := flash0, sup := { Sup.init with phase := 12, warmDue := some 1 } }
    s.warmReady = true ∧ ({ s with sup := { s.sup with holdover := true } } : State).warmReady = false ∧ s.sup.phase ≠ 15 ∧
    ({ s with bbx := { s.bbx with flushing := true } } : State).warmReady = false ∧
    ({ s with bbx := { s.bbx with flushing := true }, sup := { s.sup with counter := 300000000 } } : State).warmReady = true ∧
    (∀ t : PTile, (s.tile t).pl.failed = false) ∧ (∀ k : Nat, s.isBad k = false) ∧ obs0.coldLanes = [] ∧ obs0.vatColumns = [] ∧
    (∀ p : Fin 32, (s.part p).loaded = false) :=
  ⟨by decide, by decide, by decide, by decide, by decide, fun _ => rfl, fun _ => rfl, rfl, rfl, fun _ => rfl⟩

set_option maxRecDepth 8000 in
/-- Rows that a tile can replace, and that it cannot; a device SUPPLY reset that may run, and one that waits. -/
theorem test_reset_clauses :
    let s := serving part1
    TileMem.init.spent [0] = false ∧ ({ TileMem.init with suspects := [0], spareRows := [(0, 32)] } : TileMem).spent [0] = true ∧ (s.part 0).prev = none ∧
    s.bbx.flushing = false ∧ s.bbx.freezeDue = false ∧ s.sup.trip = false ∧ (s.site 0).up = true ∧ (s.site 1).up = false ∧
    ({ s with bbx := { s.bbx with freezeDue := true } } : State).bbx.freezeDue = true := by decide

set_option maxRecDepth 8000 in
/-- Partitions that wake at once and that must reopen; a sleeping site of theirs. -/
theorem test_wake :
    let s := serving part1
    let z := { serving { part1 with doze := true } with sites := [(0, { site0 with sleep := true })] }
    s.sleepingOf [0] = [] ∧ z.sleepingOf [0] = [0] ∧ (z.part 0).open_ = true ∧ 0 ∈ z.sitesOf 0 ∧ s.sup.tripDue = false ∧
    (serving { part1 with couch := { Couch.init with gap := true } }).announces 0 = true := by decide

set_option maxRecDepth 8000 in
/-- Beacons, acknowledgements and retransmissions in time, early and late; a window closed by the node's credit. -/
theorem test_session_clauses :
    let f : Frame := .tokens 3 1 [5]
    let x := { session0 with unacked := [f], queued := [f, .reply 0 0 []], seq := 1 }
    let s (n : Nat) : State := { talking x with sup := { Sup.init with phase := 12, counter := BitVec.ofNat 64 n } }
    (s 0).announces 0 = true ∧ ((s 0).phwPort 0).beacons = 0 ∧ ((s 0).phwPort 0).lastBeacon + 10000000 ≤ (s 10000000).now ∧
    (s 0).sup.trip = false ∧ (s 0).ident.ringOff.getLsbD 2 = false ∧ (s 0).ident.signings = [] ∧ (s 0).diesOff = false ∧
    x.unacked ≠ [] ∧ x.ackAt + 2000 ≤ (s 2000).now ∧ (s 1999).now < x.ackAt + 2000 ∧ (1 - x.acked : Word).toNat ≤ x.unacked.length ∧
    f.urgent = true ∧ (Frame.reply 0 0 []).urgent = false ∧ (leave 1 1 (false, false) x.queued).2 = [.reply 0 0 []] ∧ (leave 1024 0 (false, false) x.queued).2 = [] ∧
    session0.canSend true = true ∧ ({ session0 with credit := 0 } : Session).canSend false = false ∧
    ({ session0 with seq := 0x7FFFF800 } : Session).rekey.epochStart = 0x7FFFF801 ∧ session0.rekey = session0 ∧
    session0.lastTelem = none ∧ session0.telemEvery = none ∧ 0 + 10 * 100000 ≤ (s 1000000).now ∧ (s 999999).now < 0 + 10 * 100000 := by decide

set_option maxRecDepth 8000 in
/-- Image writes that are quiet, that are busy and that wait; an entry whose word is uncorrectable. -/
theorem test_management_clauses :
    let s := talking session0
    let g : FlashImage := .furnish furnish0
    let w := { s with sup := { s.sup with imageDue := [(some 1, g)] } }
    s.bbx.flushing = false ∧ s.bbx.freezeDue = false ∧ s.sup.imageDue = [] ∧ (∃ e ∈ w.sup.imageDue, sameRegion e.2 g = true) ∧
    sameRegion (.firmware fw0) g = false ∧ ((semState { owned with ecc := .double }).sem 0 1).ecc = .double := by
  refine ⟨by decide, by decide, by decide, ⟨(some 1, .furnish furnish0), by simp, rfl⟩, rfl, by decide⟩

set_option maxRecDepth 8000 in
/-- A drive that a load reads, in time and late; a device that has switched its peer dies off. -/
theorem test_drive_clauses :
    let l := { Load.init with state := 2, entry := some 0, manifest := some (manifest0 1) }
    let s (n : Nat) : State := { serving { part1 with load := l } with sup := { Sup.init with counter := BitVec.ofNat 64 n } }
    let late (n : Nat) := ((s n).driveReaders 0).filter fun p => ((s n).part p).load.since + readLimit ≤ (s n).now
    late 199999999 = [] ∧ (late 200000000).head? = some 0 ∧ (s 0).diesOff = false ∧
    ({ s 0 with sup := { Sup.init with standby := true }, sites := [] } : State).diesOff = true := by decide

set_option maxRecDepth 8000 in
/-- A peer link in training, in AUTH and up, with frames that wait for credit; packages that are and are not served; a signing that waits. -/
theorem test_peer_clauses :
    let k : Package := ⟨1, 1, 0, 100, [60, 40], 2, 0, none, 77⟩
    let x : PlkPort := { PlkPort.init with state := 3, credit := 1, out := [⟨0, 0, .absent 1 1 0⟩, ⟨0, 1, .absent 1 1 1⟩] }
    let s := { serving part1 with plk := [(0, x), (1, { x with state := 1 }), (2, { x with state := 2 })], cache := ⟨[k]⟩ }
    (s.plkPort 0).state = 3 ∧ (s.plkPort 1).state.toNat < 2 ∧ (s.plkPort 2).state = 2 ∧ s.sup.running = true ∧ s.diesOff = false ∧
    s.ident.signings = [] ∧ s.ident.exhausted = false ∧ s.ident.canSign = false ∧ ({ s.ident with lmsNext := 2 ^ 40 } : Ident).exhausted = true ∧
    (∀ q ∈ s.furnished, (s.part q).prev = none) ∧ 0 < k.got ∧ ¬ 2 < k.got ∧ (s.site (Fin.ofNat 64 k.site)).serves = true ∧
    s.furnish = some furnish0 ∧ (∃ q ∈ furnish0.publishers, q.pubkey = k.pubkey) ∧ s.cache.packages = [k] ∧ x.pump.out.length = 1 ∧
    (slotState part1 slot0).liveSlots [0] = [0] ∧ slot0.live = true := by decide

set_option maxRecDepth 8000 in
/-- A read command that a load waits for; a drive that no load commands. -/
theorem test_commands :
    let s := serving { part1 with load := { Load.init with state := 2, entry := some 0, manifest := some (manifest0 1) } }
    s.commanding 0 = [0] ∧ s.commanding 1 = [] ∧ (s.part 0).load.tries < 3 := by decide

/-- A request's header, as R546 lays it out, of session 1, with the SEQ that the device expects next, or another. -/
def header0 (seq : Word) : List Byte := FrameHeader.bytes ⟨0x10, 0, 1, seq, 0, 0, 0, 0⟩

set_option maxRecDepth 30000 in
/-- Frames that R546 accepts and drops; a SEQ that is not the next; snapshots that are asked for; the keys of the console; a torn record. -/
theorem test_frames :
    let s := talking session0
    let c : Challenge := ⟨none, 0, sig0⟩
    frameOk (header0 3) true = true ∧ frameOk [] true = false ∧ (FrameHeader.parse (header0 3)).session = 1 ∧
    s.heardOn 0 1 = some session0 ∧ session0.ticketUsed = false ∧ (FrameHeader.parse (header0 3)).seq ≠ session0.rxSeq ∧
    (FrameHeader.parse (header0 0)).seq = session0.rxSeq ∧ s.challengeOk c = true ∧ ({ s with furnish := some furnish0 } : State).challengeOk c = false ∧
    ({ s with furnish := some furnish0 } : State).challengeOk { c with signer := some 7 } = true ∧ s.ident.lmsLimit < s.ident.lmsNext + 256 ∧
    s.flash.lmsAt = 0 := by decide +kernel

/-! ### The whole block -/

theorem test_inv : State.reset.Inv ∧ (serving part1).Inv :=
  ⟨⟨by decide, by decide, by decide⟩, ⟨by decide, by decide, by decide⟩⟩

theorem test_step_next : (match step ({ onTile tile0 with pending := [.deviceSupplyReset], sup := { Sup.init with phase := 12 } } : State) with
    | .next u => u.sup.rstKind == 2 | _ => false) = true := by decide

end Sys2Proof.Tests
end

section
/-! SUPPORT. Sparse maps under the operations that change many keys: what a key reads as, and which part of the list stays. -/

namespace Sys2Proof.Machine.SMap

variable {V : Type}

/-- A key that does not read as the default stands in the list. -/
theorem mem_of_get_ne {d : V} {m : List (Nat × V)} {k : Nat} (h : get d m k ≠ d) : (k, get d m k) ∈ m := by
  induction m with
  | nil => exact absurd rfl h
  | cons e r ih =>
    obtain ⟨a, v⟩ := e
    simp only [get] at h ⊢
    split_ifs at h ⊢ with hk
    · rw [hk]; exact List.mem_cons_self ..
    · exact List.mem_cons_of_mem _ (ih h)

theorem get_of_has_false {d : V} {m : List (Nat × V)} {k : Nat} (h : has m k = false) : get d m k = d := by
  induction m with
  | nil => rfl
  | cons e r ih =>
    obtain ⟨a, v⟩ := e
    simp only [has, Bool.or_eq_false_iff, beq_eq_false_iff_ne] at h
    rw [get, if_neg h.1, ih h.2]

theorem filter_put {q : Nat × V → Bool} {k : Nat} {v : V} (hk : ∀ w, q (k, w) = false) (m : List (Nat × V)) :
    (put m k v).filter q = m.filter q := by
  induction m with
  | nil => simp [put, hk]
  | cons e r ih =>
    obtain ⟨a, w⟩ := e
    simp only [put]
    split_ifs with h1 h2
    · subst h1; simp [hk]
    · simp [hk]
    · simp [List.filter_cons, ih]

theorem filter_del {q : Nat × V → Bool} {k : Nat} (hk : ∀ w, q (k, w) = false) (m : List (Nat × V)) :
    (del m k).filter q = m.filter q := by
  induction m with
  | nil => rfl
  | cons e r ih =>
    obtain ⟨a, w⟩ := e
    simp only [del]
    split_ifs with h1
    · subst h1; simp [hk, ih]
    · simp [List.filter_cons, ih]

section Canonical
variable [DecidableEq V]

/-- A write of a key that a filter drops leaves what the filter keeps. -/
theorem filter_set {q : Nat × V → Bool} {k : Nat} (hk : ∀ w, q (k, w) = false) (d : V) (m : List (Nat × V)) (v : V) :
    (set d m k v).filter q = m.filter q := by
  simp only [set]
  split_ifs
  · exact filter_del hk m
  · exact filter_put hk m

/-- What no change of `f` affects reads the same at every key. -/
theorem get_mapVals_field {α : Type} (d : V) {f : Nat → V → V} (g : V → α) (h : ∀ k v, g (f k v) = g v) (m : List (Nat × V)) (k : Nat) :
    g (get d (mapVals d f m) k) = g (get d m k) := by
  rw [get_mapVals]
  split_ifs with hk
  · exact h k _
  · rw [get_of_has_false (by simpa using hk)]

/-- What the default and every changed value satisfy holds at every key. -/
theorem get_mapVals_prop {d : V} {f : Nat → V → V} {P : V → Prop} (hd : P d) (hf : ∀ k v, P (f k v)) (m : List (Nat × V)) (k : Nat) :
    P (get d (mapVals d f m) k) := by
  rw [get_mapVals]
  split_ifs
  · exact hf k _
  · exact hd

theorem get_modifyAll_of_not_mem (d : V) (f : Nat → V → V) {ks : List Nat} {k : Nat} (hk : k ∉ ks) (m : List (Nat × V)) :
    get d (modifyAll d f ks m) k = get d m k := by
  induction ks generalizing m with
  | nil => rfl
  | cons a r ih =>
    rw [List.mem_cons, not_or] at hk
    rw [modifyAll, ih hk.2, get_set_ne d m _ hk.1]

/-- A key that stands once among the listed ones is changed once. -/
theorem get_modifyAll_of_mem (d : V) (f : Nat → V → V) {ks : List Nat} (hn : ks.Nodup) {k : Nat} (hk : k ∈ ks) (m : List (Nat × V)) :
    get d (modifyAll d f ks m) k = f k (get d m k) := by
  induction ks generalizing m with
  | nil => cases hk
  | cons a r ih =>
    obtain ⟨ha, hr⟩ := List.nodup_cons.1 hn
    rw [modifyAll]
    by_cases h : k = a
    · subst h; rw [get_modifyAll_of_not_mem d f ha, get_set_self]
    · rw [ih hr ((List.mem_cons.1 hk).resolve_left h), get_set_ne d m _ h]

end Canonical

end Sys2Proof.Machine.SMap
end

section
/-! SUPPORT. Commands that complete. -/

namespace Sys2Proof.Machine

/-- A command completes with what holds of the state that it answers. -/
theorem Completes.of_next {i : Instr} {s u : State} {P : State → Prop} (h : exec i s = .next u) (hP : P u) : Completes i s P := ⟨u, h, hP⟩

end Sys2Proof.Machine
end

section
/-! SUPPORT. How slots end (R406, R421): which slots are live after an ending, and that the slots of other partitions stay. -/

namespace Sys2Proof.Machine

/-! ### Frames leave the slots alone -/

@[simp] theorem Serv.push_slots (x : Serv) (n : Nat) (f : Frame) : (x.push n f).slots = x.slots := by
  unfold Serv.push; split <;> rfl

@[simp] theorem Serv.keepStatus_slots (x : Serv) (n : Nat) (id : BitVec 64) (st : Status) : (x.keepStatus n id st).slots = x.slots := by
  unfold Serv.keepStatus; split <;> rfl

@[simp] theorem Serv.sendStatus_slots (x : Serv) (n : Nat) (id : BitVec 64) (st : Status) : (x.sendStatus n id st).slots = x.slots := by
  rw [Serv.sendStatus, Serv.push_slots, Serv.keepStatus_slots]

/-! ### The end of slots -/

@[simp] theorem Slot.ended_live (x : Slot) (code detail : BitVec 8) (now : Nat) : (x.ended code detail now).live = false := rfl

/-- The slots after the end of one. -/
theorem Serv.endSlot_slots (x : Serv) (now : Nat) (code detail : BitVec 8) (k : Nat) :
    (x.endSlot now code detail k).slots = if (SMap.get Slot.init x.slots k).live
      then SMap.set Slot.init x.slots k ((SMap.get Slot.init x.slots k).ended code detail now) else x.slots := by
  unfold Serv.endSlot
  dsimp only
  split
  · split
    · exact Serv.sendStatus_slots ..
    · rfl
  · rfl

theorem Serv.endSlot_not_live_self (x : Serv) (now : Nat) (code detail : BitVec 8) (k : Nat) :
    (SMap.get Slot.init (x.endSlot now code detail k).slots k).live = false := by
  rw [Serv.endSlot_slots]
  split
  next => rw [SMap.get_set_self, Slot.ended_live]
  next h => exact Bool.eq_false_iff.2 h

/-- No slot becomes live when one ends. -/
theorem Serv.endSlot_not_live {x : Serv} {j : Nat} (h : (SMap.get Slot.init x.slots j).live = false) (now : Nat) (code detail : BitVec 8)
    (k : Nat) : (SMap.get Slot.init (x.endSlot now code detail k).slots j).live = false := by
  by_cases hj : j = k
  · rw [hj]; exact Serv.endSlot_not_live_self x now code detail k
  · rw [Serv.endSlot_slots]
    split
    · rw [SMap.get_set_ne _ _ _ hj, h]
    · exact h

theorem Serv.endSlots_not_live {x : Serv} {j : Nat} (h : (SMap.get Slot.init x.slots j).live = false) (now : Nat) (code detail : BitVec 8)
    (ks : List Nat) : (SMap.get Slot.init (x.endSlots now code detail ks).slots j).live = false := by
  induction ks generalizing x with
  | nil => exact h
  | cons k r ih => exact ih (Serv.endSlot_not_live h now code detail k)

/-- A slot of the list is not live after its end. -/
theorem Serv.endSlots_not_live_of_mem (x : Serv) {j : Nat} (now : Nat) (code detail : BitVec 8) {ks : List Nat} (hj : j ∈ ks) :
    (SMap.get Slot.init (x.endSlots now code detail ks).slots j).live = false := by
  induction ks generalizing x with
  | nil => cases hj
  | cons k r ih =>
    rcases List.mem_cons.1 hj with rfl | hj
    · exact Serv.endSlots_not_live (Serv.endSlot_not_live_self x now code detail j) now code detail r
    · exact ih _ hj

/-- The end of slots that a filter drops leaves what the filter keeps. -/
theorem Serv.endSlots_filter {q : Nat × Slot → Bool} (x : Serv) (now : Nat) (code detail : BitVec 8) {ks : List Nat}
    (hk : ∀ k ∈ ks, ∀ y, q (k, y) = false) : (x.endSlots now code detail ks).slots.filter q = x.slots.filter q := by
  induction ks generalizing x with
  | nil => rfl
  | cons k r ih =>
    refine (ih _ fun j hj => hk j (List.mem_cons_of_mem _ hj)).trans ?_
    rw [Serv.endSlot_slots]
    split
    · exact SMap.filter_set (hk k (List.mem_cons_self ..)) _ _ _
    · rfl

/-! ### The end of every slot of some partitions -/

theorem State.mem_liveSlots {s : State} {ps : List (Fin 32)} {p : Fin 32} (hp : p ∈ ps) {k : Nat} (hk : k / 128 = p.val)
    (h : (SMap.get Slot.init s.slots k).live = true) : k ∈ s.liveSlots ps := by
  have hm : (k, SMap.get Slot.init s.slots k) ∈ s.slots := SMap.mem_of_get_ne fun e => by rw [e] at h; cases h
  refine List.mem_map.2 ⟨_, List.mem_filter.2 ⟨hm, ?_⟩, rfl⟩
  rw [h, Bool.true_and, List.any_eq_true]
  exact ⟨p, hp, by simpa using hk⟩

/-- The partition of a live slot is among those asked for. -/
theorem State.part_of_mem_liveSlots {s : State} {ps : List (Fin 32)} {k : Nat} (h : k ∈ s.liveSlots ps) : ∃ p ∈ ps, k / 128 = p.val := by
  obtain ⟨e, he, rfl⟩ := List.mem_map.1 h
  obtain ⟨p, hp, hk⟩ := List.any_eq_true.1 (Bool.and_eq_true_iff.1 (List.mem_filter.1 he).2).2
  exact ⟨p, hp, by simpa using hk⟩

/-- No slot of the partitions is live after their end. -/
theorem State.endServ_not_live (s : State) {ps : List (Fin 32)} {p : Fin 32} (hp : p ∈ ps) (code detail : BitVec 8) {k : Nat}
    (hk : k / 128 = p.val) : (SMap.get Slot.init (s.endServ ps code detail).slots k).live = false := by
  cases h : (SMap.get Slot.init s.slots k).live
  · exact Serv.endSlots_not_live (x := s.serv) h ..
  · exact Serv.endSlots_not_live_of_mem _ _ _ _ (State.mem_liveSlots hp hk h)

/-- The entries of another partition stay. -/
theorem State.endServ_filter (s : State) {ps : List (Fin 32)} {q : Fin 32} (hq : q ∉ ps) (code detail : BitVec 8) :
    ((s.endServ ps code detail).slots.filter fun e => e.1 / 128 = q.val) = s.slotsOf q := by
  refine Serv.endSlots_filter s.serv _ _ _ fun k hk y => ?_
  obtain ⟨p, hp, hkp⟩ := State.part_of_mem_liveSlots hk
  have hne : p.val ≠ q.val := fun e => hq (Fin.ext e ▸ hp)
  simpa [hkp] using hne

@[simp] theorem mem_allParts (p : Fin 32) : p ∈ allParts := List.mem_ofFn.2 ⟨p, rfl⟩

/-- A device-fatal event leaves no slot of a partition live (R462). -/
theorem State.fatal_not_live (s : State) (ev : BitVec 16) (detail : BitVec 64) (code dt : BitVec 8) {k : Nat} (hk : k < 4096) :
    (SMap.get Slot.init (s.fatal ev detail code dt).slots k).live = false :=
  s.endServ_not_live (mem_allParts (Fin.ofNat 32 (k / 128))) code dt (Nat.mod_eq_of_lt (by omega)).symm

end Sys2Proof.Machine
end

section
/-! SUPPORT. The supervisor ring (R476–R478): the record in its place after an append, a row of appends and the call for a freeze; and
the site rings. -/

namespace Sys2Proof.Machine

/-- The record at a place of the ring. -/
def Bbx.recAt (b : Bbx) (i : BitVec 16) : BbxRec := SMap.get BbxRec.init b.recs i.toNat

theorem Bbx.append_next {b : Bbx} (h : b.frozen = false) (r : BbxRec) : (b.append r).next = b.next + 1 := by simp [Bbx.append, h]

theorem place_ne_next (i : BitVec 16) : i ≠ i + 1 := by bv_omega

/-- A record stands at the place that was next. -/
theorem Bbx.append_recAt_self {b : Bbx} (h : b.frozen = false) (r : BbxRec) : (b.append r).recAt b.next = r := by
  simp [Bbx.append, Bbx.recAt, h]

theorem Bbx.append_recAt_ne (b : Bbx) (r : BbxRec) {i : BitVec 16} (hi : i ≠ b.next) : (b.append r).recAt i = b.recAt i := by
  simp only [Bbx.append, Bbx.recAt]
  split
  · rfl
  · exact SMap.get_set_ne _ _ _ fun e => hi (BitVec.eq_of_toNat_eq e)

/-- Fewer records than stand between the next place and a place do not reach it. -/
theorem Bbx.appendAll_recAt (b : Bbx) (rs : List BbxRec) {i : BitVec 16} (hi : rs.length ≤ (i - b.next).toNat) :
    (b.appendAll rs).recAt i = b.recAt i := by
  induction rs generalizing b with
  | nil => rfl
  | cons r rs ih =>
    rw [List.length_cons] at hi
    have hne : i ≠ b.next := by rintro rfl; simp at hi
    refine (ih _ ?_).trans (b.append_recAt_ne r hne)
    cases hf : b.frozen
    · rw [Bbx.append_next hf]; bv_omega
    · simp only [Bbx.append, hf, if_pos]; omega

/-- The last record of a running ring stays, whatever fewer than 65,536 records follow it. -/
theorem Bbx.appendAll_recAt_last {b : Bbx} (h : b.frozen = false) (r : BbxRec) {rs : List BbxRec} (hl : rs.length < 65536) :
    ((b.append r).appendAll rs).recAt b.next = r := by
  rw [Bbx.appendAll_recAt, Bbx.append_recAt_self h]
  rw [Bbx.append_next h]
  bv_omega

@[simp] theorem Bbx.callFreeze_recs (b : Bbx) (ev : BitVec 16) : (b.callFreeze ev).recs = b.recs := by unfold Bbx.callFreeze; split <;> rfl

@[simp] theorem Bbx.callFreeze_recAt (b : Bbx) (ev : BitVec 16) (i : BitVec 16) : (b.callFreeze ev).recAt i = b.recAt i := by
  rw [Bbx.recAt, Bbx.callFreeze_recs]; rfl

/-- After the call the rings are stopped, or are to stop. -/
theorem Bbx.callFreeze_due (b : Bbx) (ev : BitVec 16) : (b.callFreeze ev).frozen = true ∨ (b.callFreeze ev).freezeDue = true := by
  unfold Bbx.callFreeze
  split
  next h => exact (Bool.or_eq_true ..).mp h
  next => exact .inr rfl

/-- The record of a device-fatal event (R462). -/
theorem State.fatal_recAt {s : State} (h : s.bbx.frozen = false) (ev : BitVec 16) (detail : BitVec 64) (code dt : BitVec 8) :
    ((s.fatal ev detail code dt).bbx.recAt s.bbx.next).event = ev := by
  have hb : (s.fatal ev detail code dt).bbx = (s.bbx.append (s.sup.record ev none 0 detail)).callFreeze ev := rfl
  rw [hb, Bbx.callFreeze_recAt, Bbx.append_recAt_self h]
  rfl

/-- A site's record stands in its ring at the place that was next. -/
theorem Bbx.siteLog_rec {b : Bbx} {site : Fin 64} (h : (b.ring site).frozen = false) (r : BbxRec) :
    SMap.get BbxRec.init ((b.siteLog site r).ring site).recs (b.ring site).next = r := by
  have hr : (b.siteLog site r).ring site = (b.ring site).append r := SMap.get_set_self ..
  rw [hr]
  simp [SiteRing.append, h]

end Sys2Proof.Machine
end

section
/-! SUPPORT. What a recorded event does to the couches of the partitions (R404, R406, R526): everything outside serving and the
supervisor ring stays, and each partition appends at most one record. -/

namespace Sys2Proof.Machine

/-- `u` is `s` but for the partitions, the slots, the sessions, the ports' counts, and at most `n` records of the supervisor ring. -/
def JudgesOnly (n : Nat) (s u : State) : Prop :=
  ∃ (ps : SMap Part) (sl : SMap Slot) (se : SMap Session) (ph : SMap PhwPort) (rs : List BbxRec), rs.length ≤ n ∧
    u = { s with parts := ps, slots := sl, sessions := se, phw := ph, bbx := s.bbx.appendAll rs }

theorem Bbx.appendAll_append (b : Bbx) (l r : List BbxRec) : b.appendAll (l ++ r) = (b.appendAll l).appendAll r := by
  induction l generalizing b with
  | nil => rfl
  | cons a l ih => exact ih _

namespace JudgesOnly

variable {m n : Nat} {s t u : State}

theorem refl (s : State) : JudgesOnly 0 s s := ⟨_, _, _, _, [], Nat.le_refl _, rfl⟩

theorem mono (h : JudgesOnly m s u) (hn : m ≤ n) : JudgesOnly n s u := by
  obtain ⟨ps, sl, se, ph, rs, hl, rfl⟩ := h
  exact ⟨ps, sl, se, ph, rs, hl.trans hn, rfl⟩

theorem trans (h : JudgesOnly m s t) (k : JudgesOnly n t u) : JudgesOnly (m + n) s u := by
  obtain ⟨_, _, _, _, rs, hl, rfl⟩ := h
  obtain ⟨ps, sl, se, ph, rs', hl', rfl⟩ := k
  refine ⟨ps, sl, se, ph, rs ++ rs', ?_, ?_⟩
  · rw [List.length_append]; omega
  · rw [Bbx.appendAll_append]

end JudgesOnly

theorem State.setPart_judgesOnly (s : State) (p : Fin 32) (x : Part) : JudgesOnly 0 s (s.setPart p x) :=
  ⟨_, _, _, _, [], Nat.le_refl _, rfl⟩

theorem State.endStep_judgesOnly (s : State) (p : Fin 32) (code detail : BitVec 8) : JudgesOnly 0 s (s.endStep p code detail) :=
  ⟨_, _, _, _, [], Nat.le_refl _, rfl⟩

theorem State.endOutside_judgesOnly (s : State) (p : Fin 32) (code detail : BitVec 8) : JudgesOnly 0 s (s.endOutside p code detail) :=
  ⟨_, _, _, _, [], Nat.le_refl _, rfl⟩

theorem State.append_judgesOnly (s : State) (r : BbxRec) : JudgesOnly 1 s { s with bbx := s.bbx.append r } :=
  ⟨_, _, _, _, [r], Nat.le_refl _, rfl⟩

theorem State.judge_judgesOnly (s : State) (p : Fin 32) (n : Notice) : JudgesOnly 1 s (s.judge p n) := by
  unfold State.judge
  dsimp only
  split
  · exact (JudgesOnly.refl s).mono (by omega)
  · split
    case h_1 => exact (JudgesOnly.refl s).mono (by omega)
    case h_2 => exact (s.setPart_judgesOnly p _).mono (by omega)
    case h_3 code detail second _ =>
      have h := (s.setPart_judgesOnly p { s.part p with couch := ((s.part p).couch.name n.tile).note n.kind }).trans
        (State.endStep_judgesOnly _ p code detail)
      split
      · exact h.trans (State.append_judgesOnly _ _)
      · exact h.mono (by omega)
    case h_4 => exact (s.endOutside_judgesOnly p _ _).mono (by omega)

theorem State.judgeAll_judgesOnly (s : State) (n : Notice) (ps : List (Fin 32)) : JudgesOnly ps.length s (s.judgeAll n ps) := by
  induction ps generalizing s with
  | nil => exact .refl s
  | cons p r ih => exact ((s.judge_judgesOnly p n).trans (ih _)).mono (by rw [List.length_cons]; omega)

end Sys2Proof.Machine
end

section
/-! SUPPORT. Self-tests and the retirement of tiles (R457, R461, R465). -/

namespace Sys2Proof.Machine

/-! ### Records and notices of a tile's fault -/

/-- The notices of a class T event of tile `t`: one to the couch of its partition. -/
def State.faultNotices (s : State) (t : PTile) (ev : BitVec 16) : List Flit :=
  match (s.tile t).pl.part with
  | none => []
  | some p => [noticeFlit s.net t (some p) ⟨.hardware, (s.tile t).sc.stagecnt, ev, some t, none, none⟩]

theorem State.tileFault_eq (s : State) (t : PTile) (unit : Nat) (ev : BitVec 16) (detail : BitVec 64) :
    s.tileFault t unit ev detail = { s with
      bbx := s.bbx.siteLog t.site (Ctx.record ⟨t, s⟩ (s.tile t) unit ev detail)
      net := s.net.send (s.faultNotices t ev) } := rfl

@[simp] theorem State.tileFault_tile (s : State) (t : PTile) (unit : Nat) (ev : BitVec 16) (detail : BitVec 64) (r : PTile) :
    (s.tileFault t unit ev detail).tile r = s.tile r := rfl

theorem State.faultNotices_some {s : State} {t : PTile} {p : Fin 32} (h : (s.tile t).pl.part = some p) (ev : BitVec 16) :
    s.faultNotices t ev = [noticeFlit s.net t (some p) ⟨.hardware, (s.tile t).sc.stagecnt, ev, some t, none, none⟩] := by
  simp only [State.faultNotices, h]

/-! ### Self-tests -/

/-- The unit code of a lane's check comparators (R477). -/
def laneUnit (k : Fin 2) : BitVec 4 := if k = 0 then 3 else 4

/-- What a run of self-tests changes: the site's ring, the notices, one for each failed unit, and the lanes. -/
theorem State.selfTestFails_eq (s : State) (t : PTile) (fails : List (BitVec 4)) : ∃ (b : Bbx) (l : SMap Lane),
    s.selfTestFails t fails = { s with
      bbx := b, lanes := l, net := s.net.send ((fails.filter isUnit).flatMap fun _ => s.faultNotices t evtSelftest) } := by
  induction fails generalizing s with
  | nil => exact ⟨s.bbx, s.lanes, by simp [State.selfTestFails, Net.send_nil]⟩
  | cons u r ih =>
    rw [State.selfTestFails]
    cases hu : isUnit u
    · obtain ⟨b, l, h⟩ := ih _
      refine ⟨b, l, h.trans ?_⟩
      rw [List.filter_cons_of_neg (by simp [hu])]
      rfl
    · obtain ⟨b, l, h⟩ := ih _
      refine ⟨b, l, h.trans ?_⟩
      rw [List.filter_cons_of_pos hu, List.flatMap_cons, ← Net.send_send]
      rfl

/-- One unit's check puts a lane under test, or leaves it as it was. -/
theorem lane_suspected (m : SMap Lane) (t : PTile) (u : BitVec 4) (k : Fin 2)
    (h : u = laneUnit k ∨ (SMap.get Lane.init m (laneKey t k)).underTest = true) :
    (SMap.get Lane.init (SMap.modifyAll Lane.init (fun _ l => l.suspect)
      (if u = 3 then [t.key * 2] else if u = 4 then [t.key * 2 + 1] else []) m) (laneKey t k)).underTest = true := by
  have one (j : Nat) (hj : j = laneKey t k ∨ (SMap.get Lane.init m (laneKey t k)).underTest = true) :
      (SMap.get Lane.init (SMap.modifyAll Lane.init (fun _ l => l.suspect) [j] m) (laneKey t k)).underTest = true := by
    simp only [SMap.modifyAll, SMap.get_set]
    split_ifs with e
    · rfl
    · exact hj.resolve_left fun a => e a.symm
  split_ifs with h3 h4
  · refine one _ (h.imp_left ?_)
    fin_cases k <;> simp [laneUnit, laneKey, h3]
  · refine one _ (h.imp_left ?_)
    fin_cases k <;> simp [laneUnit, laneKey, h4]
  · refine h.resolve_left ?_
    fin_cases k
    · exact h3
    · exact h4

/-- A lane whose unit fails is under test afterwards, as is one that was. -/
theorem State.selfTestFails_underTest (s : State) (t : PTile) (fails : List (BitVec 4)) (k : Fin 2)
    (h : laneUnit k ∈ fails ∨ (s.lane t k).underTest = true) : ((s.selfTestFails t fails).lane t k).underTest = true := by
  induction fails generalizing s with
  | nil => exact h.resolve_left (List.not_mem_nil)
  | cons u r ih =>
    rw [State.selfTestFails]
    refine ih _ ?_
    have hl : (if isUnit u = true then s.tileFault t u.toNat evtSelftest 0 else s).lanes = s.lanes := by split <;> rfl
    rw [List.mem_cons] at h
    by_cases hr : laneUnit k ∈ r
    · exact .inl hr
    · refine .inr (lane_suspected _ t u k ?_)
      rw [hl]
      exact (h.imp_left fun a => (a.resolve_right hr).symm)

/-! ### Retired tiles -/

/-- The tile with key `k` is declared bad and belongs to no partition. -/
structure State.Retired (s : State) (k : Nat) : Prop where
  logged : k ∈ s.flash.badTiles
  bad : (SMap.get Tile.init s.tiles k).pl.bad = true
  part : (SMap.get Tile.init s.tiles k).pl.part = none

theorem State.retireTile_retired (s : State) (k : Nat) : (s.retireTile k).Retired k := by
  refine ⟨?_, ?_, ?_⟩
  · simp only [State.retireTile]
    split
    next h => exact List.contains_iff_mem.1 h
    next => exact List.mem_append_right _ (List.mem_singleton_self k)
  · simp only [State.retireTile, SMap.get_set_self]
  · simp only [State.retireTile, SMap.get_set_self]

theorem State.Retired.isBad {s : State} {k : Nat} (h : s.Retired k) : s.isBad k = true := by simp [State.isBad, h.bad]

/-- The nearest tile of a list is one of it. -/
theorem mem_of_foldl_nearer {old k : Nat} {l : List Nat} {a : Option Nat} (h : l.foldl (nearer old) a = some k) : k ∈ l ∨ a = some k := by
  induction l generalizing a with
  | nil => exact .inr h
  | cons x r ih =>
    rcases ih h with hk | hk
    · exact .inl (List.mem_cons_of_mem _ hk)
    · unfold nearer at hk
      split at hk
      · cases hk; exact .inl (List.mem_cons_self ..)
      · split at hk
        · cases hk; exact .inl (List.mem_cons_self ..)
        · exact .inr hk

/-- A spare is a good tile (R465). -/
theorem State.spareFor_good {s : State} {p : Option (Fin 32)} {c r old k : Nat} (h : s.spareFor p c r old = some k) : s.isBad k = false := by
  have good : k ∈ s.spares → s.isBad k = false := fun hk => by
    have := (List.mem_filter.1 hk).2
    simp only [Bool.and_eq_true, Bool.not_eq_true'] at this
    exact this.1.1
  unfold State.spareFor at h
  dsimp only at h
  split at h
  next k' hf =>
    cases h
    exact good (List.mem_filter.1 (List.mem_of_find?_eq_some hf)).1
  next =>
    have hm := (mem_of_foldl_nearer h).resolve_right nofun
    exact good (List.mem_filter.1 (List.mem_filter.1 hm).1).1

/-- A tile that is retired stays so when another takes its place. -/
theorem State.Retired.moveTile {s : State} {k : Nat} (h : s.Retired k) (p : Option (Fin 32)) (c r old : Nat) {new : Nat} (hn : k ≠ new) :
    (s.moveTile p c r old new).Retired k := by
  obtain ⟨hl, hb, hp⟩ := h
  refine ⟨hl, ?_, ?_⟩ <;> simp only [State.moveTile, SMap.get_set_ne _ _ _ hn, hb, hp]

/-- The remap of one tile retires it. -/
theorem State.remapAll_retired (s : State) (p : Option (Fin 32)) (c r old : Nat) : (s.remapAll p [(c, r, old)]).1.Retired old := by
  have h := s.retireTile_retired old
  unfold State.remapAll
  dsimp only
  split
  · exact ⟨h.logged, h.bad, h.part⟩
  next k hk =>
    refine h.moveTile p c r old ?_
    rintro rfl
    have := State.spareFor_good hk
    rw [h.isBad] at this
    cases this

/-- A tile of no partition that fails is retired at once (R457, R465). -/
theorem State.failTile_retired {s : State} {t : PTile} (h : (s.tile t).pl.part = none) : (s.failTile t).Retired t.key := by
  unfold State.failTile
  simp only [h]
  unfold State.replaceFree
  dsimp only
  split
  · exact State.remapAll_retired ..
  · exact State.retireTile_retired ..

end Sys2Proof.Machine
end

section
/-! SUPPORT. The conservation audits (R473, R475, R487): what each finds, and how a mismatch closes its partition. -/

namespace Sys2Proof.Machine

/-! ### What an audit finds -/

/-- An identity of the page audit fails (R473): the total, the frames held, or a frame stands in two places. -/
def State.PagesWrong (s : State) (p : Fin 32) : Prop :=
  let x := s.part p
  let held := ((s.slotsOf p).map fun e => e.2.rsv + e.2.used).sum + (x.nodes.map (·.frames)).sum + x.loose.length
  x.free + x.rsv + x.used ≠ x.total ∨ x.rsv + x.used ≠ held ∨ x.frames.dedup.length ≠ x.frames.length

/-- The slot audit fails (R473): too many slots are occupied, or one holds a request and is FREE, or the reverse. -/
def State.SlotsWrong (s : State) (p : Fin 32) : Prop := 512 < s.occupied ∨ ∃ e ∈ s.slotsOf p, e.2.sound = false

theorem sumN_eq_sum (l : List Nat) : sumN l = l.sum := List.sum_eq_foldl.symm

theorem State.pageFault_eq_none_iff (s : State) (p : Fin 32) : s.pageFault p = none ↔ ¬ s.PagesWrong p := by
  unfold State.pageFault State.PagesWrong
  simp only [sumN_eq_sum]
  split_ifs with htotal hheld hframes
  · exact iff_of_false nofun (not_not_intro (.inl htotal))
  · exact iff_of_false nofun (not_not_intro (.inr (.inl hheld)))
  · exact iff_of_false nofun (not_not_intro (.inr (.inr hframes)))
  · refine iff_of_true rfl ?_
    rintro (h | h | h)
    · exact htotal h
    · exact hheld h
    · exact hframes h

theorem State.slotFault_eq_none_iff (s : State) (p : Fin 32) : s.slotFault p = none ↔ ¬ s.SlotsWrong p := by
  unfold State.slotFault State.SlotsWrong
  dsimp only
  split_ifs with h1 h2
  · simp [h1]
  · rw [List.length_eq_zero_iff, List.filter_eq_nil_iff] at h2
    simpa [h1] using h2
  · rw [List.length_eq_zero_iff, List.filter_eq_nil_iff] at h2
    simpa [h1] using h2

/-! ### The closing of a partition -/

/-- The record of an audit mismatch. -/
def State.auditRec (s : State) (p : Fin 32) (ev : BitVec 16) (exp found : Nat) : BbxRec :=
  s.sup.record ev (some p) (s.part p).couch.step (BitVec.ofNat 64 (exp % 2 ^ 32 * 2 ^ 32 + found % 2 ^ 32))

@[simp] theorem State.auditBad_bbx (s : State) (p : Fin 32) (ev : BitVec 16) (kind : BitVec 3) (exp found : Nat) :
    (s.auditBad p ev kind exp found).bbx = s.bbx.append (s.auditRec p ev exp found) := rfl

theorem State.auditBad_recAt {s : State} (h : s.bbx.frozen = false) (p : Fin 32) (ev : BitVec 16) (kind : BitVec 3) (exp found : Nat) :
    ((s.auditBad p ev kind exp found).bbx.recAt s.bbx.next).event = ev := by
  rw [State.auditBad_bbx, Bbx.append_recAt_self h]
  rfl

/-- What a mismatch of kind `kind` does to partition `p`, with its event as the next record (R475, R487). -/
def ClosedBy (s u : State) (p : Fin 32) (kind : BitVec 3) (ev : BitVec 16) : Prop :=
  (u.part p).open_ = false ∧ (u.part p).resetDue = true ∧ u.sup.auditKind = kind ∧ u.sup.auditPart = BitVec.ofNat 5 p.val ∧
  (s.bbx.frozen = false → (u.bbx.recAt s.bbx.next).event = ev) ∧ u.tiles = s.tiles ∧
  ∀ k : Nat, k / 128 = p.val → (SMap.get Slot.init u.slots k).live = false

theorem State.auditBad_closedBy (s : State) (p : Fin 32) (ev : BitVec 16) (kind : BitVec 3) (exp found : Nat) :
    ClosedBy s (s.auditBad p ev kind exp found) p kind ev := by
  have hp : (s.auditBad p ev kind exp found).part p = (s.part p).close := SMap.get_set_self ..
  exact ⟨by rw [hp]; rfl, by rw [hp]; rfl, rfl, rfl, fun hf => State.auditBad_recAt hf .., rfl,
    fun k hk => s.endServ_not_live (List.mem_singleton_self p) 5 4 hk⟩

/-- The closing of one partition leaves the count of another's tokens. -/
theorem State.auditBad_tokenBad {s : State} {p q : Fin 32} (hq : q ≠ p) (ev : BitVec 16) (kind : BitVec 3) (exp found : Nat) :
    (s.auditBad p ev kind exp found).tokenBad q = s.tokenBad q := by
  have h : (s.auditBad p ev kind exp found).slotsOf q = s.slotsOf q :=
    s.endServ_filter (fun h => hq (List.mem_singleton.1 h)) 5 4
  simp only [State.tokenBad, h]

/-! ### The audit of pages and slots -/

/-- The pages are judged first, then the slots. -/
theorem State.pageSlotAudit_eq {s : State} {p : Fin 32} (ho : (s.part p).open_ = true) (hr : (s.part p).resetDue = false)
    (hi : (s.part p).idle = true) : execPageSlotAudit p s = .next (
      let s1 := (s.pageFault p).elim s fun e => s.auditBad p evtAuditPages 3 e.1 e.2
      (s.slotFault p).elim s1 fun e => s1.auditBad p evtAuditSlots 4 e.1 e.2) := by
  simp only [execPageSlotAudit, ho, hr, hi]
  cases s.pageFault p <;> cases s.slotFault p <;> rfl

/-! ### The count of tokens -/

theorem State.tokenAudit_of_none {s : State} {l : List (Fin 32)} (h : ∀ p ∈ l, s.tokenBad p = none) : s.tokenAudit l = s := by
  induction l with
  | nil => rfl
  | cons p r ih =>
    rw [State.tokenAudit, h p (List.mem_cons_self ..)]
    exact ih fun q hq => h q (List.mem_cons_of_mem _ hq)

/-- Partitions whose counts are right come first without an effect. -/
theorem State.tokenAudit_append {s : State} {l : List (Fin 32)} (h : ∀ p ∈ l, s.tokenBad p = none) (r : List (Fin 32)) :
    s.tokenAudit (l ++ r) = s.tokenAudit r := by
  induction l with
  | nil => rfl
  | cons p l ih =>
    rw [List.cons_append, State.tokenAudit, h p (List.mem_cons_self ..)]
    exact ih fun q hq => h q (List.mem_cons_of_mem _ hq)

/-- Where the count of one open partition alone is wrong, the audit closes it. -/
theorem State.tokenAudit_of_one {s : State} {p : Fin 32} (ho : (s.part p).open_ = true) (hr : (s.part p).resetDue = false)
    (hp : s.tokenBad p ≠ none) (hq : ∀ q : Fin 32, q ≠ p → s.tokenBad q = none) :
    ∃ exp found : Nat, s.tokenAudit allParts = s.auditBad p evtAuditTokens 5 exp found := by
  obtain ⟨y, hy⟩ := Option.ne_none_iff_exists'.1 hp
  obtain ⟨l, r, hl⟩ := List.append_of_mem (mem_allParts p)
  have hn : (l ++ p :: r).Nodup := hl ▸ List.nodup_ofFn.2 Function.injective_id
  have hnp : p ∉ l ++ r := (List.nodup_middle.1 hn |> List.nodup_cons.1).1
  rw [List.mem_append, not_or] at hnp
  refine ⟨y.handed, y.sent + sumN (y.portQ.map (·.toks.length)), ?_⟩
  rw [hl, State.tokenAudit_append fun q h => hq q fun e => hnp.1 (e ▸ h)]
  simp only [State.tokenAudit, hy, ho, hr, Bool.not_false, Bool.and_true, if_pos]
  refine State.tokenAudit_of_none fun q h => ?_
  have hne : q ≠ p := fun e => hnp.2 (e ▸ h)
  rw [State.auditBad_tokenBad hne, hq q hne]

end Sys2Proof.Machine
end

section
/-! SUPPORT. The supervisors and the references (R23, R463, R464): what each of their events does. -/

namespace Sys2Proof.Machine

/-! ### The supervisors -/

/-- The block as the standby finds it when it takes over (R463): what was on its way to the primary goes to it, a WARM is asked for, the
reserved leaves are skipped. -/
def State.takenOver (s : State) : State :=
  { s with
    net := s.net.toStandby
    sup := { s.sup.requestWarm 3 with standbyActive := true }
    ident := s.ident.readLms s.flash }

theorem execSupervisorFailure_dark {s : State} (h : s.hasStandby = false) : execSupervisorFailure s = .next s.dark := by
  simp [execSupervisorFailure, h]

theorem execSupervisorFailure_standby {s : State} (h : s.hasStandby = true) :
    execSupervisorFailure s = .next (s.takenOver.fatal evtSupFail 0 5 1) := by
  simp [execSupervisorFailure, h, State.takenOver]

/-- No port of a dark device is up. -/
theorem State.dark_phwPort (s : State) (i : Fin 4) : (s.dark.phwPort i).up = false :=
  SMap.get_mapVals_prop (P := fun x : PhwPort => x.up = false) rfl (fun _ _ => rfl) s.phw i.val

/-- Nothing is addressed to the primary's attachment any more (R614). -/
theorem Net.toStandby_addressed {n : Net} {f : Flit} (h : f ∈ n.toStandby.flits) : f.dcol ≠ 0 ∨ f.drow ≠ 0 ∨ f.dport ≠ 4 := by
  obtain ⟨g, -, rfl⟩ := List.mem_map.1 h
  split
  · exact .inl (by decide : (127 : Nat) ≠ 0)
  · rename_i hg
    by_contra hc
    simp only [not_or, not_not] at hc
    exact hg hc

/-- The next leaf is LIMIT, and LIMIT does not move back (R586). -/
theorem Ident.readLms_leaves (d : Ident) (f : Flash) :
    (d.readLms f).lmsNext = (d.readLms f).lmsLimit ∧ d.lmsLimit ≤ (d.readLms f).lmsLimit := by
  unfold Ident.readLms
  split
  · exact ⟨rfl, Nat.le_refl _⟩
  · exact ⟨rfl, Nat.le_max_left _ _⟩

/-- A WARM that is asked for while the device serves is due afterwards (R498). -/
theorem Sup.requestWarm_due {u : Sup} (h : u.phase = 12 ∨ u.phase = 15) (source : BitVec 4) :
    (u.requestWarm source).warmDue ≠ none ∧ (u.warmDue = none → (u.requestWarm source).warmDue = some source) := by
  have hp : (u.phase == 12 || u.phase == 15) = true := by simpa using h
  rw [Sup.requestWarm, hp, Bool.and_true]
  cases hw : u.warmDue <;> simp [hw]

/-- Nothing else of the supervisor changes. -/
theorem Sup.requestWarm_eq (u : Sup) (source : BitVec 4) : ∃ (w : Option (BitVec 4)) (a : BitVec 64),
    u.requestWarm source = { u with warmDue := w, warmAt := a } := by
  unfold Sup.requestWarm
  split
  · exact ⟨_, _, rfl⟩
  · exact ⟨_, _, rfl⟩

/-! ### The references -/

/-- The other of the two inputs. -/
theorem otherInput {i j : Fin 2} (h : j ≠ i) : (if i = 0 then 1 else 0 : Fin 2) = j := by
  revert h; revert i j; decide

theorem getD_set_self {α : Type} {l : List α} {i : Nat} (h : i < l.length) (v d : α) : (l.set i v).getD i d = v := by
  simp [List.getD, h]

theorem getD_set_ne {α : Type} {l : List α} {i j : Nat} (h : j ≠ i) (v d : α) : (l.set i v).getD j d = l.getD j d := by
  simp [List.getD, List.getElem?_set_ne h.symm]

section

variable {s : State} {i j : Fin 2} (h : j ≠ i)
include h

/-- The input that fails was in use, and the other passes: a switch, which the couches of the partitions record (R464). -/
theorem State.refFail_switch (hj : s.sup.refOk.getD j.val false = true) (hi : i = s.sup.refSel) :
    s.refFail i = ({ s with
      sup := { s.sup with refOk := s.sup.refOk.set i.val false, refSel := j }
      bbx := s.bbx.append (s.sup.record evtRefclkSwitch none 0 0) } : State).judgeAll
        ⟨.recorded, 0, evtRefclkSwitch, none, none, none⟩ allParts := by
  have hv : j.val ≠ i.val := fun e => h (Fin.ext e)
  unfold State.refFail
  dsimp only
  rw [otherInput h, getD_set_ne hv, if_pos hj, if_pos hi]

theorem State.refFail_spare (hj : s.sup.refOk.getD j.val false = true) (hi : i ≠ s.sup.refSel) :
    s.refFail i = { s with sup := { s.sup with refOk := s.sup.refOk.set i.val false } } := by
  have hv : j.val ≠ i.val := fun e => h (Fin.ext e)
  unfold State.refFail
  dsimp only
  rw [otherInput h, getD_set_ne hv, if_pos hj, if_neg hi]

/-- Neither input passes: holdover, with the arith clocks stopped (R464). -/
theorem State.refFail_lost (hj : s.sup.refOk.getD j.val false = false) (hh : s.sup.holdover = false) :
    s.refFail i = (allSites.foldl State.stopVats { s with
      sup := { s.sup with refOk := s.sup.refOk.set i.val false, holdover := true }
      sites := SMap.mapVals Site.init (fun _ x => { x with arith := false }) s.sites }).fatal evtRefclkLost 0 5 1 := by
  have hv : j.val ≠ i.val := fun e => h (Fin.ext e)
  unfold State.refFail
  dsimp only
  rw [otherInput h, getD_set_ne hv, hj, hh]
  rfl

end

/-- The vat domains of sites stop: lanes and counters. -/
theorem State.stopVats_foldl (l : List (Fin 64)) (s : State) :
    ∃ (ls : SMap Lane) (cs : SMap Word), l.foldl State.stopVats s = { s with lanes := ls, ctrs := cs } := by
  induction l generalizing s with
  | nil => exact ⟨s.lanes, s.ctrs, rfl⟩
  | cons i r ih => exact ih _

end Sys2Proof.Machine
end

section
/-! O47: the commands of faults, self-tests, supervisors, references and audits, each by the lemmas above. -/

namespace Sys2Proof.Machine

/-- R461: the watchdog stops, and what else it does is the record and the notice. -/
theorem execStageWatchdog_fires {s : State} {t : PTile} {p : Fin 32} (hp : (s.tile t).pl.part = some p) (hw : (s.tile t).clk.wdRunning = true)
    (hl : (s.tile t).clk.wdLimit ≤ (s.tile t).clk.wdCount) (ho : (s.part p).open_ = true) :
    execStageWatchdog t s = .next ((s.setTile t { s.tile t with clk := { (s.tile t).clk with wdRunning := false } }).tileFault t 7
      evtTileHung (BitVec.ofNat 64 (s.tile t).clk.wdCount)) := by
  simp [execStageWatchdog, hp, hw, hl, ho]

theorem stageWatchdog_completes {s : State} {t : PTile} {p : Fin 32} (hp : (s.tile t).pl.part = some p)
    (hw : (s.tile t).clk.wdRunning = true) (hl : (s.tile t).clk.wdLimit ≤ (s.tile t).clk.wdCount) (ho : (s.part p).open_ = true) :
    Completes (.stageWatchdog t) s fun u => (u.tile t).clk.wdRunning = false ∧ (u.tile t).sc = (s.tile t).sc ∧
      (u.tile t).mem = (s.tile t).mem ∧ (∀ r : PTile, r ≠ t → u.tile r = s.tile r) ∧
      (∃ n : Notice, n.kind = .hardware ∧ n.code = evtTileHung ∧ noticeFlit s.net t (some p) n ∈ u.net.flits) ∧
      ((s.bbx.ring t.site).frozen = false →
        (SMap.get BbxRec.init (u.bbx.ring t.site).recs (s.bbx.ring t.site).next).event = evtTileHung) := by
  refine .of_next (execStageWatchdog_fires hp hw hl ho) ?_
  have ht := State.tile_setTile s t { s.tile t with clk := { (s.tile t).clk with wdRunning := false } }
  refine ⟨?_, ?_, ?_, fun r hr => State.tile_setTile_ne s _ hr,
    ⟨⟨.hardware, (s.tile t).sc.stagecnt, evtTileHung, some t, none, none⟩, rfl, rfl, ?_⟩, fun hf => ?_⟩
  · rw [State.tileFault_tile, ht]
  · rw [State.tileFault_tile, ht]
  · rw [State.tileFault_tile, ht]
  · rw [State.tileFault_eq, State.faultNotices_some (p := p) (by rw [ht]; exact hp), ht]
    exact List.mem_append_right _ (List.mem_singleton_self _)
  · exact congrArg BbxRec.event (Bbx.siteLog_rec (b := s.bbx) hf _)

/-- R457 for a tile of a partition. -/
theorem execCheckerSelfTest_mapped {s : State} {t : PTile} {p : Fin 32} (hp : (s.tile t).pl.part = some p) (hm : s.mayTest t = true)
    (found : SelfTest) : execCheckerSelfTest t found s = .next (s.selfTestFails t found.fails) := by
  simp [execCheckerSelfTest, hp, hm]

theorem checkerSelfTest_completes_mapped {s : State} {t : PTile} {p : Fin 32} (hp : (s.tile t).pl.part = some p) (hm : s.mayTest t = true)
    (fails : List (BitVec 4)) (verdicts : List (PTile × PTile × Bool)) :
    Completes (.checkerSelfTest t ⟨fails, verdicts⟩) s fun u => u.tiles = s.tiles ∧ u.parts = s.parts ∧
      u.net.flits.length = s.net.flits.length + (fails.filter isUnit).length ∧
      (fails.filter isUnit ≠ [] →
        noticeFlit s.net t (some p) ⟨.hardware, (s.tile t).sc.stagecnt, evtSelftest, some t, none, none⟩ ∈ u.net.flits) ∧
      (3#4 ∈ fails → (u.lane t 0).underTest = true) ∧ (4#4 ∈ fails → (u.lane t 1).underTest = true) := by
  refine .of_next (execCheckerSelfTest_mapped hp hm _) ?_
  have h0 : 3#4 ∈ fails → _ := fun h => s.selfTestFails_underTest t fails 0 (.inl h)
  have h1 : 4#4 ∈ fails → _ := fun h => s.selfTestFails_underTest t fails 1 (.inl h)
  obtain ⟨b, l, h⟩ := s.selfTestFails_eq t fails
  rw [h] at h0 h1
  dsimp only
  rw [h]
  refine ⟨rfl, rfl, ?_, fun hne => ?_, h0, h1⟩
  · simp only [Net.send, List.length_append, State.faultNotices_some hp, List.length_flatMap, List.length_singleton, List.map_const',
      List.sum_replicate, smul_eq_mul, Nat.mul_one]
  · obtain ⟨a, ha⟩ := List.exists_mem_of_ne_nil _ hne
    refine List.mem_append_right _ (List.mem_flatMap.2 ⟨a, ha, ?_⟩)
    rw [State.faultNotices_some hp]
    exact List.mem_singleton_self _

/-- R457, R471 for a tile of no partition. -/
theorem execCheckerSelfTest_spare {s : State} {t : PTile} (hp : (s.tile t).pl.part = none) (hm : s.mayTest t = true)
    (hb : s.isBad t.key = false) {found : SelfTest} (hf : found.fails.filter isUnit ≠ [] ∨ t.key ∈ foundBad found.verdicts) :
    ∃ v : State, v.tiles = s.tiles ∧ execCheckerSelfTest t found s = .next (v.failTile t) := by
  have hany : ((foundBad found.verdicts).contains t.key || found.fails.any isUnit) = true := by
    rw [Bool.or_eq_true]
    refine hf.symm.imp List.contains_iff_mem.2 fun h => List.any_eq_true.2 ?_
    obtain ⟨a, ha⟩ := List.exists_mem_of_ne_nil _ h
    exact ⟨a, (List.mem_filter.1 ha).1, (List.mem_filter.1 ha).2⟩
  obtain ⟨b, l, h⟩ := s.selfTestFails_eq t found.fails
  refine ⟨if (foundBad found.verdicts).contains t.key then (s.selfTestFails t found.fails).bringupLog [t.key]
    else s.selfTestFails t found.fails, ?_, ?_⟩
  · rw [h]
    split <;> rfl
  · simp only [execCheckerSelfTest, hm, hp, hb, hany, Option.isNone_none, Bool.not_false, Bool.and_self, if_pos]

theorem checkerSelfTest_completes_spare {s : State} {t : PTile} (hp : (s.tile t).pl.part = none) (hm : s.mayTest t = true)
    (hb : s.isBad t.key = false) {found : SelfTest} (hf : found.fails.filter isUnit ≠ [] ∨ t.key ∈ foundBad found.verdicts) :
    Completes (.checkerSelfTest t found) s fun u => t.key ∈ u.flash.badTiles ∧ (u.tile t).pl.bad = true ∧ (u.tile t).pl.part = none := by
  obtain ⟨v, hv, h⟩ := execCheckerSelfTest_spare hp hm hb hf
  have hpv : (v.tile t).pl.part = none := by rw [State.tile, hv]; exact hp
  obtain ⟨hl, hbad, hpart⟩ := State.failTile_retired hpv
  exact .of_next h ⟨hl, hbad, hpart⟩

/-- R507: no self-test runs on a site that sleeps. -/
theorem checkerSelfTest_completes_asleep {s : State} {t : PTile} (h : (s.site t.site).sleep = true) (found : SelfTest) :
    Completes (.checkerSelfTest t found) s fun u => u = s := by
  refine .of_next (u := s) ?_ rfl
  have hm : s.mayTest t = false := by simp [State.mayTest, h]
  change execCheckerSelfTest t found s = _
  rw [execCheckerSelfTest, hm]
  rfl

/-- R463, R488: with no supervisor left the device goes dark. -/
theorem supervisorFailure_completes_dark {s : State} (h : s.hasStandby = false) :
    Completes .supervisorFailure s fun u => u.sup.phase = 15 ∧ u.slots = [] ∧ u.sessions = [] ∧
      (∀ i : Fin 4, (u.phwPort i).up = false) ∧ u.tiles = s.tiles ∧ u.loft = s.loft ∧ u.ident.lmsNext = s.ident.lmsNext :=
  .of_next (execSupervisorFailure_dark h) ⟨rfl, rfl, rfl, s.dark_phwPort, rfl, rfl, rfl⟩

/-- R462, R463, R586: the standby takes over. -/
theorem supervisorFailure_completes_standby {s : State} (h : s.hasStandby = true) :
    Completes .supervisorFailure s fun u => u.sup.standbyActive = true ∧ u.net.atStandby = true ∧
      u.ident = s.ident.readLms s.flash ∧ u.ident.lmsNext = u.ident.lmsLimit ∧ s.ident.lmsLimit ≤ u.ident.lmsLimit ∧
      (∀ f ∈ u.net.flits, f.dcol ≠ 0 ∨ f.drow ≠ 0 ∨ f.dport ≠ 4) ∧
      (s.sup.phase = 12 ∨ s.sup.phase = 15 → u.sup.warmDue ≠ none ∧ (s.sup.warmDue = none → u.sup.warmDue = some 3)) ∧
      (u.bbx.frozen = true ∨ u.bbx.freezeDue = true) ∧ (s.bbx.frozen = false → (u.bbx.recAt s.bbx.next).event = evtSupFail) ∧
      (∀ k : Nat, (SMap.get Slot.init u.slots k).live = true → 4096 ≤ k) ∧ u.tiles = s.tiles ∧ u.loft = s.loft := by
  refine .of_next (execSupervisorFailure_standby h) ?_
  obtain ⟨hn, hl⟩ := s.ident.readLms_leaves s.flash
  refine ⟨rfl, rfl, rfl, hn, hl, fun f => Net.toStandby_addressed, fun hs => Sup.requestWarm_due hs 3, Bbx.callFreeze_due _ _,
    fun hf => State.fatal_recAt (s := s.takenOver) hf .., fun k hk => ?_, rfl, rfl⟩
  by_contra hlt
  rw [State.fatal_not_live _ _ _ _ _ (by omega)] at hk
  cases hk

section

variable {s : State} {i j : Fin 2} (h : j ≠ i) (hlen : s.sup.refOk.length = 2)
include h hlen

/-- R464: the input in use fails, and the other takes over. -/
theorem refclkMonitorFail_completes_switch (hj : s.sup.refOk.getD j.val false = true) (hi : i = s.sup.refSel) :
    Completes (.refclkMonitorFail i) s fun u => u.sup.refSel = j ∧ u.sup.refOk.getD i.val true = false ∧
      u.sup.holdover = s.sup.holdover ∧ u.sites = s.sites ∧ (s.bbx.frozen = false → (u.bbx.recAt s.bbx.next).event = evtRefclkSwitch) := by
  refine .of_next (congrArg Host.Outcome.next (State.refFail_switch h hj hi)) ?_
  obtain ⟨_, _, _, _, rs, hrs, hu⟩ := State.judgeAll_judgesOnly ({ s with
      sup := { s.sup with refOk := s.sup.refOk.set i.val false, refSel := j }
      bbx := s.bbx.append (s.sup.record evtRefclkSwitch none 0 0) } : State) ⟨.recorded, 0, evtRefclkSwitch, none, none, none⟩ allParts
  rw [hu]
  refine ⟨rfl, getD_set_self (by omega) _ _, rfl, rfl, fun hf => ?_⟩
  have hl : rs.length < 65536 := Nat.lt_of_le_of_lt hrs (by decide)
  exact congrArg BbxRec.event (Bbx.appendAll_recAt_last hf _ hl)

/-- R464: the input that is not in use fails. -/
theorem refclkMonitorFail_completes_spare (hj : s.sup.refOk.getD j.val false = true) (hi : i ≠ s.sup.refSel) :
    Completes (.refclkMonitorFail i) s fun u => u.sup.refSel = s.sup.refSel ∧ u.sup.refOk.getD i.val true = false ∧
      u.sites = s.sites ∧ u.slots = s.slots :=
  .of_next (congrArg Host.Outcome.next (State.refFail_spare h hj hi)) ⟨rfl, getD_set_self (by omega) _ _, rfl, rfl⟩

end

/-- R464: both inputs are lost. -/
theorem refclkMonitorFail_completes_lost {s : State} {i j : Fin 2} (h : j ≠ i) (hj : s.sup.refOk.getD j.val false = false) (hh : s.sup.holdover = false) :
    Completes (.refclkMonitorFail i) s fun u => u.sup.holdover = true ∧ (∀ k : Fin 64, (u.site k).arith = false) ∧
      (s.bbx.frozen = false → (u.bbx.recAt s.bbx.next).event = evtRefclkLost) := by
  refine .of_next (congrArg Host.Outcome.next (State.refFail_lost h hj hh)) ?_
  obtain ⟨ls, cs, hv⟩ := State.stopVats_foldl allSites { s with
    sup := { s.sup with refOk := s.sup.refOk.set i.val false, holdover := true }
    sites := SMap.mapVals Site.init (fun _ x => { x with arith := false }) s.sites }
  rw [hv]
  exact ⟨rfl, fun k => SMap.get_mapVals_prop (P := fun x : Site => x.arith = false) rfl (fun _ _ => rfl) s.sites k.val,
    fun hf => State.fatal_recAt (by exact hf) ..⟩

/-- R464: an input passes again; after the loss of both, a WARM follows. -/
theorem refclkRecovered_completes {s : State} (i : Fin 2) (hlen : s.sup.refOk.length = 2) :
    Completes (.refclkRecovered i) s fun u => u.sup.refOk.getD i.val false = true ∧ u.sup.holdover = false ∧ u.tiles = s.tiles ∧
      (s.sup.holdover = true → u.sup.refSel = i ∧ (s.sup.phase = 12 ∨ s.sup.phase = 15 → u.sup.warmDue ≠ none)) ∧
      (s.sup.holdover = false → u.sup.refSel = s.sup.refSel ∧ u.sup.warmDue = s.sup.warmDue) := by
  have hi : (s.sup.refOk.set i.val true).getD i.val false = true := getD_set_self (by omega) _ _
  refine .of_next rfl ?_
  dsimp only
  split
  next hh =>
    have hw := fun hp => (Sup.requestWarm_due (u := { s.sup with refOk := s.sup.refOk.set i.val true }) hp 4).1
    obtain ⟨w, a, hr⟩ := Sup.requestWarm_eq { s.sup with refOk := s.sup.refOk.set i.val true } 4
    rw [hr] at hw ⊢
    exact ⟨hi, rfl, rfl, fun _ => ⟨rfl, hw⟩, fun hf => absurd (hh.symm.trans hf) nofun⟩
  next hh => exact ⟨hi, Bool.eq_false_iff.2 hh, rfl, fun ht => absurd ht hh, fun _ => ⟨rfl, rfl⟩⟩

/-! ### Audits -/

section

variable {s : State} {p : Fin 32} (ho : (s.part p).open_ = true) (hr : (s.part p).resetDue = false)
include ho hr

/-- R473, R475: the count of tokens. -/
theorem tokenCountAudit_completes (hp : s.tokenBad p ≠ none) (hq : ∀ q : Fin 32, q ≠ p → s.tokenBad q = none) :
    Completes .tokenCountAudit s fun u => ClosedBy s u p 5 evtAuditTokens := by
  obtain ⟨exp, found, h⟩ := State.tokenAudit_of_one ho hr hp hq
  exact .of_next (congrArg Host.Outcome.next h) (s.auditBad_closedBy ..)

variable (hi : (s.part p).idle = true)
include hi

theorem pageSlotAudit_completes_pages (hp : s.PagesWrong p) (hs : ¬ s.SlotsWrong p) :
    Completes (.pageSlotAudit p) s fun u => ClosedBy s u p 3 evtAuditPages := by
  obtain ⟨e, he⟩ := Option.ne_none_iff_exists'.1 fun h => (s.pageFault_eq_none_iff p).1 h hp
  refine .of_next (State.pageSlotAudit_eq ho hr hi) ?_
  rw [he, (s.slotFault_eq_none_iff p).2 hs]
  exact s.auditBad_closedBy ..

theorem pageSlotAudit_completes_slots (hp : ¬ s.PagesWrong p) (hs : s.SlotsWrong p) :
    Completes (.pageSlotAudit p) s fun u => ClosedBy s u p 4 evtAuditSlots := by
  obtain ⟨e, he⟩ := Option.ne_none_iff_exists'.1 fun h => (s.slotFault_eq_none_iff p).1 h hs
  refine .of_next (State.pageSlotAudit_eq ho hr hi) ?_
  rw [he, (s.pageFault_eq_none_iff p).2 hp]
  exact s.auditBad_closedBy ..

/-- Both audits fail: two records and two counts, and the second one's kind stands. -/
theorem pageSlotAudit_completes_both (hp : s.PagesWrong p) (hs : s.SlotsWrong p) :
    Completes (.pageSlotAudit p) s fun u => ClosedBy s u p 4 evtAuditPages ∧ u.sup.auditPages = satAdd s.sup.auditPages 1 ∧
      u.sup.auditSlots = satAdd s.sup.auditSlots 1 ∧
      (s.bbx.frozen = false → (u.bbx.recAt (s.bbx.next + 1)).event = evtAuditSlots) := by
  obtain ⟨e, he⟩ := Option.ne_none_iff_exists'.1 fun h => (s.pageFault_eq_none_iff p).1 h hp
  obtain ⟨e', he'⟩ := Option.ne_none_iff_exists'.1 fun h => (s.slotFault_eq_none_iff p).1 h hs
  refine .of_next (State.pageSlotAudit_eq ho hr hi) ?_
  rw [he, he']
  simp only [Option.elim_some]
  set s1 := s.auditBad p evtAuditPages 3 e.1 e.2
  obtain ⟨hclosed, hreset, hkind, hpart, hrec, htiles, hended⟩ := s1.auditBad_closedBy p evtAuditSlots 4 e'.1 e'.2
  have hnext (hf : s.bbx.frozen = false) : s1.bbx.next = s.bbx.next + 1 := Bbx.append_next hf _
  refine ⟨⟨hclosed, hreset, hkind, hpart, fun hf => ?_, htiles, hended⟩, rfl, rfl, fun hf => hnext hf ▸ hrec hf⟩
  have hne : s.bbx.next ≠ s1.bbx.next := by rw [hnext hf]; exact place_ne_next _
  rw [State.auditBad_bbx, Bbx.append_recAt_ne _ _ hne]
  exact State.auditBad_recAt hf ..

theorem pageSlotAudit_completes_sound (hp : ¬ s.PagesWrong p) (hs : ¬ s.SlotsWrong p) :
    Completes (.pageSlotAudit p) s fun u => u = s := by
  refine .of_next (State.pageSlotAudit_eq ho hr hi) ?_
  rw [(s.pageFault_eq_none_iff p).2 hp, (s.slotFault_eq_none_iff p).2 hs]
  rfl

end

/-- The extended counter agrees with the tile's in its low bits, and advances by what has passed (R511). -/
theorem extend48_low (now : BitVec 48) (ext : BitVec 64) : (extend48 now ext).setWidth 48 = now := by
  unfold extend48; bv_omega

theorem extend48_toNat (now : BitVec 48) (ext : BitVec 64) :
    (extend48 now ext).toNat = (ext.toNat + (now - ext.setWidth 48).toNat) % 2 ^ 64 := by
  unfold extend48
  rw [BitVec.toNat_add, BitVec.toNat_setWidth_of_le (by decide)]

theorem tileCounterRead_completes (s : State) (t : PTile) : Completes (.tileCounterRead t) s fun u =>
    (u.tile t).pl.ext.setWidth 48 = (s.tile t).sc.cyc ∧ (u.tile t).sc = (s.tile t).sc ∧ (u.tile t).mem = (s.tile t).mem ∧
    (u.tile t).pl.ext.toNat = ((s.tile t).pl.ext.toNat + ((s.tile t).sc.cyc - (s.tile t).pl.ext.setWidth 48).toNat) % 2 ^ 64 := by
  have ht := State.tile_setTile s t { s.tile t with pl := { (s.tile t).pl with ext := extend48 (s.tile t).sc.cyc (s.tile t).pl.ext } }
  refine .of_next rfl ?_
  rw [ht]
  exact ⟨extend48_low _ _, rfl, rfl, extend48_toNat _ _⟩

/-- Settles O47: each clause is the completion lemma of its command. -/
theorem faultsAreDetected : Obligations.FaultsAreDetected := by
  unfold Obligations.FaultsAreDetected
  intro s
  refine ⟨fun t p hp => ⟨stageWatchdog_completes hp, fun fails verdicts hm => checkerSelfTest_completes_mapped hp hm fails verdicts⟩,
    fun t found hp hm hb hf => checkerSelfTest_completes_spare hp hm hb hf,
    fun t found h => checkerSelfTest_completes_asleep h found,
    supervisorFailure_completes_dark, supervisorFailure_completes_standby,
    fun i j h hlen => ⟨fun hj => ⟨refclkMonitorFail_completes_switch h hlen hj, refclkMonitorFail_completes_spare h hlen hj⟩,
      refclkMonitorFail_completes_lost h, refclkRecovered_completes i hlen⟩,
    fun p ho hr => ⟨fun hi => ⟨pageSlotAudit_completes_pages ho hr hi, pageSlotAudit_completes_slots ho hr hi, fun hp hs => ?_,
      pageSlotAudit_completes_sound ho hr hi⟩, tokenCountAudit_completes ho hr⟩,
    fun h => .of_next (u := s) (congrArg Host.Outcome.next (State.tokenAudit_of_none fun p _ => h p)) rfl, tileCounterRead_completes s⟩
  obtain ⟨u, hu, hc, hpages, hslots, hrec⟩ := pageSlotAudit_completes_both ho hr hi hp hs
  exact ⟨⟨u, hu, hc⟩, u, hu, hpages, hslots, hrec⟩

end Sys2Proof.Machine
end

section
/-! O2: one cycle of the aon clock (log entry 1).  The clocks advance the counts of the tiles of the sites that are up; where no core stands
at a reserved word, no unit waits and no partition is ready, nothing else of the cycle has an effect. -/

namespace Sys2Proof.Machine

/-! ### Which tiles have a clock -/

theorem State.mem_clockedTiles (s : State) (t : PTile) : t.key ∈ s.clockedTiles ↔ (s.site t.site).up = true := by
  obtain ⟨i, y, x⟩ := t
  simp only [State.clockedTiles, List.mem_flatMap, List.mem_filter, List.mem_map, List.mem_range, PTile.key]
  constructor
  · rintro ⟨j, ⟨-, hj⟩, m, hm, he⟩
    have : j = i := Fin.ext (by omega)
    exact this ▸ hj
  · exact fun h => ⟨i, ⟨List.mem_ofFn.2 ⟨i, rfl⟩, h⟩, 16 * y.val + x.val, by omega, by omega⟩

theorem State.clockedTiles_nodup (s : State) : s.clockedTiles.Nodup := by
  refine List.nodup_flatMap.2 ⟨fun i _ => List.nodup_range.map fun a b h => Nat.add_left_cancel h, ?_⟩
  have hn : (allSites.filter fun i => (s.site i).up).Nodup := (List.nodup_ofFn.2 Function.injective_id).filter _
  refine hn.imp fun {i j} hij k hi hj => hij (Fin.ext ?_)
  obtain ⟨a, ha, rfl⟩ := List.mem_map.1 hi
  obtain ⟨b, hb, he⟩ := List.mem_map.1 hj
  rw [List.mem_range] at ha hb
  omega

theorem PTile.site_of_key (t : PTile) : Fin.ofNat 64 (t.key / 256) = t.site := by
  obtain ⟨i, y, x⟩ := t
  refine Fin.ext ?_
  simp only [PTile.key, Fin.val_ofNat]
  omega

/-- A tile after the clocks of one cycle. -/
theorem State.clocks_tile (s : State) (t : PTile) : s.clocks.tile t =
    if (s.site t.site).up then (s.tile t).tick (s.site t.site) s.sup.counter else s.tile t := by
  split
  next h =>
    refine (SMap.get_modifyAll_of_mem Tile.init _ s.clockedTiles_nodup ((s.mem_clockedTiles t).2 h) s.tiles).trans ?_
    rw [PTile.site_of_key]
    rfl
  next h => exact SMap.get_modifyAll_of_not_mem Tile.init _ (fun hm => h ((s.mem_clockedTiles t).1 hm)) s.tiles

/-! ### What the clocks leave -/

theorem ageSq_written (n : Nat) (l : List QCmd) :
    ((ageSq n l).filter fun q => q.st = .queued).length = (l.filter fun q => q.st = .queued).length := by
  rw [ageSq, ← List.countP_eq_length_filter, ← List.countP_eq_length_filter, List.countP_map]
  refine List.countP_congr fun q _ => ?_
  simp only [Function.comp]
  split <;> rfl

/-- The clocks age the semaphore commands, and no command is written or issued. -/
theorem Tile.tick_waiting (x : Tile) (i : Site) (now : BitVec 64) : (x.tick i now).waiting = x.waiting := by
  have h : (x.tick i now).written = x.written := by
    funext k
    cases k
    case sq => exact ageSq_written _ _
    all_goals rfl
  rw [Tile.waiting, h, Tile.waiting]

/-- A part of a tile that a tick leaves is left by the clocks. -/
theorem State.clocks_tile_field {α : Type} (g : Tile → α) (hg : ∀ x i now, g (Tile.tick x i now) = g x) (s : State) (t : PTile) :
    g (s.clocks.tile t) = g (s.tile t) := by
  rw [State.clocks_tile]
  split
  · exact hg _ _ _
  · rfl

section

variable (s : State) (t : PTile)

@[simp] theorem State.clocks_tile_mem : (s.clocks.tile t).mem = (s.tile t).mem := s.clocks_tile_field (·.mem) (fun _ _ _ => rfl) t
@[simp] theorem State.clocks_tile_pl : (s.clocks.tile t).pl = (s.tile t).pl := s.clocks_tile_field (·.pl) (fun _ _ _ => rfl) t
@[simp] theorem State.clocks_tile_dma : (s.clocks.tile t).dma = (s.tile t).dma := s.clocks_tile_field (·.dma) (fun _ _ _ => rfl) t
@[simp] theorem State.clocks_tile_waiting : (s.clocks.tile t).waiting = (s.tile t).waiting :=
  s.clocks_tile_field (·.waiting) Tile.tick_waiting t

/-- Of the scalar core only the cycle count advances. -/
theorem State.clocks_tile_sc : ∃ n : BitVec 48, (s.clocks.tile t).sc = { (s.tile t).sc with cyc := n } := by
  rw [State.clocks_tile]
  split
  · exact ⟨_, rfl⟩
  · exact ⟨_, rfl⟩

@[simp] theorem State.clocks_tileRuns : s.clocks.tileRuns t = s.tileRuns t := by
  simp only [State.tileRuns, State.clocks_tile_pl]
  rfl

@[simp] theorem State.clocks_canIssue : s.clocks.canIssue t = s.canIssue t := by
  obtain ⟨n, h⟩ := s.clocks_tile_sc t
  simp only [State.canIssue, State.clocks_tileRuns, State.clocks_tile_pl, h]

@[simp] theorem State.clocks_atReserved : s.clocks.atReserved t = s.atReserved t := by
  obtain ⟨n, h⟩ := s.clocks_tile_sc t
  simp only [State.atReserved, Tile.wordAt, State.clocks_tile_pl, State.clocks_tile_mem, h]
  rfl

@[simp] theorem State.clocks_pumpDue : s.clocks.pumpDue t = s.pumpDue t := by
  simp only [State.pumpDue, State.clocks_tileRuns, State.clocks_tile_waiting, State.clocks_tile_dma]

/-- The clocks of the lanes leave which of them owe a warm-up. -/
@[simp] theorem State.clocks_mayOpen (p : Fin 32) : s.clocks.mayOpen p = s.mayOpen p := by
  have h (k : Nat) : (SMap.get Lane.init s.clocks.lanes k).rewarm = (SMap.get Lane.init s.lanes k).rewarm := by
    refine SMap.get_mapVals_field Lane.init Lane.rewarm ?_ s.lanes k
    exact fun _ _ => rfl
  have hw : s.clocks.lanesWarm p = s.lanesWarm p := by
    simp only [State.lanesWarm, h]
    rfl
  simp only [State.mayOpen, hw]
  rfl

end

/-! ### The rest of the cycle without an effect -/

theorem State.runAllReserved_of_none {s : State} (h : ∀ t : PTile, s.canIssue t = true → s.atReserved t = false) :
    s.runAllReserved = s := by
  refine List.foldl_fixed' (fun e => ?_) _
  have hoff : (s.canIssue (PTile.ofKey e.1) && s.atReserved (PTile.ofKey e.1)) = false := by
    cases hc : s.canIssue (PTile.ofKey e.1)
    · rfl
    · exact h _ hc
  rw [State.runReserved, hoff, State.onTile_false]

theorem State.pumpTiles_of_none {s : State} (h : ∀ t : PTile, s.pumpDue t = false) : s.pumpTiles = s := by
  refine List.foldl_fixed' (fun e => ?_) _
  rw [h, State.onTile_false]

theorem State.openReady_of_none {s : State} {l : List (Fin 32)} (h : ∀ p ∈ l, (s.part p).waits = true → s.mayOpen p = false) :
    s.openReady l = s := by
  induction l with
  | nil => rfl
  | cons p r ih =>
    have hoff : ¬ (((s.part p).waits && (s.sup.phase == 12 || (s.part p).startLoaded) && s.mayOpen p) = true) := by
      simp only [Bool.and_eq_true]
      rintro ⟨⟨hw, -⟩, hm⟩
      rw [h p (List.mem_cons_self ..) hw] at hm
      cases hm
    rw [State.openReady, if_neg hoff]
    exact ih fun q hq => h q (List.mem_cons_of_mem _ hq)

theorem State.endInstall_of_none {s : State} {p : Fin 32} (h : (s.part p).prev = none) : s.endInstall p = s := by
  simp only [State.endInstall, h]

theorem State.endInstalls_of_none {s : State} {l : List (Fin 32)} (h : ∀ p ∈ l, (s.part p).prev = none) : l.foldl State.endInstall s = s := by
  induction l with
  | nil => rfl
  | cons p r ih =>
    rw [List.foldl_cons, State.endInstall_of_none (h p (List.mem_cons_self ..))]
    exact ih fun q hq => h q (List.mem_cons_of_mem _ hq)

/-- Outside the steps 9 to 11 of start-up, with no install to end and no partition ready. -/
theorem State.settleStart_of_none {s : State} (h9 : s.sup.phase ≠ 9) (h10 : s.sup.phase ≠ 10) (hi : ∀ p ∈ s.furnished, (s.part p).prev = none)
    (ho : ∀ p ∈ s.furnished, (s.part p).waits = true → s.mayOpen p = false) : s.settleStart = s := by
  unfold State.settleStart
  simp only [State.endInstalls_of_none hi, if_neg h9, if_neg h10, State.openReady_of_none ho, ite_self]

/-- A cycle in which nothing is due is that of the clocks alone. -/
theorem State.tick_of_none {s : State} (h9 : s.sup.phase ≠ 9) (h10 : s.sup.phase ≠ 10)
    (ho : ∀ p ∈ s.furnished, (s.part p).waits = true → s.mayOpen p = false) (hi : ∀ p ∈ s.furnished, (s.part p).prev = none)
    (ht : ∀ t : PTile, (s.canIssue t = true → s.atReserved t = false) ∧ s.pumpDue t = false) : s.tick = s.clocks := by
  have hr : s.clocks.runAllReserved = s.clocks := State.runAllReserved_of_none fun t => by
    rw [State.clocks_canIssue, State.clocks_atReserved]
    exact (ht t).1
  have hp : s.clocks.pumpTiles = s.clocks := State.pumpTiles_of_none fun t => by
    rw [State.clocks_pumpDue]
    exact (ht t).2
  rw [State.tick, hr, hp]
  exact State.settleStart_of_none h9 h10 hi fun p hm hw => by
    rw [State.clocks_mayOpen]
    exact ho p hm hw

/-- In 10 ns outside a supply-warning window 25 arith cycles pass (R24). -/
theorem State.clocks_tile_cyc {s : State} {t : PTile} (hu : (s.site t.site).up = true) (ha : (s.site t.site).arith = true)
    (hw : (s.site t.site).window = none) : (s.clocks.tile t).sc.cyc = (s.tile t).sc.cyc + 25 := by
  rw [State.clocks_tile, if_pos hu]
  simp only [Tile.tick, Tile.pass, Site.arithCycles, hu, ha, hw]
  rfl

/-- Settles O2: the cycle is that of the clocks, whose effect on a tile is its tick. -/
theorem emptyQueueTicks : Obligations.EmptyQueueTicks := by
  unfold Obligations.EmptyQueueTicks
  intro s hq h9 h10 ho hi ht
  have hstep : step s = .next s.clocks := by rw [step, hq, State.tick_of_none h9 h10 ho hi ht]
  refine ⟨s.clocks, hstep, rfl, hq, rfl, rfl, rfl, rfl, rfl, rfl, rfl, rfl, rfl, fun t => ?_⟩
  obtain ⟨n, hsc⟩ := s.clocks_tile_sc t
  refine ⟨s.clocks_tile_mem t, by rw [hsc], by rw [hsc], State.clocks_tile_cyc, fun hu => ?_⟩
  rw [State.clocks_tile, if_neg (Bool.eq_false_iff.1 hu)]

end Sys2Proof.Machine
end

section
/-! SUPPORT. The site counters under their clears (R61 and the rules like it): what every counter reads as after a clear bit and
after a word of clear bits. -/

namespace Sys2Proof.Machine

theorem Ctr.code_lt (c : Ctr) : c.code < 32 := by cases c <;> decide

/-- The codes number the counters in the order of their list. -/
theorem Ctr.ofNat_code (c : Ctr) : Ctr.ofNat c.code = c := by cases c <;> rfl

theorem Ctr.code_inj {c d : Ctr} (h : c.code = d.code) : c = d := by rw [← c.ofNat_code, h, d.ofNat_code]

/-- Counters have different keys. -/
theorem ctrKey_inj {i j : Fin 64} {c d : Ctr} (h : ctrKey i c = ctrKey j d) : i = j ∧ c = d := by
  simp only [ctrKey] at h
  have hc := c.code_lt
  have hd := d.code_lt
  exact ⟨Fin.ext (by omega), Ctr.code_inj (by omega)⟩

theorem get_ctrClear_self (m : SMap Word) (i : Fin 64) (k : Ctr) : SMap.get 0 (ctrClear m i k) (ctrKey i k) = 0 := SMap.get_set_self ..

theorem get_ctrClear_ne (m : SMap Word) {i j : Fin 64} {k c : Ctr} (h : j ≠ i ∨ c ≠ k) :
    SMap.get 0 (ctrClear m i k) (ctrKey j c) = SMap.get 0 m (ctrKey j c) :=
  SMap.get_set_ne _ _ _ fun e => h.elim (· (ctrKey_inj e).1) (· (ctrKey_inj e).2)

/-- What one bit of a CLEAR register leaves of another counter. -/
theorem get_clearBit_ne (m : SMap Word) (b : Bool) {i j : Fin 64} {k c : Ctr} (h : j ≠ i ∨ c ≠ k) :
    SMap.get 0 (if b then ctrClear m i k else m) (ctrKey j c) = SMap.get 0 m (ctrKey j c) := by
  cases b
  · rfl
  · exact get_ctrClear_ne m h

/-- A word of clear bits leaves the counters outside its list. -/
theorem get_clearBits_of_not_mem (m : SMap Word) (v : Word) (b : Nat) {i j : Fin 64} {c : Ctr} {l : List Ctr} (h : j ≠ i ∨ c ∉ l) :
    SMap.get 0 (clearBits m i v b l) (ctrKey j c) = SMap.get 0 m (ctrKey j c) := by
  induction l generalizing m b with
  | nil => rfl
  | cons k r ih =>
    rw [List.mem_cons, not_or] at h
    rw [clearBits, ih _ _ (h.imp_right And.right), get_clearBit_ne m _ (h.imp_right And.left)]

/-- Of the listed counters, each once, the bit at its place clears a counter; `b` is the first counter's bit. -/
theorem get_clearBits_of_getElem (m : SMap Word) (i : Fin 64) (v : Word) (b : Nat) {l : List Ctr} (hl : l.Nodup) {n : Nat} {k : Ctr}
    (h : l[n]? = some k) :
    SMap.get 0 (clearBits m i v b l) (ctrKey i k) = if v.getLsbD (b + n) then 0 else SMap.get 0 m (ctrKey i k) := by
  induction l generalizing m b n with
  | nil => cases h
  | cons a r ih =>
    obtain ⟨ha, hr⟩ := List.nodup_cons.1 hl
    rw [clearBits]
    cases n with
    | zero =>
      cases h
      rw [get_clearBits_of_not_mem _ v _ (.inr ha), Nat.add_zero]
      split
      · exact get_ctrClear_self ..
      · rfl
    | succ n =>
      rw [List.getElem?_cons_succ] at h
      have hk : k ≠ a := fun e => ha (e ▸ List.mem_of_getElem? h)
      rw [ih _ _ hr h, get_clearBit_ne m _ (.inr hk), Nat.add_right_comm, Nat.add_assoc]

section
variable (s : State) (i : Fin 64)

@[simp] theorem State.clearCtr_ctr_self (k : Ctr) : (s.clearCtr i k).ctr i k = 0 := get_ctrClear_self ..

theorem State.clearCtr_ctr_ne {j : Fin 64} {k c : Ctr} (h : j ≠ i ∨ c ≠ k) : (s.clearCtr i k).ctr j c = s.ctr j c := get_ctrClear_ne _ h

theorem State.clearReg_ctr_of_getElem (v : Word) {l : List Ctr} (hl : l.Nodup) {n : Nat} {k : Ctr} (h : l[n]? = some k) :
    (s.clearReg i v l).ctr i k = if v.getLsbD n then 0 else s.ctr i k := by
  have hr := get_clearBits_of_getElem s.ctrs i v 0 hl h
  rwa [Nat.zero_add] at hr

theorem State.clearReg_ctr_of_not_mem (v : Word) {j : Fin 64} {c : Ctr} {l : List Ctr} (h : j ≠ i ∨ c ∉ l) :
    (s.clearReg i v l).ctr j c = s.ctr j c := get_clearBits_of_not_mem _ v 0 h

end

end Sys2Proof.Machine
end

section
/-! O55. A clear leaves its counter at zero, and records stand. -/

namespace Sys2Proof.Machine

/-- A command whose effect is one clear bit zeroes its counter and leaves everything else. -/
theorem Completes.clearCtr {ins : Instr} {s : State} {i : Fin 64} {k : Ctr} (h : exec ins s = .next (s.clearCtr i k)) :
    Completes ins s fun u => u.ctr i k = 0 ∧ u.bbx = s.bbx ∧ u = { s with ctrs := u.ctrs } ∧
      ∀ (j : Fin 64) (c : Ctr), (j ≠ i ∨ c ≠ k) → u.ctr j c = s.ctr j c :=
  .of_next h ⟨s.clearCtr_ctr_self i k, rfl, rfl, fun _ _ hne => s.clearCtr_ctr_ne i hne⟩

/-- A register write whose effect is a word of clear bits zeroes the counters whose bits are 1 and leaves everything else. -/
theorem Completes.clearReg {ins : Instr} {s : State} {i : Fin 64} {v : Word} {l : List Ctr} (h : exec ins s = .next (s.clearReg i v l))
    (hl : l.Nodup) :
    Completes ins s fun u => u = { s with ctrs := u.ctrs } ∧ u.bbx = s.bbx ∧
      (∀ (n : Nat) (k : Ctr), l[n]? = some k → u.ctr i k = if v.getLsbD n then 0 else s.ctr i k) ∧
      ∀ (j : Fin 64) (c : Ctr), (j ≠ i ∨ c ∉ l) → u.ctr j c = s.ctr j c :=
  .of_next h ⟨rfl, rfl, fun _ _ hk => s.clearReg_ctr_of_getElem i v hl hk, fun _ _ hne => s.clearReg_ctr_of_not_mem i v hne⟩

/-- Settles O55: each of the thirty clear commands is one clear bit, and each of the nine CLEAR registers a word of clear bits of
different counters. -/
theorem clearsLeaveZero : Obligations.ClearsLeaveZero := by
  unfold Obligations.ClearsLeaveZero
  intro s site v
  dsimp only
  and_intros
  iterate 30 exact .clearCtr rfl
  iterate 9 exact .clearReg rfl (by decide)

end Sys2Proof.Machine
end

section
/-! SUPPORT. A unit queue without commands when the units take commands (`Fx.pump`): it stays empty and its completion count stays
(R294), for only a command that stands in a queue can complete there. -/

namespace Sys2Proof.Machine

theorem Queue.code_inj {j k : Queue} (h : j.code = k.code) : j = k := by revert h; cases j <;> cases k <;> decide

/-- What is left of a queue, and how many commands have left it, when command `n` of it completes. -/
def Tile.completed (x : Tile) (k : Queue) (n : Nat) : Nat × List QCmd :=
  popDone (updCmd n (fun q => { q with st := .done }) (x.queue k))

theorem Tile.completed_nil {x : Tile} {k : Queue} (h : x.queue k = []) (n : Nat) : x.completed k n = (0, []) := by
  rw [Tile.completed, h]; rfl

theorem Tile.completed_alone {x : Tile} {k : Queue} {q : QCmd} (h : x.queue k = [q]) (hq : q.op ≠ .qwait) :
    x.completed k q.seq = (1, []) := by
  rw [Tile.completed, h]; simp [updCmd, popDone, hq]

theorem Tile.complete_qd (x : Tile) (k j : Queue) (n : Nat) : (x.complete k n).sc.qd j.code =
    x.sc.qd j.code + BitVec.ofNat 16 (if j = k then (x.completed k n).1 else 0) := by
  simp only [Tile.complete, Scalar.qd, bumpAt, SMap.get_set]
  by_cases e : j = k
  · subst e; rw [if_pos rfl, if_pos rfl]; rfl
  · rw [if_neg fun h => e (Queue.code_inj h), if_neg e]; exact (BitVec.add_zero _).symm

theorem Tile.complete_queue (x : Tile) (k j : Queue) (n : Nat) :
    (x.complete k n).queue j = if j = k then (x.completed k n).2 else x.queue j := by
  have e : (x.complete k n).queue j = (x.setQueue k (x.completed k n).2).queue j := by cases j <;> rfl
  rw [e]
  split_ifs with h
  · rw [h, Tile.queue_setQueue_self]
  · exact Tile.queue_setQueue_ne x _ h

/-- A queue without commands before is empty afterwards, with the same completion count. -/
structure Fx.KeepsIdle (f g : Fx) : Prop where
  idle : ∀ k, f.tile.queue k = [] → g.tile.queue k = [] ∧ g.tile.sc.qd k.code = f.tile.sc.qd k.code

namespace Fx.KeepsIdle

theorem trans {f g h : Fx} (a : f.KeepsIdle g) (b : g.KeepsIdle h) : f.KeepsIdle h where
  idle k e := ⟨(b.idle k (a.idle k e).1).1, (b.idle k (a.idle k e).1).2.trans (a.idle k e).2⟩

theorem ite {f g h : Fx} {p : Prop} [Decidable p] (a : f.KeepsIdle g) (b : f.KeepsIdle h) : f.KeepsIdle (if p then g else h) := by
  split <;> assumption

/-- The queues and the counts are the same. -/
theorem of_eq {f g : Fx} (hq : ∀ k, g.tile.queue k = f.tile.queue k) (hc : g.tile.sc.qdone = f.tile.sc.qdone) : f.KeepsIdle g where
  idle k h := ⟨(hq k).trans h, by simp only [Scalar.qd, hc]⟩

theorem refl (f : Fx) : f.KeepsIdle f := of_eq (fun _ => rfl) rfl

/-- One queue changes, and if it was empty it is still empty. -/
theorem setQueue (f : Fx) {k : Queue} {l : List QCmd} (h : f.tile.queue k = [] → l = []) : f.KeepsIdle (f.set (f.tile.setQueue k l)) where
  idle j hj := by
    refine ⟨?_, rfl⟩
    rw [Fx.set]
    by_cases e : j = k
    · subst e; rw [Tile.queue_setQueue_self, h hj]
    · rwa [Tile.queue_setQueue_ne _ _ e]

/-- The commands of a queue change in their progress. -/
theorem updCmd (f : Fx) (k : Queue) (n : Nat) (g : QCmd → QCmd) :
    f.KeepsIdle (f.set (f.tile.setQueue k (Machine.updCmd n g (f.tile.queue k)))) := setQueue f fun h => by rw [h]; rfl

theorem discard (f : Fx) (k : Queue) (n : Nat) : f.KeepsIdle (f.set (f.tile.discard k n)) := setQueue f fun h => by rw [h]; rfl

theorem complete (f : Fx) (k : Queue) (n : Nat) : f.KeepsIdle (f.set (f.tile.complete k n)) where
  idle j hj := by
    rw [Fx.set, Tile.complete_qd, Tile.complete_queue]
    split_ifs with e
    · subst e; rw [Tile.completed_nil hj]; exact ⟨rfl, BitVec.add_zero _⟩
    · exact ⟨hj, BitVec.add_zero _⟩

/-- The engine's part changes. -/
theorem dma (f : Fx) (d : Dma) : f.KeepsIdle (f.set { f.tile with dma := d }) := of_eq (fun k => by cases k <;> rfl) rfl

/-- A refused command: an event, then the completion. -/
theorem refused {f g : Fx} (a : f.KeepsIdle g) (k : Queue) (n : Nat) : f.KeepsIdle (g.set (g.tile.complete k n)) := a.trans (complete g k n)

end Fx.KeepsIdle

section
variable (f : Fx) (c : Ctx)

/-! ### Events and slips -/

theorem Fx.raise_idle (u : Nat) (ev : BitVec 16) (d : BitVec 64) (m : Mark) (o : Bool) : f.KeepsIdle (f.raise c u ev d m o) :=
  .of_eq (fun k => by cases k <;> rfl) rfl

theorem Fx.insnFault_idle (u : Nat) (pc : BitVec 16) (w : Nat) : f.KeepsIdle (f.insnFault c u pc w) :=
  .of_eq (fun k => by cases k <;> rfl) rfl

theorem Fx.count_idle (k : Ctr) (n : Nat) : f.KeepsIdle (f.count k n) := .of_eq (fun _ => by rw [Fx.count_tile]) (by rw [Fx.count_tile])

theorem Fx.slip_idle (cause unit : Nat) (pc : BitVec 16) : f.KeepsIdle (f.slip c cause unit pc) := by
  simp only [Fx.slip]
  exact .ite (.of_eq (fun k => by cases k <;> rfl) rfl) (.of_eq (fun k => by cases k <;> rfl) rfl)

theorem Fx.slips_idle {α : Type} (cause : α → Nat) (unit : Nat) (pc : BitVec 16) (l : List α) (f : Fx) :
    f.KeepsIdle (l.foldl (fun g n => g.slip c (cause n) unit pc) f) := by
  induction l generalizing f with
  | nil => exact .refl f
  | cons n l ih => exact (f.slip_idle c (cause n) unit pc).trans (ih _)

theorem Fx.slipCmd_idle (k : Queue) (q : QCmd) (l : List Nat) : f.KeepsIdle (f.slipCmd c k q l) :=
  (Fx.slips_idle c id _ _ _ f).trans (.updCmd _ k q.seq _)

theorem Fx.askVat_idle (k : Queue) (q : QCmd) : f.KeepsIdle (f.askVat c k q) := by
  unfold Fx.askVat
  split
  · exact .refl f
  · exact ⟨(Fx.KeepsIdle.updCmd f k q.seq _).idle⟩

theorem Fx.vatSlip_idle (k : Queue) (q : QCmd) (l : List Nat) : f.KeepsIdle (f.vatSlip c k q l) :=
  (f.askVat_idle c k q).trans (Fx.slipCmd_idle _ c k q l)

/-! ### What each unit does at issue -/

theorem Fx.translate_idle (q : QCmd) (e : TlbEntry) (w : Bool) : f.KeepsIdle (f.translate c q e w) := by
  have raised (d : Dma) (ev : BitVec 16) (dt : BitVec 64) (m : Mark) (o : Bool) :=
    (Fx.KeepsIdle.dma f d).trans (Fx.raise_idle _ c 5 ev dt m o)
  simp only [Fx.translate]
  exact .ite ((raised _ _ _ _ _).refused .dq q.seq)
    (.ite (((raised _ _ _ _ _).trans (Fx.count_idle _ _ _)).refused .dq q.seq) ⟨(Fx.KeepsIdle.dma f _).idle⟩)

theorem Fx.dmaPart_idle (q : QCmd) : f.KeepsIdle (f.dmaPart c q) := by
  simp only [Fx.dmaPart]
  split
  · split
    · exact (Fx.KeepsIdle.dma f _).trans (Fx.translate_idle _ c q _ _)
    · exact .dma f _
  · exact .ite ((Fx.KeepsIdle.dma f _).trans (Fx.vatSlip_idle _ c _ q _)) ⟨(Fx.KeepsIdle.dma f _).idle⟩

theorem Fx.dcopyIssue_idle (q : QCmd) : f.KeepsIdle (f.dcopyIssue c q) := by
  have issued := Fx.KeepsIdle.updCmd f .dq q.seq (QCmd.issue f.tile.sc.cyc.toNat)
  simp only [Fx.dcopyIssue]
  exact .ite ((issued.trans (.dma _ _)).trans (Fx.dmaPart_idle _ c q))
    (((issued.trans (Fx.raise_idle _ c _ _ _ _ _)).trans (Fx.count_idle _ _ _)).refused .dq q.seq)

theorem Fx.semIssue_idle (q : QCmd) : f.KeepsIdle (f.semIssue c q) := by
  have issued := Fx.KeepsIdle.updCmd f .sq q.seq (fun e => { e.issue f.tile.sc.cyc.toNat with age := 0 })
  simp only [Fx.semIssue]
  exact .ite ((issued.trans (Fx.raise_idle _ c _ _ _ _ _)).refused .sq q.seq) ⟨issued.idle⟩

theorem Fx.levalIssue_idle (q : QCmd) : f.KeepsIdle (f.levalIssue c q) := by
  have issued := Fx.KeepsIdle.updCmd f .lq q.seq (fun e => { e.issue f.tile.sc.cyc.toNat with
      sub := (c.lane q.lane).unfit c.s.sup.counter, win := c.site.window.isSome, swaps := (c.lane q.lane).swaps })
  simp only [Fx.levalIssue]
  exact .ite issued ((issued.trans (Fx.raise_idle _ c _ _ _ _ _)).refused .lq q.seq)

theorem Fx.issueCmd_idle (k : Queue) (q : QCmd) : f.KeepsIdle (f.issueCmd c k q) := by
  have issued := Fx.KeepsIdle.updCmd f k q.seq (QCmd.issue f.tile.sc.cyc.toNat)
  simp only [Fx.issueCmd]
  refine .ite ?_ (.ite ((f.raise_idle c _ _ _ _ _).refused k q.seq) ?_)
  · exact (f.insnFault_idle c _ _ _).trans (.discard _ k q.seq)
  split
  · exact f.levalIssue_idle c q
  · exact ⟨issued.idle⟩
  · exact f.dcopyIssue_idle c q
  iterate 4 exact f.semIssue_idle c q
  refine .ite ((f.raise_idle c _ _ _ _ _).refused k q.seq) ?_
  split
  · exact issued.trans (.dma _ _)
  · exact issued

theorem Fx.losePort_idle (e : QCmd) : f.KeepsIdle (f.losePort c e) :=
  (Fx.slips_idle c (fun _ => 5) _ _ _ f).trans (.updCmd _ _ _ _)

theorem Fx.losePorts_idle (l : List QCmd) (f : Fx) : f.KeepsIdle (f.losePorts c l) := by
  induction l generalizing f with
  | nil => exact .refl f
  | cons e r ih => exact (f.losePort_idle c e).trans (ih _)

/-! ### The units in turn -/

theorem Fx.tryCmd_idle (k : Queue) (q : QCmd) : f.KeepsIdle (f.tryCmd c k q) := by
  have wake (bs : List Nat) : f.KeepsIdle (f.set { f.tile with mem := f.tile.mem.wakeAll bs }) := .of_eq (fun k => by cases k <;> rfl) rfl
  simp only [Fx.tryCmd]
  refine .ite (.refl f) (.ite (.ite ((f.issueCmd_idle c k q).trans (Fx.losePorts_idle c _ _)) ?_) (f.slipCmd_idle c k q _))
  exact (Fx.KeepsIdle.ite ((wake _).trans (Fx.askVat_idle _ c k q)) (wake _)).trans (Fx.slipCmd_idle _ c k q _)

theorem Fx.trySq_idle (l : List QCmd) (f : Fx) : f.KeepsIdle (f.trySq c l) := by
  induction l generalizing f with
  | nil => exact .refl f
  | cons q l ih =>
    simp only [Fx.trySq]
    exact .ite ((f.tryCmd_idle c .sq q).trans (ih _)) (f.tryCmd_idle c .sq q)

theorem Fx.tryAll_idle (k : Queue) (l : List QCmd) (f : Fx) : f.KeepsIdle (l.foldl (fun h q => h.tryCmd c k q) f) := by
  induction l generalizing f with
  | nil => exact .refl f
  | cons q l ih => exact (f.tryCmd_idle c k q).trans (ih _)

theorem Fx.tryDma_idle : f.KeepsIdle (f.tryDma c) := by
  unfold Fx.tryDma
  split
  · exact .ite (f.dmaPart_idle c _) (.refl f)
  · exact .refl f

theorem Fx.pumpOnce_idle : f.KeepsIdle (f.pumpOnce c) := by
  simp only [Fx.pumpOnce]
  exact (((((f.tryDma_idle c).trans (Fx.tryAll_idle c .mq _ _)).trans (Fx.tryAll_idle c .vq _ _)).trans (Fx.tryAll_idle c .lq _ _)).trans
    (Fx.tryAll_idle c .dq _ _)).trans (Fx.trySq_idle c _ _)

theorem Fx.pumpAll_idle (n : Nat) (f : Fx) : f.KeepsIdle (f.pumpAll n c) := by
  induction n generalizing f with
  | zero => exact .refl f
  | succ n ih =>
    simp only [Fx.pumpAll]
    exact .ite ((f.pumpOnce_idle c).trans (ih _)) (f.pumpOnce_idle c)

/-- The units leave an empty queue empty, and its count as it is. -/
theorem Fx.pump_idle : f.KeepsIdle (f.pump c) := Fx.pumpAll_idle c _ f

/-- The completion of a queue's only command empties the queue and advances its count by one (R294). -/
theorem Fx.finish_alone {k : Queue} {q : QCmd} (h : f.tile.queue k = [q]) (hq : q.op ≠ .qwait) :
    (f.finish c k q.seq).tile.queue k = [] ∧ (f.finish c k q.seq).tile.sc.qd k.code = f.tile.sc.qd k.code + 1 := by
  have done := Tile.completed_alone h hq
  have hk := (Fx.pump_idle (f.set (f.tile.complete k q.seq)) c).idle k (by rw [Fx.set, Tile.complete_queue, if_pos rfl, done])
  refine ⟨hk.1, hk.2.trans ?_⟩
  rw [Fx.set, Tile.complete_qd, if_pos rfl, done]
  rfl

end

end Sys2Proof.Machine
end

section
/-! SUPPORT. The checks that a unit makes as it reads (R45, R94, R95, R188, R460): they mark the check report, count, and enter suspect
rows; the data of the tile stays. -/

namespace Sys2Proof.Machine

theorem TileMem.correctedAll_scr (l : List Nat) (m : TileMem) : (m.correctedAll l).scr = m.scr := by
  induction l generalizing m with
  | nil => rfl
  | cons k ks ih => rw [correctedAll, ih, corrected]; split <;> rfl

theorem TileMem.suspectAll_scr (l : List Nat) (m : TileMem) : (m.suspectAll l).scr = m.scr := by
  induction l generalizing m with
  | nil => rfl
  | cons k ks ih => rw [suspectAll, ih]; rfl

/-- From `f` to `g` the vector core, the scratchpad's bytes, the matrix core, the scalar core and the queues stay. -/
structure Fx.OnlyChecks (f g : Fx) : Prop where
  vec : g.tile.vec = f.tile.vec
  scr : g.tile.mem.scr = f.tile.mem.scr
  mx : g.tile.mx = f.tile.mx
  sc : g.tile.sc = f.tile.sc
  queue : ∀ k, g.tile.queue k = f.tile.queue k

namespace Fx.OnlyChecks

theorem refl (f : Fx) : f.OnlyChecks f := ⟨rfl, rfl, rfl, rfl, fun _ => rfl⟩

theorem trans {f g h : Fx} (a : f.OnlyChecks g) (b : g.OnlyChecks h) : f.OnlyChecks h :=
  ⟨b.vec.trans a.vec, b.scr.trans a.scr, b.mx.trans a.mx, b.sc.trans a.sc, fun k => (b.queue k).trans (a.queue k)⟩

theorem ite {f g h : Fx} {p : Prop} [Decidable p] (a : f.OnlyChecks g) (b : f.OnlyChecks h) : f.OnlyChecks (if p then g else h) := by
  split <;> assumption

/-- A check that is made under a condition. -/
theorem optional {f g h : Fx} {p : Prop} {_ : Decidable p} (a : f.OnlyChecks g) (b : f.OnlyChecks g → f.OnlyChecks h) :
    f.OnlyChecks (if p then h else g) := ite (b a) a

theorem raise {f g : Fx} (a : f.OnlyChecks g) (c : Ctx) (u : Nat) (ev : BitVec 16) (d : BitVec 64) (m : Mark) (o : Bool) :
    f.OnlyChecks (g.raise c u ev d m o) := a.trans ⟨rfl, rfl, rfl, rfl, fun k => by cases k <;> rfl⟩

theorem count {f g : Fx} (a : f.OnlyChecks g) (k : Ctr) (n : Nat) : f.OnlyChecks (g.count k n) :=
  a.trans (by constructor <;> intros <;> rw [Fx.count_tile])

theorem formatFault {f g : Fx} (a : f.OnlyChecks g) (c : Ctx) (u : Nat) : f.OnlyChecks (g.formatFault c u) :=
    (a.raise c u _ _ _ _).count _ _

theorem ueReplay {f g : Fx} (a : f.OnlyChecks g) (c : Ctx) (u k r : Nat) : f.OnlyChecks (g.ueReplay c u k r) := a.raise c u _ _ _ _

theorem readEcc {f g : Fx} (a : f.OnlyChecks g) (c : Ctx) (u off n : Nat) : f.OnlyChecks (g.readEcc c u off n) := by
  have entered (one two : List Nat) : f.OnlyChecks (g.set { g.tile with mem := (g.tile.mem.correctedAll one).suspectAll two }) :=
    a.trans ⟨rfl, (TileMem.suspectAll_scr ..).trans (TileMem.correctedAll_scr ..), rfl, rfl, fun k => by cases k <;> rfl⟩
  exact .ite ((entered _ _).count _ _) (((entered _ _).count _ _).raise c u _ _ _ _)

theorem foldl {α : Type} {h : Fx → α → Fx} (step : ∀ {f g : Fx} (e : α), f.OnlyChecks g → f.OnlyChecks (h g e)) {f g : Fx}
    (a : f.OnlyChecks g) (l : List α) : f.OnlyChecks (l.foldl h g) := by
  induction l generalizing g with
  | nil => exact a
  | cons e l ih => exact ih (step e a)

end Fx.OnlyChecks

/-- The vector core with the residue error that it will meet (R95) set to `b`. -/
def Fx.residue (f : Fx) (b : Bool) : Fx := f.set { f.tile with vec := { f.tile.vec with residueUpset := b } }

theorem Fx.OnlyChecks.residue {f g : Fx} (a : f.OnlyChecks g) (b : Bool) : (f.residue b).OnlyChecks (g.residue b) where
  vec := by simp only [Fx.residue, Fx.set, a.vec]
  scr := a.scr
  mx := a.mx
  sc := a.sc
  queue k := by have h := a.queue k; cases k <;> exact h

/-- The checks of a vector command: beside them, a residue error that waited is met. -/
theorem Fx.vecChecks_onlyChecks (f : Fx) (c : Ctx) (q : QCmd) (encs : List EncBlk) :
    ∃ b, (f.residue b).OnlyChecks (f.vecChecks c q encs) := by
  simp only [Fx.vecChecks]
  generalize hg : (if parityHit f.tile q = true then (f.raise c 2 evtVregParity 0 .recov true).count .vparity 1 else f) = g
  have parity : f.OnlyChecks g := hg ▸ .optional (.refl f) fun a => (a.raise c 2 _ _ _ _).count .vparity 1
  have ⟨b, met⟩ : ∃ b, (f.residue b).OnlyChecks (if g.tile.vec.residueUpset = true then
      ((g.residue false).raise c 2 evtResidue 0 .recov true).count .residue 1 else g) := by
    split
    · exact ⟨false, ((parity.residue false).raise c 2 _ _ _ _).count .residue 1⟩
    · exact ⟨f.tile.vec.residueUpset, parity⟩
  refine ⟨b, ?_⟩
  refine .optional ?_ fun a => a.foldl (fun j a => a.readEcc c 2 _ 64) _
  refine .optional ?_ fun a => a.ueReplay c 2 1 _
  refine .optional ?_ fun a => a.count .accecc _
  refine .optional ?_ fun a => a.formatFault c 2
  exact .count (.count met .sat _) .fallback _

theorem Fx.passReads_onlyChecks (f : Fx) (c : Ctx) (q : QCmd) : f.OnlyChecks (f.passReads c q) :=
  (Fx.OnlyChecks.refl f).foldl (fun r a => by
    split
    · exact a.readEcc c 1 _ _
    · exact a) _

theorem Fx.passEcc_onlyChecks (f : Fx) (c : Ctx) (w : Option Nat) (row0 rows : Nat) (reads : Bool) :
    f.OnlyChecks (f.passEcc c w row0 rows reads) := by
  simp only [Fx.passEcc]
  refine .foldl (fun r a => a.ueReplay c 1 1 r) ?_ _
  exact .optional ((Fx.OnlyChecks.refl f).count .accecc _) fun a => a.ueReplay c 1 2 _

end Sys2Proof.Machine
end

section
/-! O18: the block sums of the matrix core. A dot product of vectors of one length is a sum over their indices, so it is linear: from that
follow the identities of the checksum (R79), and that a raw pass adds the exact sum of a block (R68). -/

namespace Sys2Proof.Machine

theorem dot_eq_sum {n : Nat} {a b : List Int} (ha : a.length = n) (hb : b.length = n) :
    dot a b = ((List.range n).map fun i => a.getD i 0 * b.getD i 0).sum := by
  have hz : List.zipWith (· * ·) a b = (List.range n).map fun i => a.getD i 0 * b.getD i 0 := by
    refine List.ext_getElem (by simp [ha, hb]) fun i h _ => ?_
    simp only [List.length_zipWith, Nat.lt_min] at h
    simp [h.1, h.2]
  rw [dot, ← List.sum_eq_foldl, hz]

theorem dot_comm {n : Nat} {a b : List Int} (ha : a.length = n) (hb : b.length = n) : dot a b = dot b a := by
  simp only [dot_eq_sum ha hb, dot_eq_sum hb ha, mul_comm]

@[simp] theorem sumAt_length (n : Nat) (vs : List (List Int)) : (sumAt n vs).length = n := by simp [sumAt]

theorem sumAt_getD {n i : Nat} (hi : i < n) (vs : List (List Int)) : (sumAt n vs).getD i 0 = (vs.map fun v => v.getD i 0).sum := by
  simp only [sumAt, ← List.sum_eq_foldl]
  simp [hi]

/-- A dot product distributes over a sum of vectors. -/
theorem dot_sumAt {n : Nat} {r : List Int} (hr : r.length = n) {vs : List (List Int)} (hv : ∀ v ∈ vs, v.length = n) :
    dot r (sumAt n vs) = (vs.map (dot r)).sum := by
  rw [dot_eq_sum hr (sumAt_length n vs), List.map_congr_left fun i hi => by rw [sumAt_getD (List.mem_range.1 hi) vs]]
  induction vs with
  | nil => simp
  | cons v vs ih =>
    obtain ⟨hv, hvs⟩ := List.forall_mem_cons.1 hv
    simp only [List.map_cons, List.sum_cons, mul_add, List.sum_map_add, ih hvs, dot_eq_sum hr hv]

/-- Elements in units of 2^−16 have products in units of 2^−32. -/
theorem dot_scaled {n : Nat} {a b : List Int} (ha : a.length = n) (hb : b.length = n) (k : Int) :
    dot (a.map (k * ·)) (b.map (k * ·)) = k * k * dot a b := by
  have get (l : List Int) (i : Nat) : (l.map (k * ·)).getD i 0 = k * l.getD i 0 := by
    simpa using List.getD_map (l := l) (n := i) (d := (0 : Int)) (f := (k * ·))
  rw [dot_eq_sum (n := n) (by simpa using ha) (by simpa using hb), dot_eq_sum ha hb, ← List.sum_map_mul_left]
  refine congrArg List.sum (List.map_congr_left fun i _ => ?_)
  rw [get, get]
  ring

/-- Both identities of R79. -/
theorem abftHolds_sumAt {a w : List (List Int)} (ha : ∀ r ∈ a, r.length = 32) (hw : ∀ v ∈ w, v.length = 32) :
    abftHolds a w (sumAt 32 w) = true := by
  simp only [abftHolds, Bool.and_eq_true, List.all_eq_true, beq_iff_eq, ← List.sum_eq_foldl]
  refine ⟨fun r hr => (dot_sumAt (ha r hr) hw).symm, fun v hv => ?_⟩
  rw [dot_comm (sumAt_length 32 a) (hw v hv), dot_sumAt (hw v hv) ha]
  exact congrArg List.sum (List.map_congr_left fun r hr => dot_comm (ha r hr) (hw v hv))

theorem accRaw_of_zero (acc : Word × Bool) (a w : List Int) (k : Nat) (fault : Bool) : accRaw acc a ⟨w, k, true, fault⟩ = acc := rfl

/-- A raw block that is not a zero block: the exact sum, saturated, and whether it saturated. -/
theorem accRaw_scaled {n : Nat} {a w : List Int} (ha : a.length = n) (hw : w.length = n) (acc : Word) (k : Nat) (fault : Bool) :
    accRaw (acc, false) (a.map (65536 * ·)) ⟨w.map (65536 * ·), k, false, fault⟩ =
      (BitVec.ofInt 32 (satInt 32 (acc.toInt + dot a w)), satInt 32 (acc.toInt + dot a w) != acc.toInt + dot a w) := by
  have hd : dot (a.map (65536 * ·)) (w.map (65536 * ·)) / 2 ^ 32 = dot a w := by
    rw [dot_scaled ha hw]; omega
  simp only [accRaw, Bool.false_eq_true, if_false, hd, Bool.false_or]

theorem satInt_ne_iff (z : Int) : satInt 32 z ≠ z ↔ z < -2 ^ 31 ∨ 2 ^ 31 - 1 < z := by
  simp only [satInt]; omega

/-- Settles O18: the checksum's identities are the distributive law of the dot product, and a raw block adds its dot product. -/
theorem rawBlocksAddExactly : Obligations.RawBlocksAddExactly := by
  unfold Obligations.RawBlocksAddExactly
  refine ⟨fun a w ha hw => abftHolds_sumAt ha hw, fun acc a w k fault ha hw => ?_⟩
  have hsum : ((List.range 32).map fun i => a.getD i 0 * w.getD i 0).foldl (· + ·) 0 = dot a w := by
    rw [dot_eq_sum ha hw, List.sum_eq_foldl]
  simp only [hsum]
  refine ⟨accRaw_of_zero .., ?_, ?_⟩
  · rw [accRaw_scaled ha hw]; rfl
  · rw [accRaw_scaled ha hw, bne_iff_ne]
    exact satInt_ne_iff _

end Sys2Proof.Machine
end

section
/-! SUPPORT. The matrix core: weight buffers, the rows that a pass writes, and what a completion leaves of the tile. -/

namespace Sys2Proof.Machine

/-! ### Weight buffers -/

@[simp] theorem Matrix.wb_setWb_self (x : Matrix) (b : Nat) (w : WBuf) : (x.setWb b w).wb b = w := by
  simp only [Matrix.wb, Matrix.setWb]; split_ifs <;> rfl

theorem Matrix.wb_setWb_other (x : Matrix) {b : Nat} (hb : b < 2) (w : WBuf) : (x.setWb b w).wb (1 - b) = x.wb (1 - b) := by
  simp only [Matrix.wb, Matrix.setWb]
  interval_cases b <;> rfl

@[simp] theorem Matrix.setWb_acc (x : Matrix) (b : Nat) (w : WBuf) : (x.setWb b w).acc = x.acc := rfl

theorem QCmd.ldBuf_lt (q : QCmd) : q.ldBuf < 2 := Nat.mod_lt _ (by decide)
theorem QCmd.ldFmt_lt (q : QCmd) : q.ldFmt < 16 := Nat.mod_lt _ (by decide)

theorem mkWBuf_fmt {fmt : Nat} (h : fmt < 16) (kt : Nat) (codes scales : List Byte) : (mkWBuf fmt kt codes scales).fmt.toNat = fmt := by
  simp only [mkWBuf, BitVec.toNat_ofNat]; exact Nat.mod_eq_of_lt h

/-- The codes that a weight load brings: of a WLD from the scratchpad, of a WLDV from its vat. -/
def QCmd.loadCodes (q : QCmd) (c : Ctx) : List Byte :=
  if q.op = .wld then (c.s.tile c.t).mem.read q.ra (q.ldKt * 8 * fmtBits q.ldFmt) else wldvCodes c q

/-- The buffer as a weight load leaves it. -/
def QCmd.loadBuf (q : QCmd) (c : Ctx) : WBuf :=
  mkWBuf q.ldFmt q.ldKt (q.loadCodes c) ((c.s.tile c.t).mem.read q.rb (2 * q.ldKt))

theorem wldvCodes_of_mode {c : Ctx} {q : QCmd} (h : (c.vat (q.ra / 0x8000)).mode ≠ 0) : wldvCodes c q =
    (List.range q.ldKt).flatMap fun i => SMap.getList 0 c.s.vatMem ((c.t.key * 96 + q.ra / 0x8000) * 0x8000 + q.ra % 0x8000 + 64 * i)
      (if q.ldFmt = 0 then 16 else 32) := by
  simp only [wldvCodes, if_neg h]

/-! ### The rows of a pass -/

theorem wspRes_words_length (x : Tile) (q : QCmd) : (wspRes x q).words.length = 64 * q.wsM := by
  simp [wspRes, List.length_flatMap, Nat.mul_comm]

theorem wspRes_ovf_length (x : Tile) (q : QCmd) : (wspRes x q).ovf.length = q.wsM := by simp [wspRes]

theorem ospRes_words_length (x : Tile) (q : QCmd) : (ospRes x q).words.length = 64 * 64 := by
  simp [ospRes, List.length_flatMap]

theorem SMap.get_setRange_self {V : Type} [DecidableEq V] (d : V) (m : List (Nat × V)) (b : Nat) {n i : Nat} (f : Nat → V) (hi : i < n) :
    SMap.get d (SMap.setRange d m b n f) (b + i) = f i := by
  induction n with
  | zero => cases hi
  | succ n ih =>
    rw [SMap.setRange, SMap.get_set]
    split_ifs with h
    · rw [Nat.add_left_cancel h]
    · exact ih (by omega)

section
variable (x : Matrix) (row0 : Nat) (raw ovw : Bool) (r : PassRes)

@[simp] theorem Matrix.writePass_wb0 : (x.writePass row0 raw ovw r).wb0 = x.wb0 := rfl
@[simp] theorem Matrix.writePass_wb1 : (x.writePass row0 raw ovw r).wb1 = x.wb1 := rfl
@[simp] theorem Matrix.writePass_abftDue : (x.writePass row0 raw ovw r).abftDue = x.abftDue + 1 := rfl

end

section
variable (x : Matrix) {row0 m n k rows : Nat} (raw ovw : Bool) {r : PassRes} (h : r.words.length = 64 * rows)
include h

/-- A pass's words stand in its accumulator rows. -/
theorem Matrix.writePass_acc (hm : m < rows) (hn : n < 64) :
    some (SMap.get (0 : Word) (x.writePass row0 raw ovw r).acc (64 * (row0 + m) + n)) = r.words[64 * m + n]? := by
  have hi : 64 * m + n < r.words.length := by omega
  rw [List.getElem?_eq_getElem hi, Nat.mul_add, Nat.add_assoc]
  exact congrArg some (SMap.get_setList_self 0 x.acc (64 * row0) r.words hi)

theorem Matrix.writePass_acc_ne (hk : k < 64 * row0 ∨ 64 * (row0 + rows) ≤ k) :
    SMap.get (0 : Word) (x.writePass row0 raw ovw r).acc k = SMap.get (0 : Word) x.acc k :=
  SMap.get_setList_ne 0 x.acc r.words (by omega)

end

theorem Matrix.writePass_accInt (x : Matrix) {row0 m : Nat} (raw ovw : Bool) {r : PassRes} (hm : m < r.ovf.length) :
    SMap.get false (x.writePass row0 raw ovw r).accInt (row0 + m) = raw := SMap.get_setRange_self false x.accInt row0 _ hm

/-! ### Completions -/

/-- The oldest issued command of the matrix queue is the oldest of its own kind. -/
theorem Tile.mqRunning_of_running {x : Tile} {q : QCmd} (h : x.running .mq = some q) : x.mqRunning q.isLoad = some q := by
  obtain ⟨hq, before, after, hl, hb⟩ := List.find?_eq_some_iff_append.1 h
  refine List.find?_eq_some_iff_append.2 ⟨by simpa using hq, before, after, hl, fun e he => ?_⟩
  have hne : e.st ≠ .issued := by simpa using hb e he
  simp [hne]

/-- What the completion of a command of the matrix core leaves: the core as `m`, and every other part that holds data as it was. -/
structure MatrixEnded (s u : State) (t : PTile) (m : Matrix) : Prop where
  mx : (u.tile t).mx = m
  scr : (u.tile t).mem.scr = (s.tile t).mem.scr
  vec : (u.tile t).vec = (s.tile t).vec
  regs : (u.tile t).sc.regs = (s.tile t).sc.regs
  pc : (u.tile t).sc.pc = (s.tile t).sc.pc
  others : ∀ r : PTile, r ≠ t → u.tile r = s.tile r

theorem MatrixEnded.of_checks {s : State} {t : PTile} {g : Fx} (h : (Fx.ofTile (s.tile t)).OnlyChecks g)
    (F : Matrix → Matrix) (c : Ctx) (n : Nat) :
    MatrixEnded s (s.commit t ((g.set { g.tile with mx := F g.tile.mx }).finish c .mq n)) t (F (s.tile t).mx) := by
  have fixed := (g.set { g.tile with mx := F g.tile.mx }).finish_fixed c .mq n
  refine ⟨?_, ?_, ?_, ?_, ?_, fun r hr => State.tile_commit_ne s _ hr⟩ <;> rw [State.tile_commit]
  · exact fixed.mx.trans (congrArg F h.mx)
  · exact fixed.scr.trans h.scr
  · exact fixed.vec.trans h.vec
  · exact fixed.regs.trans (congrArg Scalar.regs h.sc)
  · exact fixed.pc.trans (congrArg Scalar.pc h.sc)

section
variable {s : State} {t : PTile} {q : QCmd} (hr : s.tileRuns t = true) (hq : (s.tile t).running .mq = some q)
include hr hq

theorem weightLoad_ended (hop : q.op = .wld ∨ q.op = .wldv) :
    Completes (.weightLoadComplete t) s fun u => MatrixEnded s u t ((s.tile t).mx.setWb q.ldBuf (q.loadBuf ⟨t, s⟩)) := by
  have run := Tile.mqRunning_of_running hq
  rw [show q.isLoad = true by rcases hop with h | h <;> simp [QCmd.isLoad, h]] at run
  refine .of_next rfl ?_
  simp only [run, if_pos hop, hr, State.onTile_true]
  refine .of_checks ?_ (fun m => m.setWb q.ldBuf (q.loadBuf ⟨t, s⟩)) _ _
  refine .optional ?_ fun a => a.formatFault _ 1
  exact .readEcc (.optional (.refl _) fun a => a.readEcc _ 1 _ _) _ 1 _ _

theorem wsp_ended (hop : q.op = .wsp) : Completes (.passComplete t) s fun u =>
    MatrixEnded s u t ((s.tile t).mx.writePass q.wsRow0 q.wsRaw q.wsOvw (wspRes (s.tile t) q)) := by
  have run := Tile.mqRunning_of_running hq
  rw [show q.isLoad = false by simp [QCmd.isLoad, hop]] at run
  refine .of_next rfl ?_
  simp only [run, hop, true_or, if_true, decide_true, hr, State.onTile_true]
  refine .of_checks ?_ (fun m => m.writePass q.wsRow0 q.wsRaw q.wsOvw (wspRes (s.tile t) q)) _ _
  refine .optional ?_ fun a => a.formatFault _ 1
  exact (Fx.passReads_onlyChecks _ _ q).trans (Fx.passEcc_onlyChecks ..)

theorem osp_ended (hop : q.op = .osp) : Completes (.passComplete t) s fun u =>
    MatrixEnded s u t ((s.tile t).mx.writePass q.osRow0 q.osRaw q.osOvw (ospRes (s.tile t) q)) := by
  have run := Tile.mqRunning_of_running hq
  rw [show q.isLoad = false by simp [QCmd.isLoad, hop]] at run
  refine .of_next rfl ?_
  simp only [run, hop, or_true, if_true, reduceCtorEq, decide_false, Bool.false_eq_true, if_false, hr, State.onTile_true]
  refine .of_checks ?_ (fun m => m.writePass q.osRow0 q.osRaw q.osOvw (ospRes (s.tile t) q)) _ _
  refine .optional ?_ fun a => a.formatFault _ 1
  exact (Fx.passReads_onlyChecks _ _ q).trans (Fx.passEcc_onlyChecks ..)

end

/-! ### The verdict of the checksum -/

theorem ctrAddAll_one_self (m : SMap Word) (i : Fin 64) (k : Ctr) (n : Nat) :
    SMap.get 0 (ctrAddAll m i [(k, n)]) (ctrKey i k) = satAdd (SMap.get 0 m (ctrKey i k)) n := SMap.get_set_self ..

/-- The tile whose oldest verdict has arrived. -/
def Tile.judged (x : Tile) : Tile := { x with mx := { x.mx with abftDue := x.mx.abftDue - 1, abftBad := x.mx.abftBad.drop 1 } }

theorem exec_abftVerdict {s : State} {t : PTile} (h : (s.tile t).mx.abftDue ≠ 0) (mismatch : Bool) :
    exec (.abftVerdict t mismatch) s = .next (s.commit t
      (if mismatch || (s.tile t).mx.abftBad.headD false then
        ((Fx.ofTile (s.tile t).judged).raise ⟨t, s⟩ 1 evtAbft 0 .recov true).count .abft 1
      else Fx.ofTile (s.tile t).judged)) := by
  rw [exec, execAbftVerdict, show ((s.tile t).mx.abftDue != 0) = true by simpa using h, State.onTile_true]
  rfl

/-- A verdict that finds no mismatch. -/
theorem abftVerdict_good {s : State} {t : PTile} {mismatch : Bool} (h : (s.tile t).mx.abftDue ≠ 0)
    (hb : (mismatch || (s.tile t).mx.abftBad.headD false) = false) :
    exec (.abftVerdict t mismatch) s = .next (s.commit t (Fx.ofTile (s.tile t).judged)) := by
  rw [exec_abftVerdict h, hb]; rfl

theorem abftVerdict_bad {s : State} {t : PTile} {mismatch : Bool} (h : (s.tile t).mx.abftDue ≠ 0)
    (hb : (mismatch || (s.tile t).mx.abftBad.headD false) = true) :
    exec (.abftVerdict t mismatch) s = .next (s.commit t
      (((Fx.ofTile (s.tile t).judged).raise ⟨t, s⟩ 1 evtAbft 0 .recov true).count .abft 1)) := by
  rw [exec_abftVerdict h, hb]; rfl

end Sys2Proof.Machine
end

section
/-! O17: the completions of the matrix core (R75–R81, R113, R299–R301) and the verdict of the checksum. -/

namespace Sys2Proof.Machine

/-- Settles O17: each completion changes the matrix core alone, a weight load its buffer and a pass its rows; a verdict takes the oldest
mark, and reports and counts a mismatch. -/
theorem matrixUnitCompletes : Obligations.MatrixUnitCompletes := by
  unfold Obligations.MatrixUnitCompletes
  refine ⟨fun s t q hr hq => ⟨fun hop => ?_, fun hop => ?_, fun hop => ?_⟩, fun s t mismatch hd => ?_⟩
  · obtain ⟨u, hu, e⟩ := weightLoad_ended hr hq hop
    have hw : (u.tile t).mx.wb q.ldBuf = q.loadBuf ⟨t, s⟩ := by rw [e.mx, Matrix.wb_setWb_self]
    have ho : (u.tile t).mx.wb (1 - q.ldBuf) = (s.tile t).mx.wb (1 - q.ldBuf) := by rw [e.mx, Matrix.wb_setWb_other _ q.ldBuf_lt]
    simp only [Matrix.wb] at hw ho
    refine .of_next hu ?_
    dsimp only
    rw [hw]
    refine ⟨rfl, mkWBuf_fmt q.ldFmt_lt _ _ _, rfl, rfl, fun h => ?_, fun h hm => ?_, ho, by rw [e.mx, Matrix.setWb_acc],
      e.scr, e.vec, e.regs, e.pc, e.others⟩
    · exact if_pos h
    · refine (if_neg (by simp [h])).trans (wldvCodes_of_mode hm)
  · obtain ⟨u, hu, e⟩ := wsp_ended hr hq hop
    refine .of_next hu ?_
    dsimp only
    have hlen := wspRes_words_length (s.tile t) q
    rw [e.mx]
    exact ⟨Matrix.writePass_abftDue .., fun m n hm hn => Matrix.writePass_acc _ _ _ hlen hm hn,
      fun m hm => Matrix.writePass_accInt _ _ _ (lt_of_lt_of_eq hm (wspRes_ovf_length (s.tile t) q).symm),
      fun k hk => Matrix.writePass_acc_ne _ _ _ hlen hk, Matrix.writePass_wb0 .., Matrix.writePass_wb1 .., e.scr, e.vec,
        e.regs, e.pc, e.others⟩
  · obtain ⟨u, hu, e⟩ := osp_ended hr hq hop
    refine .of_next hu ?_
    dsimp only
    have hlen := ospRes_words_length (s.tile t) q
    rw [e.mx]
    exact ⟨Matrix.writePass_abftDue .., fun m n hm hn => Matrix.writePass_acc _ _ _ hlen hm hn,
      fun k hk => Matrix.writePass_acc_ne _ _ _ hlen hk, Matrix.writePass_wb0 .., Matrix.writePass_wb1 .., e.scr, e.vec,
        e.regs, e.pc, e.others⟩
  · have due : (s.tile t).judged.mx.abftDue + 1 = (s.tile t).mx.abftDue := Nat.sub_add_cancel (Nat.pos_of_ne_zero hd)
    have tail : (s.tile t).judged.mx.abftBad = (s.tile t).mx.abftBad.tail := List.drop_one
    have others (f : Fx) : ∀ r : PTile, r ≠ t → (s.commit t f).tile r = s.tile r := fun r hr => State.tile_commit_ne s f hr
    dsimp only
    cases hb : mismatch || (s.tile t).mx.abftBad.headD false
    · refine .of_next (abftVerdict_good hd hb) ?_
      rw [State.tile_commit]
      exact ⟨due, rfl, rfl, rfl, rfl, tail, fun _ => ⟨rfl, rfl⟩, fun h => (by cases h), others _⟩
    · refine .of_next (abftVerdict_bad hd hb) ?_
      rw [State.tile_commit, Fx.count_tile]
      refine ⟨due, rfl, rfl, rfl, rfl, tail, fun h => (by cases h), fun _ => ⟨?_, ctrAddAll_one_self ..⟩, others _⟩
      exact List.mem_append_right _ (List.mem_singleton_self _)

end Sys2Proof.Machine
end

section
/-! SUPPORT. The vector registers and the completion of a vector command: what it writes, and its frame. -/

namespace Sys2Proof.Machine

/-! ### Registers -/

/-- Lane `l` of register `r` (R82). -/
def Vector'.lane (c : Vector') (r l : Nat) : Word := SMap.get (0 : Word) c.v (64 * r + l)

@[simp] theorem Tile.vget_length (x : Tile) (r : Nat) : (x.vget r).length = 64 := by simp [Tile.vget, SMap.getList]

theorem Tile.vget_getD (x : Tile) (r : Nat) {l : Nat} (hl : l < 64) : (x.vget r).getD l 0 = x.vec.lane r l := by
  simp [Tile.vget, SMap.getList, hl, Vector'.lane]

/-- The lanes of a register that is written from a function. -/
theorem range_map_getD {α : Type} (d : α) (v : Nat → α) {n l : Nat} (hl : l < n) : ((List.range n).map v).getD l d = v l := by simp [hl]

theorem Vector'.lane_put_self (c : Vector') (r : Nat) {ws : List Word} (h : ws.length = 64) {l : Nat} (hl : l < 64) :
    (c.put r ws).lane r l = ws.getD l 0 := by
  rw [Vector'.lane, Vector'.put, List.take_of_length_le h.le, SMap.get_setList_self 0 c.v (64 * r) ws (h ▸ hl), List.getD_eq_getElem]

theorem Vector'.lane_put_ne (c : Vector') {r r' : Nat} (h : r' ≠ r) (ws : List Word) {l : Nat} (hl : l < 64) :
    (c.put r ws).lane r' l = c.lane r' l := by
  have hlen : (ws.take 64).length ≤ 64 := List.length_take_le 64 ws
  exact SMap.get_setList_ne 0 c.v (ws.take 64) (by omega)

theorem Vector'.lane_putAll_of_not_mem {L : List (Nat × List Word)} {r : Nat} (h : r ∉ L.map Prod.fst) (c : Vector')
    {l : Nat} (hl : l < 64) :
    (c.putAll L).lane r l = c.lane r l := by
  induction L generalizing c with
  | nil => rfl
  | cons e L ih =>
    rw [List.map_cons, List.mem_cons, not_or] at h
    rw [Vector'.putAll, ih h.2, lane_put_ne c h.1 e.2 hl]

/-- A register that a command writes once reads as written. -/
theorem Vector'.lane_putAll_of_mem {L : List (Nat × List Word)} (hn : (L.map Prod.fst).Nodup) {r : Nat} {ws : List Word} (h : (r, ws) ∈ L)
    (hw : ws.length = 64) (c : Vector') {l : Nat} (hl : l < 64) : (c.putAll L).lane r l = ws.getD l 0 := by
  induction L generalizing c with
  | nil => cases h
  | cons e L ih =>
    obtain ⟨hne, hn⟩ := List.nodup_cons.1 hn
    rw [Vector'.putAll]
    rcases List.mem_cons.1 h with rfl | h
    · rw [lane_putAll_of_not_mem hne _ hl, lane_put_self c r hw hl]
    · exact ih hn h _

/-- Two registers that a command writes with the parts of pairs read as the pairs. -/
theorem Vector'.lane_putAll_pair {L : List (Nat × List Word)} (hn : (L.map Prod.fst).Nodup) {r r' : Nat} {ps : List (Word × Word)}
    (h : (r, ps.map (·.1)) ∈ L) (h' : (r', ps.map (·.2)) ∈ L) (hp : ps.length = 64) (c : Vector') {l : Nat} (hl : l < 64)
      (d : Word × Word) :
    ((c.putAll L).lane r l, (c.putAll L).lane r' l) = ps.getD l d := by
  have hlp : l < ps.length := hp ▸ hl
  rw [lane_putAll_of_mem hn h (by simpa using hp) c hl, lane_putAll_of_mem hn h' (by simpa using hp) c hl]
  simp [hlp]

/-- What a command writes does not depend on the marks beside the registers. -/
theorem Vector'.putAll_v {c c' : Vector'} (h : c.v = c'.v) (L : List (Nat × List Word)) : (c.putAll L).v = (c'.putAll L).v := by
  induction L generalizing c c' with
  | nil => exact h
  | cons e L ih => exact ih (by simp only [Vector'.put, h])

@[simp] theorem Vector'.flagged_v (c : Vector') (x : Matrix) (q : QCmd) : (c.flagged x q).v = c.v := by
  unfold Vector'.flagged; split <;> rfl

theorem TileMem.writeAll_scr {m m' : TileMem} (h : m.scr = m'.scr) (L : List (Nat × List Byte)) :
    (m.writeAll L).scr = (m'.writeAll L).scr := by
  induction L generalizing m m' with
  | nil => exact h
  | cons e L ih => exact ih (by simp only [TileMem.write_scr, h])

/-! ### The completion -/

/-- What the completion of a vector command leaves: the registers and the scratchpad as the command's results make them, the matrix core
and the scalar core as they were, the command out of its queue and counted, and the other tiles. -/
structure VectorEnded (s u : State) (t : PTile) (q : QCmd) (r : VRes) : Prop where
  v : (u.tile t).vec.v = ((s.tile t).vec.putAll r.regs).v
  scr : (u.tile t).mem.scr = ((s.tile t).mem.writeAll r.stores).scr
  mx : (u.tile t).mx = (s.tile t).mx
  regs : (u.tile t).sc.regs = (s.tile t).sc.regs
  pc : (u.tile t).sc.pc = (s.tile t).sc.pc
  counted : (s.tile t).vq = [q] → (u.tile t).vq = [] ∧ (u.tile t).sc.qd 1 = (s.tile t).sc.qd 1 + 1
  others : ∀ r : PTile, r ≠ t → u.tile r = s.tile r

theorem VectorEnded.of_checks {s : State} {t : PTile} {q : QCmd} {g : Fx} {b : Bool}
    (h : ((Fx.ofTile (s.tile t)).residue b).OnlyChecks g) (hq : q.op ≠ .qwait) (r : VRes) (x : Matrix) (c : Ctx) :
      VectorEnded s (s.commit t ((g.set { g.tile with
      vec := (g.tile.vec.putAll r.regs).flagged x q, mem := g.tile.mem.writeAll r.stores }).finish c .vq q.seq)) t q r := by
  generalize hf : g.set { g.tile with vec := (g.tile.vec.putAll r.regs).flagged x q, mem := g.tile.mem.writeAll r.stores } = f
  have fixed := f.finish_fixed c .vq q.seq
  have hsc : f.tile.sc = (s.tile t).sc := by rw [← hf]; exact h.sc
  have hvq : f.tile.vq = (s.tile t).vq := by rw [← hf]; exact h.queue .vq
  have hv : f.tile.vec.v = ((s.tile t).vec.putAll r.regs).v := by
    rw [← hf, Fx.set, Vector'.flagged_v, h.vec]; exact Vector'.putAll_v (c := ((Fx.ofTile (s.tile t)).residue b).tile.vec)
      (c' := (s.tile t).vec) rfl _
  refine ⟨?_, ?_, ?_, ?_, ?_, fun hk => ?_, fun r hr => State.tile_commit_ne s _ hr⟩ <;> rw [State.tile_commit]
  · rw [fixed.vec, hv]
  · rw [fixed.scr, ← hf]; exact TileMem.writeAll_scr h.scr _
  · rw [fixed.mx, ← hf]; exact h.mx
  · rw [fixed.regs, hsc]
  · rw [fixed.pc, hsc]
  · have := f.finish_alone c (k := .vq) (hvq.trans hk) hq
    rwa [hsc] at this

/-- A vector command writes the lanes `y` of the registers `rs`, of which `ok y` holds, and no other data. -/
def VecWrites (s : State) (t : PTile) (q : QCmd) (rs : List Nat) (ok : (Nat → Nat → Word) → Prop) : Prop :=
  Completes (.vectorCommandComplete t) s fun u => ok (u.tile t).vec.lane ∧ (u.tile t).mem.scr = (s.tile t).mem.scr ∧
    (∀ r : Nat, r ∉ rs → ∀ l : Nat, l < 64 → (u.tile t).vec.lane r l = (s.tile t).vec.lane r l) ∧
    (u.tile t).mx = (s.tile t).mx ∧ (u.tile t).sc.regs = (s.tile t).sc.regs ∧ (u.tile t).sc.pc = (s.tile t).sc.pc ∧
    ((s.tile t).vq = [q] → (u.tile t).vq = [] ∧ (u.tile t).sc.qd 1 = (s.tile t).sc.qd 1 + 1) ∧ ∀ r : PTile, r ≠ t → u.tile r = s.tile r

/-- A vector command writes the register of its F1: lane `l` as `v l`. -/
abbrev VecGives (s : State) (t : PTile) (q : QCmd) (v : Nat → Word) : Prop :=
  VecWrites s t q [q.f1.toNat] fun y => ∀ l : Nat, l < 64 → y q.f1.toNat l = v l

theorem VecWrites.imp {s : State} {t : PTile} {q : QCmd} {rs : List Nat} {ok ok' : (Nat → Nat → Word) → Prop} (h : VecWrites s t q rs ok)
    (hi : ∀ y, ok y → ok' y) : VecWrites s t q rs ok' := by
  obtain ⟨u, hu, hok, hrest⟩ := h
  exact ⟨u, hu, hi _ hok, hrest⟩

/-- A QWAIT gives no results. -/
theorem vexec_qwait (x : Tile) {q : QCmd} (h : q.op = .qwait) : vexec x q = ⟨[], [], []⟩ := by rw [vexec, h]

section
variable {s : State} {t : PTile} {q : QCmd} (hr : s.tileRuns t = true) (hq : (s.tile t).running .vq = some q)
include hr hq

theorem vectorCommand_ended (hop : q.op ≠ .qwait) :
    Completes (.vectorCommandComplete t) s fun u => VectorEnded s u t q (vexec (s.tile t) q) := by
  obtain ⟨b, checks⟩ := Fx.vecChecks_onlyChecks (Fx.ofTile (s.tile t)) ⟨t, s⟩ q (vexec (s.tile t) q).encs
  refine .of_next rfl ?_
  simp only [hq, hr, State.onTile_true]
  exact .of_checks checks hop (vexec (s.tile t) q) (s.tile t).mx ⟨t, s⟩

/-- A command that writes registers alone. -/
theorem vecWrites_of_regs {L : List (Nat × List Word)} {encs : List EncBlk} (hL : L ≠ []) (hv : vexec (s.tile t) q = ⟨L, [], encs⟩)
    {rs : List Nat} (hrs : L.map Prod.fst = rs) {ok : (Nat → Nat → Word) → Prop} (hok : ok ((s.tile t).vec.putAll L).lane) :
    VecWrites s t q rs ok := by
  have hop : q.op ≠ .qwait := fun h => hL (congrArg VRes.regs (hv.symm.trans (vexec_qwait _ h)))
  obtain ⟨u, hu, e⟩ := vectorCommand_ended hr hq hop
  rw [hv] at e
  have hl : (u.tile t).vec.lane = ((s.tile t).vec.putAll L).lane := by
    funext r l; exact congrArg (fun v => SMap.get 0 v (64 * r + l)) e.v
  refine .of_next hu ⟨hl ▸ hok, e.scr, fun r hr l hl' => ?_, e.mx, e.regs, e.pc, e.counted, e.others⟩
  rw [hl, Vector'.lane_putAll_of_not_mem (hrs ▸ hr) _ hl']

/-- A command that writes its F1 alone. -/
theorem vecGives_of_oneReg {ws : List Word} (hv : vexec (s.tile t) q = oneReg q.f1 ws) (hw : ws.length = 64) {v : Nat → Word}
    (h : ∀ l, l < 64 → ws.getD l 0 = v l) : VecGives s t q v :=
  vecWrites_of_regs hr hq (List.cons_ne_nil _ _) hv rfl fun l hl => (Vector'.lane_put_self _ _ hw hl).trans (h l hl)

end

end Sys2Proof.Machine
end

section
/-! SUPPORT. Packed elements (R82): the digits of a lane word; and the element operations of R83, for the integer types as wrapped or
saturated integers, for the others as values rounded once. -/

namespace Sys2Proof.Machine

/-! ### Digits -/

/-- The word with the `n` elements `g 0`, `g 1`, … of width `w`. -/
def digits (w n : Nat) (g : Nat → Nat) : Nat := (List.range n).foldl (fun acc i => acc + g i % 2 ^ w * 2 ^ (w * i)) 0

theorem digits_succ (w n : Nat) (g : Nat → Nat) : digits w (n + 1) g = digits w n g + g n % 2 ^ w * 2 ^ (w * n) := by
  simp [digits, List.range_succ]

theorem digits_lt (w n : Nat) (g : Nat → Nat) : digits w n g < 2 ^ (w * n) := by
  induction n with
  | zero => simp [digits]
  | succ n ih =>
    have hg : g n % 2 ^ w + 1 ≤ 2 ^ w := Nat.mod_lt _ (Nat.two_pow_pos w)
    calc digits w (n + 1) g < 2 ^ (w * n) + g n % 2 ^ w * 2 ^ (w * n) := by rw [digits_succ]; omega
      _ = (g n % 2 ^ w + 1) * 2 ^ (w * n) := by ring
      _ ≤ 2 ^ w * 2 ^ (w * n) := Nat.mul_le_mul_right _ hg
      _ = 2 ^ (w * (n + 1)) := by ring

/-- An element is read back. -/
theorem digits_get (w : Nat) {n i : Nat} (hi : i < n) (g : Nat → Nat) : digits w n g / 2 ^ (w * i) % 2 ^ w = g i % 2 ^ w := by
  induction n with
  | zero => cases hi
  | succ n ih =>
    rw [digits_succ]
    rcases Nat.lt_succ_iff_lt_or_eq.1 hi with h | rfl
    · obtain ⟨k, rfl⟩ := Nat.exists_eq_add_of_lt h
      have hp : 2 ^ (w * (i + k + 1)) = 2 ^ w * 2 ^ (w * k) * 2 ^ (w * i) := by ring
      rw [hp, ← Nat.mul_assoc, Nat.add_mul_div_right _ _ (Nat.two_pow_pos _), Nat.mul_left_comm, Nat.add_mul_mod_self_left, ih h]
    · rw [Nat.add_mul_div_right _ _ (Nat.two_pow_pos _), Nat.div_eq_of_lt (digits_lt w i g), Nat.zero_add, Nat.mod_mod]

/-- An element of a lane word. -/
theorem sub_ofNat_digits {w : Nat} (hw : w * (32 / w) = 32) {i : Nat} (hi : i < 32 / w) (g : Nat → Nat) :
    sub w i (BitVec.ofNat 32 (digits w (32 / w) g)) = g i % 2 ^ w := by
  have h := digits_lt w (32 / w) g
  rw [hw] at h
  rw [sub, BitVec.toNat_ofNat, Nat.mod_eq_of_lt h, digits_get w hi]

theorem sub_packed3 {w : Nat} (hw : w * (32 / w) = 32) {i : Nat} (hi : i < 32 / w) (f : Nat → Nat → Nat → Nat) (d a b : Word) :
    sub w i (packed3 w f d a b) = f (sub w i d) (sub w i a) (sub w i b) % 2 ^ w :=
  sub_ofNat_digits hw hi fun i => f (sub w i d) (sub w i a) (sub w i b)

theorem sub_packElems {w : Nat} (hw : w * (32 / w) = 32) {l i : Nat} (hl : l < 64) (hi : i < 32 / w) (es : List Nat) :
    sub w i ((packElems w es).getD l 0) = es.getD (l * (32 / w) + i) 0 % 2 ^ w := by
  rw [packElems, range_map_getD _ _ hl]
  exact sub_ofNat_digits hw hi fun i => es.getD (l * (32 / w) + i) 0

/-- A word holds one element of 32 bits. -/
theorem packed3_word (f : Nat → Nat → Nat → Nat) (d a b : Word) : packed3 32 f d a b = BitVec.ofNat 32 (f d.toNat a.toNat b.toNat) := by
  have hs (x : Word) : sub 32 0 x = x.toNat := by simp [sub, Nat.mod_eq_of_lt x.isLt]
  apply BitVec.eq_of_toNat_eq
  simp [packed3, hs, List.range_succ]

theorem lanes3_getD (w : Nat) (f : Nat → Nat → Nat → Nat) (d a b : List Word) {l : Nat} (hl : l < 64) :
    (lanes3 w f d a b).getD l 0 = packed3 w f (d.getD l 0) (a.getD l 0) (b.getD l 0) := range_map_getD _ _ hl

theorem lanes3_length (w : Nat) (f : Nat → Nat → Nat → Nat) (d a b : List Word) : (lanes3 w f d a b).length = 64 := by simp [lanes3]

/-! ### Integers -/

theorem sInt_word (x : Word) : sInt 32 x.toNat = x.toInt := by
  rw [sInt, Nat.mod_eq_of_lt x.isLt, BitVec.toInt_eq_toNat_cond]
  have := x.isLt
  split_ifs <;> omega

/-- A code is its value, wrapped. -/
theorem sInt_wrap (w n : Nat) : (sInt w n % 2 ^ w).toNat = n % 2 ^ w := by
  have h : sInt w n % 2 ^ w = ((n % 2 ^ w : Nat) : Int) := by
    have hlt : ((n % 2 ^ w : Nat) : Int) < 2 ^ w := by exact_mod_cast Nat.mod_lt n (Nat.two_pow_pos w)
    unfold sInt
    split_ifs
    · exact Int.emod_eq_of_lt (by positivity) hlt
    · rw [Int.sub_emod_right]; exact Int.emod_eq_of_lt (by positivity) hlt
  rw [h, Int.toNat_natCast]

theorem wrap_mod (w : Nat) (z : Int) : (z % 2 ^ w).toNat % 2 ^ w = (z % 2 ^ w).toNat := by
  refine Nat.mod_eq_of_lt ((Int.toNat_lt (Int.emod_nonneg z (by positivity))).2 ?_)
  exact_mod_cast Int.emod_lt_of_pos z (by positivity)

section
variable {ty : Nat} (h : isFloatTy ty = false) (sat : Bool) (d a b : Nat)
include h

theorem elAdd_int : elAdd ty sat d a b = intRes (fmtBits ty) sat (sInt (fmtBits ty) a + sInt (fmtBits ty) b) := by
  rw [elAdd, h]; rfl

theorem elSub_int : elSub ty sat d a b = intRes (fmtBits ty) sat (sInt (fmtBits ty) a - sInt (fmtBits ty) b) := by
  rw [elSub, h]; rfl

theorem elMul_int : elMul ty sat d a b = intRes (fmtBits ty) sat (sInt (fmtBits ty) a * sInt (fmtBits ty) b) := by
  rw [elMul, h]; rfl

theorem elMin_int : elMin ty d a b % 2 ^ fmtBits ty = (min (sInt (fmtBits ty) a) (sInt (fmtBits ty) b) % 2 ^ fmtBits ty).toNat := by
  have e : elMin ty d a b = if sInt (fmtBits ty) a ≤ sInt (fmtBits ty) b then a else b := by rw [elMin, h]; rfl
  rw [e, min_def]
  split_ifs <;> exact (sInt_wrap ..).symm

theorem elMax_int : elMax ty d a b % 2 ^ fmtBits ty = (max (sInt (fmtBits ty) a) (sInt (fmtBits ty) b) % 2 ^ fmtBits ty).toNat := by
  have e : elMax ty d a b = if sInt (fmtBits ty) a ≤ sInt (fmtBits ty) b then b else a := by rw [elMax, h]; rfl
  rw [e, max_def]
  split_ifs <;> exact (sInt_wrap ..).symm

theorem elClt_int : elClt ty d a b = if sInt (fmtBits ty) a < sInt (fmtBits ty) b then 2 ^ fmtBits ty - 1 else 0 := by
  by_cases hlt : sInt (fmtBits ty) a < sInt (fmtBits ty) b <;> simp [elClt, h, tyBits, allOnes, hlt]

theorem elCeq_int : elCeq ty d a b = if a = b then 2 ^ fmtBits ty - 1 else 0 := by
  simp [elCeq, h, tyBits, allOnes]

end

/-! ### Values rounded once -/

section
variable {ty : Nat} (h : isFloatTy ty = true) (sat : Bool) (d a b : Nat)
include h

theorem elAdd_float : elAdd ty sat d a b = (tyFmt ty).enc (((tyFmt ty).dec a).add ((tyFmt ty).dec b)) := by rw [elAdd, if_pos h]
theorem elSub_float : elSub ty sat d a b = (tyFmt ty).enc (((tyFmt ty).dec a).add ((tyFmt ty).dec b).neg) := by rw [elSub, if_pos h]
theorem elMul_float : elMul ty sat d a b = (tyFmt ty).enc (((tyFmt ty).dec a).mul ((tyFmt ty).dec b)) := by rw [elMul, if_pos h]
theorem elMin_float : elMin ty d a b = (tyFmt ty).enc (((tyFmt ty).dec a).min ((tyFmt ty).dec b)) := by rw [elMin, if_pos h]
theorem elMax_float : elMax ty d a b = (tyFmt ty).enc (((tyFmt ty).dec a).max ((tyFmt ty).dec b)) := by rw [elMax, if_pos h]

theorem elClt_float : elClt ty d a b = if ((tyFmt ty).dec a).lt ((tyFmt ty).dec b) = true then 2 ^ fmtBits ty - 1 else 0 := by
  simp [elClt, h, tyBits, allOnes]

theorem elCeq_float : elCeq ty d a b = if ((tyFmt ty).dec a).eq ((tyFmt ty).dec b) = true then 2 ^ fmtBits ty - 1 else 0 := by
  simp [elCeq, h, tyBits, allOnes]

end

end Sys2Proof.Machine
end

section
/-! SUPPORT. The element-wise vector commands (R83, R302): one rule for all of them, over the element operation of each. -/

namespace Sys2Proof.Machine

/-- The operation that an element-wise command applies to the elements of type `ty`; none for the other commands. -/
def elemFn (ty : Nat) (sat : Bool) : QOp → Option (Nat → Nat → Nat → Nat)
  | .vadd => some (elAdd ty sat) | .vsub => some (elSub ty sat) | .vmul => some (elMul ty sat) | .vfma => some (elFma ty)
  | .vmin => some (elMin ty) | .vmax => some (elMax ty) | .vshl => some (elShl ty sat) | .vshr => some (elShr ty)
  | .vclt => some (elClt ty) | .vceq => some (elCeq ty) | .vsel => some elSel
  | .vexp => some (elFun ty exp32) | .vrcp => some (elFun ty recip32) | .vrsq => some (elFun ty rsqrt32)
  | _ => none

/-- MOD of a command names an element type and asks for saturation or not (R302). -/
structure QCmd.Types (q : QCmd) (ty : Nat) (sat : Bool) : Prop where
  ty : q.mod.toNat % 16 = ty
  sat : q.mod.toNat.testBit 4 = sat

theorem QCmd.types_plain {q : QCmd} {ty : Nat} (h : ty < 16) (hm : q.mod.toNat = ty) : q.Types ty false where
  ty := by omega
  sat := by rw [hm]; exact Nat.testBit_lt_two_pow h

theorem QCmd.types_sat {q : QCmd} {ty : Nat} (h : ty < 16) (hm : q.mod.toNat = ty + 16) : q.Types ty true where
  ty := by omega
  sat := by
    rw [hm, Nat.add_comm]
    exact (Nat.testBit_two_pow_add_eq ty 4).trans (by rw [Nat.testBit_lt_two_pow h]; rfl)

theorem vexec_elem {x : Tile} {q : QCmd} {ty : Nat} {sat : Bool} (hq : q.Types ty sat) {f : Nat → Nat → Nat → Nat}
    (h : elemFn ty sat q.op = some f) :
    vexec x q = oneReg q.f1 (lanes3 (fmtBits ty) f (x.vget q.f1.toNat) (x.vget q.f2.toNat) (x.vget q.f3.toNat)) := by
  obtain ⟨rfl, rfl⟩ := hq
  unfold vexec
  cases hop : q.op <;> rw [hop] at h <;> cases h <;> rfl

section
variable {s : State} {t : PTile} {q : QCmd} (hr : s.tileRuns t = true) (hq : (s.tile t).running .vq = some q)
include hr hq

theorem elementwise_gives {ty : Nat} {sat : Bool} (hty : q.Types ty sat) {f : Nat → Nat → Nat → Nat} (hf : elemFn ty sat q.op = some f) :
    VecGives s t q fun l => packed3 (fmtBits ty) f ((s.tile t).vec.lane q.f1.toNat l) ((s.tile t).vec.lane q.f2.toNat l)
      ((s.tile t).vec.lane q.f3.toNat l) := by
  refine vecGives_of_oneReg hr hq (vexec_elem hty hf) (lanes3_length ..) fun l hl => ?_
  rw [lanes3_getD _ _ _ _ _ hl, Tile.vget_getD _ _ hl, Tile.vget_getD _ _ hl, Tile.vget_getD _ _ hl]

/-- Each packed element is the operation on the elements in its place. -/
theorem elementwise_elems {ty : Nat} {sat : Bool} (hty : q.Types ty sat) (hw : fmtBits ty * (32 / fmtBits ty) = 32)
    {op : QOp} (hop : q.op = op)
    {f : Nat → Nat → Nat → Nat} (hf : elemFn ty sat op = some f) {v : Nat → Nat → Nat}
    (hv : ∀ l i : Nat, f (sub (fmtBits ty) i ((s.tile t).vec.lane q.f1.toNat l)) (sub (fmtBits ty) i ((s.tile t).vec.lane q.f2.toNat l))
      (sub (fmtBits ty) i ((s.tile t).vec.lane q.f3.toNat l)) % 2 ^ fmtBits ty = v l i) :
    VecWrites s t q [q.f1.toNat] fun y => ∀ l i : Nat, l < 64 → i < 32 / fmtBits ty → sub (fmtBits ty) i (y q.f1.toNat l) = v l i := by
  refine (elementwise_gives hr hq hty (hop ▸ hf)).imp fun y hy => ?_
  intro l i hl hi
  rw [hy l hl, sub_packed3 hw hi, hv]

/-- The same on lanes of one 32-bit integer. -/
theorem elementwise_words {sat : Bool} (hty : q.Types 11 sat) {op : QOp} (hop : q.op = op) {f : Nat → Nat → Nat → Nat}
    (hf : elemFn 11 sat op = some f) {v : Nat → Word} (hv : ∀ l : Nat,
      BitVec.ofNat 32 (f ((s.tile t).vec.lane q.f1.toNat l).toNat ((s.tile t).vec.lane q.f2.toNat l).toNat
      ((s.tile t).vec.lane q.f3.toNat l).toNat) = v l) : VecGives s t q v := by
  refine (elementwise_gives hr hq hty (hop ▸ hf)).imp fun y hy l hl => ?_
  rw [hy l hl]
  exact (packed3_word f _ _ _).trans (hv l)

/-- The operations on the bits of lanes. -/
theorem bitwise_words {f : Nat → Nat → Nat}
    (hx : vexec (s.tile t) q = oneReg q.f1 (lanes3 32 (fun _ a b => f a b) ((s.tile t).vget q.f1.toNat) ((s.tile t).vget q.f2.toNat)
      ((s.tile t).vget q.f3.toNat))) {v : Nat → Word}
    (hv : ∀ l : Nat, (v l).toNat = f ((s.tile t).vec.lane q.f2.toNat l).toNat ((s.tile t).vec.lane q.f3.toNat l).toNat) :
      VecGives s t q v := by
  refine vecGives_of_oneReg hr hq hx (lanes3_length ..) fun l hl => ?_
  rw [lanes3_getD _ _ _ _ _ hl, Tile.vget_getD _ _ hl, Tile.vget_getD _ _ hl, Tile.vget_getD _ _ hl, packed3_word, ← hv, BitVec.ofNat_toNat,
    BitVec.setWidth_eq]

end

/-! ### Lanes of one 32-bit integer -/

theorem ofNat_eq_ofInt {n : Nat} {z : Int} (h : n % 2 ^ 32 = (z % 2 ^ 32).toNat) : BitVec.ofNat 32 n = BitVec.ofInt 32 z :=
  BitVec.eq_of_toNat_eq (by rw [BitVec.toNat_ofNat, BitVec.toNat_ofInt]; exact_mod_cast h)

theorem ofNat_intRes (sat : Bool) (z : Int) : BitVec.ofNat 32 (intRes 32 sat z) = BitVec.ofInt 32 (if sat then satInt 32 z else z) :=
  ofNat_eq_ofInt (by rw [intRes]; omega)

section
variable (sat : Bool) (d : Nat) (a b : Word)

theorem elAdd_word : BitVec.ofNat 32 (elAdd 11 sat d a.toNat b.toNat) =
    BitVec.ofInt 32 (if sat then satInt 32 (a.toInt + b.toInt) else a.toInt + b.toInt) := by
  rw [elAdd_int rfl, ← sInt_word, ← sInt_word]; exact ofNat_intRes ..

theorem elSub_word : BitVec.ofNat 32 (elSub 11 sat d a.toNat b.toNat) =
    BitVec.ofInt 32 (if sat then satInt 32 (a.toInt - b.toInt) else a.toInt - b.toInt) := by
  rw [elSub_int rfl, ← sInt_word, ← sInt_word]; exact ofNat_intRes ..

theorem elMul_word : BitVec.ofNat 32 (elMul 11 sat d a.toNat b.toNat) =
    BitVec.ofInt 32 (if sat then satInt 32 (a.toInt * b.toInt) else a.toInt * b.toInt) := by
  rw [elMul_int rfl, ← sInt_word, ← sInt_word]; exact ofNat_intRes ..

theorem elShl_word : BitVec.ofNat 32 (elShl 11 sat d a.toNat b.toNat) =
    BitVec.ofInt 32 (if sat then satInt 32 (a.toInt * 2 ^ (b.toNat % 32)) else a.toInt * 2 ^ (b.toNat % 32)) := by
  rw [← sInt_word]; exact ofNat_intRes ..

theorem elShr_word : BitVec.ofNat 32 (elShr 11 d a.toNat b.toNat) = BitVec.ofInt 32 (a.toInt / 2 ^ (b.toNat % 32)) := by
  rw [← sInt_word]; exact ofNat_intRes false _

theorem elMin_word : BitVec.ofNat 32 (elMin 11 d a.toNat b.toNat) = BitVec.ofInt 32 (min a.toInt b.toInt) := by
  rw [← sInt_word, ← sInt_word]; exact ofNat_eq_ofInt (elMin_int (ty := 11) rfl ..)

theorem elMax_word : BitVec.ofNat 32 (elMax 11 d a.toNat b.toNat) = BitVec.ofInt 32 (max a.toInt b.toInt) := by
  rw [← sInt_word, ← sInt_word]; exact ofNat_eq_ofInt (elMax_int (ty := 11) rfl ..)

theorem elClt_word : BitVec.ofNat 32 (elClt 11 d a.toNat b.toNat) = if a.toInt < b.toInt then BitVec.allOnes 32 else 0 := by
  rw [elClt_int rfl, ← sInt_word, ← sInt_word]
  exact apply_ite (BitVec.ofNat 32) _ _ _

theorem elCeq_word : BitVec.ofNat 32 (elCeq 11 d a.toNat b.toNat) = if a = b then BitVec.allOnes 32 else 0 := by
  rw [elCeq_int rfl]
  simp only [BitVec.toNat_inj]
  exact apply_ite (BitVec.ofNat 32) _ _ _

theorem elSel_word (d : Word) : BitVec.ofNat 32 (elSel d.toNat a.toNat b.toNat) = if d = 0 then b else a := by
  have h : d.toNat = 0 ↔ d = 0 := BitVec.toNat_inj (y := 0)
  rw [elSel, ite_not, apply_ite (BitVec.ofNat 32)]
  simp only [h, BitVec.ofNat_toNat, BitVec.setWidth_eq]

end

end Sys2Proof.Machine
end

section
/-! SUPPORT. The vector commands that move words (R92, R297, R302, R305), convert (R303) and encode (R304). -/

namespace Sys2Proof.Machine

/-! ### Bytes of words -/

theorem leVal_lt (bs : List Byte) : leVal bs < 256 ^ bs.length := by
  induction bs with
  | nil => simp [leVal]
  | cons b r ih =>
    have hb := b.isLt
    rw [leVal, List.length_cons, Nat.pow_succ]
    omega

/-- A byte of a little-endian value. -/
theorem leVal_get (bs : List Byte) (i : Nat) : leVal bs / 256 ^ i % 256 = (bs.getD i 0).toNat := by
  induction bs generalizing i with
  | nil => simp [leVal]
  | cons b r ih =>
    have hb := b.isLt
    cases i with
    | zero => rw [leVal, List.getD_cons_zero]; omega
    | succ i =>
      have hr : (b.toNat + 256 * leVal r) / 256 = leVal r := by omega
      rw [List.getD_cons_succ, ← ih i, leVal, Nat.pow_succ', ← Nat.div_div_eq_div_mul, hr]

/-- A little-endian value is the weighted sum of its bytes (R289). -/
theorem leVal_range (n : Nat) (g : Nat → Byte) : leVal ((List.range n).map g) = ((List.range n).map fun i => (g i).toNat * 256 ^ i).sum := by
  induction n generalizing g with
  | zero => rfl
  | succ n ih =>
    rw [List.range_succ_eq_map, List.map_cons, List.map_map, leVal, ih, List.map_cons, List.map_map, List.sum_cons,
      Nat.pow_zero, Nat.mul_one,
      ← List.sum_map_mul_left]
    refine congrArg (fun l => (g 0).toNat + l.sum) (List.map_congr_left fun i _ => ?_)
    simp only [Function.comp_apply, Nat.succ_eq_add_one, Nat.pow_succ']
    ring

theorem wordsOf_getD (bs : List Byte) {l : Nat} (hl : l < 64) :
    (wordsOf bs).getD l 0 = BitVec.ofNat 32 (leVal ((List.range 4).map fun i => bs.getD (4 * l + i) 0)) := range_map_getD _ _ hl

theorem wordsOf_length (bs : List Byte) : (wordsOf bs).length = 64 := by simp [wordsOf]

/-- Byte `k` of a register image. -/
theorem wordsOf_byte (bs : List Byte) {k : Nat} (hk : k < 256) :
    ((wordsOf bs).getD (k / 4) 0).toNat / 256 ^ (k % 4) % 256 = (bs.getD k 0).toNat := by
  have hlt : leVal ((List.range 4).map fun i => bs.getD (4 * (k / 4) + i) 0) < 2 ^ 32 := by
    simpa using leVal_lt ((List.range 4).map fun i => bs.getD (4 * (k / 4) + i) 0)
  rw [wordsOf_getD bs (by omega), BitVec.toNat_ofNat, Nat.mod_eq_of_lt hlt, leVal_get, range_map_getD _ _ (Nat.mod_lt _ (by decide)),
    Nat.div_add_mod]

/-- An entry of rows of equal length, put one behind the other. -/
theorem flatMap_range_getD {α : Type} (dflt : α) (f : Nat → Nat → α) {n k j i : Nat} (hj : j < n) (hi : i < k) :
    ((List.range n).flatMap fun j => (List.range k).map (f j)).getD (k * j + i) dflt = f j i := by
  induction n with
  | zero => cases hj
  | succ n ih =>
    have hlen : ((List.range n).flatMap fun j => (List.range k).map (f j)).length = k * n := by simp [List.length_flatMap, Nat.mul_comm]
    rw [List.range_succ, List.flatMap_append, List.flatMap_singleton]
    rcases Nat.lt_succ_iff_lt_or_eq.1 hj with h | rfl
    · have : k * j + k ≤ k * n := by rw [← Nat.mul_succ]; exact Nat.mul_le_mul_left k h
      rw [List.getD_append _ _ _ _ (by omega), ih h]
    · rw [List.getD_append_right _ _ _ _ (by omega), hlen, Nat.add_sub_cancel_left, range_map_getD _ _ hi]

/-! ### The scratchpad (R297) -/

theorem stripedRead_getD (m : TileMem) (off : Nat) {j i : Nat} (hj : j < 4) (hi : i < 64) :
    (stripedRead m off).getD (64 * j + i) 0 = SMap.get (0 : Byte) m.scr (off + 0x20000 * j + i) :=
  flatMap_range_getD 0 (fun j i => SMap.get (0 : Byte) m.scr (off + 0x20000 * j + i)) hj hi

/-- A lane of a register image in the scratchpad. -/
theorem wordsOf_stripedRead (m : TileMem) (off : Nat) {l : Nat} (hl : l < 64) : (wordsOf (stripedRead m off)).getD l 0 =
    BitVec.ofNat 32 ((List.range 4).map fun i =>
      (SMap.get (0 : Byte) m.scr (off + 0x20000 * (l / 16) + 4 * (l % 16) + i)).toNat * 256 ^ i).sum := by
  rw [wordsOf_getD _ hl, leVal_range]
  refine congrArg (fun l => BitVec.ofNat 32 l.sum) (List.map_congr_left fun i hi => ?_)
  have hi := List.mem_range.1 hi
  rw [show 4 * l + i = 64 * (l / 16) + (4 * (l % 16) + i) by omega, stripedRead_getD _ _ (by omega) (by omega), ← Nat.add_assoc]

theorem TileMem.writeAll_get_of_outside {L : List (Nat × List Byte)} {k : Nat} (h : ∀ e ∈ L, k < e.1 ∨ e.1 + e.2.length ≤ k) (m : TileMem) :
    SMap.get (0 : Byte) (m.writeAll L).scr k = SMap.get (0 : Byte) m.scr k := by
  induction L generalizing m with
  | nil => rfl
  | cons e L ih =>
    obtain ⟨he, hL⟩ := List.forall_mem_cons.1 h
    rw [TileMem.writeAll, ih hL, TileMem.write_scr, SMap.get_setList_ne _ _ _ he]

/-- Of writes that lie one behind the other each is read back. -/
theorem TileMem.writeAll_get_of_mem {L : List (Nat × List Byte)} (hL : L.Pairwise fun e f => e.1 + e.2.length ≤ f.1)
    {a : Nat} {bs : List Byte}
    (h : (a, bs) ∈ L) {i : Nat} (hi : i < bs.length) (m : TileMem) : SMap.get (0 : Byte) (m.writeAll L).scr (a + i) = bs.getD i 0 := by
  induction L generalizing m with
  | nil => cases h
  | cons e L ih =>
    obtain ⟨hlt, hL⟩ := List.pairwise_cons.1 hL
    rw [TileMem.writeAll]
    rcases List.mem_cons.1 h with rfl | h
    · rw [writeAll_get_of_outside fun f hf => .inl ?_, TileMem.write_scr, SMap.get_setList_self _ _ _ _ hi, List.getD_eq_getElem]
      exact Nat.lt_of_lt_of_le (Nat.add_lt_add_left hi a) (hlt f hf)
    · exact ih hL h _

/-- The 64 bytes of quarter `j` of a register (R297). -/
def quarter (ws : List Word) (j : Nat) : List Byte := ((ws.drop (16 * j)).take 16).flatMap fun w => leBytes 4 w.toNat

theorem quarter_eq {ws : List Word} (hw : ws.length = 64) {j : Nat} (hj : j < 4) : quarter ws j = (List.range 16).flatMap fun k =>
    (List.range 4).map fun i => BitVec.ofNat 8 ((ws.getD (16 * j + k) 0).toNat / 256 ^ i) := by
  have e : (ws.drop (16 * j)).take 16 = (List.range 16).map fun k => ws.getD (16 * j + k) 0 := by
    have hlen : ((ws.drop (16 * j)).take 16).length = 16 := by rw [List.length_take, List.length_drop]; omega
    refine List.ext_getElem (by rw [hlen, List.length_map, List.length_range]) fun k h _ => ?_
    have hk : 16 * j + k < ws.length := by omega
    simp [hk]
  rw [quarter, e, List.flatMap_map]
  rfl

theorem quarter_length {ws : List Word} (hw : ws.length = 64) {j : Nat} (hj : j < 4) : (quarter ws j).length = 64 := by
  simp [quarter_eq hw hj, List.length_flatMap]

theorem quarter_getD {ws : List Word} (hw : ws.length = 64) {l i : Nat} (hl : l < 64) (hi : i < 4) :
    (quarter ws (l / 16)).getD (4 * (l % 16) + i) 0 = BitVec.ofNat 8 ((ws.getD l 0).toNat / 256 ^ i) := by
  rw [quarter_eq hw (by omega), flatMap_range_getD _ _ (Nat.mod_lt _ (by decide)) hi, Nat.div_add_mod]

/-- The writes of a store: the four quarters of the register, in four banks. -/
def quarters (off : Nat) (ws : List Word) : List (Nat × List Byte) := (List.range 4).map fun j => (off + 0x20000 * j, quarter ws j)

theorem quarters_ordered (off : Nat) {ws : List Word} (hw : ws.length = 64) :
    (quarters off ws).Pairwise fun e f => e.1 + e.2.length ≤ f.1 := by
  refine List.pairwise_map.2 (List.pairwise_lt_range.imp_of_mem fun {i j} hi hj hij => ?_)
  rw [quarter_length hw (List.mem_range.1 hi)]
  dsimp only
  omega

theorem quarters_read (m : TileMem) (off : Nat) {ws : List Word} (hw : ws.length = 64) {l i : Nat} (hl : l < 64) (hi : i < 4) :
    SMap.get (0 : Byte) (m.writeAll (quarters off ws)).scr (off + 0x20000 * (l / 16) + 4 * (l % 16) + i) =
      BitVec.ofNat 8 ((ws.getD l 0).toNat / 256 ^ i) := by
  have hmem : (off + 0x20000 * (l / 16), quarter ws (l / 16)) ∈ quarters off ws :=
    List.mem_map.2 ⟨l / 16, List.mem_range.2 (by omega), rfl⟩
  rw [Nat.add_assoc, TileMem.writeAll_get_of_mem (quarters_ordered off hw) hmem
    (by rw [quarter_length hw (by omega)]; omega), quarter_getD hw hl hi]

theorem quarters_outside (m : TileMem) (off : Nat) {ws : List Word} (hw : ws.length = 64) {k : Nat}
    (h : ∀ j : Nat, j < 4 → k < off + 0x20000 * j ∨ off + 0x20000 * j + 64 ≤ k) :
    SMap.get (0 : Byte) (m.writeAll (quarters off ws)).scr k = SMap.get (0 : Byte) m.scr k := by
  refine TileMem.writeAll_get_of_outside (fun e he => ?_) m
  obtain ⟨j, hj, rfl⟩ := List.mem_map.1 he
  have hj := List.mem_range.1 hj
  rw [quarter_length hw hj]
  exact h j hj

/-! ### Conversions -/

/-- An element of the narrower packing. -/
def cvtElem (ty : Nat) (sr : Bool) (draw v : Word) : Nat :=
  if isFloatTy ty then toHalf (tyFmt ty) sr draw v else ((f32 v).toIntSat (tyBits ty) % 2 ^ tyBits ty).toNat

theorem vcvt_narrow (ty : Nat) (sr : Bool) {a : List Word} (k : List Word) (hw : fmtBits ty * (32 / fmtBits ty) = 32) {l i : Nat}
    (hl : l < 64) (hi : i < 32 / fmtBits ty) : sub (fmtBits ty) i ((vcvt ty sr false a k).getD l 0) =
      if 64 ≤ 32 / fmtBits ty * l + i then 0
      else cvtElem ty sr (keyDraw k (32 / fmtBits ty * l + i)) (a.getD (32 / fmtBits ty * l + i) 0) % 2 ^ fmtBits ty := by
  refine (sub_packElems hw hl hi _).trans ?_
  rw [Nat.mul_comm l]
  by_cases h : 64 ≤ 32 / fmtBits ty * l + i
  · rw [if_pos h, List.getD_eq_default _ _ (by simpa using h), Nat.zero_mod]
  · rw [if_neg h, range_map_getD _ _ (Nat.lt_of_not_le h)]; rfl

theorem vcvt_length (ty : Nat) (sr toF : Bool) (a k : List Word) : (vcvt ty sr toF a k).length = 64 := by
  cases toF <;> simp [vcvt, packElems]

theorem vcvt_wide (ty : Nat) (sr : Bool) (a k : List Word) {j : Nat} (hj : j < 64) : (vcvt ty sr true a k).getD j 0 =
    if isFloatTy ty then toF32 ((tyFmt ty).dec (packedElem (fmtBits ty) a j))
    else toF32 (FV.ofInt (sInt (fmtBits ty) (packedElem (fmtBits ty) a j)) 0) :=
  range_map_getD _ _ hj

/-! ### Block encode -/

theorem vencSlot_length (fmt : Nat) (e : EncBlk) : (vencSlot fmt e).length = 32 := by simp [vencSlot]

/-- The bytes of a VENC: the two slots, the two scale bytes, zeros (R304). -/
theorem vencBytes_getD {a b : List Byte} (ha : a.length = 32) (hb : b.length = 32) (x y : Byte) (k : Nat) :
    (a ++ b ++ [x, y]).getD k 0 =
      if k < 32 then a.getD k 0 else if k < 64 then b.getD (k - 32) 0 else if k = 64 then x else if k = 65 then y else 0 := by
  have hab : (a ++ b).length = 64 := by rw [List.length_append, ha, hb]
  split_ifs with h1 h2 h3 h4
  · rw [List.append_assoc, List.getD_append _ _ _ _ (by omega)]
  · rw [List.getD_append _ _ _ _ (by omega), List.getD_append_right _ _ _ _ (by omega), ha]
  · rw [List.getD_append_right _ _ _ _ (by omega), hab, h3]; rfl
  · rw [List.getD_append_right _ _ _ _ (by omega), hab, h4]; rfl
  · rw [List.getD_eq_default _ _ (by rw [List.length_append, hab, List.length_cons, List.length_singleton]; omega)]

end Sys2Proof.Machine
end

section
/-! SUPPORT. Reductions, the scan, the search, ranked pairs and the softmax step (R87–R91, R93), lane by lane. -/

namespace Sys2Proof.Machine

/-! ### Rounds over the lanes (R87, R88) -/

/-- A list of 64 lanes holds the values of a function. -/
def Lanes (v : List Word) (w : Nat → Word) : Prop := ∀ l, l < 64 → v.getD l 0 = w l

theorem Tile.vget_lanes (x : Tile) (r : Nat) : Lanes (x.vget r) (x.vec.lane r) := fun _ hl => x.vget_getD r hl

/-- Rounds that agree lane by lane, one after another. -/
theorem Lanes.foldl {F : List Word → Nat → List Word} {G : (Nat → Word) → Nat → Nat → Word} {ds : List Nat}
    (step : ∀ v w d, d ∈ ds → Lanes v w → Lanes (F v d) (G w d)) {v : List Word} {w : Nat → Word} (h : Lanes v w) :
    Lanes (ds.foldl F v) (ds.foldl G w) := by
  induction ds generalizing v w with
  | nil => exact h
  | cons d ds ih => exact ih (fun v w d hd => step v w d (List.mem_cons_of_mem _ hd)) (step _ _ d (List.mem_cons_self ..) h)

/-- A round of a reduction on the values of lanes. -/
def redStep (op : Word → Word → Word) (w : Nat → Word) (d l : Nat) : Word := if l < d then op (w l) (w (l + d)) else w l

/-- A round of a scan on the values of lanes. -/
def scanStep (w : Nat → Word) (d l : Nat) : Word := if d ≤ l then fadd (w (l - d)) (w l) else w l

theorem redRound_lanes (op : Word → Word → Word) {v : List Word} {w : Nat → Word} {d : Nat} (hd : d ≤ 32) (h : Lanes v w) :
    Lanes (redRound op v d) (redStep op w d) := fun l hl => by
  rw [redRound, redStep, range_map_getD _ _ hl]
  split_ifs with hld
  · rw [h l hl, h (l + d) (by omega)]
  · exact h l hl

theorem scanRound_lanes {v : List Word} {w : Nat → Word} {d : Nat} (h : Lanes v w) :
    Lanes (scanRound v d) (scanStep w d) := fun l hl => by
  rw [scanRound, scanStep, range_map_getD _ _ hl]
  split_ifs with hld
  · rw [h l hl, h (l - d) (by omega)]
  · exact h l hl

/-- The six rounds of a reduction (R87). -/
theorem vred_lanes (op : Word → Word → Word) {v : List Word} {w : Nat → Word} (h : Lanes v w) :
    vred op v = [32, 16, 8, 4, 2, 1].foldl (redStep op) w 0 := by
  have hd : ∀ d ∈ [32, 16, 8, 4, 2, 1], d ≤ 32 := by decide
  exact Lanes.foldl (F := redRound op) (G := redStep op) (fun _ _ d hm h => redRound_lanes op (hd d hm) h) h 0 (by decide)

/-- The six rounds of a scan (R88). -/
theorem vscan_lanes {v : List Word} {w : Nat → Word} (h : Lanes v w) :
    Lanes (vscan v) ([1, 2, 4, 8, 16, 32].foldl scanStep w) :=
  Lanes.foldl (F := scanRound) (G := scanStep) (fun _ _ _ _ h => scanRound_lanes h) h

theorem vscan_length (v : List Word) : (vscan v).length = 64 := by simp [vscan, scanRound]

theorem lane0_getD (w : Word) {l : Nat} (hl : l < 64) : (lane0 w).getD l 0 = if l = 0 then w else 0 := by
  cases l with
  | zero => rfl
  | succ l => rw [lane0, List.getD_cons_succ, List.getD_replicate _ (by omega), if_neg (Nat.succ_ne_zero l)]

theorem lane0_length (w : Word) : (lane0 w).length = 64 := by simp [lane0]

/-! ### The search (R93) -/

theorem vsrch_le (v : List Word) (thr : Word) : vsrch v thr ≤ 64 := by
  rw [vsrch]
  cases h : (List.range 64).find? fun l => fle thr (v.getD l 0) with
  | none => exact Nat.le_refl 64
  | some n => exact Nat.le_of_lt (List.mem_range.1 (List.mem_of_find?_eq_some h))

theorem vsrch_below {v : List Word} {thr : Word} {l : Nat} (h : l < vsrch v thr) : fle thr (v.getD l 0) = false := by
  rw [vsrch] at h
  cases hf : (List.range 64).find? fun l => fle thr (v.getD l 0) with
  | none =>
    rw [hf] at h
    simpa using List.find?_eq_none.1 hf l (List.mem_range.2 h)
  | some n =>
    rw [hf] at h
    simpa using (List.find?_range_eq_some.1 hf).2.2 l h

theorem vsrch_found {v : List Word} {thr : Word} (h : vsrch v thr < 64) : fle thr (v.getD (vsrch v thr) 0) = true := by
  rw [vsrch] at h ⊢
  cases hf : (List.range 64).find? fun l => fle thr (v.getD l 0) with
  | none => rw [hf] at h; exact absurd h (Nat.lt_irrefl 64)
  | some n => exact List.find?_some (p := fun l => fle thr (v.getD l 0)) hf

/-! ### Ranked pairs (R90, R91) -/

theorem FV.lt_asymm {a b : FV} (h : a.lt b = true) : b.lt a = false := by
  cases a <;> cases b
  case fin.fin s m e s' m' e' =>
    simp only [FV.lt, decide_eq_true_eq, decide_eq_false_iff_not, min_comm e' e] at h ⊢
    omega
  all_goals simp_all [FV.lt]

theorem rankGt_asymm {isInt : Bool} {a b : Word} (h : rankGt isInt a b = true) : rankGt isInt b a = false := by
  cases isInt
  · simp only [rankGt, Bool.false_eq_true, if_false] at h ⊢
    split_ifs at h ⊢ with h1 h2 h3
    · rfl
    · exact FV.lt_asymm h
  · simp only [rankGt, if_true, BitVec.slt_eq_decide, decide_eq_true_eq, decide_eq_false_iff_not] at h ⊢
    omega

section
variable {isInt : Bool} {m i v j : Word}

theorem amaxLane_eq_or : amaxLane isInt m i v j = (v, j) ∨ amaxLane isInt m i v j = (m, i) := by
  unfold amaxLane; split <;> simp

/-- The greater value is taken, and of equal ones the one with the lower index. -/
theorem amaxLane_takes (h : rankGt isInt v m = true ∨ (rankGt isInt m v = false ∧ j.toNat < i.toNat)) :
    amaxLane isInt m i v j = (v, j) := by
  refine if_pos ?_
  rcases h with h | ⟨h, hj⟩
  · rw [h]; rfl
  · cases hv : rankGt isInt v m
    · simp [rankEq, hv, h, BitVec.ult, hj]
    · rfl

theorem amaxLane_keeps (h : rankGt isInt m v = true ∨ (rankGt isInt v m = false ∧ i.toNat < j.toNat)) :
    amaxLane isInt m i v j = (m, i) := by
  refine if_neg ?_
  rcases h with h | ⟨h, hj⟩
  · simp [rankEq, tieTakes, h, rankGt_asymm h]
  · have hij : i ≠ j := fun e => Nat.lt_irrefl _ (e ▸ hj)
    simp [tieTakes, h, hij, BitVec.ult, Nat.not_lt.2 (Nat.le_of_lt hj)]

end

theorem rankInsert_perm (p : Word × Word) (l : List (Word × Word)) : (rankInsert p l).Perm (p :: l) := by
  induction l with
  | nil => exact .refl _
  | cons q r ih =>
    rw [rankInsert]
    split_ifs
    · exact (ih.cons q).trans (.swap p q r)
    · exact .refl _

theorem rankSort_perm (l : List (Word × Word)) : (rankSort l).Perm l := by
  induction l with
  | nil => exact .refl _
  | cons p r ih => exact (rankInsert_perm p _).trans (ih.cons p)

/-- The pairs of the registers `r` and `r + 1`. -/
def Tile.pairs (x : Tile) (r : Nat) : List (Word × Word) := (List.range 64).map fun l => (x.vec.lane r l, x.vec.lane (r + 1) l)

theorem Tile.vget_zip (x : Tile) (r : Nat) : (x.vget r).zip (x.vget (r + 1)) = x.pairs r := by
  refine List.ext_getElem (by simp [Tile.pairs]) fun l h _ => ?_
  have hl : l < 64 := by simpa using h
  simp only [Tile.pairs]
  rw [List.getElem_zip, List.getElem_map, List.getElem_range, ← x.vget_getD r hl, ← x.vget_getD (r + 1) hl,
    List.getD_eq_getElem, List.getD_eq_getElem]

/-- What fills a ranked register: 64 entries of a list, then fillers. -/
def filled (s : List (Word × Word)) : List (Word × Word) := (s ++ List.replicate 64 filler).take 64

theorem filled_length (s : List (Word × Word)) : (filled s).length = 64 := by simp [filled]

theorem filled_getD (s : List (Word × Word)) {l : Nat} (hl : l < 64) : (filled s).getD l filler = s.getD l filler := by
  rw [filled, List.getD_eq_getElem?_getD, List.getElem?_take_of_lt hl, ← List.getD_eq_getElem?_getD]
  rcases Nat.lt_or_ge l s.length with h | h
  · exact List.getD_append _ _ _ _ h
  · rw [List.getD_append_right _ _ _ _ h, List.getD_replicate _ (by omega), List.getD_eq_default _ _ h]

theorem getD_take_filler {s : List (Word × Word)} {n l : Nat} : (s.take n).getD l filler = if l < n then s.getD l filler else filler := by
  rw [List.getD_eq_getElem?_getD, List.getElem?_take]
  split_ifs <;> simp [List.getD_eq_getElem?_getD]

theorem getD_drop_filler {s : List (Word × Word)} {n l : Nat} : (s.drop n).getD l filler = s.getD (n + l) filler := by
  simp [List.getD_eq_getElem?_getD]

/-! ### The softmax step (R89) -/

/-- One lane of the step over `j` scores. -/
theorem softLane_range (m s b : Word) (score : Nat → Word) (j : Nat) :
    let mx := (List.range j).foldl (fun v i => fmax v (score i)) (fmax m b)
    let alpha : Word := if m = negInf32 then 0 else exp32 (fsub m mx)
    let p (i : Nat) : Word := if score i = negInf32 then 0 else exp32 (fsub (score i) mx)
    softLane m s b ((List.range j).map score) =
      ((List.range j).map p, mx, ffma alpha s ((List.range j).foldl (fun v i => fadd v (p i)) 0), alpha) := by
  simp only [softLane, List.foldl_map, List.map_map]
  rfl

end Sys2Proof.Machine
end

section
/-! SUPPORT. What each of the other vector commands writes at its completion (R87–R93, R297, R303–R305). -/

namespace Sys2Proof.Machine

/-- The pairs of an argmax step (R90). -/
def Tile.amax (x : Tile) (q : QCmd) (isInt : Bool) : List (Word × Word) := (List.range 64).map fun l =>
  amaxLane isInt ((x.vget q.f1.toNat).getD l 0) ((x.vget (q.f1.toNat + 1)).getD l 0) ((x.vget q.f2.toNat).getD l 0)
    (BitVec.ofNat 32 q.rc + BitVec.ofNat 32 l)

/-- The results of a softmax step in lane `l` (R89). -/
def Tile.soft (x : Tile) (q : QCmd) (j : Nat) (sup : Bool) (l : Nat) : List Word × Word × Word × Word :=
  softLane (x.vec.lane q.f1.toNat l) (x.vec.lane (q.f1.toNat + 1) l) (if sup then x.vec.lane (q.f1.toNat + 2) l else negInf32)
    ((List.range j).map fun i => x.vec.lane (q.f2.toNat + i) l)

theorem Tile.map_soft (x : Tile) (q : QCmd) (j : Nat) (sup : Bool) :
    ((List.range 64).map fun l => softLane ((x.vget q.f1.toNat).getD l 0) ((x.vget (q.f1.toNat + 1)).getD l 0)
      (if sup = true then (x.vget (q.f1.toNat + 2)).getD l 0 else negInf32)
      (((List.range j).map fun i => x.vget (q.f2.toNat + i)).map fun v => v.getD l 0)) = (List.range 64).map (x.soft q j sup) := by
  refine List.map_congr_left fun l hl => ?_
  simp only [Tile.soft, Tile.vget_getD _ _ (List.mem_range.1 hl), List.map_map, Function.comp_def]

/-- The registers that a softmax step writes, from its results in the lanes. -/
def softRegs (q : QCmd) (j : Nat) (r : List (List Word × Word × Word × Word)) : List (Nat × List Word) :=
  (List.range j).map (fun i => (q.f2.toNat + i, r.map fun y => y.1.getD i 0)) ++
    [(q.f1.toNat, r.map fun y => y.2.1), (q.f1.toNat + 1, r.map fun y => y.2.2.1), (q.f1.toNat + 2, r.map fun y => y.2.2.2)]

theorem VecWrites.weaken {s : State} {t : PTile} {q : QCmd} {rs rs' : List Nat} {ok : (Nat → Nat → Word) → Prop} (h : VecWrites s t q rs ok)
    (hs : rs ⊆ rs') : VecWrites s t q rs' ok := by
  obtain ⟨u, hu, hok, hscr, hframe, hrest⟩ := h
  exact ⟨u, hu, hok, hscr, fun r hr => hframe r fun hm => hr (hs hm), hrest⟩

section
variable {s : State} {t : PTile} {q : QCmd} (hr : s.tileRuns t = true) (hq : (s.tile t).running .vq = some q)
include hr hq

/-! ### Moves -/

theorem vbcst_gives (hop : q.op = .vbcst) : VecGives s t q fun _ => BitVec.ofNat 32 q.rc :=
  vecGives_of_oneReg hr hq (by rw [vexec, hop]) List.length_replicate fun _ hl => List.getD_replicate _ hl

theorem vrot_gives (hop : q.op = .vrot) : VecGives s t q fun l => (s.tile t).vec.lane q.f2.toNat ((l + q.rc) % 64) := by
  have hrc : q.rc < 2 ^ 32 := Nat.mod_lt _ (by decide)
  refine vecGives_of_oneReg hr hq (by rw [vexec, hop]) (by simp) fun l hl => ?_
  rw [range_map_getD _ _ hl, BitVec.toNat_ofNat, Nat.mod_eq_of_lt hrc, Tile.vget_getD _ _ (Nat.mod_lt _ (by decide))]

theorem vld_gives (hop : q.op = .vld) : VecGives s t q fun l => BitVec.ofNat 32 ((List.range 4).map fun i =>
    (SMap.get (0 : Byte) (s.tile t).mem.scr (q.rc + 0x20000 * (l / 16) + 4 * (l % 16) + i)).toNat * 256 ^ i).sum :=
  vecGives_of_oneReg hr hq (by rw [vexec, hop]) (wordsOf_length _) fun _ hl => wordsOf_stripedRead _ _ hl

theorem vst_ended (hop : q.op = .vst) : Completes (.vectorCommandComplete t) s fun u =>
    VectorEnded s u t q ⟨[], quarters q.rc ((s.tile t).vget q.f2.toNat), []⟩ := by
  have h := vectorCommand_ended hr hq (by simp [hop])
  rwa [vexec, hop] at h

/-- The draw of the key register F3 in each lane, as a uniform value (R92, R305). -/
theorem vdraw_gives (hop : q.op = .vdraw) : VecGives s t q fun l => let k := (s.tile t).vec.lane q.f3.toNat
    toF32 (.fin false ((rgen (k 1 ++ k 0) ((k 2).extractLsb' 16 16) ((k 2).extractLsb' 0 16) (k 3)
      (k 4 + BitVec.ofNat 32 l)).toNat / 256) (-24)) := by
  refine vecGives_of_oneReg hr hq (by rw [vexec, hop]) (by simp) fun l hl => ?_
  rw [range_map_getD _ _ hl, uniform, keyDraw]
  simp only [Tile.vget_getD _ q.f3.toNat (by decide : 0 < 64), Tile.vget_getD _ q.f3.toNat (by decide : 1 < 64),
    Tile.vget_getD _ q.f3.toNat (by decide : 2 < 64), Tile.vget_getD _ q.f3.toNat (by decide : 3 < 64),
      Tile.vget_getD _ q.f3.toNat (by decide : 4 < 64)]

/-- An accumulator row that holds integers, or with scale 1.0, drains as it is, another scaled and rounded once (R70). -/
theorem vdrain_gives (hop : q.op = .vdrain) : VecGives s t q fun l =>
    let w := SMap.get (0 : Word) (s.tile t).mx.acc (64 * (q.rb % 512) + l)
    if SMap.get false (s.tile t).mx.accInt (q.rb % 512) = true ∨ BitVec.ofNat 32 q.rc = 0x3F800000 then w else fmul w (BitVec.ofNat 32 q.rc) := by
  refine vecGives_of_oneReg hr hq (by rw [vexec, hop]) ?_ fun l hl => ?_
  · unfold drain; split <;> simp [Matrix.row, SMap.getList]
  · simp only [drain, Bool.or_eq_true, beq_iff_eq]
    split_ifs
    · exact range_map_getD _ _ hl
    · rw [Matrix.row, SMap.getList, List.map_map, range_map_getD _ _ hl]; rfl

/-! ### Conversions and codes -/

theorem vcvt_narrow_writes (hop : q.op = .vcvt) {ty : Nat} {sr : Bool} (hty : q.Types ty sr) (hm : q.mod.toNat.testBit 5 = false)
    (hw : fmtBits ty * (32 / fmtBits ty) = 32) :
    VecWrites s t q [q.f1.toNat] fun y => ∀ l i : Nat, l < 64 → i < 32 / fmtBits ty → sub (fmtBits ty) i (y q.f1.toNat l) =
      if 64 ≤ 32 / fmtBits ty * l + i then 0
      else cvtElem ty sr (keyDraw ((s.tile t).vget q.f3.toNat) (32 / fmtBits ty * l + i))
        ((s.tile t).vec.lane q.f2.toNat (32 / fmtBits ty * l + i)) %
        2 ^ fmtBits ty := by
  have hx : vexec (s.tile t) q = oneReg q.f1 (vcvt ty sr false ((s.tile t).vget q.f2.toNat) ((s.tile t).vget q.f3.toNat)) := by
    rw [vexec, hop]; simp only [hty.ty, hty.sat, hm]
  refine (vecGives_of_oneReg hr hq hx (vcvt_length ..) fun l _ => rfl).imp fun y hy => ?_
  intro l i hl hi
  rw [hy l hl, vcvt_narrow ty sr _ hw hl hi]
  split_ifs with h
  · rfl
  · rw [Tile.vget_getD _ _ (Nat.lt_of_not_le h)]

theorem vcvt_wide_gives (hop : q.op = .vcvt) {ty : Nat} (hty : q.mod.toNat % 16 = ty) (hm : q.mod.toNat.testBit 5 = true) :
    VecGives s t q fun j =>
      let e := sub (fmtBits ty) (j % (32 / fmtBits ty)) ((s.tile t).vec.lane q.f2.toNat (j / (32 / fmtBits ty)))
      if isFloatTy ty then toF32 ((tyFmt ty).dec e) else toF32 (FV.ofInt (sInt (fmtBits ty) e) 0) := by
  have hx : vexec (s.tile t) q = oneReg q.f1 (vcvt ty (q.mod.toNat.testBit 4) true ((s.tile t).vget q.f2.toNat)
    ((s.tile t).vget q.f3.toNat)) := by
    rw [vexec, hop]; simp only [hty, hm]
  refine vecGives_of_oneReg hr hq hx (vcvt_length ..) fun j hj => ?_
  rw [vcvt_wide ty _ _ _ hj, packedElem, Tile.vget_getD _ _ (Nat.lt_of_le_of_lt (Nat.div_le_self ..) hj)]

theorem venc_writes (hop : q.op = .venc) {fmt : Nat} {sym sr : Bool} (hf : q.mod.toNat % 8 = fmt) (hsym : q.mod.toNat.testBit 4 = sym)
    (hsr : q.mod.toNat.testBit 3 = sr) :
    let enc (k : Nat) : EncBlk := vencBlock fmt sym sr ((s.tile t).vget q.f2.toNat) ((s.tile t).vget q.f3.toNat) k
    VecWrites s t q [q.f1.toNat] fun y => ∀ k : Nat, k < 256 → (y q.f1.toNat (k / 4)).toNat / 256 ^ (k % 4) % 256 =
      if k < 64 then ((vencSlot fmt (enc (k / 32))).getD (k % 32) 0).toNat else if k < 66 then (enc (k - 64)).scale.toNat else 0 := by
  intro enc
  have hx : vexec (s.tile t) q =
      ⟨[(q.f1.toNat, wordsOf (vencSlot fmt (enc 0) ++ vencSlot fmt (enc 1) ++ [(enc 0).scale, (enc 1).scale]))], [], [enc 0, enc 1]⟩ := by
    rw [vexec, hop]; simp only [hf, hsym, hsr]; rfl
  refine vecWrites_of_regs hr hq (List.cons_ne_nil _ _) hx rfl fun k hk => ?_
  rw [Vector'.putAll, Vector'.putAll, Vector'.lane_put_self _ _ (wordsOf_length _) (by omega), wordsOf_byte _ hk,
    vencBytes_getD (vencSlot_length ..) (vencSlot_length ..)]
  by_cases h1 : k < 32
  · rw [if_pos h1, if_pos (by omega), Nat.div_eq_of_lt h1, Nat.mod_eq_of_lt h1]
  by_cases h2 : k < 64
  · rw [if_neg h1, if_pos h2, if_pos h2, show k / 32 = 1 by omega, show k % 32 = k - 32 by omega]
  by_cases h3 : k < 66
  · obtain rfl | rfl : k = 64 ∨ k = 65 := by omega
    · rfl
    · rfl
  · rw [if_neg h1, if_neg h2, if_neg h2, if_neg h3, if_neg (by omega), if_neg (by omega)]; rfl

/-! ### Reductions, the scan, the search -/

/-- The operation that MOD of a reduction names is minimum, maximum or addition (R87). -/
theorem vred_gives (hop : q.op = .vred) {m : Nat} (hm : q.mod.toNat = m) {op : Word → Word → Word}
    (h : (m / 16 = 0 ∧ op = fadd) ∨ (m / 16 = 1 ∧ op = fmax) ∨ (m / 16 = 2 ∧ op = fmin)) :
    VecGives s t q fun l => if l = 0 then [32, 16, 8, 4, 2, 1].foldl (redStep op) ((s.tile t).vec.lane q.f2.toNat) 0 else 0 := by
  have hx : vexec (s.tile t) q = oneReg q.f1 (lane0 (vred op ((s.tile t).vget q.f2.toNat))) := by
    rw [vexec, hop]
    rcases h with ⟨h, rfl⟩ | ⟨h, rfl⟩ | ⟨h, rfl⟩ <;> simp only [hm, h]
  refine vecGives_of_oneReg hr hq hx (lane0_length _) fun l hl => ?_
  rw [lane0_getD _ hl, vred_lanes op (Tile.vget_lanes _ _)]

theorem vscan_gives (hop : q.op = .vscan) :
    VecGives s t q ([1, 2, 4, 8, 16, 32].foldl scanStep ((s.tile t).vec.lane q.f2.toNat)) :=
  vecGives_of_oneReg hr hq (by rw [vexec, hop]) (vscan_length _) (vscan_lanes (Tile.vget_lanes _ _))

theorem vsrch_writes (hop : q.op = .vsrch) : VecWrites s t q [q.f1.toNat] fun y => ∃ n : Nat, n ≤ 64 ∧
    (∀ l : Nat, l < n → fle (BitVec.ofNat 32 q.rc) ((s.tile t).vec.lane q.f2.toNat l) = false) ∧
    (n < 64 → fle (BitVec.ofNat 32 q.rc) ((s.tile t).vec.lane q.f2.toNat n) = true) ∧
    ∀ l : Nat, l < 64 → y q.f1.toNat l = if l = 0 then BitVec.ofNat 32 n else 0 := by
  have hle := vsrch_le ((s.tile t).vget q.f2.toNat) (BitVec.ofNat 32 q.rc)
  refine (vecGives_of_oneReg hr hq (by rw [vexec, hop]) (lane0_length _) fun l hl => lane0_getD _ hl).imp fun y hy => ?_
  refine ⟨_, hle, fun l hl => ?_, fun hn => ?_, hy⟩
  · rw [← Tile.vget_getD _ _ (Nat.lt_of_lt_of_le hl hle)]; exact vsrch_below hl
  · rw [← Tile.vget_getD _ _ hn]; exact vsrch_found hn

/-! ### Ranked pairs -/

theorem vamax_writes (hop : q.op = .vamax) {isInt : Bool} (hty : (q.mod.toNat % 16 == 11) = isInt) :
    VecWrites s t q [q.f1.toNat, q.f1.toNat + 1] fun y => ∀ l : Nat, l < 64 → (y q.f1.toNat l, y (q.f1.toNat + 1) l) =
      amaxLane isInt ((s.tile t).vec.lane q.f1.toNat l) ((s.tile t).vec.lane (q.f1.toNat + 1) l) ((s.tile t).vec.lane q.f2.toNat l)
        (BitVec.ofNat 32 q.rc + BitVec.ofNat 32 l) := by
  have hx : vexec (s.tile t) q = ⟨[(q.f1.toNat, ((s.tile t).amax q isInt).map (·.1)),
    (q.f1.toNat + 1, ((s.tile t).amax q isInt).map (·.2))], [], []⟩ := by
    rw [vexec, hop]; simp only [hty]; rfl
  refine vecWrites_of_regs hr hq (List.cons_ne_nil _ _) hx rfl fun l hl => ?_
  rw [Vector'.lane_putAll_pair (ps := (s.tile t).amax q isInt) (by simp) (by simp) (by simp)
    (by simp [Tile.amax]) _ hl filler, Tile.amax, range_map_getD _ _ hl,
    Tile.vget_getD _ _ hl, Tile.vget_getD _ _ hl, Tile.vget_getD _ _ hl]

/-- The ranked pairs of two registers: the first `n` in one, filled up, and those behind them in the other. -/
theorem vtopk_writes (hop : q.op = .vtopk) {n : Nat} (hn : q.mod.toNat + 1 = n) {all : List (Word × Word)}
    (hall : rankSort ((s.tile t).pairs q.f1.toNat ++ (s.tile t).pairs q.f2.toNat) = all) :
    VecWrites s t q [q.f1.toNat, q.f1.toNat + 1, q.f1.toNat + 2, q.f1.toNat + 3] fun y => ∀ l : Nat, l < 64 →
      (y q.f1.toNat l, y (q.f1.toNat + 1) l) = (if l < n then all.getD l filler else filler) ∧
      (y (q.f1.toNat + 2) l, y (q.f1.toNat + 3) l) = all.getD (n + l) filler := by
  have hx : vexec (s.tile t) q = ⟨[(q.f1.toNat, (filled (all.take n)).map (·.1)), (q.f1.toNat + 1, (filled (all.take n)).map (·.2)),
      (q.f1.toNat + 2, (filled ((all.drop n).take 64)).map (·.1)),
        (q.f1.toNat + 3, (filled ((all.drop n).take 64)).map (·.2))], [], []⟩ := by
    rw [vexec, hop]; simp only [hn, Tile.vget_zip, hall]; rfl
  refine vecWrites_of_regs hr hq (List.cons_ne_nil _ _) hx rfl fun l hl => ⟨?_, ?_⟩
  · rw [Vector'.lane_putAll_pair (ps := filled (all.take n)) (by simp) (by simp) (by simp) (filled_length _) _ hl filler,
    filled_getD _ hl, getD_take_filler]
  · rw [Vector'.lane_putAll_pair (ps := filled ((all.drop n).take 64)) (by simp) (by simp) (by simp)
    (filled_length _) _ hl filler, filled_getD _ hl, getD_take_filler, if_pos hl,
      getD_drop_filler]

/-! ### The softmax step -/

theorem vsmax_writes (hop : q.op = .vsmax) {j : Nat} {sup : Bool} (hj : q.mod.toNat % 8 + 1 = j) (hsup : q.mod.toNat.testBit 3 = sup)
    (hd : q.f1.toNat + 3 ≤ q.f2.toNat ∨ q.f2.toNat + j ≤ q.f1.toNat) :
    VecWrites s t q ((List.range j).map (q.f2.toNat + ·) ++ [q.f1.toNat, q.f1.toNat + 1, q.f1.toNat + 2]) fun y => ∀ l : Nat, l < 64 →
      let r := (s.tile t).soft q j sup l
      (∀ i : Nat, i < j → y (q.f2.toNat + i) l = r.1.getD i 0) ∧ y q.f1.toNat l = r.2.1 ∧ y (q.f1.toNat + 1) l = r.2.2.1 ∧
      y (q.f1.toNat + 2) l = r.2.2.2 := by
  have hx : vexec (s.tile t) q = ⟨softRegs q j ((List.range 64).map ((s.tile t).soft q j sup)), [], []⟩ := by
    rw [vexec, hop]; simp only [hj, hsup, Tile.map_soft]; rfl
  have hkeys : (softRegs q j ((List.range 64).map ((s.tile t).soft q j sup))).map Prod.fst =
      (List.range j).map (q.f2.toNat + ·) ++ [q.f1.toNat, q.f1.toNat + 1, q.f1.toNat + 2] := by
    simp [softRegs, Function.comp_def]
  have hnodup : ((List.range j).map (q.f2.toNat + ·) ++ [q.f1.toNat, q.f1.toNat + 1, q.f1.toNat + 2]).Nodup := by
    refine List.nodup_append.2 ⟨(List.nodup_range).map (add_right_injective _), by simp, fun a ha b hb => ?_⟩
    obtain ⟨i, hi, rfl⟩ := List.mem_map.1 ha
    have hi := List.mem_range.1 hi
    simp only [List.mem_cons, List.not_mem_nil, or_false] at hb
    omega
  refine vecWrites_of_regs hr hq (by simp [softRegs]) hx hkeys fun l hl => ?_
  have lane {r : Nat} {g : List Word × Word × Word × Word → Word}
      (h : (r, ((List.range 64).map ((s.tile t).soft q j sup)).map g) ∈ softRegs q j ((List.range 64).map ((s.tile t).soft q j sup))) :
      ((s.tile t).vec.putAll (softRegs q j ((List.range 64).map ((s.tile t).soft q j sup)))).lane r l = g ((s.tile t).soft q j sup l) := by
    rw [Vector'.lane_putAll_of_mem (hkeys ▸ hnodup) h (by simp) _ hl, List.map_map, range_map_getD _ _ hl]; rfl
  refine ⟨fun i hi => lane (g := fun y => y.1.getD i 0) ?_, lane (g := fun y => y.2.1) ?_, lane (g := fun y => y.2.2.1) ?_,
    lane (g := fun y => y.2.2.2) ?_⟩
  · exact List.mem_append_left _ (List.mem_map.2 ⟨i, List.mem_range.2 hi, rfl⟩)
  all_goals exact List.mem_append_right _ (by simp)

end

end Sys2Proof.Machine
end

section
/-! O19: every vector command, by the rules above. -/

namespace Sys2Proof.Machine

theorem intTypes {ty : Nat} (h : ty ∈ [5, 11, 12]) : isFloatTy ty = false ∧ ty < 16 ∧ fmtBits ty * (32 / fmtBits ty) = 32 := by
  revert ty; decide

theorem floatTypes {ty : Nat} (h : ty ∈ [8, 9, 10]) : isFloatTy ty = true ∧ ty < 16 ∧ fmtBits ty * (32 / fmtBits ty) = 32 := by
  revert ty; decide

theorem cvtTypes {ty : Nat} (h : ty ∈ [5, 8, 9, 11, 12]) :
    (isFloatTy ty = true ↔ ty = 8 ∨ ty = 9) ∧ ty < 16 ∧ fmtBits ty * (32 / fmtBits ty) = 32 := by
  revert ty; decide

theorem encMod (fmt : Fin 8) (sr sym : Bool) : let m := fmt.val + (if sr then 8 else 0) + if sym then 16 else 0
    m % 8 = fmt.val ∧ m.testBit 4 = sym ∧ m.testBit 3 = sr := by revert fmt sr sym; decide

theorem amaxMod {ty : Nat} (h : ty ∈ [10, 11]) : (ty % 16 == 11) = (ty == 11) := by revert ty; decide

theorem softMod {j : Nat} (h0 : 0 < j) (h8 : j ≤ 8) (sup : Bool) : let m := j - 1 + if sup then 8 else 0
    m % 8 + 1 = j ∧ m.testBit 3 = sup := by
  obtain ⟨k, rfl⟩ : ∃ k : Fin 8, j = k.val + 1 := ⟨⟨j - 1, by omega⟩, (Nat.sub_add_cancel h0).symm⟩
  revert k sup; decide

theorem QCmd.types_of {q : QCmd} {ty : Nat} {sr : Bool} (h : ty < 16) (hm : q.mod.toNat = ty + if sr then 16 else 0) : q.Types ty sr := by
  cases sr
  · exact q.types_plain h hm
  · exact q.types_sat h hm

theorem QCmd.narrow_of {q : QCmd} {ty : Nat} {sr : Bool} (h : ty < 16) (hm : q.mod.toNat = ty + if sr then 16 else 0) :
    q.mod.toNat.testBit 5 = false := by rw [hm]; exact Nat.testBit_lt_two_pow (by split_ifs <;> omega)

theorem QCmd.wide_of {q : QCmd} {ty : Nat} (h : ty < 16) (hm : q.mod.toNat = ty + 32) : q.mod.toNat.testBit 5 = true := by
  rw [hm, Nat.add_comm]
  exact (Nat.testBit_two_pow_add_eq ty 5).trans (by rw [Nat.testBit_lt_two_pow (by omega)]; rfl)

theorem elSel_eq (d a b : Nat) : elSel d a b = if d = 0 then b else a := ite_not ..

/-- Settles O19: the element-wise commands by one rule (`elementwise_elems`, on words `elementwise_words`), the others each by its own. -/
theorem vectorCommandsComplete : Obligations.VectorCommandsComplete := by
  unfold Obligations.VectorCommandsComplete
  intro s t q hr hq x lane d a b off rs byte frame writes gives elm elems
  have wrote {op : QOp} {mod : Nat} {rs : List Nat} {ok : (Nat → Nat → Word) → Prop}
      (h : q.op = op → q.mod.toNat = mod → VecWrites s t q rs ok) : writes op mod rs ok := h
  have gave {op : QOp} {mod : Nat} {v : Nat → Word} (h : q.op = op → q.mod.toNat = mod → VecGives s t q v) : gives op mod v := h
  have word {op : QOp} {f : Nat → Nat → Nat → Nat} {v : Nat → Word} (hf : elemFn 11 false op = some f)
      (hv : ∀ l, BitVec.ofNat 32 (f (d l).toNat (a l).toNat (b l).toNat) = v l) : gives op 11 v :=
    fun hop hm => elementwise_words hr hq (q.types_plain (by decide) hm) hop hf hv
  have plain {ty : Nat} (h : ty < 16 ∧ fmtBits ty * (32 / fmtBits ty) = 32) {op : QOp} {f g : Nat → Nat → Nat → Nat}
      (hf : elemFn ty false op = some f) (hg : ∀ d a b, f d a b % 2 ^ fmtBits ty = g d a b % 2 ^ fmtBits ty) : elems op ty ty g :=
    fun hop hm => elementwise_elems hr hq (q.types_plain h.1 hm) h.2 hop hf fun _ _ => hg _ _ _
  have saturated {ty : Nat} (h : ty < 16 ∧ fmtBits ty * (32 / fmtBits ty) = 32) {op : QOp} {f g : Nat → Nat → Nat → Nat}
      (hf : elemFn ty true op = some f) (hg : ∀ d a b, f d a b % 2 ^ fmtBits ty = g d a b % 2 ^ fmtBits ty) : elems op (ty + 16) ty g :=
    fun hop hm => elementwise_elems hr hq (q.types_sat h.1 hm) h.2 hop hf fun _ _ => hg _ _ _
  clear_value elems gives writes
  refine ⟨word rfl fun _ => elAdd_word false ..,
    gave fun hop hm => elementwise_words hr hq (q.types_sat (by decide) hm) hop rfl fun _ => elAdd_word true ..,
    word rfl fun _ => elSub_word false .., word rfl fun _ => elMul_word false .., word rfl fun _ => elMin_word ..,
      word rfl fun _ => elMax_word ..,
    gave fun hop _ => bitwise_words hr hq (by rw [vexec, hop]) fun _ => BitVec.toNat_and ..,
    gave fun hop _ => bitwise_words hr hq (by rw [vexec, hop]) fun _ => BitVec.toNat_or ..,
    gave fun hop _ => bitwise_words hr hq (by rw [vexec, hop]) fun _ => BitVec.toNat_xor ..,
    word rfl fun _ => elShl_word false .., word rfl fun _ => elShr_word .., word rfl fun _ => elClt_word ..,
      word rfl fun _ => elCeq_word ..,
    word rfl fun _ => elSel_word .., gave fun hop _ => vbcst_gives hr hq hop, gave fun hop _ => vrot_gives hr hq hop,
      gave fun hop _ => vld_gives hr hq hop,
    fun hop => ?_, fun ty hty => ?_, fun ty hty => ?_, fun ty hty => ?_, fun fmt sr sym => ?_,
    ⟨gave fun hop hm => vred_gives hr hq hop hm (.inl ⟨rfl, rfl⟩), gave fun hop hm => vred_gives hr hq hop hm (.inr (.inl ⟨rfl, rfl⟩)),
      gave fun hop hm => vred_gives hr hq hop hm (.inr (.inr ⟨rfl, rfl⟩)), gave fun hop _ => vscan_gives hr hq hop⟩,
    wrote fun hop _ => vsrch_writes hr hq hop, fun ty hty => wrote fun hop hm => ?_, fun n h0 h64 => wrote fun hop hm => ?_,
    gave fun hop _ => vdraw_gives hr hq hop, fun j sup h0 h8 hd => wrote fun hop hm => ?_, gave fun hop _ => vdrain_gives hr hq hop⟩
  · obtain ⟨u, hu, e⟩ := vst_ended hr hq hop
    have hlen := x.vget_length q.f2.toNat
    refine .of_next hu ⟨fun l i hl hi => ?_, fun k hk => ?_, e.v, fun r _ l _ => congrArg (fun v => SMap.get 0 v (64 * r + l)) e.v,
      e.mx, e.regs, e.pc, e.counted, e.others⟩
    · refine (congrArg (fun m => SMap.get 0 m _) e.scr).trans ((quarters_read _ q.rc hlen hl hi).trans ?_)
      rw [Tile.vget_getD _ _ hl]; rfl
    · exact (congrArg (fun m => SMap.get 0 m k) e.scr).trans (quarters_outside _ q.rc hlen hk)
  · intro z wrap sat
    obtain ⟨hi, hw⟩ := intTypes hty
    have int {f g : Nat} (h : f = g) : f % 2 ^ fmtBits ty = g % 2 ^ fmtBits ty := congrArg (· % _) h
    exact ⟨plain hw rfl fun _ _ _ => int (elAdd_int hi false ..), saturated hw rfl fun _ _ _ => int (elAdd_int hi true ..),
      plain hw rfl fun _ _ _ => int (elSub_int hi false ..), saturated hw rfl fun _ _ _ => int (elSub_int hi true ..),
      plain hw rfl fun _ _ _ => int (elMul_int hi false ..), saturated hw rfl fun _ _ _ => int (elMul_int hi true ..),
      plain hw rfl fun _ _ _ => rfl, saturated hw rfl fun _ _ _ => rfl, plain hw rfl fun _ _ _ => rfl,
      plain hw rfl fun _ _ _ => (elMin_int hi ..).trans (wrap_mod ..).symm,
        plain hw rfl fun _ _ _ => (elMax_int hi ..).trans (wrap_mod ..).symm,
      plain hw rfl fun _ _ _ => int (elClt_int hi ..), plain hw rfl fun _ _ _ => int (elCeq_int hi ..),
        plain hw rfl fun _ _ _ => int (elSel_eq ..)⟩
  · intro v fun1
    obtain ⟨hf, hw⟩ := floatTypes hty
    have float {f g : Nat} (h : f = g) : f % 2 ^ fmtBits ty = g % 2 ^ fmtBits ty := congrArg (· % _) h
    exact ⟨plain hw rfl fun _ _ _ => float (elAdd_float hf ..), plain hw rfl fun _ _ _ => float (elSub_float hf ..),
      plain hw rfl fun _ _ _ => float (elMul_float hf ..), plain hw rfl fun _ _ _ => rfl,
        plain hw rfl fun _ _ _ => float (elMin_float hf ..),
      plain hw rfl fun _ _ _ => float (elMax_float hf ..), plain hw rfl fun _ _ _ => float (elClt_float hf ..),
      plain hw rfl fun _ _ _ => float (elCeq_float hf ..), plain hw rfl fun _ _ _ => rfl, plain hw rfl fun _ _ _ => rfl,
        plain hw rfl fun _ _ _ => rfl⟩
  · intro n
    obtain ⟨hf, h16, hw⟩ := cvtTypes hty
    refine ⟨fun sr hsr => wrote fun hop hm => ?_, gave fun hop hm => ?_⟩
    · refine (vcvt_narrow_writes hr hq hop (q.types_of h16 hm) (q.narrow_of h16 hm) hw).imp fun y hy l i hl hi => (hy l i hl hi).trans ?_
      simp only [cvtElem, hf]
      split_ifs
      · rfl
      · rfl
      · exact wrap_mod ..
    · refine (vcvt_wide_gives hr hq hop (ty := ty) (by omega) (q.wide_of h16 hm)).imp fun y hy l hl => (hy l hl).trans ?_
      simp only [hf]
      rfl
  · intro enc
    refine wrote fun hop hm => ?_
    obtain ⟨h8, h4, h3⟩ := encMod fmt sr sym
    exact venc_writes hr hq hop (hm ▸ h8) (hm ▸ h4) (hm ▸ h3)
  · have hi : (q.mod.toNat % 16 == 11) = (ty == 11) := by rw [hm]; exact amaxMod hty
    refine (vamax_writes hr hq hop hi).imp fun y hy l hl => ?_
    intro i j more got
    rw [show got = amaxLane (ty == 11) (d l) i (a l) j from hy l hl]
    exact ⟨amaxLane_takes, amaxLane_keeps, amaxLane_eq_or⟩
  · exact (vtopk_writes hr hq hop (n := n) (by omega) rfl).imp fun y hy => ⟨rankSort_perm _, hy⟩
  · obtain ⟨hj, h3⟩ := softMod h0 h8 sup
    refine ((vsmax_writes hr hq hop (hm ▸ hj) (hm ▸ h3) hd).weaken fun r h => ?_).imp fun y hy l hl => ?_
    · exact List.mem_append.2 (List.mem_append.1 h).symm
    · intro score mx alpha p
      obtain ⟨hp, h1, h2, h3⟩ := hy l hl
      rw [Tile.soft, softLane_range] at hp h1 h2 h3
      exact ⟨fun i hi => (hp i hi).trans (range_map_getD _ _ hi), h1, h2, h3⟩

end Sys2Proof.Machine
end

section
/-! SUPPORT. What every step keeps (R106, R201, R554, R556): the rules by which a state inherits `State.Inv` from the one before it, and the
queues of frames to the nodes, which leave every ticket unused. -/

namespace Sys2Proof.Machine

variable {s u : State}

/-- No session of the map stands with a used ticket. -/
structure FreshTickets (m : SMap Session) : Prop where
  unused : ∀ e ∈ m, e.2.ticketUsed = false

/-! ### Rules -/

namespace State.Inv

section
variable {pe} {ti} {la} {va} {si} {ct} {ro} {le} {lh} {lq} {sm} {wa} {de} {ne} {ma} {fu} {pa} {sl} {ha} {ph} {pl} {st} {bb} {su} {id} {fl} {fs} {ca} {no}

/-- An update of fields outside the vats' codes, the lofts and the sessions. -/
theorem keep (h : s.Inv) : State.Inv
    ⟨pe, ti, la, va, s.vatMem, si, ct, ro, s.loft, le, lh, lq, sm, wa, de, ne, ma, fu, pa, sl, s.sessions, ha, ph, pl, st, bb, su, id, fl, fs, ca, no⟩ :=
  ⟨h.vats, h.loft, h.tickets⟩

/-- An update in which the lofts are others. -/
theorem withLoft {l : SMap Byte} (h : s.Inv) (hl : Memory.wf l = true) : State.Inv
    ⟨pe, ti, la, va, s.vatMem, si, ct, ro, l, le, lh, lq, sm, wa, de, ne, ma, fu, pa, sl, s.sessions, ha, ph, pl, st, bb, su, id, fl, fs, ca, no⟩ :=
  ⟨h.vats, hl, h.tickets⟩

/-- An update in which the codes are others. -/
theorem withCodes {m : SMap Byte} (h : s.Inv) (hm : Memory.wf m = true) : State.Inv
    ⟨pe, ti, la, va, m, si, ct, ro, s.loft, le, lh, lq, sm, wa, de, ne, ma, fu, pa, sl, s.sessions, ha, ph, pl, st, bb, su, id, fl, fs, ca, no⟩ :=
  ⟨hm, h.loft, h.tickets⟩

/-- An update in which the sessions are others, none of a used ticket. -/
theorem withSessions {z : SMap Session} (h : s.Inv) (hz : FreshTickets z) : State.Inv
    ⟨pe, ti, la, va, s.vatMem, si, ct, ro, s.loft, le, lh, lq, sm, wa, de, ne, ma, fu, pa, sl, z, ha, ph, pl, st, bb, su, id, fl, fs, ca, no⟩ :=
  ⟨h.vats, h.loft, hz.unused⟩

end

theorem ite {c : Prop} [Decidable c] (h : s.Inv) (k : u.Inv) : (if c then s else u).Inv := by
  split
  · exact h
  · exact k

theorem foldl {α : Type} {f : State → α → State} (hf : ∀ s a, s.Inv → (f s a).Inv) (l : List α) (h : s.Inv) : (l.foldl f s).Inv := by
  induction l generalizing s with
  | nil => exact h
  | cons a r ih => exact ih (hf s a h)

/-- Work on page tables (R366–R370). -/
theorem pages {p : Fin 32} (h : s.Inv) (k : PagesOnly p s u) : u.Inv := by
  obtain ⟨⟨_, _, _, _, _, _, _, _, rfl⟩, _, _, hl⟩ := k
  exact h.withLoft (hl h.loft)

theorem session {n : Nat} {y : Session} (h : s.Inv) (hy : s.session n = some y) : y.ticketUsed = false := by
  obtain ⟨e, he, rfl⟩ := Option.map_eq_some_iff.1 hy
  exact h.tickets e (List.mem_of_find?_eq_some he)

end State.Inv

/-! ### Frames to the nodes -/

namespace FreshTickets

variable {m : SMap Session}

theorem set (h : FreshTickets m) (n : Nat) {y : Session} (hy : y.ticketUsed = false) : FreshTickets (SMap.set Session.init m n y) := by
  refine ⟨fun e he => ?_⟩
  unfold SMap.set at he
  split at he
  · exact h.unused e (SMap.mem_del he)
  · rcases SMap.mem_put he with rfl | he
    · exact hy
    · exact h.unused e he

theorem del (h : FreshTickets m) (n : Nat) : FreshTickets (SMap.del m n) := ⟨fun e he => h.unused e (SMap.mem_del he)⟩

end FreshTickets

@[simp] theorem Session.rekey_ticketUsed (x : Session) : x.rekey.ticketUsed = x.ticketUsed := by
  unfold Session.rekey; split <;> rfl

@[simp] theorem Session.push_ticketUsed (x : Session) (now : Nat) (f : Frame) : (x.push now f).ticketUsed = x.ticketUsed := by
  unfold Session.push
  split
  · exact Session.rekey_ticketUsed _
  · rfl

@[simp] theorem Session.fill_ticketUsed (x : Session) (now : Nat) : (x.fill now).ticketUsed = x.ticketUsed := Session.rekey_ticketUsed x

@[simp] theorem Session.acks_ticketUsed (x : Session) (now : Nat) (a : AckInfo) : (x.acks now a).ticketUsed = x.ticketUsed := by
  unfold Session.acks; dsimp only; split <;> rfl

namespace FreshTickets

variable {x : Serv}

theorem serv_session (h : FreshTickets x.sessions) {n : Nat} {y : Session} (hy : x.session n = some y) : y.ticketUsed = false := by
  obtain ⟨e, he, rfl⟩ := Option.map_eq_some_iff.1 hy
  exact h.unused e (List.mem_of_find?_eq_some he)

theorem push (h : FreshTickets x.sessions) (n : Nat) (f : Frame) : FreshTickets (x.push n f).sessions := by
  unfold Serv.push
  split
  next => exact h
  next y hy => exact h.set n ((y.push_ticketUsed _ f).trans (h.serv_session hy))

theorem pushAll (h : FreshTickets x.sessions) (l : List (Nat × Frame)) : FreshTickets (x.pushAll l).sessions := by
  induction l generalizing x with
  | nil => exact h
  | cons e r ih => exact ih (h.push e.1 e.2)

theorem keepStatus (h : FreshTickets x.sessions) (n : Nat) (id : BitVec 64) (st : Status) : FreshTickets (x.keepStatus n id st).sessions := by
  unfold Serv.keepStatus
  split
  next => exact h
  next y hy => exact h.set n (h.serv_session hy :)

theorem sendStatus (h : FreshTickets x.sessions) (n : Nat) (id : BitVec 64) (st : Status) : FreshTickets (x.sendStatus n id st).sessions :=
  (h.keepStatus n id st).push n _

theorem endSlot (h : FreshTickets x.sessions) (now : Nat) (code detail : BitVec 8) (k : Nat) :
    FreshTickets (x.endSlot now code detail k).sessions := by
  unfold Serv.endSlot
  dsimp only
  split
  · split
    · exact .sendStatus (by exact h) ..
    · exact h
  · exact h

theorem endSlots (h : FreshTickets x.sessions) (now : Nat) (code detail : BitVec 8) (ks : List Nat) :
    FreshTickets (x.endSlots now code detail ks).sessions := by
  induction ks generalizing x with
  | nil => exact h
  | cons k r ih => exact ih (h.endSlot now code detail k)

theorem statusAfter (h : FreshTickets x.sessions) (k : Nat) : FreshTickets (x.statusAfter k).sessions := by
  unfold Serv.statusAfter
  dsimp only
  split
  · exact h
  · split
    · exact h
    · exact .sendStatus (by exact h) ..

theorem flush (h : FreshTickets x.sessions) (y : Slot) : FreshTickets (x.flush y).sessions := by
  unfold Serv.flush
  dsimp only
  split
  · split
    · exact h.pushAll _
    · exact (h.pushAll _).sendStatus ..
  · exact h.pushAll _

theorem flushAll (h : FreshTickets x.sessions) (l : List Slot) : FreshTickets (x.flushAll l).sessions := by
  induction l generalizing x with
  | nil => exact h
  | cons y r ih => exact ih (h.flush y)

end FreshTickets

namespace State.Inv

theorem fresh (h : s.Inv) : FreshTickets s.sessions := ⟨h.tickets⟩

theorem endServ (h : s.Inv) (ps : List (Fin 32)) (code detail : BitVec 8) : FreshTickets (s.endServ ps code detail).sessions :=
  FreshTickets.endSlots (x := s.serv) h.fresh ..

end State.Inv

/-! ### Tiles and slots -/

theorem State.onTile_inv (h : s.Inv) (t : PTile) (ok : Bool) (f : Ctx → Fx → Fx) : (s.onTile t ok f).Inv := by
  unfold State.onTile
  split
  · exact h.keep
  · exact h

theorem State.answer_inv (h : s.Inv) (n : Nat) (f : Frame) : (s.answer n f).Inv :=
  h.withSessions (FreshTickets.pushAll (x := s.serv) h.fresh _)

theorem State.answerAll_inv (h : s.Inv) (f : Frame) (l : List Nat) : (s.answerAll f l).Inv := by
  induction l generalizing s with
  | nil => exact h
  | cons n r ih => exact ih (State.answer_inv h n f)

theorem State.answerSome_inv (h : s.Inv) (n : Option Nat) (f : Frame) : (s.answerSome n f).Inv := by
  cases n with
  | none => exact h
  | some n => exact State.answer_inv h n f

theorem State.closeParts_inv (h : s.Inv) (ps : List (Fin 32)) (kind : BitVec 3) : (s.closeParts ps kind).Inv :=
  h.withSessions (h.endServ ..)

theorem State.endStep_inv (h : s.Inv) (p : Fin 32) (code detail : BitVec 8) : (s.endStep p code detail).Inv := h.withSessions (h.endServ ..)

theorem State.endOutside_inv (h : s.Inv) (p : Fin 32) (code detail : BitVec 8) : (s.endOutside p code detail).Inv :=
  h.withSessions (h.endServ ..)

theorem State.fatal_inv (h : s.Inv) (ev : BitVec 16) (detail : BitVec 64) (code dt : BitVec 8) : (s.fatal ev detail code dt).Inv :=
  h.withSessions (h.endServ ..)

end Sys2Proof.Machine
end

section
/-! SUPPORT. What every step keeps: memories and page tables, semaphores and the network, programs, loads and the tables that the supervisor
writes. -/

namespace Sys2Proof.Machine

variable {s : State}

/-! ### Memory and page tables -/

theorem State.entryErrs_inv (h : s.Inv) (p : Option (Fin 32)) (l : List (Nat × Nat)) : (s.entryErrs p l).Inv := by
  induction l generalizing s with
  | nil => exact h
  | cons e r ih => exact ih h.keep

theorem State.pageEdit_inv (h : s.Inv) (e : PageEdit) : (s.pageEdit e).Inv := h.pages (s.pageEdit_only e)

theorem State.pageEdits_inv (h : s.Inv) (l : List PageEdit) : (s.pageEdits l).Inv := by
  induction l generalizing s with
  | nil => exact h
  | cons e r ih => exact ih (State.pageEdit_inv h e)

theorem State.configScratch_inv (h : s.Inv) (t : PTile) (off n : Nat) : (s.configScratch t off n).2.Inv := by
  unfold State.configScratch
  dsimp only
  split <;> (dsimp only; exact State.onTile_inv h ..)

theorem State.putLoft_inv (h : s.Inv) (site off : Nat) (bs : List Byte) : (s.putLoft site off bs).Inv :=
  h.withLoft (State.putLoft_wf h.loft site off bs)

theorem State.startReturn_inv (h : s.Inv) (k : Nat) : (s.startReturn k).Inv := h.pages (s.startReturn_only k)

theorem State.startReturns_inv (h : s.Inv) (ks : List Nat) : (s.startReturns ks).Inv := by
  induction ks generalizing s with
  | nil => exact h
  | cons k r ih => exact ih (State.startReturn_inv h k)

theorem State.mapSlot_inv (h : s.Inv) (q : Request) (k : Nat) (y : Slot) : (s.mapSlot q k y).Inv := h.pages (s.mapSlot_only q k y)

/-! ### Semaphores -/

theorem State.semUes_inv (h : s.Inv) (l : List SemRead) : (s.semUes l).Inv := by
  induction l generalizing s with
  | nil => exact h
  | cons x r ih => exact ih h.keep

theorem State.semOp_inv (h : s.Inv) (site : Fin 64) (src : PTile) (w : BitVec 64) : (s.semOp site src w).Inv := State.semUes_inv h.keep _

theorem State.performDeferred_inv (h : s.Inv) (p : Fin 32) : (s.performDeferred p).Inv := State.semUes_inv h.keep _

theorem State.sweepSems_inv (h : s.Inv) (site : Fin 64) : (s.sweepSems site).Inv := by
  have h1 := State.semUes_inv h (uncorrectableSems s.sems (fun k _ => k / 1024 == site.val) none)
  unfold State.sweepSems
  dsimp only
  split
  · exact h1
  · exact (State.closeParts_inv h1 ..).keep

/-! ### The network -/

theorem State.holdDelivery_inv (h : s.Inv) (r : PTile) (q : Flit → Bool) (f : Flit) (e : TreeEntry) (x : TreeFlit) :
    (s.holdDelivery r q f e x).Inv := (State.onTile_inv h ..).keep

theorem State.auditFail_inv (h : s.Inv) (k check exp found : Nat) : (s.auditFail k check exp found).Inv :=
  (State.closeParts_inv h ..).keep

theorem State.auditFails_inv (h : s.Inv) (check : Nat) (l : List (Nat × Nat × Nat)) : (s.auditFails check l).Inv := by
  induction l generalizing s with
  | nil => exact h
  | cons e r ih => exact ih (State.auditFail_inv h ..)

theorem State.startAudit_inv (h : s.Inv) (q : Nat → Bool) : (s.startAudit q).Inv := State.auditFails_inv h.keep ..

theorem State.drainFails_inv (h : s.Inv) (l : List (Nat × Nat × Nat × Nat)) : (s.drainFails l).Inv := by
  induction l generalizing s with
  | nil => exact h
  | cons e r ih => exact ih (State.auditFail_inv h ..)

theorem State.drained_inv (h : s.Inv) (p : Fin 32) : (s.drained p).Inv :=
  (State.startAudit_inv (State.drainFails_inv h.keep _) _).keep

/-! ### Programs and tables -/

theorem State.writeProgram_inv (h : s.Inv) (p : Fin 32) (g : Program) (map : SMap Nat) : (s.writeProgram p g map).Inv := by
  unfold State.writeProgram
  split
  · exact h.keep
  · exact h

theorem State.shareDies_inv (h : s.Inv) : s.shareDies.Inv := h.foldl (fun _ _ h => h.keep) _

theorem State.replaceDue_inv (h : s.Inv) (p : Fin 32) : (s.replaceDue p).Inv := by
  unfold State.replaceDue
  split
  · exact h
  · exact .ite (State.endStep_inv h ..) h.keep

theorem State.bindTiles_inv (h : s.Inv) (p : Fin 32) (clear : Bool) (ms : List ModelInfo) : (s.bindTiles p clear ms).Inv := by
  unfold State.bindTiles
  split
  · exact h.keep
  · exact h

theorem State.writeTables_inv (h : s.Inv) (p : Fin 32) : (s.writeTables p).Inv := h.keep

theorem State.refreshTables_inv (h : s.Inv) (p : Fin 32) : (s.refreshTables p).Inv := .ite (State.writeTables_inv h p) h

theorem State.refreshAll_inv (h : s.Inv) (l : List (Fin 32)) : (s.refreshAll l).Inv := by
  induction l generalizing s with
  | nil => exact h
  | cons p r ih => exact ih (State.refreshTables_inv h p)

theorem State.rebin_inv (h : s.Inv) (p : Fin 32) : (s.rebin p).Inv := by
  unfold State.rebin
  split
  · exact h.keep
  · exact h

/-! ### Loads -/

theorem State.fetchMissing_inv (h : s.Inv) (p : Fin 32) : (s.fetchMissing p).Inv := .ite h h.keep

theorem State.enterWrite_inv (h : s.Inv) (p : Fin 32) (st : BitVec 4) (d : Descriptor) (vs : List Nat) : (s.enterWrite p st d vs).Inv := by
  have hc := emptyCodes_wf h.vats vs
  exact .ite (h.withCodes hc) (h.withCodes hc)

theorem State.leaveNow_inv (h : s.Inv) (p : Fin 32) : (s.leaveNow p).Inv :=
  .ite h ((State.bindTiles_inv h ..).withCodes (emptyCodes_wf h.vats _))

theorem State.dropNow_inv (h : s.Inv) (p : Fin 32) : (s.dropNow p).Inv := .ite h (h.withCodes (emptyCodes_wf h.vats _))

theorem State.evictNow_inv (h : s.Inv) (p : Fin 32) : (s.evictNow p).Inv := by
  unfold State.evictNow
  dsimp only
  split
  · exact h
  · refine .ite (State.enterWrite_inv ?_ ..) h
    exact (State.bindTiles_inv h ..).withCodes (emptyCodes_wf h.vats _)

theorem State.restore_inv (h : s.Inv) (p : Fin 32) (vs : List ModelInfo) : (s.restore p vs).Inv := by
  induction vs generalizing s with
  | nil => exact h.keep
  | cons m r ih =>
    unfold State.restore
    split
    · exact (State.enterWrite_inv h p 9 m.desc _).keep
    · exact ih h.keep

theorem State.gapWork_inv (h : s.Inv) (p : Fin 32) : (s.gapWork p).Inv := by
  have h1 := State.evictNow_inv (State.dropNow_inv (State.leaveNow_inv h p) p) p
  exact .ite (.ite (State.restore_inv h1 ..) h1) h

theorem State.startRestore_inv (h : s.Inv) (p : Fin 32) (vs : List ModelInfo) : (s.startRestore p vs).Inv :=
  State.gapWork_inv (.ite (State.restore_inv h ..) h.keep) p

theorem State.stopLoad_inv (h : s.Inv) (p : Fin 32) : (s.stopLoad p).Inv := by
  refine h.withCodes ?_
  split
  · exact h.vats
  · exact emptyCodes_wf h.vats _

theorem State.lose_inv (h : s.Inv) (p : Fin 32) (id : BitVec 16) : (s.lose p id).Inv := .ite h h.keep

end Sys2Proof.Machine
end

section
/-! SUPPORT. What every step keeps: installations, the PARTITION reset, the loads of models, adapters and tuning jobs. -/

namespace Sys2Proof.Machine

variable {s : State}

/-! ### Installation -/

theorem State.endInstall_inv (h : s.Inv) (p : Fin 32) : (s.endInstall p).Inv := by
  unfold State.endInstall
  split
  · exact h
  · exact .ite (State.answerSome_inv (State.rebin_inv h.keep p) ..) h

theorem State.undoInstall_inv (h : s.Inv) (p : Fin 32) (rows : List (PTile × Nat)) : (s.undoInstall p rows).Inv := by
  unfold State.undoInstall
  split
  · exact h
  · refine State.answerSome_inv (State.bindTiles_inv ?_ ..) ..
    split
    · exact (State.writeProgram_inv h.keep ..).keep
    · exact h.keep

theorem State.install_inv (h : s.Inv) (p : Fin 32) (g : Program) (ex : Bool) (rows : List (PTile × Nat)) (o : Prev) :
    (s.install p g ex rows o).Inv := by
  have h2 := State.writeProgram_inv h p g s.map
  exact .ite (State.replaceDue_inv (State.undoInstall_inv h2.keep ..) p)
    (State.endInstall_inv (State.refreshTables_inv (State.bindTiles_inv h2.keep ..) p) p)

/-! ### The PARTITION reset -/

theorem State.freeSlots_inv (h : s.Inv) (ps : List (Fin 32)) (code detail : BitVec 8) : (s.freeSlots ps code detail).Inv := by
  have hf : (s.flushFaults (s.slots.filter fun e => ps.any fun p => e.1 / 128 == p.val)).Inv := h.keep
  exact ⟨h.vats, applyEdits_wf _ h.loft _, ((hf.endServ ps code detail).flushAll _).unused⟩

theorem State.closeRouters_inv (h : s.Inv) (p : Fin 32) (rs : List PTile) : (s.closeRouters p rs).Inv := h.withSessions (h.endServ ..)

theorem State.moveTile_inv (h : s.Inv) (p : Option (Fin 32)) (c r old new : Nat) : (s.moveTile p c r old new).Inv :=
  h.withCodes (emptyCodes_wf h.vats _)

theorem State.remapAll_inv (h : s.Inv) (p : Option (Fin 32)) (l : List (Nat × Nat × Nat)) : (s.remapAll p l).1.Inv := by
  induction l generalizing s with
  | nil => exact h
  | cons e r ih =>
    unfold State.remapAll
    dsimp only
    split
    · exact ih h.keep
    · exact ih (State.moveTile_inv h.keep ..)

theorem State.loadsMoved_inv (h : s.Inv) (p : Fin 32) (old : SMap Nat) : (s.loadsMoved p old).Inv := by
  unfold State.loadsMoved
  split
  · exact h
  · exact .foldl (fun _ _ h => h.keep) _ (.foldl (fun _ q h => State.rebin_inv h q) _ h.keep)

theorem State.recheck_inv (h : s.Inv) (p : Fin 32) : (s.recheck p).Inv := by
  have h1 : (if s.programsOk p s.map then s else s.undoInstall p []).Inv := .ite h (State.undoInstall_inv h ..)
  exact .ite h1 h1.keep

theorem State.rebuilt_inv (h : s.Inv) (p : Fin 32) (rows : List (PTile × Nat)) : (s.rebuilt p rows).Inv := by
  unfold State.rebuilt
  dsimp only
  split
  · exact State.bindTiles_inv (State.writeProgram_inv h ..).keep ..
  · exact State.bindTiles_inv h.keep ..

theorem State.openPart_inv (h : s.Inv) (p : Fin 32) : (s.openPart p).Inv :=
  State.writeTables_inv (State.gapWork_inv h.keep p) p

theorem State.openReady_inv (h : s.Inv) (l : List (Fin 32)) : (s.openReady l).Inv := by
  induction l generalizing s with
  | nil => exact h
  | cons p r ih => exact ih (.ite (State.openPart_inv h p) h)

theorem State.openAll_inv (h : s.Inv) : s.openAll.Inv := .ite (State.openReady_inv h _).keep (State.openReady_inv h _)

theorem State.settleStart_inv (h : s.Inv) : s.settleStart.Inv := by
  have h1 : (s.furnished.foldl State.endInstall s).Inv := h.foldl (fun _ p h => State.endInstall_inv h p) _
  unfold State.settleStart
  dsimp only
  split
  · exact .ite (State.openAll_inv (h1.keep.foldl (fun _ _ h => h.keep) _)) h1
  · exact .ite (State.openAll_inv h1) (.ite (State.openReady_inv h1 _) h1)

theorem State.sweepAll_inv (h : s.Inv) : s.sweepAll.Inv := h.foldl (fun _ i h => .ite (State.sweepSems_inv h i) h) _

theorem State.auditOut_inv (h : s.Inv) (p : Fin 32) : (s.auditOut p).Inv := by
  unfold State.auditOut
  split <;> exact h.keep

theorem State.reopen_inv (h : s.Inv) (p : Fin 32) : (s.reopen p).Inv := .ite (State.openPart_inv h p) (State.gapWork_inv h.keep p)

theorem State.replaceFree_inv (h : s.Inv) (t : PTile) : (s.replaceFree t).Inv := .ite (State.remapAll_inv h ..) h.keep

theorem State.failTile_inv (h : s.Inv) (t : PTile) : (s.failTile t).Inv := by
  unfold State.failTile
  dsimp only
  split
  · exact State.replaceFree_inv h.keep t
  · exact State.replaceDue_inv (State.undoInstall_inv h.keep ..) _

theorem State.strayTests_inv (h : s.Inv) (p : Fin 32) (vs : List (PTile × PTile × Bool)) : (s.strayTests p vs).Inv :=
  (h.foldl (fun _ k h => State.failTile_inv h (PTile.ofKey k)) _).keep

theorem State.clearPart_inv (h : s.Inv) (p : Fin 32) : (s.clearPart p).Inv := (State.stopLoad_inv h p).keep

theorem State.bringupLog_inv (h : s.Inv) (l : List Nat) : (s.bringupLog l).Inv := h.keep

theorem State.resetSems_inv (h : s.Inv) (p : Fin 32) : (s.resetSems p).Inv := h.keep

theorem State.partReset_inv (h : s.Inv) (p : Fin 32) (failed : TestFails) (rows : List (PTile × Nat)) : (s.partReset p failed rows).Inv := by
  have h1 := State.freeSlots_inv (State.drained_inv (State.closeRouters_inv h p failed.routers) p) [p] 5 1
  have h2 := State.clearPart_inv (State.bringupLog_inv (State.strayTests_inv h1 p failed.verdicts) (s.retestBad p failed)) p
  have h3 := State.recheck_inv (State.fetchMissing_inv (State.remapAll_inv h2 (some p) (s.deadTiles p failed rows)) p) p
  have h4 := State.sweepAll_inv (State.loadsMoved_inv (State.resetSems_inv (State.rebuilt_inv h3 p rows) p) p s.map)
  exact .ite h4.keep.keep (.ite (State.auditOut_inv h4 p) (State.reopen_inv h4 p))

/-! ### Messages -/

theorem State.onMsg_inv (h : s.Inv) (n : Nat) {f : Session → State → State} (hf : ∀ x u, State.Inv u → (f x u).Inv) : (s.onMsg n f).Inv := by
  unfold State.onMsg
  split
  next => exact h
  next x hx => exact .ite h (hf x _ (h.withSessions (h.fresh.set n (h.session hx :))))

theorem State.mgmt_inv (h : s.Inv) (n : Nat) (ok : Node → Bool) {f : State → State} (hf : ∀ u, State.Inv u → (f u).Inv) :
    (s.mgmt n ok f).Inv := State.onMsg_inv h n fun _ u hu => .ite (hf u hu) (State.answer_inv hu ..)

/-! ### Reads of a load -/

theorem State.failLoad_inv (h : s.Inv) (p : Fin 32) (reason : BitVec 4) : (s.failLoad p reason).Inv := by
  unfold State.failLoad
  dsimp only
  split
  · exact State.startRestore_inv h.keep ..
  · exact State.settleStart_inv (State.startRestore_inv (State.lose_inv (State.answerAll_inv h.keep ..) ..) ..)

theorem State.trigger_inv (h : s.Inv) (p : Fin 32) (e : Nat) (who : List Nat) : (s.trigger p e who).Inv :=
  .ite (State.answerAll_inv h ..) (.ite h.keep (.ite h.keep h.keep))

theorem State.noSwap_inv (h : s.Inv) (session : Nat) (p : Fin 32) (model : BitVec 16) : (s.noSwap session p model).Inv :=
  State.answer_inv h.keep ..

theorem State.readFails_inv (h : s.Inv) (p : Fin 32) : (s.readFails p).Inv := .ite (State.failLoad_inv h.keep ..) h.keep

theorem State.checkLoad_inv (h : s.Inv) (p : Fin 32) : (s.checkLoad p).Inv := by
  unfold State.checkLoad
  dsimp only
  split
  · exact State.failLoad_inv h ..
  · refine .ite (State.failLoad_inv h ..) (.ite (State.answerAll_inv h.keep ..) ?_)
    split
    · exact State.failLoad_inv h ..
    · exact State.gapWork_inv h.keep p

theorem State.keepDesc_inv (h : s.Inv) (p : Fin 32) : (s.keepDesc p).Inv := by
  unfold State.keepDesc
  split
  · exact h
  · exact h.keep

theorem State.gotShard_inv (h : s.Inv) (p : Fin 32) : (s.gotShard p).Inv := by
  unfold State.gotShard
  split
  · exact h
  · exact h.keep

theorem State.sourceFails_inv (h : s.Inv) (p : Fin 32) : (s.sourceFails p).Inv :=
  .ite (State.readFails_inv h p) (.ite (State.failLoad_inv h ..) h.keep)

theorem State.failReads_inv (h : s.Inv) (l : List (Fin 32)) : (s.failReads l).Inv := by
  induction l generalizing s with
  | nil => exact h
  | cons p r ih => exact ih (State.sourceFails_inv h p)

/-! ### Writes and tests of vats -/

theorem State.replaceVat_inv (h : s.Inv) (p : Fin 32) (key : Nat) : (s.replaceVat p key).Inv := by
  have hc := emptyCodes_wf h.vats [key]
  unfold State.replaceVat
  dsimp only
  split
  · exact h.withCodes hc
  · exact State.failLoad_inv (h.withCodes hc) ..

theorem State.moveBad_inv (h : s.Inv) (key : Nat) : (s.moveBad key).Inv := by
  have hc := emptyCodes_wf h.vats [key]
  unfold State.moveBad
  dsimp only
  split
  · exact State.bindTiles_inv (State.fetchMissing_inv (h.withCodes hc) _) ..
  · exact State.failTile_inv (h.withCodes hc) _

theorem State.condemn_inv (h : s.Inv) (p : Fin 32) : (s.condemn p).Inv :=
  .ite (h.foldl (fun _ k h => .ite (.ite (State.replaceVat_inv h p k) (State.moveBad_inv h k)) h) _) h

theorem State.fillRows_inv (h : s.Inv) (t : PTile) (key row : Nat) (codes : List Byte) (verify : List (Nat × Nat)) :
    (s.fillRows t key row codes verify).Inv := h.withCodes (State.fillRows_wf h.vats t key row codes verify)

theorem State.writeRows_inv (h : s.Inv) (p : Fin 32) (t : PTile) (key row : Nat) (codes : List Byte) (verify : List (Nat × Nat)) :
    (s.writeRows p t key row codes verify).Inv := .ite (State.fillRows_inv h ..).keep (State.fillRows_inv h ..)

theorem State.acceptResult_inv (h : s.Inv) (t : PTile) (key : Nat) (pass : Bool) : (s.acceptResult t key pass).Inv := by
  unfold State.acceptResult
  dsimp only
  split
  · split
    · exact State.settleStart_inv h.keep
    · exact .ite h.keep h.keep
  · split
    · exact State.condemn_inv h.keep _
    · exact h.keep

theorem State.committed_inv (h : s.Inv) (p : Fin 32) (m : ModelInfo) : (s.committed p m).Inv := State.bindTiles_inv h.keep ..

theorem State.joined_inv (h : s.Inv) (p : Fin 32) (e : Nat) : (s.joined p e).Inv := State.answerAll_inv h.keep ..

/-! ### Adapters and tuning jobs -/

theorem State.installAdapter_inv (h : s.Inv) (session : Nat) (p : Fin 32) (d : AdapterDesc) (digest : Nat) :
    (s.installAdapter session p d digest).Inv := by
  unfold State.installAdapter
  refine .ite (State.answer_inv h ..) (.ite (State.answer_inv h.keep ..) ?_)
  split
  · exact State.answer_inv h.keep ..
  · exact State.answer_inv (State.answerAll_inv h.keep ..) ..

theorem State.writeArea_inv (h : s.Inv) (p : Fin 32) (slot : Nat) (area : List Byte) : (s.writeArea p slot area).Inv := by
  unfold State.writeArea
  split
  · exact State.putLoft_inv h ..
  · exact h

theorem State.putFactors_inv (h : s.Inv) (r : Grant) (j : Job) (area : Nat) (l : List Factor) : (s.putFactors r j area l).Inv := by
  induction l generalizing s with
  | nil => exact h
  | cons f l ih => exact ih (.ite (State.putLoft_inv h.keep ..) h)

theorem State.tune_inv (h : s.Inv) (p : Fin 32) : (s.tune p).Inv := by
  unfold State.tune
  split
  · exact h
  · refine .ite ?_ h
    dsimp only
    split
    · exact (State.putFactors_inv h ..).keep
    · exact h.keep

theorem State.zeroFactors_inv (h : s.Inv) (r : Grant) (k area : Nat) (l : List Factor) : (s.zeroFactors r k area l).Inv := by
  induction l generalizing s with
  | nil => exact h
  | cons f l ih => exact ih (.ite (State.putLoft_inv (State.putLoft_inv h ..) ..) h)

theorem State.copyFactors_inv (h : s.Inv) (r : Grant) (k k0 area : Nat) (l : List Factor) : (s.copyFactors r k k0 area l).Inv := by
  induction l generalizing s with
  | nil => exact h
  | cons f l ih => exact ih (.ite (State.putLoft_inv (State.putLoft_inv h.keep ..) ..) h)

theorem State.readyJob_inv (h : s.Inv) (p : Fin 32) : (s.readyJob p).Inv := by
  unfold State.readyJob
  dsimp only
  split
  · exact h
  · refine .ite h ?_
    split
    · exact (State.copyFactors_inv h ..).keep
    · exact (State.zeroFactors_inv h ..).keep
    · exact h.keep

end Sys2Proof.Machine
end

section
/-! SUPPORT. What every step keeps: requests and slots, the couch, faults and the black box, start-up and the resets. -/

namespace Sys2Proof.Machine

variable {s : State}

/-! ### Requests -/

theorem State.cancelSlot_inv (h : s.Inv) (p : Fin 32) (k : Nat) : (s.cancelSlot p k).Inv :=
  State.startReturn_inv (State.refreshTables_inv (h.withSessions (FreshTickets.endSlot (x := s.serv) h.fresh ..)) p) k

theorem State.cancelOne_inv (h : s.Inv) (session : Nat) (id : BitVec 64) : (s.cancelOne session id).Inv := by
  unfold State.cancelOne
  split
  · exact State.cancelSlot_inv h ..
  · split
    · exact State.answer_inv h ..
    · exact .ite h (State.answer_inv h ..)

theorem State.takeHeld_inv (h : s.Inv) (session : Nat) (id : BitVec 64) : (s.takeHeld session id).2.Inv := by
  unfold State.takeHeld
  split
  next => exact h
  next z hz => exact h.withSessions (h.fresh.set session (h.session hz :))

theorem State.accepted_inv (h : s.Inv) (session : Nat) (q : Request) (a : Plan) : (s.accepted session q a).Inv := by
  have hm := State.mapSlot_inv (s := { s with
    parts := SMap.set Part.init s.parts q.part.val (s.admitPart q a (s.newSlot session q a))
    slots := SMap.set Slot.init s.slots (q.part.val * 128 + a.slot) (s.newSlot session q a) }) h.keep q (q.part.val * 128 + a.slot)
      (s.newSlot session q a)
  exact (State.takeHeld_inv (State.refreshTables_inv (State.answer_inv hm ..) _) session q.id).foldl
    (fun _ _ h => State.cancelOne_inv h ..) _

theorem State.rejected_inv (h : s.Inv) (session : Nat) (q : Request) (code detail : BitVec 8) : (s.rejected session q code detail).Inv :=
  (State.takeHeld_inv (State.answer_inv h.keep ..) session q.id).foldl (fun _ _ h => State.answer_inv h ..) _

theorem State.decided_inv (h : s.Inv) (session : Nat) (q : Request) (d : Decision) : (s.decided session q d).Inv := by
  unfold State.decided
  split
  · exact State.rejected_inv h ..
  · exact State.rejected_inv h ..
  · exact State.trigger_inv (State.rejected_inv h ..) ..
  · exact (State.rejected_inv h ..).keep
  · exact State.accepted_inv h ..

/-! ### At the port -/

theorem State.sendTokens_inv (h : s.Inv) (k : Nat) (y : Slot) (f : TokFrame) (rest : List TokFrame) : (s.sendTokens k y f rest).Inv := by
  have hp := FreshTickets.push (x := s.serv) h.fresh y.session (.tokens y.reqId f.k f.toks)
  exact State.startReturn_inv (h.withSessions (.statusAfter (by exact hp) k)) k

theorem State.endUnsent_inv (h : s.Inv) (k : Nat) (y : Slot) : (s.endUnsent k y).Inv := by
  refine h.withSessions ?_
  split
  · exact h.fresh
  · exact .sendStatus (by exact h.fresh) ..

theorem State.tokenFault_inv (h : s.Inv) (p : Fin 32) (k : Nat) (y : Slot) (exp found : Nat) : (s.tokenFault p k y exp found).Inv :=
  (State.closeParts_inv (State.endUnsent_inv h k y) ..).keep

theorem State.expire_inv (h : s.Inv) (p : Fin 32) (k : Nat) : (s.expire p k).Inv :=
  h.withSessions (FreshTickets.endSlot (x := s.serv) h.fresh ..)

/-! ### The couch -/

theorem State.judge_inv (h : s.Inv) (p : Fin 32) (n : Notice) : (s.judge p n).Inv := by
  unfold State.judge
  dsimp only
  refine .ite h ?_
  split
  · exact h
  · exact h.keep
  · exact (State.endStep_inv h.keep ..).keep
  · exact State.endOutside_inv h ..

theorem State.judgeAll_inv (h : s.Inv) (n : Notice) (l : List (Fin 32)) : (s.judgeAll n l).Inv := by
  induction l generalizing s with
  | nil => exact h
  | cons p r ih => exact ih (State.judge_inv h p n)

theorem State.warned_inv (h : s.Inv) (n : Notice) : (s.warned n).Inv := by
  unfold State.warned
  split
  · exact h
  · exact h.keep

theorem State.stepOver_inv (h : s.Inv) (p : Fin 32) : (s.stepOver p).Inv := .ite h.keep h

theorem State.takeReport_inv (h : s.Inv) (p : Fin 32) (t : PTile) (rep : Report) : (s.takeReport p t rep).Inv := by
  have hm : (s.marked p rep).Inv := .ite (State.judge_inv h ..) h
  exact .ite (State.endStep_inv (State.stepOver_inv hm.keep p) ..) (State.stepOver_inv hm.keep p)

theorem State.release1_inv (h : s.Inv) (p : Fin 32) (outs : List SlotLogits) (k : Nat) : (s.release1 p outs k).Inv := by
  unfold State.release1
  dsimp only
  refine .ite (State.startReturn_inv (State.expire_inv h p k) k) ?_
  split
  · have he := State.pageEdits_inv h
    refine State.startReturn_inv ((he _).withSessions ?_) k
    split
    · exact (he _).fresh
    · exact .endSlot (by exact (he _).fresh) ..
  · exact h

theorem State.releaseAll_inv (h : s.Inv) (p : Fin 32) (outs : List SlotLogits) (ks : List Nat) : (s.releaseAll p outs ks).Inv := by
  induction ks generalizing s with
  | nil => exact h
  | cons k r ih => exact ih (State.release1_inv h p outs k)

theorem State.fly_inv (h : s.Inv) (p : Fin 32) (ks : List Nat) : (s.fly p ks).Inv := by
  induction ks generalizing s with
  | nil => exact h
  | cons k r ih =>
    refine ih ?_
    unfold State.fly1
    dsimp only
    split
    · exact h
    · exact h.keep

theorem State.gateAdd_inv (h : s.Inv) (p : Fin 32) : (s.gateAdd p).Inv := State.semUes_inv h.keep _

theorem State.beginInWindow_inv (h : s.Inv) (p : Fin 32) : (s.beginInWindow p).Inv := .ite (State.judge_inv h ..) h

theorem State.replay_inv (h : s.Inv) (p : Fin 32) : (s.replay p).Inv := by
  unfold State.replay
  split
  · exact State.semUes_inv h.keep _
  · exact State.stepOver_inv h.keep p

/-! ### Faults and the black box -/

theorem State.selfTestFails_inv (h : s.Inv) (t : PTile) (l : List (BitVec 4)) : (s.selfTestFails t l).Inv := by
  induction l generalizing s with
  | nil => exact h
  | cons u r ih =>
    refine ih (.keep ?_)
    exact .ite h.keep h

theorem State.refFail_inv (h : s.Inv) (i : Fin 2) : (s.refFail i).Inv :=
  .ite (.ite (State.judgeAll_inv h.keep ..) h.keep) (.ite h.keep (State.fatal_inv (.foldl (fun _ _ h => h.keep) _ h.keep) ..))

theorem State.auditBad_inv (h : s.Inv) (p : Fin 32) (ev : BitVec 16) (kind : BitVec 3) (exp found : Nat) :
    (s.auditBad p ev kind exp found).Inv := (State.closeParts_inv h ..).keep

theorem State.tokenAudit_inv (h : s.Inv) (l : List (Fin 32)) : (s.tokenAudit l).Inv := by
  induction l generalizing s with
  | nil => exact h
  | cons p r ih =>
    unfold State.tokenAudit
    split
    · exact ih h
    · exact .ite (ih (State.auditBad_inv h ..)) (ih h)

theorem State.switchOff_inv (h : s.Inv) : s.switchOff.Inv := (h.foldl (fun _ _ h => h.keep) allSites).keep

theorem State.writeImage_inv (h : s.Inv) (i : FlashImage) : (s.writeImage i).Inv := by cases i <;> exact h.keep

theorem State.askImage_inv (h : s.Inv) (session : Option Nat) (i : FlashImage) : (s.askImage session i).Inv :=
  .ite (State.answerSome_inv h ..) (.ite h.keep (State.answerSome_inv (State.writeImage_inv h i) ..))

theorem State.writeImages_inv (h : s.Inv) : s.writeImages.Inv :=
  h.keep.foldl (fun _ _ h => State.answerSome_inv (State.writeImage_inv h _) ..) _

/-! ### Start-up and resets -/

theorem State.reinstall_inv (h : s.Inv) (l : List (Fin 32)) : (s.reinstall l).Inv := by
  induction l generalizing s with
  | nil => exact h
  | cons p r ih =>
    refine ih ?_
    split
    · exact State.bindTiles_inv (.ite (State.writeProgram_inv h ..).keep h.keep) ..
    · exact State.bindTiles_inv h ..

theorem State.coldLog_inv (h : s.Inv) (o : BootObs) : (s.coldLog o).Inv := h.keep

theorem State.warmStart_inv (h : s.Inv) (o : BootObs) (fu : Furnish) (old : Option Furnish) : (s.warmStart o fu old).Inv := by
  unfold State.warmStart
  extract_lets
  refine .foldl (fun _ t h => State.failTile_inv h t) _ (State.coldLog_inv (State.bringupLog_inv (State.reinstall_inv ?_ _) _) o)
  exact ⟨SMap.wf_filter h.vats _, SMap.wf_filter h.loft _, h.tickets⟩

theorem State.boot_inv (h : s.Inv) (o : BootObs) (warm : Bool) : (s.boot o warm).Inv := by
  unfold State.boot
  refine .ite h.keep ?_
  split
  · dsimp only
    split
    · exact h.keep
    · exact (State.settleStart_inv (State.shareDies_inv (.ite (State.warmStart_inv h.keep ..) h.keep))).keep
  · exact h.keep

theorem State.startUp_inv (h : s.Inv) (o : BootObs) : (s.startUp o).Inv := .ite h.keep (State.boot_inv h.keep ..)

theorem State.dark_inv (h : s.Inv) : s.dark.Inv := ⟨h.vats, h.loft, fun _ he => absurd he List.not_mem_nil⟩

theorem State.afterPor_inv (s : State) : s.afterPor.Inv := ⟨rfl, rfl, fun _ he => absurd he List.not_mem_nil⟩

theorem State.warm_inv (h : s.Inv) (o : BootObs) : (s.warm o).Inv := by
  have h1 {u : State} (hv : u.vatMem = s.vatMem) (hl : u.loft = s.unmapped allParts) (ht : u.sessions = []) : u.Inv :=
    ⟨hv ▸ h.vats, hl ▸ applyEdits_wf s h.loft _, ht ▸ fun _ he => absurd he List.not_mem_nil⟩
  refine .ite (.keep ?_) (State.boot_inv ?_ o true) <;> exact h1 rfl rfl rfl

theorem State.siteReset_inv (h : s.Inv) (site : Fin 64) : (s.siteReset site).Inv := by
  have h1 := h.foldl (fun _ p h => State.stopLoad_inv h p) (s.affected site)
  exact ⟨SMap.wf_filter h1.vats _, SMap.wf_filter h1.loft _, (h1.endServ (s.affected site) 7 0).unused⟩

theorem State.sitesReset_inv (h : s.Inv) (l : List (Fin 64)) : (s.sitesReset l).Inv := by
  induction l generalizing s with
  | nil => exact h
  | cons i r ih => exact ih (.ite (State.siteReset_inv h i) h.keep)

theorem State.deviceReset_inv (h : s.Inv) : s.deviceReset.Inv := (State.sitesReset_inv h allSites).keep

/-! ### Power -/

theorem State.endSteps_inv (h : s.Inv) (l : List (Fin 32)) : (s.endSteps l).Inv := by
  induction l generalizing s with
  | nil => exact h
  | cons p r ih => exact ih (State.endStep_inv h ..)

theorem State.siteTests_inv (h : s.Inv) (o : SiteObs) : (s.siteTests o).Inv := h.keep.foldl (fun _ k h => State.moveBad_inv h k) _

theorem State.devDone_inv (h : s.Inv) : s.devDone.Inv := .ite h h.keep

theorem State.siteOff_inv (h : s.Inv) (site : Fin 64) : (s.siteOff site).Inv := (State.judgeAll_inv h.keep ..).keep.keep

theorem State.thermTrip_inv (h : s.Inv) : s.thermTrip.Inv :=
  .ite h (.ite (State.switchOff_inv (State.fatal_inv h ..)) (State.fatal_inv h ..).keep)

theorem State.thermal_inv (h : s.Inv) (site : Fin 64) (t : Temps) : (s.thermal site t).Inv :=
  .keep (.ite (State.thermTrip_inv h.keep) (.ite (.ite h.keep (State.siteOff_inv h.keep site)) (.ite h.keep.keep h.keep)))

theorem State.wakeParts_inv (h : s.Inv) (ps : List (Fin 32)) : (s.wakeParts ps).Inv := h.keep.keep

theorem State.wake_inv (h : s.Inv) (p : Fin 32) : (s.wake p).Inv := .ite (State.wakeParts_inv h _).keep.keep (State.wakeParts_inv h _)

theorem State.peersOff_inv (h : s.Inv) : s.peersOff.Inv := .ite h.keep h

end Sys2Proof.Machine
end

section
/-! SUPPORT. What every step keeps: identity, registers, sessions and ports, warm-up, and one cycle of the aon clock. -/

namespace Sys2Proof.Machine

variable {s : State}

/-! ### Identity -/

theorem State.exportReads_inv (h : s.Inv) (l : List (Factor × Fin 64 × Nat)) : (s.exportReads l).Inv := by
  induction l generalizing s with
  | nil => exact h
  | cons e r ih => exact ih h.keep

theorem State.endExport_inv (h : s.Inv) (session : Nat) (p : Fin 32) (leaf : Option Nat) : (s.endExport session p leaf).Inv := by
  unfold State.endExport
  dsimp only
  split
  · split
    · exact State.answer_inv h ..
    · exact State.answer_inv (State.exportReads_inv h _).keep.keep ..
  · exact State.answer_inv h ..
  · exact State.answer_inv h.keep ..

theorem State.signed_inv (h : s.Inv) (leaf : Nat) (g : Signing) : (s.signed leaf g).Inv := by
  cases g with
  | hs n =>
    unfold State.signed
    dsimp only
    split
    · exact h
    · exact h.keep
  | peer port partner partnerPort sig => exact .ite h.keep h
  | report n nonce parts => exact State.answer_inv h ..
  | adapter n p => exact State.endExport_inv h ..

theorem State.unsigned_inv (h : s.Inv) (g : Signing) : (s.unsigned g).Inv := by
  cases g with
  | hs n =>
    unfold State.unsigned
    dsimp only
    split
    · exact h
    · exact h.keep
  | peer port partner partnerPort sig => exact h
  | report n nonce parts => exact State.answer_inv h ..
  | adapter n p => exact State.endExport_inv h n p none

theorem State.serveSignings_inv (h : s.Inv) (l : List Signing) : (s.serveSignings l).Inv := by
  induction l generalizing s with
  | nil => exact h.keep
  | cons g r ih => exact .ite (ih (State.unsigned_inv h g)) (.ite (ih (State.signed_inv h.keep ..)) h.keep)

theorem State.resumeSignings_inv (h : s.Inv) : s.resumeSignings.Inv := State.serveSignings_inv h _

theorem State.askSign_inv (h : s.Inv) (g : Signing) : (s.askSign g).Inv := State.serveSignings_inv h _

/-! ### Registers -/

theorem State.writeSite_inv (h : s.Inv) (i : Fin 64) (o : Nat) (v : Word) (sup : Bool) : (s.writeSite i o v sup).Inv := by
  have hk {c : Prop} [Decidable c] {r : SMap Word} : (if c then { s with roots := r } else s).Inv := .ite h.keep h
  unfold State.writeSite
  split
  · exact h.keep
  · exact h.keep
  · exact h.keep
  · exact hk
  · exact hk
  · exact h.keep
  · exact h.keep
  · exact h

theorem State.writeVat_inv (h : s.Inv) (i : Fin 64) (o : Nat) (v : Word) : (s.writeVat i o v).Inv := by
  unfold State.writeVat
  split
  · exact h.keep
  · exact h.keep
  · exact h.keep
  · exact h

theorem State.writeSz_inv (h : s.Inv) (i : Fin 64) (o : Nat) (v : Word) : (s.writeSz i o v).Inv := by
  unfold State.writeSz
  split
  · exact h.keep
  · exact h.keep
  · exact h

theorem State.writeNet_inv (h : s.Inv) (i : Fin 64) (o : Nat) (v : Word) : (s.writeNet i o v).Inv := by
  unfold State.writeNet
  split
  · exact h.keep
  · exact h.keep
  · exact h

theorem State.writeSem_inv (h : s.Inv) (i : Fin 64) (o : Nat) (v : Word) : (s.writeSem i o v).Inv := by
  unfold State.writeSem
  split
  · exact h.keep
  · exact h.keep
  · exact h

theorem State.warmKey_inv (h : s.Inv) (v : Word) : (s.warmKey v).Inv := .ite h.keep h

theorem State.writeSup_inv (h : s.Inv) (o : Nat) (v : Word) (sup : Bool) : (s.writeSup o v sup).Inv := by
  unfold State.writeSup
  split
  · exact h.keep
  · exact .ite h (State.warmKey_inv h v)
  · exact h

theorem State.writeBbx_inv (h : s.Inv) (o : Nat) (v : Word) : (s.writeBbx o v).Inv := by
  unfold State.writeBbx
  split
  · exact .ite h.keep h
  · exact h.keep
  · exact h.keep
  · exact h

theorem State.writePwr_inv (h : s.Inv) (o : Nat) (v : Word) : (s.writePwr o v).Inv := by
  unfold State.writePwr
  split
  · exact h.keep
  · exact h.keep
  · exact h

theorem State.writeThm_inv (h : s.Inv) (o : Nat) (v : Word) : (s.writeThm o v).Inv := by
  unfold State.writeThm
  split
  · exact h.keep
  · exact h

theorem State.writeReg_inv (h : s.Inv) (a : RegAddr) (v : Word) (sup : Bool) : (s.writeReg a v sup).Inv := by
  unfold State.writeReg
  split
  · exact State.writeSite_inv h ..
  · exact State.writeVat_inv h ..
  · exact State.writeSz_inv h ..
  · exact State.writeNet_inv h ..
  · exact State.writeSem_inv h ..
  · exact .ite h.keep h
  · exact State.writeSup_inv h ..
  · exact State.writeBbx_inv h ..
  · exact State.writePwr_inv h ..
  · exact State.writeThm_inv h ..
  all_goals exact h

theorem State.afterRead_inv (h : s.Inv) (a : RegAddr) : (s.afterRead a).Inv := by
  unfold State.afterRead
  split
  · split
    · exact h.keep
    · exact h
  · exact .ite h.keep h
  · exact h

/-! ### Ports and sessions -/

theorem State.hsInit_inv (h : s.Inv) (port : Fin 4) (node : Nat) : (s.hsInit port node).Inv := .ite h.keep (State.askSign_inv h.keep _)

theorem State.hsFin_inv (h : s.Inv) (n : Nat) (x : Hs) (sig : SigCheck) : (s.hsFin n x sig).Inv := by
  unfold State.hsFin
  dsimp only
  split
  · refine .ite ?_ h.keep
    exact .keep (h.withSessions (h.fresh.set n rfl))
  · exact h.keep

theorem State.loseSession_inv (h : s.Inv) (n : Nat) {y : Session} (hy : y.ticketUsed = false) : (s.loseSession n y).Inv :=
  h.withSessions (h.fresh.set n (hy :))

theorem State.losePort_inv (h : s.Inv) (port : Fin 4) {l : List (Nat × Session)} (hl : ∀ e ∈ l, e.2.ticketUsed = false) :
    (s.losePort port l).Inv := by
  induction l generalizing s with
  | nil => exact h
  | cons e r ih =>
    exact ih (.ite (State.loseSession_inv h e.1 (hl e (List.mem_cons_self ..))) h) fun a ha => hl a (List.mem_cons_of_mem _ ha)

theorem State.portDown_inv (h : s.Inv) (port : Fin 4) : (s.portDown port).Inv := State.losePort_inv h.keep port h.tickets

/-- The session that takes over gets a new ticket (R554, R556). -/
theorem State.resume_inv (h : s.Inv) (new old : Nat) (y : Session) : (s.resume new old y).Inv := by
  have hm {v : Serv} (hv : v.sessions = SMap.del s.sessions old) : FreshTickets v.sessions := hv ▸ h.fresh.del old
  unfold State.resume
  dsimp only
  split
  · exact h
  · exact h.withSessions (.set (.push (.pushAll (hm rfl) _) ..) new rfl)

theorem State.endSession_inv (h : s.Inv) (n : Nat) : (s.endSession n).Inv :=
  State.startReturns_inv (State.refreshAll_inv (h.withSessions (.del (FreshTickets.endSlots (x := s.serv) h.fresh ..) n)) _) _

theorem State.console_inv (h : s.Inv) (c : UartCmd) : (s.console c).Inv := by
  cases c with
  | status => exact h.keep
  | warm c => exact .ite h.keep h
  | firmware c g => exact .ite (State.askImage_inv h ..) h
  | furnish c g => exact .ite (State.askImage_inv h ..) h

theorem State.endKeys_inv (h : s.Inv) (code detail : BitVec 8) (ks : List Nat) : (s.endKeys code detail ks).Inv :=
  State.startReturns_inv (State.refreshAll_inv (h.withSessions (FreshTickets.endSlots (x := s.serv) h.fresh ..)) _) _

theorem State.peerLost_inv (h : s.Inv) (n : Fin 8) (st : BitVec 2) : (s.peerLost n st).Inv :=
  State.failReads_inv (State.endKeys_inv h.keep ..) _

theorem State.peerVerdict_inv (h : s.Inv) (port : Fin 8) (p : Fin 32) (v : Option PeerVerdict) : (s.peerVerdict port p v).Inv := by
  unfold State.peerVerdict
  split
  · exact h
  · dsimp only
    split
    · exact h.keep
    · exact State.endKeys_inv h.keep ..

theorem State.stoFails_inv (h : s.Inv) (n : Fin 4) (ps : List (Fin 32)) : (s.stoFails n ps).Inv := State.failReads_inv h.keep ps

theorem State.driveGone_inv (h : s.Inv) (n : Fin 4) : (s.driveGone n).Inv := State.stoFails_inv h.keep ..

theorem State.peerReset_inv (h : s.Inv) (n : Fin 8) : (s.peerReset n).Inv := .ite (State.peerLost_inv h ..) h.keep

theorem State.ringReset_inv (h : s.Inv) (d : Nat) : (s.ringReset d).Inv :=
  .ite (State.portDown_inv (State.portDown_inv h _) _)
    (.ite (State.peerReset_inv (State.peerReset_inv h _) _) (State.stoFails_inv (State.stoFails_inv h ..) ..))

/-! ### Warm-up and time -/

theorem State.warmTurn_inv (h : s.Inv) (site : Fin 64) (b : Fin 4) (k : Nat) : (s.warmTurn site b k).Inv := .ite h h.keep

theorem State.warmEnd_inv (h : s.Inv) (site : Fin 64) : (s.warmEnd site).Inv := .ite h h.keep

theorem State.tick_inv (h : s.Inv) : s.tick.Inv :=
  State.settleStart_inv (.foldl (fun _ _ h => State.onTile_inv h ..) _ (.foldl (fun _ _ h => State.onTile_inv h ..) _ h.keep))

end Sys2Proof.Machine
end

section
/-! O59: every command and the aon clock keep the memories canonical and the tickets unused, each by the lemmas above. -/

namespace Sys2Proof.Machine

variable {s : State}

/-- The state that a command answers keeps the invariant. -/
structure OutInv (o : Out) : Prop where
  of_next : ∀ u, o = .next u → u.Inv

theorem OutInv.next (h : s.Inv) : OutInv (.next s) := ⟨fun u hu => by cases hu; exact h⟩

/-! ### The units of a tile -/

theorem execStageRetire_inv (h : s.Inv) (t : PTile) : OutInv (execStageRetire t s) := by
  refine .next ?_
  split
  · exact .ite h.keep h
  · exact h

theorem execFenceRetire_inv (h : s.Inv) (t : PTile) : OutInv (execFenceRetire t s) := by
  refine .next ?_
  split
  · exact State.onTile_inv h ..
  · exact h

theorem execQwaitComplete_inv (h : s.Inv) (t : PTile) (k : Queue) : OutInv (execQwaitComplete t k s) := by
  refine .next ?_
  split
  · exact State.onTile_inv h ..
  · exact h

theorem execVectorCommandComplete_inv (h : s.Inv) (t : PTile) : OutInv (execVectorCommandComplete t s) := by
  refine .next ?_
  split
  · exact h
  · exact State.onTile_inv h ..

theorem execWeightLoadComplete_inv (h : s.Inv) (t : PTile) : OutInv (execWeightLoadComplete t s) := by
  refine .next ?_
  split
  · exact h
  · exact .ite (State.onTile_inv h ..) h

theorem execPassComplete_inv (h : s.Inv) (t : PTile) : OutInv (execPassComplete t s) := by
  refine .next ?_
  split
  · exact h
  · exact .ite (State.onTile_inv h ..) h

theorem execLevalComplete_inv (h : s.Inv) (t : PTile) (lane : Fin 2) (n : Nat) : OutInv (execLevalComplete t lane n s) := by
  refine .next ?_
  split
  · exact h
  · exact .ite (State.onTile_inv h ..).keep h

theorem execProductVerdict_inv (h : s.Inv) (t : PTile) (lane : Fin 2) : OutInv (execProductVerdict t lane s) := by
  refine .next ?_
  split
  · exact h
  · exact .ite (State.onTile_inv h ..).keep h

theorem execLoadDriveEnd_inv (h : s.Inv) (t : PTile) (lane : Fin 2) : OutInv (execLoadDriveEnd t lane s) := by
  refine .next ?_
  split
  · exact h
  · exact .ite (State.onTile_inv h.keep ..) h

theorem execSubstituteStart_inv (h : s.Inv) (t : PTile) (lane : Fin 2) : OutInv (execSubstituteStart t lane s) := by
  refine .next ?_
  split
  · exact h
  · exact .ite (.ite (State.onTile_inv h ..) (State.onTile_inv h ..).keep) h

theorem execSubstituteComplete_inv (h : s.Inv) (t : PTile) (lane : Fin 2) : OutInv (execSubstituteComplete t lane s) := by
  refine .next ?_
  split
  · exact h
  · exact .ite (State.onTile_inv h.keep ..) h

/-! ### Sizing -/

theorem execCheckVectorVerdict_inv (h : s.Inv) (t : PTile) (lane : Fin 2) : OutInv (execCheckVectorVerdict t lane s) := by
  refine .next ?_
  split
  · exact h
  · exact .ite (State.onTile_inv h ..).keep.keep h

theorem execSizingPassResult_inv (h : s.Inv) (t : PTile) (lane : Fin 2) (bin : Fin 4) : OutInv (execSizingPassResult t lane bin s) := by
  refine .next ?_
  split
  · exact .ite h.keep h
  · exact h

theorem execSizingPassDiscard_inv (h : s.Inv) (t : PTile) (lane : Fin 2) (bin : Fin 4) : OutInv (execSizingPassDiscard t lane bin s) := by
  refine .next ?_
  split
  · exact .ite h.keep h
  · exact h

/-! ### Copies -/

theorem execRemoteScrAccess_inv (h : s.Inv) (t dst : PTile) : OutInv (execRemoteScrAccess t dst s) := by
  refine .next ?_
  split
  · exact h
  · dsimp only
    refine .ite ?_ h
    split
    · exact .ite (State.onTile_inv h ..) (.ite h.keep (State.onTile_inv h.keep ..).keep)
    · exact State.onTile_inv h ..
    · exact (State.onTile_inv h ..).keep
    · exact State.onTile_inv h ..

theorem execLoftAccess_inv (h : s.Inv) (site : Fin 64) (t : PTile) : OutInv (execLoftAccess site t s) := by
  refine .next ?_
  split
  · exact h
  · split
    · exact h
    · refine .ite (.ite (.ite h h.keep) (.ite ?_ (State.onTile_inv h ..).keep)) h
      split
      · have ho {ok : Bool} {q : QCmd} {f : Ctx → Fx → Fx} := State.onTile_inv (s := s.answered t (s.tile t) q) h.keep t ok f
        exact ho.keep.withLoft (SMap.wf_setList ho.loft ..)
      · exact State.onTile_inv h ..

theorem execLoftReadDone_inv (h : s.Inv) (site : Fin 64) (t : PTile) : OutInv (execLoftReadDone site t s) := by
  refine .next ?_
  split
  · exact h
  · split
    · exact h
    · refine .ite ?_ h
      dsimp only
      split
      · exact (State.onTile_inv h.keep ..).keep.keep
      · exact State.onTile_inv h ..

theorem execDcopyComplete_inv (h : s.Inv) (t : PTile) : OutInv (execDcopyComplete t s) := by
  refine .next ?_
  split
  · exact h
  · exact .ite (State.onTile_inv h.keep ..) (.ite (State.onTile_inv h ..) (.ite (State.onTile_inv (.ite h h.keep) ..) h))

theorem execTlbMissWalkDone_inv (h : s.Inv) (t : PTile) : OutInv (execTlbMissWalkDone t s) := by
  refine .next ?_
  split
  · exact .ite (State.onTile_inv (State.entryErrs_inv h ..) ..) h
  · exact h

theorem execConfigWrite_inv (h : s.Inv) (t : PTile) (w : CfgWrite) : OutInv (execConfigWrite t w s) := by
  refine .next (.ite ?_ h)
  split
  · next off bs =>
    have hs := State.configScratch_inv h t off bs.length
    split
    all_goals
      next e =>
      rw [e] at hs
      exact hs.keep
  · exact h.keep

theorem execEditApply_inv (h : s.Inv) (p : Fin 32) (handle : BitVec 16) : OutInv (execEditApply p handle s) := by
  unfold execEditApply
  extract_lets r x
  have hr : r.Inv := by
    dsimp only [r]
    split
    · exact h
    · exact h.foldl (fun _ _ h => State.entryErrs_inv h ..) _
  refine .next ?_
  split
  · exact h
  · exact .ite (hr.withLoft (applyEdits_wf _ hr.loft _)) h

theorem execFrameRelease_inv (h : s.Inv) (p : Fin 32) (handle : BitVec 16) : OutInv (execFrameRelease p handle s) := by
  refine .next ?_
  split
  · exact h
  · exact .ite h.keep h

/-! ### Semaphores and the network -/

theorem execSemAckArrival_inv (h : s.Inv) (t : PTile) (site : Fin 64) (ack : BitVec 64) : OutInv (execSemAckArrival t site ack s) := by
  refine .next ?_
  split
  · exact h
  · exact .ite (State.onTile_inv h ..).keep h

theorem execSemAckTimeout_inv (h : s.Inv) (t : PTile) : OutInv (execSemAckTimeout t s) := by
  refine .next ?_
  split
  · exact h
  · exact State.onTile_inv h ..

theorem execFlitHop_inv (h : s.Inv) (r : PTile) (port : Fin 10) (vc : Vc) (ok : Bool) : OutInv (execFlitHop r port vc ok s) := by
  refine .next ?_
  split
  · exact h
  · exact .ite h (.ite h.keep (.ite h.keep h.keep))

theorem execPressInput_inv (h : s.Inv) (r : PTile) (port : Fin 10) (checks : PressChecks) : OutInv (execPressInput r port checks s) := by
  refine .next ?_
  split
  · exact h
  · split
    · exact h
    · refine .ite h ?_
      dsimp only
      split
      · exact h.keep
      · exact h
      · exact (State.onTile_inv h ..).keep
      · exact (State.onTile_inv h ..).keep
      · exact .ite (State.holdDelivery_inv h ..) (State.onTile_inv (State.onTile_inv h ..) ..).keep

theorem execMulticastFlit_inv (h : s.Inv) (r : PTile) (port : Fin 10) : OutInv (execMulticastFlit r port s) := by
  refine .next ?_
  split
  · exact h
  · split
    · exact h
    · exact .ite h (.ite h.keep (.ite (State.holdDelivery_inv h ..) (State.onTile_inv h ..).keep))

theorem execTreeInjectionComplete_inv (h : s.Inv) (t : PTile) : OutInv (execTreeInjectionComplete t s) := by
  refine .next ?_
  split
  · exact h
  · exact .ite (State.onTile_inv h ..) h

theorem execAuditMarker_inv (h : s.Inv) (r : PTile) (port : Fin 10) (vc : Vc) : OutInv (execAuditMarker r port vc s) := by
  refine .next ?_
  split
  · exact h
  · exact .ite h.keep (State.auditFail_inv h.keep ..)

theorem execAuditEcho_inv (h : s.Inv) (r : PTile) (port : Fin 10) (vc : Vc) : OutInv (execAuditEcho r port vc s) := by
  refine .next ?_
  split
  · exact h
  · exact .ite (.ite h.keep (State.auditFail_inv h.keep ..)) h

/-! ### Programs, models, adapters -/

theorem execProgramChangeDone_inv (h : s.Inv) (p : Fin 32) (ok : Bool) (rows : List (PTile × Nat)) :
    OutInv (execProgramChangeDone p ok rows s) := by
  refine .next ?_
  split
  · exact h
  · dsimp only
    split
    · exact h.keep
    · exact .ite (State.install_inv h ..) h.keep

theorem execModelLoad_inv (h : s.Inv) (session : Nat) (p : Fin 32) (model : BitVec 16) : OutInv (execModelLoad session p model s) := by
  refine .next (State.mgmt_inv h _ _ fun u hu => ?_)
  split
  · exact State.noSwap_inv hu ..
  · exact State.trigger_inv hu ..

theorem execManifestFetched_inv (h : s.Inv) (p : Fin 32) (m : Manifest) : OutInv (execManifestFetched p m s) := by
  refine .next ?_
  split
  · refine .ite h ?_
    split
    · exact State.failLoad_inv h ..
    · refine .ite (State.failLoad_inv h ..) (.ite (State.failLoad_inv h ..) ?_)
      split
      · exact State.failLoad_inv h ..
      · exact h.keep
  · exact h

theorem execShardReadComplete_inv (h : s.Inv) (p : Fin 32) (read : ShardRead) (desc : Option Descriptor) :
    OutInv (execShardReadComplete p read desc s) := by
  refine .next (.ite h (.ite (State.readFails_inv h.keep.keep p) (.ite ?_ (State.gotShard_inv h.keep.keep p))))
  exact State.checkLoad_inv (State.keepDesc_inv (State.gotShard_inv h.keep.keep.keep p) p) p

theorem execWeightLoadWrite_inv (h : s.Inv) (t : PTile) (vat row : Nat) (codes : List Byte) (differs badCols : List Nat) :
    OutInv (execWeightLoadWrite t vat row codes differs badCols s) := by
  have hg : (allParts.foldl (fun s p => (s.gapWork p).condemn p) s).Inv :=
    h.foldl (fun _ p h => State.condemn_inv (State.gapWork_inv h p) p) _
  refine .next (.ite h (.ite hg.keep ?_))
  split
  · exact h
  · refine .ite h (.ite h (.ite (.ite hg.keep (State.failLoad_inv hg.keep ..)) (.ite (.ite h (State.failLoad_inv hg ..)) ?_)))
    exact .ite (.ite (State.moveBad_inv hg.keep _) (State.replaceVat_inv hg.keep ..))
      (.ite (State.fillRows_inv hg ..) (State.writeRows_inv hg ..))

theorem execLoadCommit_inv (h : s.Inv) (p : Fin 32) : OutInv (execLoadCommit p s) := by
  refine .next ?_
  split
  · refine .ite (State.settleStart_inv (State.answerAll_inv (State.committed_inv h ..).keep ..)) (.ite ?_ h)
    split
    · exact h
    · exact State.settleStart_inv (State.restore_inv (State.joined_inv (State.committed_inv h ..) ..) ..)
  · exact h

theorem execProgramPackageLoad_inv (h : s.Inv) (session : Nat) (p : Fin 32) (narrow : Program) (ex : Option Program) (read : List Nat) :
    OutInv (execProgramPackageLoad session p narrow ex read s) := by
  refine .next (State.mgmt_inv h _ _ fun u hu => ?_)
  split
  · exact State.answer_inv hu.keep.keep ..
  · exact hu.keep

theorem execProgramInstall_inv (h : s.Inv) (p : Fin 32) (rows : List (PTile × Nat)) : OutInv (execProgramInstall p rows s) := by
  refine .next ?_
  split
  · refine .ite h ?_
    dsimp only
    split
    · exact State.answer_inv h.keep ..
    · exact .ite (State.install_inv h.keep ..) (State.answer_inv h.keep ..)
  · exact h

theorem execAdapterInstall_inv (h : s.Inv) (session : Nat) (p : Fin 32) (m : Manifest) (d : AdapterDesc) :
    OutInv (execAdapterInstall session p m d s) := by
  refine .next (State.mgmt_inv h _ _ fun u hu => ?_)
  split
  · exact State.answer_inv hu.keep ..
  · exact State.installAdapter_inv hu ..

theorem execTuningJob_inv (h : s.Inv) (session : Nat) (p : Fin 32) (model id : BitVec 16) (rank : Nat) (seed : BitVec 64) (steps : Nat)
    (start : Option Nat) (source : TrainSource) : OutInv (execTuningJob session p model id rank seed steps start source s) := by
  refine .next (State.mgmt_inv h _ _ fun u hu => ?_)
  split
  · split
    · exact .ite (State.answer_inv (State.readyJob_inv hu.keep p) ..) (State.answer_inv hu ..)
    · exact State.answer_inv hu ..
  · exact State.answer_inv hu ..

/-! ### Serving -/

theorem execCancel_inv (h : s.Inv) (session : Nat) (id : BitVec 64) : OutInv (execCancel session id s) := by
  refine .next (State.onMsg_inv h _ fun x u hu => .ite ?_ (State.cancelOne_inv hu ..))
  split
  next => exact hu
  next z hz => exact hu.withSessions (hu.fresh.set session (hu.session hz :))

theorem execPortTokenFrame_inv (h : s.Inv) (p : Fin 32) (slot : Fin 128) : OutInv (execPortTokenFrame p slot s) := by
  refine .next ?_
  split
  · exact h
  · exact .ite (State.sendTokens_inv h ..) (State.tokenFault_inv h ..)

theorem execFaultNotice_inv (h : s.Inv) (p : Fin 32) (n : Notice) : OutInv (execFaultNotice p n s) :=
  .next (.ite (State.judgeAll_inv (State.warned_inv h.keep n) ..) h)

theorem execCouchRelease_inv (h : s.Inv) (p : Fin 32) (outs : List SlotLogits) : OutInv (execCouchRelease p outs s) := by
  have hr : ((s.releaseAll p outs (s.inFlight p)).finishStep p).Inv := (State.releaseAll_inv h p outs (s.inFlight p)).keep
  have hg := State.condemn_inv (State.gapWork_inv (State.rebin_inv hr p) p) p
  exact .next (.ite (State.writeTables_inv (State.readyJob_inv (State.tune_inv hg p) p) p) h)

/-! ### Faults, start-up, power -/

theorem execCheckerSelfTest_inv (h : s.Inv) (t : PTile) (found : SelfTest) : OutInv (execCheckerSelfTest t found s) := by
  have hf := State.selfTestFails_inv h t found.fails
  exact .next (.ite (.ite (State.failTile_inv (.ite hf.keep hf) t) hf) h)

theorem execPageSlotAudit_inv (h : s.Inv) (p : Fin 32) : OutInv (execPageSlotAudit p s) := by
  have hp : (match s.pageFault p with | none => s | some e => s.auditBad p evtAuditPages 3 e.1 e.2).Inv := by
    split
    · exact h
    · exact State.auditBad_inv h ..
  refine .next (.ite ?_ h)
  dsimp only
  split
  · exact hp
  · exact State.auditBad_inv hp ..

theorem execBbxCopyForward_inv (h : s.Inv) (site : Fin 64) : OutInv (execBbxCopyForward site s) := by
  refine .next ?_
  split
  · exact h
  · exact .ite h.keep h

theorem execSiteSupplyRecovered_inv (h : s.Inv) (o : SiteObs) : OutInv (execSiteSupplyRecovered o s) :=
  .next (.ite h (State.devDone_inv (State.siteTests_inv h.keep o)))

theorem execInput48vRestored_inv (h : s.Inv) (obs : List SiteObs) : OutInv (execInput48vRestored obs s) :=
  .next (.ite h (State.devDone_inv (.foldl (fun _ o h => State.siteTests_inv h o) _ h.keep)))

/-! ### Sessions and ports -/

theorem execTelemetry_inv (h : s.Inv) (session : Nat) (interval : Option Nat) : OutInv (execTelemetry session interval s) := by
  refine .next ?_
  split
  next => exact h
  next =>
    refine State.onMsg_inv h _ fun x u hu => ?_
    split
    next => exact hu
    next x hx => exact .ite hu (hu.withSessions (hu.fresh.set session (hu.session hx :)))
  next x hx =>
    refine .ite h (State.answer_inv ?_ ..)
    exact h.withSessions (h.fresh.set session (h.session hx :))

theorem execDroppedFrame_inv (h : s.Inv) (port : Fin 4) (bytes : List Byte) (tagOk : Bool) : OutInv (execDroppedFrame port bytes tagOk s) := by
  refine .next (.ite h (.ite h.keep ?_))
  split
  next => exact h
  next y hy =>
    have hs := (Option.filter_eq_some_iff.1 hy).1
    exact .ite h (h.withSessions (h.fresh.set _ (h.session hs :)))

theorem execHsFin_inv (h : s.Inv) (hs : Nat) (sig : SigCheck) : OutInv (execHsFin hs sig s) := by
  refine .next ?_
  split
  · exact h
  · exact .ite (State.hsFin_inv h ..) h

theorem execHandshakeTimeout_inv (h : s.Inv) (hs : Nat) : OutInv (execHandshakeTimeout hs s) := by
  refine .next ?_
  split
  · exact h
  · exact .ite h.keep h

theorem execKeyUpdate_inv (h : s.Inv) (session : Nat) : OutInv (execKeyUpdate session s) := by
  refine .next (State.onMsg_inv h _ fun x u hu => ?_)
  split
  next => exact hu
  next y hy => exact hu.withSessions (hu.fresh.set session (hu.session hy :))

theorem execAck_inv (h : s.Inv) (session : Nat) (a : AckInfo) : OutInv (execAck session a s) := by
  refine .next (State.onMsg_inv h _ fun x u hu => ?_)
  split
  next => exact hu
  next y hy =>
    have hz : ((y.acks u.now a).fill u.now).ticketUsed = false := by simpa using hu.session hy
    exact .ite hu (hu.withSessions (hu.fresh.set session hz))

theorem execRetransmitTimeout_inv (h : s.Inv) (session : Nat) : OutInv (execRetransmitTimeout session s) := by
  refine .next ?_
  split
  next => exact h
  next y hy => exact .ite h (h.withSessions (h.fresh.set session (h.session hy :)))

theorem execSessionLoss_inv (h : s.Inv) (session : Nat) : OutInv (execSessionLoss session s) := by
  refine .next ?_
  split
  next => exact h
  next y hy => exact .ite (State.loseSession_inv h session (h.session hy)) h

theorem execResume_inv (h : s.Inv) (session ticket : Nat) : OutInv (execResume session ticket s) := by
  refine .next (State.onMsg_inv h _ fun x u hu => ?_)
  split
  · exact .ite hu (State.resume_inv hu ..)
  · exact State.answer_inv hu ..

theorem execGraceEnd_inv (h : s.Inv) (session : Nat) : OutInv (execGraceEnd session s) := by
  refine .next ?_
  split
  · exact h
  · split
    · exact h
    · exact .ite (State.endSession_inv h session) h

theorem execPeerFrame_inv (h : s.Inv) (port : Fin 8) (f : PeerFrame) : OutInv (execPeerFrame port f s) :=
  .next (.ite h (.ite h.keep (.ite (.ite h.keep (State.peerVerdict_inv h.keep ..)) (.ite (State.peerLost_inv h.keep ..) h.keep))))

theorem execPeerShardRequest_inv (h : s.Inv) (port : Fin 8) (pubkey pkgid shard : Nat) :
    OutInv (execPeerShardRequest port pubkey pkgid shard s) := by
  refine .next (.ite h ?_)
  split
  · exact h.keep
  · exact h.keep

theorem execNvmeReadComplete_inv (h : s.Inv) (port : Fin 4) (error : Bool) : OutInv (execNvmeReadComplete port error s) :=
  .next (.ite h (.ite (State.failReads_inv h.keep _) (.foldl (fun _ _ h => h.keep) _ h.keep)))

/-! ### Every command, every step -/

theorem exec_inv (h : s.Inv) (i : Instr) : OutInv (exec i s) := by
  cases i with
  | aluAdd | aluSub | aluAnd | aluOr | aluXor | aluSll | aluSrl | aluSra | aluSlt | aluSltu | aluMul | aluMulhu | aluMin | aluMax | aluMinu
    | aluMaxu | addi | andi | ori | xori | slti | sltiu | lw | sw | beq | bne | blt | bge | bltu | bgeu | jal | jalr | csrr | nop | stage |
    send | stepend | fence | bank | bankStateChangeDone | qwait | wld | wldv | wsp | osp | abftVerdict | vadd | vsub | vmul | vfma | vmin |
    vmax | vand | vor | vxor | vshl | vshr | vclt | vceq | vsel | vcvt | venc | vexp | vrcp | vrsq | vred | vscan | vamax | vtopk | vdraw |
    vsmax | vdrain | vld | vst | vsrch | vrot | vbcst | leval | ldrive | dcopy | dpress | dmcast | sadd | ssub | swait | sread | stageOverrun =>
    exact .next (State.onTile_inv h ..)
  | shi | lui => exact .next (.ite (State.onTile_inv h ..) (State.onTile_inv h ..))
  | stageRetire => exact execStageRetire_inv h ..
  | sendRetire | stependRetire | dmaWaitLimit | transferArrival | sizingSlot | closingCheckVector =>
    exact .next (.ite (State.onTile_inv h ..).keep h)
  | fenceRetire => exact execFenceRetire_inv h ..
  | qwaitComplete => exact execQwaitComplete_inv h ..
  | weightLoadComplete => exact execWeightLoadComplete_inv h ..
  | passComplete => exact execPassComplete_inv h ..
  | vectorCommandComplete => exact execVectorCommandComplete_inv h ..
  | levalComplete => exact execLevalComplete_inv h ..
  | productVerdict => exact execProductVerdict_inv h ..
  | loadDriveEnd => exact execLoadDriveEnd_inv h ..
  | substituteStart => exact execSubstituteStart_inv h ..
  | substituteComplete => exact execSubstituteComplete_inv h ..
  | dcopyComplete => exact execDcopyComplete_inv h ..
  | tlbMissWalkDone => exact execTlbMissWalkDone_inv h ..
  | treeInjectionComplete => exact execTreeInjectionComplete_inv h ..
  | remoteScrAccess => exact execRemoteScrAccess_inv h ..
  | semAckArrival => exact execSemAckArrival_inv h ..
  | semAckTimeout => exact execSemAckTimeout_inv h ..
  | semOpAdd | semOpSub | semOpWaitGe | semOpRead => exact .next (.ite (State.semOp_inv h ..) h)
  | semDeferredPerform => exact .next (State.performDeferred_inv h _)
  | semAudit => exact .next (.ite (State.sweepSems_inv h _) h)
  | flitHop => exact execFlitHop_inv h ..
  | pressInput => exact execPressInput_inv h ..
  | multicastFlit => exact execMulticastFlit_inv h ..
  | creditReturn | configWriteResend | bbxSnap | tileCounterRead | resetNLow | smbusBlockRead | siteNumClearFallback | siteNumClearSat |
    siteNumClearFmtfault | siteChkClearAccecc | siteChkClearVparity | siteChkClearResidue | siteChkClearAbft | vatCntClearWretry |
    vatCntClearOvr | vatCntClearZero | vatCntClearWide | vatCntClearSplit | vatCntClearCheck | szCntClearAccfail | szCntClearDiscard |
    szCntClearChkvec | siteScrClearDmawait | siteScrClearCe | loftClearUe | loftClearCe | netCntClearAudit | netCntClearPressovf |
    netCntClearFence | netCntClearE2e | netCntClearHcrc | semCntClearAudit | semCntClearError | semCntClearFence | siteKvClearVerfault |
    siteKvClearHold | pwrCapWrite | plkPortLossesRead =>
    exact .next h.keep
  | creditAuditStart => exact .next (State.startAudit_inv h _)
  | auditMarker => exact execAuditMarker_inv h ..
  | auditEcho => exact execAuditEcho_inv h ..
  | loftRefreshSlot | tlbInvalidation | acceptanceReport | binDue | binBarred | dueBarMessage | configWriteAck | stageWatchdog |
    bbxRecordArrival | siteCounterRefresh | governorWindow | overcap | throttleClear | beacon =>
    exact .next (.ite h.keep h)
  | loftAccess => exact execLoftAccess_inv h ..
  | loftReadDone => exact execLoftReadDone_inv h ..
  | configWrite => exact execConfigWrite_inv h ..
  | pageTableEdit => exact .next (State.pageEdit_inv h _)
  | editNotice => exact .next (.ite (.ite h.keep h.keep) h)
  | editApply => exact execEditApply_inv h ..
  | frameRelease => exact execFrameRelease_inv h ..
  | weightLoadWrite t vat row codes differs cols => exact execWeightLoadWrite_inv h t vat row codes differs cols
  | checkVectorVerdict => exact execCheckVectorVerdict_inv h ..
  | sizingPassResult => exact execSizingPassResult_inv h ..
  | sizingPassDiscard => exact execSizingPassDiscard_inv h ..
  | warmUp => exact .next (.ite (.ite (State.warmTurn_inv h ..).keep (State.warmEnd_inv (State.warmTurn_inv h ..).keep _)) h)
  | warmUpTimeout => exact .next (.ite (State.failTile_inv h.keep _) h)
  | vatAcceptanceTest => exact .next (.ite h (.ite (State.acceptResult_inv h ..) (.ite (State.acceptResult_inv h.keep ..) h)))
  | submit => exact .next (State.onMsg_inv h _ fun _ _ hu => State.decided_inv hu ..)
  | programChangeDone => exact execProgramChangeDone_inv h ..
  | cancel => exact execCancel_inv h ..
  | stependReport => exact .next (.ite (State.takeReport_inv h ..) h)
  | couchRelease => exact execCouchRelease_inv h ..
  | stepGateAdd => exact .next (.ite (State.beginInWindow_inv (State.gateAdd_inv (State.fly_inv h ..) _) _) h)
  | faultNotice => exact execFaultNotice_inv h ..
  | stageReplay => exact .next (.ite (State.replay_inv h _) h)
  | deadlineExpiry => exact .next (.ite (State.startReturn_inv (State.refreshTables_inv (State.expire_inv h ..) _) _) h)
  | slotFree => exact .next (.ite (State.refreshTables_inv h.keep _) h)
  | portTokenFrame => exact execPortTokenFrame_inv h ..
  | modelLoad => exact execModelLoad_inv h ..
  | manifestFetched => exact execManifestFetched_inv h ..
  | shardReadComplete => exact execShardReadComplete_inv h ..
  | shardReadTimeout => exact .next (.ite h (.ite (State.sourceFails_inv h _) h))
  | loadCommit => exact execLoadCommit_inv h ..
  | programPackageLoad => exact execProgramPackageLoad_inv h ..
  | programInstall => exact execProgramInstall_inv h ..
  | adapterInstall => exact execAdapterInstall_inv h ..
  | adapterCommit => exact .next (.ite (State.writeArea_inv h ..).keep h)
  | adapterRetire | doze => exact .next (State.mgmt_inv h _ _ fun _ hu => State.answer_inv hu.keep ..)
  | tuningJob => exact execTuningJob_inv h ..
  | adapterExport => exact .next (State.mgmt_inv h _ _ fun _ hu => .ite (State.askSign_inv hu _) (State.answer_inv hu ..))
  | checkerSelfTest => exact execCheckerSelfTest_inv h ..
  | supervisorFailure => exact .next (.ite (State.fatal_inv h.keep ..) (State.dark_inv h))
  | refclkMonitorFail => exact .next (State.refFail_inv h _)
  | refclkRecovered => exact .next (.ite h.keep h.keep)
  | partitionReset => exact .next (.ite (State.partReset_inv h ..) h)
  | tileReset => exact .next (.ite (.ite (State.failTile_inv h.keep _) h.keep) h)
  | pageSlotAudit => exact execPageSlotAudit_inv h ..
  | bbxCopyForward => exact execBbxCopyForward_inv h ..
  | bbxFreezeComplete => exact .next (.ite (.ite (State.switchOff_inv h.keep) h.keep) h)
  | bbxFlushComplete => exact .next (.ite (State.writeImages_inv h.keep) h)
  | por => exact .next (State.afterPor_inv s)
  | startUp => exact .next (.ite (State.startUp_inv h _) h)
  | warmReset => exact .next (.ite (State.warm_inv h _) h)
  | siteSupplyReset => exact .next (.ite (State.siteReset_inv h _) h)
  | deviceSupplyReset => exact .next (.ite (State.deviceReset_inv h) h)
  | linkReset => exact .next (.ite (.ite (State.peerReset_inv h _) h) (.ite (State.portDown_inv h _) h))
  | supplyWarningWindowOpen => exact .next (.ite h (.ite h.keep h.keep))
  | supplyWindowClose => exact .next (.ite (State.endSteps_inv h.keep _) h)
  | supplyWindowLong => exact .next (.ite (State.endStep_inv h.keep ..) h)
  | supplyResetLevel => exact .next (.ite (State.judgeAll_inv h.keep ..) h)
  | siteSupplyRecovered => exact execSiteSupplyRecovered_inv h ..
  | input48vLow => exact .next (.ite h (.ite h.keep (State.fatal_inv h.keep ..)))
  | input48vRestored => exact execInput48vRestored_inv h ..
  | vlkResetLevel => exact .next (State.ringReset_inv h _)
  | thermalSample => exact .next (.ite (State.thermal_inv h ..) h)
  | siteOffClear => exact .next (.ite h.keep.keep h)
  | wake => exact .next (State.mgmt_inv h _ _ fun _ hu => State.answer_inv (State.wake_inv hu _) ..)
  | standby => exact .next (State.mgmt_inv h _ _ fun _ hu => State.answer_inv (State.peersOff_inv hu.keep) ..)
  | siteSleepEntry => exact .next (.ite (State.peersOff_inv (.keep (.keep h))) h)
  | hsInit => exact .next (.ite (State.hsInit_inv h ..) h)
  | hsFin => exact execHsFin_inv h ..
  | handshakeTimeout => exact execHandshakeTimeout_inv h ..
  | keyUpdate => exact execKeyUpdate_inv h ..
  | ack => exact execAck_inv h ..
  | retransmitTimeout => exact execRetransmitTimeout_inv h ..
  | sessionLoss => exact execSessionLoss_inv h ..
  | resume => exact execResume_inv h ..
  | graceEnd => exact execGraceEnd_inv h ..
  | telemetry => exact execTelemetry_inv h ..
  | bbxRead => exact .next (State.onMsg_inv h _ fun _ _ hu => State.answer_inv hu ..)
  | mgmtRegisterRead => exact .next (State.mgmt_inv h _ _ fun _ hu => State.answer_inv (State.afterRead_inv hu _) ..)
  | mgmtRegisterWrite => exact .next (State.mgmt_inv h _ _ fun _ hu => State.answer_inv (State.writeReg_inv hu ..) ..)
  | flashImageWrite => exact .next (State.mgmt_inv h _ _ fun _ hu => State.askImage_inv hu ..)
  | attest => exact .next (State.onMsg_inv h _ fun _ _ hu => State.askSign_inv hu _)
  | revokeOwner | svnCommit => exact .next (State.mgmt_inv h _ _ fun _ hu => .ite (State.answer_inv hu.keep ..) (State.answer_inv hu ..))
  | lmsReservationWrite => exact .next (.ite h (.ite h.keep (State.resumeSignings_inv h.keep)))
  | lmsTreeBuild => exact .next (.ite (.ite (State.resumeSignings_inv h.keep) h) (.ite h.keep h))
  | peerLinkUp => exact .next (.ite h (State.askSign_inv h.keep _))
  | peerFrame => exact execPeerFrame_inv h ..
  | peerLoss | peerIdleTimeout => exact .next (.ite (State.peerLost_inv h ..) h)
  | peerShardRequest => exact execPeerShardRequest_inv h ..
  | nvmeReadComplete => exact execNvmeReadComplete_inv h ..
  | nvmeReadTimeout => exact .next (State.stoFails_inv h ..)
  | nvmeSurpriseRemoval | nvmeLinkDown => exact .next (State.driveGone_inv h _)
  | nvmeInsertion | portLanesUp | jtagScan => exact .next (.ite h h.keep)
  | uartConsoleCommand => exact .next (State.console_inv h _)
  | supWarmReq => exact .next (State.mgmt_inv h _ _ fun _ hu => State.answer_inv (State.warmKey_inv hu _) ..)
  | registerWrite => exact .next (State.writeReg_inv h ..)
  | tokenCountAudit => exact .next (State.tokenAudit_inv h _)
  | droppedFrame => exact execDroppedFrame_inv h ..

/-- Settles O59: the front command keeps the invariant (`exec_inv`), and so does a cycle of the aon clock (`State.tick_inv`). -/
theorem stepKeepsInv : Obligations.StepKeepsInv := by
  unfold Obligations.StepKeepsInv
  intro s u hstep h
  cases hp : s.pending with
  | nil =>
    rw [step, hp] at hstep
    exact (OutInv.next (State.tick_inv h)).of_next u hstep
  | cons c r =>
    rw [step, hp] at hstep
    exact (exec_inv (s := { s with pending := r }) h.keep c).of_next u hstep

end Sys2Proof.Machine
end

section
/-! SUPPORT. The site counters and the invalid mark of the check report while the units take commands: `Fx.pump` counts version faults and
refused accesses alone (R185, R369), and marks no result invalid. -/

namespace Sys2Proof.Machine

/-- From `f` to `g` the counter `k` is not counted and the invalid mark stays. -/
structure Fx.Quiet (k : Ctr) (f g : Fx) : Prop where
  ctr : g.ctrs.filter (fun e => e.1 = k) = f.ctrs.filter (fun e => e.1 = k)
  invalid : g.tile.rp.rep.invalid = f.tile.rp.rep.invalid

namespace Fx.Quiet

variable {k : Ctr}

theorem refl (f : Fx) : f.Quiet k f := ⟨rfl, rfl⟩

theorem trans {f g h : Fx} (a : f.Quiet k g) (b : g.Quiet k h) : f.Quiet k h := ⟨b.ctr.trans a.ctr, b.invalid.trans a.invalid⟩

theorem ite {f g h : Fx} {p : Prop} [Decidable p] (a : f.Quiet k g) (b : f.Quiet k h) : f.Quiet k (if p then g else h) := by
  split <;> assumption

section
variable {f g : Fx} (a : f.Quiet k g)
include a

/-- The tile changes outside its report. -/
theorem set {x : Tile} (h : x.rp.rep.invalid = g.tile.rp.rep.invalid) : f.Quiet k (g.set x) := ⟨a.ctr, h.trans a.invalid⟩

theorem dma (d : Dma) : f.Quiet k (g.set { g.tile with dma := d }) := ⟨a.ctr, a.invalid⟩

theorem mem (m : TileMem) : f.Quiet k (g.set { g.tile with mem := m }) := ⟨a.ctr, a.invalid⟩

theorem queue (j : Queue) (l : List QCmd) : f.Quiet k (g.set (g.tile.setQueue j l)) := a.set (by cases j <;> rfl)

theorem complete (j : Queue) (n : Nat) : f.Quiet k (g.set (g.tile.complete j n)) := a.set (by cases j <;> rfl)

theorem raise (c : Ctx) (u : Nat) (ev : BitVec 16) (d : BitVec 64) (m : Mark) (o : Bool) : f.Quiet k (g.raise c u ev d m o) :=
  ⟨a.ctr, a.invalid⟩

theorem count {j : Ctr} (h : j ≠ k) (n : Nat) : f.Quiet k (g.count j n) := by
  refine ⟨Eq.trans ?_ a.ctr, by rw [Fx.count_tile, a.invalid]⟩
  unfold Fx.count
  split
  · rfl
  · simp [List.filter_append, h]

end

theorem foldl {α : Type} {h : Fx → α → Fx} (step : ∀ (g : Fx) (e : α), g.Quiet k (h g e)) (l : List α) (f : Fx) :
    f.Quiet k (l.foldl h f) := by
  induction l generalizing f with
  | nil => exact refl f
  | cons e l ih => exact (step f e).trans (ih _)

end Fx.Quiet

section
variable {k : Ctr} (f : Fx) (c : Ctx)

theorem Fx.slip_quiet (cause unit : Nat) (pc : BitVec 16) : f.Quiet k (f.slip c cause unit pc) := by
  simp only [Fx.slip]
  exact .ite ⟨rfl, rfl⟩ ⟨rfl, rfl⟩

theorem Fx.slipCmd_quiet (j : Queue) (q : QCmd) (l : List Nat) : f.Quiet k (f.slipCmd c j q l) :=
  (Fx.Quiet.foldl (fun g n => g.slip_quiet c n (q.op.unit q.lane) q.pc) _ f).queue j _

theorem Fx.losePort_quiet (e : QCmd) : f.Quiet k (f.losePort c e) :=
  (Fx.Quiet.foldl (fun g _ => g.slip_quiet c 5 _ _) _ f).queue e.op.portQueue _

theorem Fx.losePorts_quiet (l : List QCmd) (f : Fx) : f.Quiet k (f.losePorts c l) := by
  induction l generalizing f with
  | nil => exact .refl f
  | cons e r ih => exact (f.losePort_quiet c e).trans (ih _)

theorem Fx.formatFault_quiet (h : .fmtfault ≠ k) (u : Nat) : f.Quiet k (f.formatFault c u) :=
  ((Fx.Quiet.refl f).raise c u _ _ _ _).count h 1

theorem Fx.readEcc_quiet (h : .scrCe ≠ k) (u off n : Nat) : f.Quiet k (f.readEcc c u off n) := by
  have corrected (m : TileMem) (n : Nat) : f.Quiet k ((f.set { f.tile with mem := m }).count .scrCe n) :=
    ((Fx.Quiet.refl f).mem m).count h n
  exact .ite (corrected _ _) ((corrected _ _).raise c _ _ _ _ _)

theorem Fx.askVat_quiet (j : Queue) (q : QCmd) : f.Quiet k (f.askVat c j q) := by
  unfold Fx.askVat
  exact .ite (.refl f) ⟨rfl, by cases j <;> rfl⟩

theorem Fx.vatSlip_quiet (j : Queue) (q : QCmd) (l : List Nat) : f.Quiet k (f.vatSlip c j q l) :=
  (f.askVat_quiet c j q).trans (Fx.slipCmd_quiet _ c j q l)

variable (hv : .verfault ≠ k) (hn : .netFence ≠ k)
include hv

theorem Fx.translate_quiet (q : QCmd) (e : TlbEntry) (w : Bool) : f.Quiet k (f.translate c q e w) := by
  have freed (d : Dma) : f.Quiet k (f.set { f.tile with dma := d }) := .dma (.refl f) d
  simp only [Fx.translate]
  refine .ite (.complete ((freed _).raise c _ _ _ _ _) .dq q.seq) (.ite ?_ ⟨rfl, rfl⟩)
  exact .complete (((freed _).raise c _ _ _ _ _).count hv 1) .dq q.seq

theorem Fx.dmaPart_quiet (q : QCmd) : f.Quiet k (f.dmaPart c q) := by
  have engine (d : Dma) : f.Quiet k (f.set { f.tile with dma := d }) := .dma (.refl f) d
  simp only [Fx.dmaPart]
  split
  · split
    · exact (engine _).trans (Fx.translate_quiet _ c hv q _ _)
    · exact engine _
  · exact .ite ((engine _).trans (Fx.vatSlip_quiet _ c .dq q _)) ⟨rfl, rfl⟩

include hn

theorem Fx.dcopyIssue_quiet (q : QCmd) : f.Quiet k (f.dcopyIssue c q) := by
  have issued := (Fx.Quiet.refl (k := k) f).queue .dq (updCmd q.seq (QCmd.issue f.tile.sc.cyc.toNat) f.tile.dq)
  simp only [Fx.dcopyIssue]
  exact .ite ((issued.dma _).trans (Fx.dmaPart_quiet _ c hv q)) (((issued.raise c _ _ _ _ _).count hn _).complete .dq q.seq)

theorem Fx.issueCmd_quiet (j : Queue) (q : QCmd) : f.Quiet k (f.issueCmd c j q) := by
  have same := Fx.Quiet.refl (k := k) f
  have issued (i : Queue) (g : QCmd → QCmd) := same.queue i (updCmd q.seq g (f.tile.queue i))
  have semOp : f.Quiet k (f.semIssue c q) := by
    simp only [Fx.semIssue]
    exact .ite (((issued .sq _).raise c _ _ _ _ _).complete .sq q.seq) ⟨rfl, rfl⟩
  simp only [Fx.issueCmd]
  refine .ite ⟨rfl, by cases j <;> rfl⟩ (.ite ((same.raise c _ _ _ _ _).complete j q.seq) ?_)
  split
  · simp only [Fx.levalIssue]
    exact .ite (issued .lq _) (((issued .lq _).raise c _ _ _ _ _).complete .lq q.seq)
  · exact ⟨rfl, (issued j _).invalid⟩
  · exact f.dcopyIssue_quiet c hv hn q
  iterate 4 exact semOp
  refine .ite ((same.raise c _ _ _ _ _).complete j q.seq) ?_
  split
  · exact (issued j _).dma _
  · exact issued j _

theorem Fx.tryCmd_quiet (j : Queue) (q : QCmd) : f.Quiet k (f.tryCmd c j q) := by
  have woken (m : TileMem) : f.Quiet k (f.set { f.tile with mem := m }) := .mem (.refl f) m
  simp only [Fx.tryCmd]
  refine .ite (.refl f) (.ite (.ite ((f.issueCmd_quiet c hv hn j q).trans (Fx.losePorts_quiet c _ _)) ?_) (f.slipCmd_quiet c j q _))
  exact (Fx.Quiet.ite ((woken _).trans (Fx.askVat_quiet _ c j q)) (woken _)).trans (Fx.slipCmd_quiet _ c j q _)

theorem Fx.trySq_quiet (l : List QCmd) (f : Fx) : f.Quiet k (f.trySq c l) := by
  induction l generalizing f with
  | nil => exact .refl f
  | cons q l ih =>
    simp only [Fx.trySq]
    exact .ite ((f.tryCmd_quiet c hv hn .sq q).trans (ih _)) (f.tryCmd_quiet c hv hn .sq q)

theorem Fx.pumpOnce_quiet : f.Quiet k (f.pumpOnce c) := by
  have dma : f.Quiet k (f.tryDma c) := by
    unfold Fx.tryDma
    split
    · exact .ite (f.dmaPart_quiet c hv _) (.refl f)
    · exact .refl f
  have heads (j : Queue) (l : List QCmd) (g : Fx) : g.Quiet k (l.foldl (fun h q => h.tryCmd c j q) g) :=
    .foldl (fun h q => h.tryCmd_quiet c hv hn j q) l g
  simp only [Fx.pumpOnce]
  exact ((((dma.trans (heads .mq _ _)).trans (heads .vq _ _)).trans (heads .lq _ _)).trans (heads .dq _ _)).trans
    (Fx.trySq_quiet c hv hn _ _)

theorem Fx.pumpAll_quiet (n : Nat) (f : Fx) : f.Quiet k (f.pumpAll n c) := by
  induction n generalizing f with
  | zero => exact .refl f
  | succ n ih =>
    simp only [Fx.pumpAll]
    exact .ite ((f.pumpOnce_quiet c hv hn).trans (ih _)) (f.pumpOnce_quiet c hv hn)

/-- A completion counts nothing but what the units count as they go on. -/
theorem Fx.finish_quiet (j : Queue) (n : Nat) : f.Quiet k (f.finish c j n) :=
  ((Fx.Quiet.refl f).complete j n).trans (Fx.pumpAll_quiet c hv hn _ _)

end

/-! ### Counters of a committed step -/

theorem ctrKey_eq_iff (i : Fin 64) (j k : Ctr) : ctrKey i j = ctrKey i k ↔ j = k :=
  ⟨fun h => by have e : j.code = k.code := by simpa [ctrKey] using h
               revert e; cases j <;> cases k <;> decide, fun h => h ▸ rfl⟩

theorem ctrAddAll_get (i : Fin 64) (k : Ctr) (l : List (Ctr × Nat)) (m : SMap Word) : SMap.get 0 (ctrAddAll m i l) (ctrKey i k) =
    (l.filter fun e => e.1 = k).foldl (fun w e => satAdd w e.2) (SMap.get 0 m (ctrKey i k)) := by
  induction l generalizing m with
  | nil => rfl
  | cons e l ih =>
    rw [ctrAddAll, ih, ctrAdd, SMap.get_set, List.filter_cons]
    by_cases h : e.1 = k
    · rw [if_pos (by rw [h]), if_pos (by simpa using h), List.foldl_cons, h]
    · rw [if_neg fun e' => h ((ctrKey_eq_iff i _ _).1 e').symm, if_neg (by simpa using h)]

theorem State.ctr_commit (s : State) (t : PTile) (f : Fx) (k : Ctr) : (s.commit t f).ctr t.site k =
    (f.ctrs.filter fun e => e.1 = k).foldl (fun w e => satAdd w e.2) (s.ctr t.site k) := ctrAddAll_get t.site k f.ctrs s.ctrs

/-! ### Lanes of a committed step -/

/-- The units change a lane in its load drive alone. -/
theorem drivesOn_get (key j : Nat) (l : List (Nat × Drive)) (m : SMap Lane) :
    ∃ d, SMap.get Lane.init (drivesOn m key l) j = { SMap.get Lane.init m j with drive := d } := by
  induction l generalizing m with
  | nil => exact ⟨_, rfl⟩
  | cons e l ih =>
    obtain ⟨d, hd⟩ := ih (SMap.set Lane.init m (key * 2 + e.1) ((SMap.get Lane.init m (key * 2 + e.1)).driven e.2))
    refine ⟨d, ?_⟩
    rw [drivesOn, hd, SMap.get_set]
    split_ifs with h
    · rw [h]; rfl
    · rfl

theorem State.lane_commit (s : State) (t r : PTile) (l : Fin 2) (f : Fx) : ∃ d, (s.commit t f).lane r l = { s.lane r l with drive := d } :=
  drivesOn_get t.key (laneKey r l) f.drives s.lanes

end Sys2Proof.Machine
end

section
/-! SUPPORT. The completion of a product (R114–R130): the checks of its reads, the write of its outputs, and the sums in the form of R114. -/

namespace Sys2Proof.Machine

/-! ### The sums of R114 -/

section
variable (i : LevalIn) (l : Lane) (nonce : Nat)

theorem Lane.conv_eq (n col pc : Nat) : l.conv nonce n col pc = rneShiftZ
    ((if col < 512 then 2 * ((l.cal l.bin.toNat col).gain : Int) else 8 * (l.cal l.bin.toNat col).gain) *
      (8 * convCode nonce n col - (l.cal l.bin.toNat col).off) - (l.cal l.bin.toNat col).dens * pc) 12 := by
  simp only [Lane.conv, Cal.correct, decide_eq_true_eq, ite_mul]

/-- The four columns of a slice group, by the weights of R114. -/
theorem sumZ_slices (y : Nat → Int) : sumZ ((List.range 4).map fun b => sliceW b * y b) = y 0 + 2 * y 1 + 4 * y 2 - 8 * y 3 := by
  simp [sumZ, sliceW, List.range_succ]
  ring

theorem LevalIn.yh_eq (v : Vat) {k : Nat} (h : v.kw.getD k 0 ≠ 31) : i.yh l nonce v k =
    ((List.range i.planes).map fun p => (if p + 1 = i.planes then -(2 ^ p) else 2 ^ p) *
      (if v.mode = 2 then i.y l nonce (2 * k) p - i.y l nonce (2 * k + 1) p
       else i.y l nonce (4 * k) p + 2 * i.y l nonce (4 * k + 1) p + 4 * i.y l nonce (4 * k + 2) p -
        8 * i.y l nonce (4 * k + 3) p)).foldl (· + ·) 0 := by
  simp only [LevalIn.yh, if_neg h, sumZ_slices fun b => i.y l nonce (4 * k + b) _]
  rfl

theorem LevalIn.outs_getD (v : Vat) (sop : Word) {k : Nat} (hk : k < vatCols v.mode) : (i.outs l nonce v sop).getD k 0 =
    if i.zero || v.kw.getD k 0 = 31 then 0
    else toF32 ((FV.ofInt (i.yh l nonce v k) (-4 - (i.kv : Int) - (v.kw.getD k 0).toNat)).mul (f32 sop)) := range_map_getD _ _ hk

theorem LevalIn.outs_length (v : Vat) (sop : Word) : (i.outs l nonce v sop).length = vatCols v.mode := by simp [LevalIn.outs]

end

theorem vatCols_bytes (mode : BitVec 2) : 4 * vatCols mode = levalBytes mode := by
  simp only [vatCols, levalBytes]; split_ifs <;> rfl

/-! ### Words in memory -/

theorem wordBytes_length (ws : List Word) : (wordBytes ws).length = 4 * ws.length := by
  simp [wordBytes, leBytes, List.length_flatMap, Nat.mul_comm]

/-- Byte `j` of word `k`. -/
theorem wordBytes_getD (ws : List Word) {k j : Nat} (hk : k < ws.length) (hj : j < 4) :
    (wordBytes ws).getD (4 * k + j) 0 = BitVec.ofNat 8 ((ws.getD k 0).toNat / 256 ^ j) := by
  have e : ws = (List.range ws.length).map fun k => ws.getD k 0 := List.ext_getElem (by simp) fun k h _ => by simp [h]
  have hb : wordBytes ws = (List.range ws.length).flatMap fun k => (List.range 4).map fun j => BitVec.ofNat 8 ((ws.getD k 0).toNat / 256 ^ j) := by
    conv_lhs => rw [e, wordBytes, List.flatMap_map]
    rfl
  rw [hb, flatMap_range_getD 0 (fun k j => BitVec.ofNat 8 ((ws.getD k 0).toNat / 256 ^ j)) hk hj]

/-! ### The steps of the completion -/

section
variable (f : Fx) (c : Ctx) (q : QCmd) (i : LevalIn)

/-- The completion up to its counts: the outputs' ports, the checks of the input, ZERO or SPLIT, WIDE and OVR (R117, R125, R306). -/
def Fx.levalChecked (ovr : Nat) : Fx :=
  let f1 := (f.outPorts c q (levalBytes (c.vat q.leVat).mode / 64)).readEcc c (3 + q.lane) q.ra ((if q.leFb then 512 else 256) + 16)
  let f2 := if i.fault then f1.formatFault c (3 + q.lane) else f1
  if i.zero then f2.count .zero 1
  else ((f2.count .split i.splits).count .wide (if i.wide then 1 else 0)).count .ovr ovr

/-- The outputs written, and the report marked for a supply window (R118, R130). -/
def Fx.levalWritten : Fx :=
  { f with
    tile := { f.tile with
      mem := f.tile.mem.write q.leOut (wordBytes (i.outs ((c.lane q.lane).asOf q.swaps) c.s.nonce (c.vat q.leVat) (BitVec.ofNat 32 q.rc)))
      rp := { f.tile.rp with rep := { f.tile.rp.rep with
        invalid := f.tile.rp.rep.invalid || (q.win || c.site.window.isSome) } } }
    used := f.used + 1 }

theorem Fx.levalDone_eq (ovr : Nat) : f.levalDone c q ovr =
    ((f.levalChecked c q (levalIn f.tile.mem q.ra q.leFb) ovr).levalWritten c q (levalIn f.tile.mem q.ra q.leFb)).finish c .lq q.seq := rfl

theorem Fx.outPorts_keeps (n : Nat) : f.Keeps (f.outPorts c q n) := by
  have slips (l : List PortAcc) (g : Fx) : g.Keeps (l.foldl (fun g _ => g.slip c 5 (q.op.unit q.lane) q.pc) g) := by
    induction l generalizing g with
    | nil => exact .refl g
    | cons e l ih => exact (g.slip_keeps c 5 _ _).trans (ih _)
  have taken (l : List PortAcc) (g : Fx) : g.Keeps (g.set (g.tile.take q.rank l)) :=
    .of_cmds (by constructor <;> intros <;> rfl) (Nat.le_refl _) (.of_eq fun k => by cases k <;> rfl)
  exact ((slips _ f).trans (taken _ _)).trans (Fx.arbitrate_keeps ..)

theorem Fx.outPorts_quiet {k : Ctr} (n : Nat) : f.Quiet k (f.outPorts c q n) := by
  simp only [Fx.outPorts]
  refine Fx.Quiet.trans ?_ (Fx.losePorts_quiet c _ _)
  exact (Fx.Quiet.foldl (fun g _ => g.slip_quiet c 5 _ _) _ f).set rfl

theorem Fx.levalChecked_onlyChecks (ovr : Nat) :
    (f.outPorts c q (levalBytes (c.vat q.leVat).mode / 64)).OnlyChecks (f.levalChecked c q i ovr) := by
  have read := (Fx.OnlyChecks.refl (f.outPorts c q (levalBytes (c.vat q.leVat).mode / 64))).readEcc c (3 + q.lane) q.ra
    ((if q.leFb then 512 else 256) + 16)
  have checked := Fx.OnlyChecks.ite (p := i.fault = true) (read.formatFault c (3 + q.lane)) read
  exact .ite (checked.count _ _) (((checked.count _ _).count _ _).count _ _)

/-- Before its counts the completion counts corrected words and format faults alone. -/
theorem Fx.levalReads_quiet {k : Ctr} (he : .scrCe ≠ k) (hf : .fmtfault ≠ k) (n u off m : Nat) : f.Quiet k
    (if i.fault then ((f.outPorts c q n).readEcc c u off m).formatFault c u else (f.outPorts c q n).readEcc c u off m) := by
  have read := (f.outPorts_quiet c q (k := k) n).trans (Fx.readEcc_quiet _ c he u off m)
  exact .ite (read.trans (Fx.formatFault_quiet _ c hf u)) read

/-- An input with no row to drive counts in ZERO and not in OVR (R117). -/
theorem Fx.levalChecked_zero (hz : i.zero = true) (ovr : Nat) :
    (f.levalChecked c q i ovr).ctrs.filter (fun e => e.1 = .zero) = f.ctrs.filter (fun e => e.1 = .zero) ++ [(.zero, 1)] ∧
    f.Quiet .ovr (f.levalChecked c q i ovr) := by
  simp only [Fx.levalChecked, hz, if_true]
  refine ⟨?_, (f.levalReads_quiet c q i (by decide) (by decide) _ _ _ _).count (by decide) 1⟩
  rw [Fx.count, if_neg (by decide), List.filter_append, (f.levalReads_quiet c q i (by decide) (by decide) _ _ _ _).ctr]
  rfl

/-- What the completion of a product leaves of its tile. -/
theorem Fx.levalDone_fixed (ovr : Nat) : (f.levalDone c q ovr).tile.vec = f.tile.vec ∧ (f.levalDone c q ovr).tile.mx = f.tile.mx ∧
    (f.levalDone c q ovr).tile.sc.regs = f.tile.sc.regs ∧ (f.levalDone c q ovr).tile.mem.scr = SMap.setList 0 f.tile.mem.scr q.leOut
      (wordBytes ((levalIn f.tile.mem q.ra q.leFb).outs ((c.lane q.lane).asOf q.swaps) c.s.nonce (c.vat q.leVat) (BitVec.ofNat 32 q.rc))) := by
  have ports := (f.outPorts_keeps c q (levalBytes (c.vat q.leVat).mode / 64)).fixed
  have checks := f.levalChecked_onlyChecks c q (levalIn f.tile.mem q.ra q.leFb) ovr
  have last := ((f.levalChecked c q (levalIn f.tile.mem q.ra q.leFb) ovr).levalWritten c q (levalIn f.tile.mem q.ra q.leFb)).finish_fixed c
    .lq q.seq
  rw [Fx.levalDone_eq]
  refine ⟨last.vec.trans (checks.vec.trans ports.vec), last.mx.trans (checks.mx.trans ports.mx),
    last.regs.trans ((congrArg Scalar.regs checks.sc).trans ports.regs), last.scr.trans ?_⟩
  rw [Fx.levalWritten, TileMem.write_scr, checks.scr, ports.scr]

theorem Fx.levalDone_invalid (ovr : Nat) (h : (q.win || c.site.window.isSome) = true) :
    (f.levalDone c q ovr).tile.rp.rep.invalid = true := by
  rw [Fx.levalDone_eq, (Fx.finish_quiet (k := .zero) _ c (by decide) (by decide) .lq q.seq).invalid, Fx.levalWritten, h, Bool.or_true]

/-- The counts of a product of zeros. -/
theorem Fx.levalDone_zero (hz : (levalIn f.tile.mem q.ra q.leFb).zero = true) (ovr : Nat) :
    (f.levalDone c q ovr).ctrs.filter (fun e => e.1 = .zero) = f.ctrs.filter (fun e => e.1 = .zero) ++ [(.zero, 1)] ∧
    (f.levalDone c q ovr).ctrs.filter (fun e => e.1 = .ovr) = f.ctrs.filter (fun e => e.1 = .ovr) := by
  obtain ⟨hzero, hovr⟩ := f.levalChecked_zero c q _ hz ovr
  rw [Fx.levalDone_eq]
  exact ⟨(Fx.finish_quiet _ c (by decide) (by decide) .lq q.seq).ctr.trans hzero,
    (Fx.finish_quiet _ c (by decide) (by decide) .lq q.seq).ctr.trans hovr.ctr⟩

end

end Sys2Proof.Machine
end

section
/-! O20: the completion of a product. -/

namespace Sys2Proof.Machine

theorem Tile.laneRunning_lane {x : Tile} {n : Nat} {q : QCmd} (h : x.laneRunning n = some q) : q.lane = n := by
  have hq := List.find?_some h
  simp only [Bool.and_eq_true, decide_eq_true_eq] at hq
  exact hq.1.2

/-- The completion of a product: the tile's part is committed, then the lane takes the product's check sums. -/
theorem exec_levalComplete {s : State} {t : PTile} {lane : Fin 2} {q : QCmd} (hr : s.tileRuns t = true)
    (hq : (s.tile t).laneRunning lane.val = some q) (hop : q.op = .leval) (hs : q.sub = false) (ovr : Nat) :
    let u := s.commit t ((Fx.ofTile (s.tile t)).levalDone ⟨t, s⟩ q ovr)
    exec (.levalComplete t lane ovr) s = .next (u.setLane t lane ((u.lane t lane).levalDone (levalIn (s.tile t).mem q.ra q.leFb) s.nonce
      (s.vat (t.key * 96 + q.leVat)) q.leVat ovr q.swaps (q.win || (s.site t.site).window.isSome))) := by
  intro u
  simp only [exec, execLevalComplete, hq, hop, hs, hr, and_self, if_true]
  rfl

/-- Settles O20: the outputs are the rounded sums of R114, written to the product's output address alone; the lane notes its vat and the
check sums; ZERO counts a product without a driven row; a product of a supply window is marked invalid. -/
theorem productsComplete : Obligations.ProductsComplete := by
  unfold Obligations.ProductsComplete
  intro s t lane ovr q hr hq hop hs x v n i l conv y planes yh out
  refine .of_next (exec_levalComplete hr hq hop hs ovr) ?_
  have hlane : (⟨t, s⟩ : Ctx).lane q.lane = s.lane t lane := by rw [Tile.laneRunning_lane hq]; rfl
  obtain ⟨hvec, hmx, hregs, hscr⟩ := (Fx.ofTile x).levalDone_fixed ⟨t, s⟩ q ovr
  have hinvalid := (Fx.ofTile x).levalDone_invalid ⟨t, s⟩ q ovr
  have hcounts := fun hz => (Fx.ofTile x).levalDone_zero ⟨t, s⟩ q hz ovr
  generalize (Fx.ofTile x).levalDone ⟨t, s⟩ q ovr = f at *
  rw [hlane] at hscr
  replace hscr : f.tile.mem.scr = SMap.setList 0 x.mem.scr q.leOut (wordBytes (i.outs l s.nonce v (BitVec.ofNat 32 q.rc))) := hscr
  obtain ⟨d, hd⟩ := s.lane_commit t t lane f
  have hn : 4 * vatCols v.mode = n := vatCols_bytes v.mode
  have hlen : (wordBytes (i.outs l s.nonce v (BitVec.ofNat 32 q.rc))).length = n := by
    rw [wordBytes_length, LevalIn.outs_length, hn]
  have hy (col p : Nat) : i.y l s.nonce col p = y col p := by
    simp only [LevalIn.y, Lane.conv_eq]; rfl
  have hout (k : Nat) (hk : k < vatCols v.mode) : (i.outs l s.nonce v (BitVec.ofNat 32 q.rc)).getD k 0 = out k := by
    rw [LevalIn.outs_getD i l s.nonce v _ hk]
    by_cases hw : v.kw.getD k 0 = 31
    · simp only [out, hw, decide_true, Bool.or_true, if_true, or_true]
    · simp only [out, yh, planes, LevalIn.yh_eq i l s.nonce v hw, hy, hw, decide_false, Bool.or_false, or_false]
  have hbyte (k j : Nat) (hkj : 4 * k + j < n) (hj : j < 4) :
      SMap.get (0 : Byte) f.tile.mem.scr (q.leOut + (4 * k + j)) = BitVec.ofNat 8 ((out k).toNat / 256 ^ j) := by
    have hk : k < vatCols v.mode := by omega
    rw [hscr, SMap.get_setList_self 0 _ _ _ (lt_of_lt_of_eq hkj hlen.symm), ← List.getD_eq_getElem _ 0, wordBytes_getD _ _ hj, hout k hk]
    rwa [LevalIn.outs_length]
  rw [State.lane_setLane, hd]
  have htile (y : Lane) (r : PTile) : ((s.commit t f).setLane t lane y).tile r = (s.commit t f).tile r := rfl
  simp only [htile, State.tile_commit]
  refine ⟨rfl, rfl, ?_, rfl, fun a ha => ?_, hbyte, fun hz => ⟨fun k hk => ?_, ?_, ?_⟩, fun hw => hinvalid ?_, hregs, hvec, hmx,
    fun r hne => State.tile_commit_ne s f hne⟩
  · exact List.length_append
  · rw [hscr, SMap.get_setList_ne 0 _ _ (by rw [hlen]; exact ha)]
  · have hzero : out (k / 4) = 0 := if_pos (.inl hz)
    have := hbyte (k / 4) (k % 4) (by omega) (Nat.mod_lt _ (by decide))
    rw [Nat.div_add_mod, hzero] at this
    exact this.trans (by simp)
  · exact (State.ctr_commit s t f .zero).trans (by rw [(hcounts hz).1]; rfl)
  · exact (State.ctr_commit s t f .ovr).trans (by rw [(hcounts hz).2]; rfl)
  · rw [Bool.or_eq_true]; exact hw

end Sys2Proof.Machine
end

section
/-! SUPPORT. Acceptance (R169, R170): what the supervisor's work after a test leaves alone. -/

namespace Sys2Proof.Machine

/-- From `s` to `u` the vats, their codes, the lanes and the counters stay. -/
structure State.KeepsVats (s u : State) : Prop where
  vats : u.vats = s.vats
  vatMem : u.vatMem = s.vatMem
  lanes : u.lanes = s.lanes
  ctrs : u.ctrs = s.ctrs

theorem State.KeepsVats.refl (s : State) : s.KeepsVats s := ⟨rfl, rfl, rfl, rfl⟩

theorem State.KeepsVats.trans {s u w : State} (a : s.KeepsVats u) (b : u.KeepsVats w) : s.KeepsVats w :=
  ⟨b.vats.trans a.vats, b.vatMem.trans a.vatMem, b.lanes.trans a.lanes, b.ctrs.trans a.ctrs⟩

theorem State.KeepsVats.ite {s u w : State} {p : Prop} [Decidable p] (a : s.KeepsVats u) (b : s.KeepsVats w) :
    s.KeepsVats (if p then u else w) := by split <;> assumption

section
variable {s : State}

theorem State.setLoad_keepsVats (s : State) (p : Fin 32) (l : Load) : s.KeepsVats (s.setLoad p l) := ⟨rfl, rfl, rfl, rfl⟩

/-- A load does not open its partition. -/
theorem State.setLoad_waits (s : State) (p q : Fin 32) (l : Load) : ((s.setLoad p l).part q).waits = (s.part q).waits := by
  by_cases h : q = p
  · subst h
    have e : (s.setLoad q l).part q = { s.part q with load := l } := State.part_setPart ..
    rw [e]; rfl
  · have e : (s.setLoad p l).part q = s.part q := State.part_setPart_ne s _ h
    rw [e]

theorem State.setLoads_keepsVats (f : State → Fin 32 → Load) (ps : List (Fin 32)) (s : State) :
    s.KeepsVats (ps.foldl (fun s p => s.setLoad p (f s p)) s) ∧
    ∀ q, ((ps.foldl (fun s p => s.setLoad p (f s p)) s).part q).waits = (s.part q).waits := by
  induction ps generalizing s with
  | nil => exact ⟨.refl s, fun _ => rfl⟩
  | cons p ps ih =>
    obtain ⟨hk, hw⟩ := ih (s.setLoad p (f s p))
    exact ⟨(s.setLoad_keepsVats p _).trans hk, fun q => (hw q).trans (s.setLoad_waits p q _)⟩

theorem State.setLoads_furnish (f : State → Fin 32 → Load) (ps : List (Fin 32)) (s : State) :
    (ps.foldl (fun s p => s.setLoad p (f s p)) s).furnish = s.furnish := by
  induction ps generalizing s with
  | nil => rfl
  | cons p ps ih => exact ih (s.setLoad p (f s p))

theorem State.openReady_of_noWait (h : ∀ p ∈ s.furnished, (s.part p).waits = false) : s.openReady s.furnished = s :=
  State.openReady_of_none fun p hp hw => by rw [h p hp] at hw; cases hw

/-- Where no partition waits to open, step 11 opens none. -/
theorem State.openAll_keepsVats (h : ∀ p ∈ s.furnished, (s.part p).waits = false) : s.KeepsVats s.openAll := by
  simp only [State.openAll, State.openReady_of_noWait h]
  exact .ite ⟨rfl, rfl, rfl, rfl⟩ (.refl s)

/-- Where no partition waits to open and none installs, the work after a test changes no vat. -/
theorem State.settleStart_keepsVats (h : ∀ p ∈ s.furnished, (s.part p).waits = false ∧ (s.part p).prev = none) : s.KeepsVats s.settleStart := by
  have waits (p : Fin 32) (hp : p ∈ s.furnished) : (s.part p).waits = false := (h p hp).1
  have loads := State.setLoads_keepsVats (fun s p => (s.part p).load.next (s.swapOf p) s.now) s.furnished
    { s with sup := { s.sup with phase := 10 } }
  have furn : ({ s with sup := { s.sup with phase := 10 } } : State).startLoads.furnished = s.furnished := by
    rw [State.furnished, State.startLoads, State.setLoads_furnish]; rfl
  simp only [State.settleStart, State.endInstalls_of_none fun p hp => (h p hp).2]
  refine .ite (.ite ?_ (.refl s)) (.ite (State.openAll_keepsVats waits) (.ite ?_ (.refl s)))
  · refine State.KeepsVats.trans ⟨loads.1.vats, loads.1.vatMem, loads.1.lanes, loads.1.ctrs⟩ (State.openAll_keepsVats fun p hp => ?_)
    exact (loads.2 p).trans (waits p (furn ▸ hp))
  · rw [State.openReady_of_noWait waits]
    exact .refl s

theorem State.endAccept_keepsVats (s : State) (p : Fin 32) : s.KeepsVats (s.endAccept p) := by
  unfold State.endAccept
  exact .ite (s.setLoad_keepsVats p _) (.refl s)

/-- No vat has failed twice: none is replaced. -/
theorem State.condemn_of_none (h : ∀ k : Nat, (s.vat k).testFails ≠ 2) (p : Fin 32) : s.condemn p = s := by
  have fold (ks : List Nat) : ks.foldl (fun s k =>
      if (s.vat k).testFails = 2 then (if s.loadOf k = some p then s.replaceVat p k else s.moveBad k) else s) s = s := by
    induction ks with
    | nil => rfl
    | cons k ks ih => rw [List.foldl_cons, if_neg (h k), ih]
  unfold State.condemn
  rw [fold, ite_self]

/-! ### Vats read back -/

/-- The state with vat `k` as `v`. -/
def State.setVat (s : State) (k : Nat) (v : Vat) : State := { s with vats := SMap.set Vat.init s.vats k v }

@[simp] theorem State.vat_setVat (s : State) (k : Nat) (v : Vat) : (s.setVat k v).vat k = v := SMap.get_set_self ..

theorem State.vat_setVat_ne (s : State) {k j : Nat} (v : Vat) (h : j ≠ k) : (s.setVat k v).vat j = s.vat j := SMap.get_set_ne _ _ _ h

/-! ### The outcome of a test -/

/-- A vat after a passed test: after test a test b is due, after the last test it is tested. -/
def Vat.passed (v : Vat) : Vat :=
  let last := v.testA || v.mode = 3
  { v with testA := !last, testDue := !last, tested := last, sTop := if last then [] else v.sTop, sBot := if last then [] else v.sBot }

/-- A vat after a failed test is to be written again. -/
def Vat.failed (v : Vat) : Vat := { v with testA := false, testDue := false, testFails := min 2 (v.testFails + 1), rows := 0 }

theorem State.acceptResult_pass (h : ∀ p ∈ s.furnished, (s.part p).waits = false ∧ (s.part p).prev = none) (t : PTile) (key : Nat) :
    (s.setVat key (s.vat key).passed).KeepsVats (s.acceptResult t key true) := by
  simp only [State.acceptResult, if_true]
  split
  · exact State.settleStart_keepsVats (s := s.setVat key (s.vat key).passed) h
  · exact State.endAccept_keepsVats ..

theorem State.acceptResult_fail (h : ∀ k : Nat, (s.vat k).testFails ≠ 2) {key : Nat} (hk : (s.vat key).testFails = 0) (t : PTile) :
    s.acceptResult t key false = { s.setVat key (s.vat key).failed with ctrs := ctrAdd s.ctrs t.site .accfail 1 } := by
  have sound (k : Nat) : ((s.setVat key (s.vat key).failed).vat k).testFails ≠ 2 := by
    by_cases e : k = key
    · rw [e, State.vat_setVat, Vat.failed, hk]; exact (by decide : min 2 (0 + 1) ≠ 2)
    · rw [State.vat_setVat_ne s _ e]; exact h k
  simp only [State.acceptResult, Bool.false_eq_true, if_false]
  split
  · exact State.condemn_of_none (s := { s.setVat key (s.vat key).failed with ctrs := ctrAdd s.ctrs t.site .accfail 1 }) sound _
  · rfl

end

/-- What a test with outcome `pass` leaves: the tested vat and the count of failures change. -/
structure TestEnded (s u : State) (t : PTile) (key : Nat) (pass : Bool) : Prop where
  vat : u.vat key = if pass then (s.vat key).passed else (s.vat key).failed
  others : ∀ k : Nat, k ≠ key → u.vat k = s.vat k
  vatMem : u.vatMem = s.vatMem
  ctrs : u.ctrs = if pass then s.ctrs else ctrAdd s.ctrs t.site .accfail 1

theorem State.acceptResult_ended {s : State} (h : ∀ p ∈ s.furnished, (s.part p).waits = false ∧ (s.part p).prev = none)
    (hn : ∀ k : Nat, (s.vat k).testFails ≠ 2) {key : Nat} {pass : Bool} (hp : pass = true ∨ (s.vat key).testFails = 0) (t : PTile) :
    TestEnded s (s.acceptResult t key pass) t key pass ∧ (s.acceptResult t key pass).lanes = s.lanes := by
  cases pass with
  | true =>
    obtain ⟨hv, hm, hl, hc⟩ := State.acceptResult_pass h t key
    have vat (k : Nat) : (s.acceptResult t key true).vat k = (s.setVat key (s.vat key).passed).vat k := congrArg (SMap.get Vat.init · k) hv
    exact ⟨⟨(vat key).trans (s.vat_setVat ..), fun k hk => (vat k).trans (s.vat_setVat_ne _ hk), hm, hc⟩, hl⟩
  | false =>
    rw [State.acceptResult_fail hn (hp.resolve_left Bool.false_ne_true) t]
    exact ⟨⟨s.vat_setVat .., fun k hk => s.vat_setVat_ne _ hk, rfl, rfl⟩, rfl⟩

theorem TestEnded.accfail {s u : State} {t : PTile} {key : Nat} {pass : Bool} (h : TestEnded s u t key pass) :
    u.ctr t.site .accfail = if pass then s.ctr t.site .accfail else satAdd (s.ctr t.site .accfail) 1 := by
  rw [State.ctr, h.ctrs]
  cases pass
  · exact SMap.get_set_self ..
  · rfl

end Sys2Proof.Machine
end

section
/-! O39: acceptance tests. -/

namespace Sys2Proof.Machine

/-- The state as a test product finds it: the lane's slot taken, a nonce used. -/
def State.testing (s : State) (t : PTile) (lane : Fin 2) : State :=
  { s.setLane t lane { s.lane t lane with accSlot := false } with nonce := s.nonce + 1 }

section
variable {s : State} {t : PTile} {vat : Nat} (lane : Fin 2) (readback : Bool) (hn : vat < 96)
    (hd : (s.vat (t.key * 96 + vat)).testDue = true) (hu : (s.site t.site).up = true) (ha : (s.site t.site).arith = true)
    (hs : (s.site t.site).sleep = false)
include hn hd hu ha hs

/-- The readback of a spare vat takes no lane. -/
theorem exec_vatReadback (hm : (s.vat (t.key * 96 + vat)).mode = 3) :
    exec (.vatAcceptanceTest t lane vat readback) s = .next (s.acceptResult t (t.key * 96 + vat) readback) := by
  rw [exec, execVatAcceptanceTest]
  simp only [hd, hu, ha, hs, Nat.not_le.2 hn, hm, or_self, Bool.false_eq_true, Bool.true_eq_false, if_false, if_true]

theorem exec_vatTestProduct (hm : (s.vat (t.key * 96 + vat)).mode ≠ 3)
    (hl : (s.lane t lane).qualifies = true ∧ ((s.lane t lane).accSlot = true ∨ (s.tile t).clk.running = false)) :
    exec (.vatAcceptanceTest t lane vat readback) s = .next ((s.testing t lane).acceptResult t (t.key * 96 + vat)
      (accPass (s.lane t lane) s.nonce (s.vat (t.key * 96 + vat)) (!(s.vat (t.key * 96 + vat)).testA))) := by
  rw [exec, execVatAcceptanceTest]
  simp only [hd, hu, ha, hs, Nat.not_le.2 hn, if_neg hm, hl, or_self, Bool.false_eq_true, Bool.true_eq_false, if_false, if_true, and_self]
  rfl

end

theorem Vat.passed_last {v : Vat} (h : v.mode = 3 ∨ v.testA = true) : v.passed.tested = true ∧ v.passed.testDue = false := by
  rcases h with h | h
  · simp [Vat.passed, h]
  · simp [Vat.passed, h]

theorem Vat.passed_first {v : Vat} (hm : v.mode ≠ 3) (ha : v.testA = false) :
    v.passed.testA = true ∧ v.passed.testDue = true ∧ v.passed.tested = false := by
  simpa [Vat.passed, ha] using hm

/-- The test ends in its outcome, and only the lane of a test product changes: it has used its slot. -/
theorem vatAcceptanceTest_ended {s : State} {t : PTile} (lane : Fin 2) {vat : Nat} (readback : Bool) (hn : vat < 96)
    (hf : ∀ p ∈ s.furnished, (s.part p).waits = false ∧ (s.part p).prev = none) (hd : (s.vat (t.key * 96 + vat)).testDue = true)
    (hu : (s.site t.site).up = true) (ha : (s.site t.site).arith = true) (hs : (s.site t.site).sleep = false)
    (hfails : ∀ k : Nat, (s.vat k).testFails ≠ 2)
    (hlane : (s.vat (t.key * 96 + vat)).mode = 3 ∨ ((s.lane t lane).qualifies = true ∧
      ((s.lane t lane).accSlot = true ∨ (s.tile t).clk.running = false)))
    {pass : Bool} (hpass : pass = if (s.vat (t.key * 96 + vat)).mode = 3 then readback
      else accPass (s.lane t lane) s.nonce (s.vat (t.key * 96 + vat)) (!(s.vat (t.key * 96 + vat)).testA))
    (hp : pass = true ∨ (s.vat (t.key * 96 + vat)).testFails = 0) :
    Completes (.vatAcceptanceTest t lane vat readback) s fun u => TestEnded s u t (t.key * 96 + vat) pass ∧
      ((s.vat (t.key * 96 + vat)).mode ≠ 3 → (u.lane t lane).accSlot = false) ∧ OnlyLane s u t lane := by
  by_cases hm : (s.vat (t.key * 96 + vat)).mode = 3
  · rw [if_pos hm] at hpass
    obtain ⟨e, hlanes⟩ := State.acceptResult_ended hf hfails hp t
    refine .of_next (exec_vatReadback lane readback hn hd hu ha hs hm) ?_
    rw [← hpass]
    exact ⟨e, fun h => absurd hm h, fun r k _ => congrArg (SMap.get Lane.init · (laneKey r k)) hlanes⟩
  · rw [if_neg hm] at hpass
    obtain ⟨e, hlanes⟩ := State.acceptResult_ended (s := s.testing t lane) hf hfails hp t
    have lanes (r : PTile) (k : Fin 2) := congrArg (SMap.get Lane.init · (laneKey r k)) hlanes
    refine .of_next (exec_vatTestProduct lane readback hn hd hu ha hs hm (hlane.resolve_left hm)) ?_
    rw [← hpass]
    refine ⟨⟨e.vat, e.others, e.vatMem, e.ctrs⟩, fun _ => ?_, fun r k h => (lanes r k).trans (State.lane_setLane_ne s _ h)⟩
    exact congrArg Lane.accSlot ((lanes t lane).trans (State.lane_setLane ..))

/-- Settles O39: a test writes its outcome into its vat and, where it fails, the count of failures; a test product takes its lane's slot. -/
theorem acceptanceTests : Obligations.AcceptanceTests := by
  unfold Obligations.AcceptanceTests
  intro s t lane vat readback key v l pass hf hn hd hu ha hs hfails hlane hp
  obtain ⟨u, hexec, e, hslot, honly⟩ := vatAcceptanceTest_ended lane readback hn hf hd hu ha hs hfails hlane (pass := pass) rfl hp
  have hacc := e.accfail
  have hvat : u.vat key = if pass then v.passed else v.failed := e.vat
  refine .of_next hexec ⟨e.vatMem, e.others, ?_, ?_, fun h => ?_, fun h => ?_, hslot, honly⟩
  · rw [hvat]; split <;> rfl
  · rw [hvat]; split <;> rfl
  · rw [h, if_pos rfl] at hvat hacc
    rw [hvat]
    exact ⟨hacc, Vat.passed_last, Vat.passed_first⟩
  · have first : v.testFails = 0 := hp.resolve_left (by rw [h]; decide)
    rw [h, if_neg (by decide)] at hvat hacc
    rw [hvat]
    refine ⟨hacc, ?_, rfl, rfl, rfl⟩
    rw [Vat.failed, first]; rfl

end Sys2Proof.Machine
end

section
/-! SUPPORT. Weight-load writes (R107–R112): the rows and count cells that a write programs. -/

namespace Sys2Proof.Machine

/-! ### Rows -/

theorem rowCounts_length (mode : BitVec 2) (cs : List Nat) : (rowCounts mode cs).length = 4 := by
  unfold rowCounts
  split
  · simp
  · rfl
  · rfl

theorem rows64_length (codes : List Byte) : (rows64 codes).length = codes.length / 64 := by simp [rows64]

theorem rows64_get (codes : List Byte) {i : Nat} (h : i < (rows64 codes).length) : (rows64 codes)[i] = (codes.drop (64 * i)).take 64 := by
  simp [rows64]

theorem mem_rows64 {codes r : List Byte} (h : r ∈ rows64 codes) : ∃ i < codes.length / 64, (codes.drop (64 * i)).take 64 = r := by
  simpa [rows64] using h

namespace Vat

variable (mem : SMap Byte) (key : Nat)

@[simp] theorem putRow_mode (v : Vat) (i : Nat) (old new : List Byte) : (v.putRow i old new).mode = v.mode := rfl

/-- The count cells of a row are written, and no other ones. -/
theorem putRow_counts (v : Vat) (i : Nat) (old new : List Byte) : (v.putRow i old new).counts =
    SMap.setList 0 v.counts (4 * i) (rowCounts v.mode (rowCodes v.mode new)) := rfl

/-- Programming rows leaves a vat's mode, binding, column shifts and spares. -/
structure SameBinding (v w : Vat) : Prop where
  mode : w.mode = v.mode
  part : w.part = v.part
  kw : w.kw = v.kw

theorem putRows_sameBinding (rs : List (List Byte)) (v : Vat) (i : Nat) : v.SameBinding (v.putRows mem key i rs) := by
  induction rs generalizing v i with
  | nil => exact ⟨rfl, rfl, rfl⟩
  | cons r rs ih =>
    obtain ⟨hm, hp, hk⟩ := ih (v.putRow i (SMap.getList 0 mem (key * 0x8000 + 64 * i) 64) r) (i + 1)
    exact ⟨hm, hp, hk⟩

theorem putRows_counts_below (rs : List (List Byte)) (v : Vat) {i k : Nat} (h : k < 4 * i) :
    SMap.get 0 (v.putRows mem key i rs).counts k = SMap.get 0 v.counts k := by
  induction rs generalizing v i with
  | nil => rfl
  | cons r rs ih => rw [putRows, ih _ (by omega), putRow_counts, SMap.get_setList_ne _ _ _ (.inl h)]

/-- The count cells of the rows that are programmed. -/
theorem putRows_counts_at (rs : List (List Byte)) (v : Vat) (i : Nat) {j b : Nat} (hj : j < rs.length) (hb : b < 4) :
    SMap.get 0 (v.putRows mem key i rs).counts (4 * (i + j) + b) = (rowCounts v.mode (rowCodes v.mode rs[j])).getD b 0 := by
  induction rs generalizing v i j with
  | nil => cases hj
  | cons r rs ih =>
    rw [putRows]
    cases j with
    | zero =>
      have hlen : b < (rowCounts v.mode (rowCodes v.mode r)).length := by rw [rowCounts_length]; exact hb
      rw [putRows_counts_below mem key _ _ (by omega), putRow_counts, Nat.add_zero, SMap.get_setList_self _ _ _ _ hlen,
        List.getElem_cons_zero, List.getD_eq_getElem]
    | succ j =>
      have := ih (v.putRow i (SMap.getList 0 mem (key * 0x8000 + 64 * i) 64) r) (i + 1) (j := j) (Nat.lt_of_succ_lt_succ hj)
      rwa [putRow_mode, Nat.add_assoc, Nat.add_comm 1 j] at this

end Vat

/-! ### The gap before a write -/

/-- No eviction, restoration or dropped load waits for the partition's gap. -/
theorem State.gapWork_of_none {s : State} {p : Fin 32} (h4 : (s.part p).load.state ≠ 4) (hl : (s.part p).load.leaving = [])
    (hd : (s.part p).load.drop = []) (h9 : (s.part p).load.state = 9 → (s.part p).load.vats ≠ []) : s.gapWork p = s := by
  have leave : s.leaveNow p = s := by simp only [State.leaveNow, hl, List.isEmpty_nil, if_true]
  have drop : s.dropNow p = s := by simp only [State.dropNow, hd, List.isEmpty_nil, if_true]
  have evict : s.evictNow p = s := by
    unfold State.evictNow
    dsimp only
    split
    · rfl
    · exact if_neg h4
  have restored : ¬ ((s.part p).load.state = 9 ∧ (s.part p).load.vats = [] ∧ (s.part p).resetDue = false) := fun h => h9 h.1 h.2.1
  simp only [State.gapWork, leave, drop, evict, if_neg restored, ite_self]

/-- Nothing waits for a gap of any partition (R437), and no vat has failed its tests twice (R170). -/
structure State.GapsDone (s : State) : Prop where
  loads : ∀ p : Fin 32, (s.part p).load.state ≠ 4 ∧ (s.part p).load.leaving = [] ∧ (s.part p).load.drop = [] ∧
    ((s.part p).load.state = 9 → (s.part p).load.vats ≠ [])
  tests : ∀ k : Nat, (s.vat k).testFails ≠ 2

theorem State.GapsDone.fold {s : State} (h : s.GapsDone) (ps : List (Fin 32)) : ps.foldl (fun s p => (s.gapWork p).condemn p) s = s := by
  induction ps with
  | nil => rfl
  | cons p ps ih =>
    obtain ⟨h4, hl, hd, h9⟩ := h.loads p
    rw [List.foldl_cons, State.gapWork_of_none h4 hl hd h9, State.condemn_of_none h.tests, ih]

/-! ### The write -/

/-- What a write of rows leaves: the rows of vat `key` programmed, the retries counted, the columns at fault replaced. -/
structure RowsWritten (s u : State) (t : PTile) (key row : Nat) (codes : List Byte) (verify : List (Nat × Nat)) : Prop where
  vatMem : u.vatMem = SMap.setList 0 s.vatMem (key * 0x8000 + 64 * row) codes
  counts : (u.vat key).counts = ((s.vat key).putRows s.vatMem key row (rows64 codes)).counts
  binding : (s.vat key).SameBinding (u.vat key)
  spares : (u.vat key).spares = (s.vat key).spares + badColsOf verify
  others : ∀ k : Nat, k ≠ key → u.vat k = s.vat k
  wretry : u.ctr t.site .wretry = satAdd (s.ctr t.site .wretry) (retriesOf verify)
  tiles : u.tiles = s.tiles
  lanes : u.lanes = s.lanes

section
variable (s : State) (t : PTile) (key row : Nat) (codes : List Byte) (verify : List (Nat × Nat))

theorem State.fillRows_written : RowsWritten s (s.fillRows t key row codes verify) t key row codes verify := by
  have hv : (s.fillRows t key row codes verify).vat key = _ := SMap.get_set_self ..
  have bound := (s.vat key).putRows_sameBinding s.vatMem key (rows64 codes) row
  refine ⟨rfl, ?_, ?_, ?_, fun k hk => SMap.get_set_ne _ _ _ hk, SMap.get_set_self .., rfl, rfl⟩
  · rw [hv]
  · rw [hv]; exact ⟨bound.mode, bound.part, bound.kw⟩
  · rw [hv]

theorem State.endWrite_keepsVats (s : State) (p : Fin 32) : s.KeepsVats (s.endWrite p) ∧ (s.endWrite p).tiles = s.tiles := by
  simp only [State.endWrite]
  split
  · exact ⟨s.setLoad_keepsVats p _, rfl⟩
  · exact ⟨.refl s, rfl⟩

theorem State.writeRows_written (p : Fin 32) : RowsWritten s (s.writeRows p t key row codes verify) t key row codes verify := by
  have w := s.fillRows_written t key row codes verify
  obtain ⟨k, ht⟩ := (s.fillRows t key row codes verify).endWrite_keepsVats p
  have hv (j : Nat) : (s.writeRows p t key row codes verify).vat j = (s.fillRows t key row codes verify).vat j :=
    congrArg (SMap.get Vat.init · j) k.vats
  refine ⟨k.vatMem.trans w.vatMem, ?_, ?_, ?_, fun j hj => (hv j).trans (w.others j hj), ?_, ht.trans w.tiles, k.lanes.trans w.lanes⟩
  · rw [hv]; exact w.counts
  · rw [hv]; exact w.binding
  · rw [hv]; exact w.spares
  · exact (congrArg (SMap.get 0 · (ctrKey t.site .wretry)) k.ctrs).trans w.wretry

end

end Sys2Proof.Machine
end

section
/-! O38: a weight-load write. -/

namespace Sys2Proof.Machine

/-- The gap work done, a write of whole rows within a vat reaches it: the site runs, and no earlier write is on its way (R238). -/
structure WriteArrives (s : State) (t : PTile) (vat row : Nat) (codes : List Byte) : Prop where
  gaps : s.GapsDone
  alone : s.net.flits.any (·.isWrite t.port0) = false
  vat : vat < 96
  whole : codes.length % 64 = 0
  inside : row + codes.length / 64 ≤ 512
  arith : (s.site t.site).arith = true
  awake : (s.site t.site).sleep = false

section
variable {s : State} {t : PTile} {vat row : Nat} {codes : List Byte} (h : WriteArrives s t vat row codes) (differs cols : List Nat)
include h

/-- Nothing keeps the write from its vat. -/
theorem WriteArrives.reaches : ¬ (96 ≤ vat ∨ codes.length % 64 ≠ 0 ∨ 512 < row + codes.length / 64 ∨ (s.site t.site).arith = false ∨
    (s.site t.site).sleep = true ∨ s.net.flits.any (·.isWrite t.port0) = true) := by
  simp only [h.alone, h.whole, h.arith, h.awake, Nat.not_le.2 h.vat, Nat.not_lt.2 h.inside, ne_eq, not_true_eq_false, Bool.true_eq_false,
    Bool.false_eq_true, or_self, not_false_eq_true]

/-- A vat that is written again takes the rows. -/
theorem exec_weightLoadWrite_again {p : Fin 32} (hv : (s.vat (t.key * 96 + vat)).part = some p)
    (hf : (s.vat (t.key * 96 + vat)).filling = true) (hpkg : s.hasPackage p (s.vat (t.key * 96 + vat)).model = true)
    (hi : (s.part p).idle = true) (hcodes : ¬ ((s.vat (t.key * 96 + vat)).mode = 2 ∧ (rows64 codes).any (fun r => (rowCodes 2 r).contains 2)))
    (hpad : padFault (s.vat (t.key * 96 + vat)) (s.sliceRows p (t.key * 96 + vat)) row (rows64 codes) = false)
    (hs : (s.vat (t.key * 96 + vat)).spares + badColsOf (differs.zip cols) ≤ 8) :
    exec (.weightLoadWrite t vat row codes differs cols) s = .next (s.fillRows t (t.key * 96 + vat) row codes (differs.zip cols)) := by
  rw [exec, execWeightLoadWrite]
  simp only [h.gaps.fold, if_neg h.reaches, hf, hv, hi, hpkg, if_neg hcodes, hpad, Nat.not_lt.2 hs, Bool.not_true, Bool.and_false,
    Bool.false_eq_true, Bool.true_eq_false, if_false, if_true]

/-- A vat of the partition's load takes the rows. -/
theorem exec_weightLoadWrite_load {p : Fin 32} (hv : (s.vat (t.key * 96 + vat)).part = none) (hl : s.loadOf (t.key * 96 + vat) = some p)
    (hi : (s.part p).idle = true) (hcodes : ¬ ((s.vat (t.key * 96 + vat)).mode = 2 ∧ (rows64 codes).any (fun r => (rowCodes 2 r).contains 2)))
    (hpad : padFault (s.vat (t.key * 96 + vat)) (s.sliceRows p (t.key * 96 + vat)) row (rows64 codes) = false)
    (hs : (s.vat (t.key * 96 + vat)).spares + badColsOf (differs.zip cols) ≤ 8) :
    exec (.weightLoadWrite t vat row codes differs cols) s = .next (s.writeRows p t (t.key * 96 + vat) row codes (differs.zip cols)) := by
  have hf : (s.vat (t.key * 96 + vat)).filling = false := by rw [Vat.filling, hv]; rfl
  rw [exec, execWeightLoadWrite]
  simp only [h.gaps.fold, if_neg h.reaches, hf, hv, hl, hi, if_neg hcodes, hpad, Nat.not_lt.2 hs, Option.isSome_none, Bool.false_and,
    Bool.false_eq_true, Bool.true_eq_false, if_false]

/-- A write to a bound vat that is not written again is a deckle fault (R111). -/
theorem exec_weightLoadWrite_bound (hv : (s.vat (t.key * 96 + vat)).part ≠ none) (hf : (s.vat (t.key * 96 + vat)).filling = false) :
    exec (.weightLoadWrite t vat row codes differs cols) s = .next { s with
      bbx := s.bbx.siteLog t.site ((s.site t.site).record s.sup t.site 10 (s.vat (t.key * 96 + vat)).part evtDeckle 0) } := by
  have bound : ((s.vat (t.key * 96 + vat)).part.isSome && !(s.vat (t.key * 96 + vat)).filling) = true := by
    rw [hf, Option.isSome_iff_ne_none.2 hv]; rfl
  rw [exec, execWeightLoadWrite]
  simp only [h.gaps.fold, if_neg h.reaches, bound, if_true]

end

/-- Settles O38: the write programs its rows, their count cells and the spares of the columns at fault, and counts its retries; to another
bound vat it is a deckle fault, logged in the site's ring. -/
theorem weightLoadWritesRows : Obligations.WeightLoadWritesRows := by
  unfold Obligations.WeightLoadWritesRows
  intro s t vat row codes differs cols key v verify retries badCols row64 hloads hnet hvat hlen hrow harith hsleep htests
  have arrives : WriteArrives s t vat row codes := ⟨⟨hloads, htests⟩, hnet, hvat, hlen, hrow, harith, hsleep⟩
  refine ⟨fun p hp hidle hpad hspares hcodes => ?_, fun hpart hdue => ?_⟩
  · have valid : ¬ (v.mode = 2 ∧ (rows64 codes).any (fun r => (rowCodes 2 r).contains 2) = true) := by
      rintro ⟨hm, hany⟩
      obtain ⟨r, hr, h2⟩ := List.any_eq_true.1 hany
      obtain ⟨i, hi, rfl⟩ := mem_rows64 hr
      exact hcodes hm i hi (by simpa using h2)
    obtain ⟨u, hu, w⟩ : Completes (.weightLoadWrite t vat row codes differs cols) s fun u => RowsWritten s u t key row codes verify := by
      rcases hp with ⟨hv, hl⟩ | ⟨hv, ht, hd, hpkg⟩
      · exact .of_next (exec_weightLoadWrite_load arrives differs cols hv hl hidle valid hpad hspares) (s.writeRows_written ..)
      · have again : v.filling = true := by rw [Vat.filling, hv, ht, hd]; rfl
        exact .of_next (exec_weightLoadWrite_again arrives differs cols hv again hpkg hidle valid hpad hspares) (s.fillRows_written ..)
    refine .of_next hu ⟨fun i hi => ?_, fun k hk => ?_, fun i b hi hb => ?_, w.binding.mode, w.binding.part, w.binding.kw, w.spares, w.others,
      w.wretry, w.tiles, w.lanes⟩
    · rw [w.vatMem, SMap.get_setList_self _ _ _ _ hi, List.getD_eq_getElem]
    · rw [w.vatMem, SMap.get_setList_ne _ _ _ hk]
    · have hi' : i < (rows64 codes).length := by rw [rows64_length]; exact hi
      rw [w.counts, Vat.putRows_counts_at _ _ _ _ _ hi' hb, rows64_get]
  · have hf : v.filling = false := by
      rw [Vat.filling]
      rcases hdue with h | h
      · rw [h]; simp
      · rw [h]; simp
    exact .of_next (exec_weightLoadWrite_bound arrives differs cols hpart hf) ⟨rfl, rfl, rfl, fun h => ⟨_, rfl, Bbx.siteLog_rec h _⟩⟩

end Sys2Proof.Machine
end

section
/-! O23: the end of the DMA commands, in a state whose vector queue holds a copy. No command that is written puts a copy there, but the
statement ranges over every state and does not ask that each queue hold the commands of its own unit. -/

namespace Sys2Proof.Machine

/-- A copy of 64 B from the tile's scratchpad to page 0 of sequence handle 0. -/
def seqCopy (st : CmdSt) : QCmd :=
  { op := .dcopy, f1 := 0, f2 := 0, f3 := 0, mod := 0, a := 0, b := BitVec.ofNat 64 (4 * 2 ^ 60), c := 64, pc := 0, tag := 0, seq := 0, st := st,
    slipped := [], sub := false, age := 0, at_ := 0, win := false, swaps := 0, lost := [], vatAsk := none }

/-- A tile of partition 0 whose copy has had its last part served, and whose vector queue holds a second copy. -/
def strayTile : Tile :=
  { Tile.init with
    pl := { Tile.init.pl with part := some 0 }
    dma := { Dma.init with ph := .served }
    dq := [seqCopy .issued]
    vq := [seqCopy .queued] }

/-- Site 0 runs that tile; SEQ space is enabled, and a slot of the partition holds handle 0. -/
def strayState : State :=
  { State.reset with
    sites := [(0, { Site.init with up := true, arith := true })]
    tiles := [(0, strayTile)]
    roots := [(0, 1)]
    slots := [(0, { Slot.init with st := .decode, ht := 0 })] }

/-- Where a tile's engine stands after a step. -/
def enginePhase (t : PTile) : Out → Option DmaPh
  | .next u => some (u.tile t).dma.ph
  | _ => none

set_option maxRecDepth 8000 in
/-- The first copy completes, and the vector unit issues the second one: the engine walks for its page. -/
theorem strayState_walks : enginePhase ⟨0, 0, 0⟩ (exec (.dcopyComplete ⟨0, 0, 0⟩) strayState) = some (.walk 0 0) := by decide

/-- Refutes O23: a copy whose last part is served completes, but its engine is not idle afterwards where another queue holds a copy, which
starts there. The premise that is missing is that each queue holds its own unit's commands alone. -/
theorem not_dmaCommandsComplete : ¬ Obligations.DmaCommandsComplete := by
  unfold Obligations.DmaCommandsComplete
  intro h
  obtain ⟨-, commands⟩ := h strayState ⟨0, 0, 0⟩ ⟨0, 0, 0⟩ (seqCopy .issued) (by decide)
  obtain ⟨copyEnds, -⟩ := commands (by decide) (by decide)
  obtain ⟨u, hu, ⟨-, -, idle⟩, -⟩ := copyEnds (by decide) (by decide) (by decide) (by decide)
  have walks := strayState_walks
  rw [hu, enginePhase, idle] at walks
  cases walks

end Sys2Proof.Machine
end

section
/-! O60: the block right after POR (R181, R286, R494, R499). -/

namespace Sys2Proof.Machine

/-- Settles O60: every map of the state after POR is empty, so each part reads as the value of an unlisted key. -/
theorem resetValues : Obligations.ResetValues := by
  unfold Obligations.ResetValues
  refine ⟨rfl, rfl, rfl, rfl, ⟨rfl, rfl, nofun⟩, rfl, fun t r => ?_, fun t => ⟨rfl, rfl, rfl, rfl, rfl⟩,
    fun t k b => ⟨rfl, rfl, rfl, rfl⟩, fun k => rfl, fun i => rfl, fun i c => rfl⟩
  change (if r = 0 then (0 : Word) else 0) = 0
  exact ite_self 0

end Sys2Proof.Machine
end

section
/-! SUPPORT. Lanes and their bins (R144, R180): the bins read back, and what leaves a lane as it was but for its load drive. -/

namespace Sys2Proof.Machine

namespace SMap

/-- A change that keeps the value of an unlisted key is read at every key. -/
theorem get_mapVals_of_default {V : Type} [DecidableEq V] {d : V} {f : Nat → V → V} (hd : ∀ k, f k d = d) (m : List (Nat × V)) (k : Nat) :
    get d (mapVals d f m) k = f k (get d m k) := by
  rw [get_mapVals]
  split_ifs with hk
  · rfl
  · rw [get_of_has_false (by simpa using hk), hd]

/-- What no change of `f` affects reads the same at every key, however often a key is listed. -/
theorem get_modifyAll_field {V α : Type} [DecidableEq V] (d : V) {f : Nat → V → V} (g : V → α) (h : ∀ k v, g (f k v) = g v) (ks : List Nat)
    (m : List (Nat × V)) (k : Nat) : g (get d (modifyAll d f ks m) k) = g (get d m k) := by
  induction ks generalizing m with
  | nil => rfl
  | cons a r ih =>
    rw [modifyAll, ih, get_set]
    split_ifs with e
    · rw [h, e]
    · rfl

end SMap

theorem satAdd_zero {w : Nat} (c : BitVec w) : satAdd c 0 = c := by
  rw [satAdd, Nat.add_zero, if_pos c.isLt, BitVec.ofNat_toNat, BitVec.setWidth_eq]

@[simp] theorem Lane.getBin_setBin_self (l : Lane) (b : Nat) (x : Bin) : (l.setBin b x).getBin b = x := SMap.get_set_self ..

theorem Lane.getBin_setBin_ne (l : Lane) {b k : Nat} (x : Bin) (h : k ≠ b) : (l.setBin b x).getBin k = l.getBin k := SMap.get_set_ne _ _ _ h

/-- A quarantine drops the passes of the lane's bins and changes nothing else of them. -/
theorem Lane.getBin_quarantine (l : Lane) (b : Nat) : l.quarantine.getBin b = { l.getBin b with pass := none } :=
  SMap.get_mapVals_of_default (fun _ => rfl) l.bins b

/-- A lane with its load drive taken off. -/
def Lane.undriven (l : Lane) : Lane := { l with drive := .off }

/-- Lanes that are the same but for their load drive. -/
theorem Lane.eq_of_undriven {l m : Lane} (h : m.undriven = l.undriven) : ∃ d, m = { l with drive := d } :=
  ⟨m.drive, by
    calc m = { m.undriven with drive := m.drive } := rfl
      _ = { l.undriven with drive := m.drive } := by rw [h]
      _ = { l with drive := m.drive } := rfl⟩

theorem Lane.redrive_undriven (l : Lane) (c : StageClock) (n : Nat) : (l.redrive c n).undriven = l.undriven := by
  unfold Lane.redrive
  split <;> rfl

/-- A lane after a quarantine or a bar is the same but for its load drive. -/
theorem Lane.redrive_eq (l : Lane) (c : StageClock) (n : Nat) : ∃ d, l.redrive c n = { l with drive := d } :=
  Lane.eq_of_undriven (l.redrive_undriven c n)

/-! ### One lane written -/

section
variable {s u : State} {t : PTile} {lane : Fin 2} {y : Lane} (h : u.lanes = (s.setLane t lane y).lanes)
include h

theorem OnlyLane.of_lanes : OnlyLane s u t lane := fun r k hne =>
  (congrArg (SMap.get Lane.init · (laneKey r k)) h).trans (State.lane_setLane_ne s y hne)

theorem State.lane_of_lanes : u.lane t lane = y := (congrArg (SMap.get Lane.init · (laneKey t lane)) h).trans (State.lane_setLane ..)

end

/-- A committed step that changes no load drive leaves the lanes. -/
theorem State.commit_lanes (s : State) (t : PTile) {f : Fx} (h : f.drives = []) : (s.commit t f).lanes = s.lanes := by
  rw [State.commit, h]; rfl

/-- The records of a committed step go to the site's ring, not to the supervisor's. -/
theorem Bbx.siteLogAll_supervisor (b : Bbx) (i : Fin 64) (rs : List BbxRec) :
    (b.siteLogAll i rs).recs = b.recs ∧ (b.siteLogAll i rs).next = b.next ∧ (b.siteLogAll i rs).frozen = b.frozen := by
  induction rs generalizing b with
  | nil => exact ⟨rfl, rfl, rfl⟩
  | cons r rs ih => exact ih (b.siteLog i r)

@[simp] theorem Fx.count_drives (f : Fx) (k : Ctr) (n : Nat) : (f.count k n).drives = f.drives := by
  simp only [Fx.count]; split <;> rfl

/-- A step that counts once counts `n`. -/
theorem State.ctr_commit_count (s : State) (t : PTile) {f g : Fx} {k : Ctr} {n : Nat} (hf : f.ctrs = []) (hg : g.ctrs = (f.count k n).ctrs) :
    (s.commit t g).ctr t.site k = satAdd (s.ctr t.site k) n := by
  rw [State.ctr_commit, hg, Fx.count]
  split_ifs with h
  · rw [h, hf, satAdd_zero]; rfl
  · rw [hf]; simp

end Sys2Proof.Machine
end

section
/-! O34: sizing slots (R145, R153–R155) and the check vectors that they run (R166, R167). -/

namespace Sys2Proof.Machine

/-! ### A step of a tile that writes one of its lanes -/

/-- What a tile's step sends out that marks its report invalid where `invalid` holds and counts `lost` discarded passes. -/
def Tile.sizingFx (x : Tile) (invalid : Bool) (lost : Nat) : Fx := { ((Fx.ofTile x).invalidate invalid).count .discard lost with used := 1 }

theorem Tile.sizingFx_tile (x : Tile) (invalid : Bool) (lost : Nat) : (x.sizingFx invalid lost).tile =
    { x with rp := { x.rp with rep := { x.rp.rep with invalid := x.rp.rep.invalid || invalid } } } := Fx.count_tile ..

theorem Tile.sizingFx_drives (x : Tile) (invalid : Bool) (lost : Nat) : (x.sizingFx invalid lost).drives = [] := Fx.count_drives ..

/-- The state after such a step, with `y` for the lane. -/
def State.sized (s : State) (t : PTile) (lane : Fin 2) (invalid : Bool) (lost : Nat) (y : Lane) : State :=
  (s.commit t ((s.tile t).sizingFx invalid lost)).setLane t lane y

section
variable (s : State) (t : PTile) (lane : Fin 2) (invalid : Bool) (lost : Nat) (y : Lane)

theorem State.sized_lanes : (s.sized t lane invalid lost y).lanes = (s.setLane t lane y).lanes := by
  simp only [State.sized, State.setLane, State.commit_lanes s t (Tile.sizingFx_drives ..)]

theorem State.tile_sized : (s.sized t lane invalid lost y).tile t =
    { s.tile t with rp := { (s.tile t).rp with rep := { (s.tile t).rp.rep with invalid := (s.tile t).rp.rep.invalid || invalid } } } :=
  (State.tile_commit ..).trans (Tile.sizingFx_tile ..)

theorem State.tile_sized_ne {r : PTile} (h : r ≠ t) : (s.sized t lane invalid lost y).tile r = s.tile r := State.tile_commit_ne s _ h

theorem State.ctr_sized : (s.sized t lane invalid lost y).ctr t.site .discard = satAdd (s.ctr t.site .discard) lost :=
  s.ctr_commit_count t (f := (Fx.ofTile (s.tile t)).invalidate invalid) rfl rfl

end

/-! ### The lane in a slot -/

/-- The lane whose owed check vector has the outcome `pass`. -/
def Lane.vectorRun (l : Lane) (pass : Bool) : Lane := { l with since := false, cvs := l.cvs ++ if l.since then [pass] else [] }

theorem Lane.runCv_eq (l : Lane) (nonce : Nat) (v : Vat) (win : Bool) : l.runCv nonce v win = l.vectorRun (win || l.checkVector nonce v) := by
  unfold Lane.runCv Lane.vectorRun
  split_ifs with h
  · rfl
  · rw [List.append_nil, ← Bool.eq_false_iff.2 h]

/-- The lane in a slot whose check vector has been run. -/
def Lane.slotVector (l : Lane) (pass : Bool) : Lane := { l.vectorRun pass with slotsRun := l.slotClock / 16 / 32 + 1 }

/-- The lane after a slot: its conversions measure, or give way where the slot is left for an acceptance product or the lane is quarantined. -/
def Lane.slotDone (l : Lane) (nonce : Nat) (win left : Bool) : Lane := if l.quar || left then l.skip left else l.measure nonce win

/-- A slot's conversions change the lane's bins and its free slot alone. -/
theorem Lane.slotDone_eq (l : Lane) (nonce : Nat) (win left : Bool) :
    ∃ a b, l.slotDone nonce win left = { l with accSlot := a, bins := b } := by
  unfold Lane.slotDone
  split
  · exact ⟨left, _, rfl⟩
  · exact ⟨l.accSlot, _, rfl⟩

/-- The slot of a lane that does not measure is left for an acceptance product. -/
theorem Lane.slotDone_left (l : Lane) (nonce : Nat) (win : Bool) : (l.slotDone nonce win true).accSlot = true := by
  rw [Lane.slotDone, Bool.or_true, if_pos rfl]; rfl

theorem Lane.slotDone_measures {l : Lane} (h : l.quar = false) (nonce : Nat) (win : Bool) : l.slotDone nonce win false = l.measure nonce win := by
  rw [Lane.slotDone, h]; rfl

/-- Every pass of the lane ages by a slot. -/
theorem Lane.aged_get (l : Lane) (b : Nat) :
    SMap.get Bin.init (SMap.mapVals Bin.init (fun _ b => { b with pass := b.pass.map fun p => { p with total := p.total + 1 } }) l.bins) b =
      { l.getBin b with pass := (l.getBin b).pass.map fun p => { p with total := p.total + 1 } } :=
  SMap.get_mapVals_of_default (fun _ => rfl) l.bins b

/-- A pass that is not complete goes on with the slot, and a window discards it. -/
theorem Lane.measure_pass_of_some {l : Lane} {p : Pass} (h : (l.getBin l.bin.toNat).pass = some p) (hp : p.slots < 16) (nonce : Nat) (win : Bool) :
    ((l.measure nonce win).getBin l.bin.toNat).pass = if win then none else some (Pass.step { p with total := p.total + 1 } nonce) := by
  rw [Lane.getBin, Lane.measure, SMap.get_set_self, Lane.aged_get, h]
  exact if_pos hp

/-- A pass that is due starts with the slot, and a window discards it. -/
theorem Lane.measure_pass_of_none {l : Lane} (h : (l.getBin l.bin.toNat).pass = none) (nonce : Nat) (win : Bool) :
    ((l.measure nonce win).getBin l.bin.toNat).pass =
      if (l.getBin l.bin.toNat).ldue then (if win then none else some (Pass.step ⟨0, 1, []⟩ nonce)) else none := by
  rw [Lane.getBin, Lane.measure, SMap.get_set_self, Lane.aged_get, h]
  dsimp only [Option.map]
  split <;> rfl

/-- A slot of a lane that its stage keeps active, with the lane's owed check vector before the conversions. -/
theorem exec_sizingSlot {s : State} {t : PTile} {lane : Fin 2} (hu : (s.site t.site).up = true) (ha : (s.site t.site).arith = true)
    (hr : (s.tile t).clk.running = true) (hk : (s.tile t).clk.keeps lane = true) (hi : (s.lane t lane).inSlot = true) :
    let l := s.lane t lane
    let win := (s.site t.site).window.isSome
    let left := s.owesTest t && l.qualifies
    exec (.sizingSlot t lane) s = .next (s.sized t lane (win && l.since) (if win && !l.quar && !left && l.losesPass then 1 else 0)
      ((l.slotVector (win || l.checkVector s.nonce (s.lastVat t lane))).slotDone s.nonce win left)) := by
  simp only [exec, execSizingSlot, hu, ha, hr, hk, hi, Bool.and_self, if_true, Lane.runCv_eq]
  rfl

/-- Settles O34: the check vector runs, then the slot's conversions, which change the bins alone. -/
theorem sizingSlotsMeasure : Obligations.SizingSlotsMeasure := by
  unfold Obligations.SizingSlotsMeasure
  intro s t lane l x win hu ha hr hk hi
  refine .of_next (exec_sizingSlot hu ha hr hk hi) ?_
  intro m
  have hm : m = _ := State.lane_of_lanes (State.sized_lanes ..)
  obtain ⟨a, b, hslot⟩ := (l.slotVector (win || l.checkVector s.nonce (s.lastVat t lane))).slotDone_eq s.nonce win (s.owesTest t && l.qualifies)
  have hfields := hm.trans hslot
  have measures (hq : l.quar = false) (hleft : (s.owesTest t && l.qualifies) = false) :
      m = (l.slotVector (win || l.checkVector s.nonce (s.lastVat t lane))).measure s.nonce win := by
    rw [hm, hleft]; exact Lane.slotDone_measures (l := l.slotVector _) hq ..
  refine ⟨.of_lanes (State.sized_lanes ..), fun r hne => State.tile_sized_ne _ _ _ _ _ _ hne, ?_, ?_, ?_, ?_, ?_, ?_, ?_, ?_,
    fun hq hleft => ⟨fun hw => ⟨fun p hp h16 => ?_, fun hp => ?_⟩, fun hw h16 => ⟨?_, ?_⟩⟩, fun hq hleft => ?_⟩
  iterate 6 (rw [hfields]; rfl)
  · rw [State.tile_sized]; exact ⟨rfl, rfl, rfl⟩
  · rw [State.tile_sized]
  · rw [measures hq hleft]
    exact (Lane.measure_pass_of_some (l := l.slotVector _) hp h16 ..).trans (by rw [hw]; rfl)
  · rw [measures hq hleft]
    exact (Lane.measure_pass_of_none (l := l.slotVector _) hp ..).trans (by rw [hw]; rfl)
  · rw [measures hq hleft]
    cases hp : x.pass with
    | some p => exact (Lane.measure_pass_of_some (l := l.slotVector _) hp (h16 p hp) ..).trans (by rw [hw]; rfl)
    | none => exact (Lane.measure_pass_of_none (l := l.slotVector _) hp ..).trans (by rw [hw]; exact ite_self _)
  · rw [State.ctr_sized]
    change satAdd _ (if win && !l.quar && !(s.owesTest t && l.qualifies) && l.losesPass then 1 else 0) = _
    rw [hw, hq, hleft]
    rfl
  · rw [hm, hleft]
    exact Lane.slotDone_left ..

end Sys2Proof.Machine
end

section
/-! O35: closing check vectors and the verdicts of check vectors (R165–R167). -/

namespace Sys2Proof.Machine

/-- A check vector that is owed adds its outcome to the verdicts that are due. -/
theorem Lane.vectorRun_cvs {l : Lane} (h : l.since = true) (pass : Bool) : (l.vectorRun pass).cvs = l.cvs ++ [pass] := by
  rw [Lane.vectorRun, h, if_pos rfl]

/-- A closing check vector of a lane that has been used. -/
theorem exec_closingCheckVector {s : State} {t : PTile} {lane : Fin 2} (hw : (s.tile t).sc.wait = .send ∨ (s.tile t).sc.wait = .stepend)
    (hq : (s.tile t).quiet .lq = true) (hs : (s.lane t lane).since = true) (hr : s.tileRuns t = true) :
    let l := s.lane t lane
    let win := (s.site t.site).window.isSome
    exec (.closingCheckVector t lane) s = .next (s.sized t lane win 0 (l.vectorRun (win || l.checkVector s.nonce (s.lastVat t lane)))) := by
  simp only [exec, execClosingCheckVector, hq, hs, hr, hw, and_self, if_true, Lane.runCv_eq]
  rfl

/-- The event of a failed check vector, recoverable, and its count. -/
def State.vectorEvent (s : State) (t : PTile) (lane : Fin 2) : Fx :=
  ((Fx.ofTile (s.tile t)).raise ⟨t, s⟩ (3 + lane.val) evtCheckVector 0 .recov true).count .chkvec 1

theorem State.vectorEvent_drives (s : State) (t : PTile) (lane : Fin 2) : (s.vectorEvent t lane).drives = [] := Fx.count_drives ..

theorem State.vectorEvent_marks (s : State) (t : PTile) (lane : Fin 2) : evtCheckVector ∈ (s.vectorEvent t lane).tile.rp.rep.recov := by
  rw [State.vectorEvent, Fx.count_tile]
  exact List.mem_append_right _ (List.mem_singleton_self _)

/-- The lane after a verdict that failed: the others are due. -/
def Lane.vectorFailed (l : Lane) (rest : List Bool) : Lane := { l with cvs := rest, failedCv := true }

/-- The state after a verdict that failed, with `y` for the lane; a quarantine is recorded. -/
def State.vectorFails (s : State) (t : PTile) (lane : Fin 2) (y : Lane) (quar : Bool) : State :=
  let s1 := (s.commit t (s.vectorEvent t lane)).setLane t lane y
  { s1 with bbx := if quar then s1.bbx.append (quarRecord s t lane) else s1.bbx }

section
variable (s : State) (t : PTile) (lane : Fin 2) (y : Lane) (quar : Bool)

theorem State.vectorFails_lanes : (s.vectorFails t lane y quar).lanes = (s.setLane t lane y).lanes := by
  simp only [State.vectorFails, State.setLane, State.commit_lanes s t (s.vectorEvent_drives t lane)]

theorem State.tile_vectorFails : (s.vectorFails t lane y quar).tile t = (s.vectorEvent t lane).tile := State.tile_commit ..

theorem State.vectorFails_chkvec : (s.vectorFails t lane y quar).ctr t.site .chkvec = satAdd (s.ctr t.site .chkvec) 1 :=
  s.ctr_commit_count t (f := (Fx.ofTile (s.tile t)).raise ⟨t, s⟩ (3 + lane.val) evtCheckVector 0 .recov true) rfl rfl

/-- The record of the quarantine stands in the supervisor's ring. -/
theorem State.vectorFails_record (h : s.bbx.frozen = false) :
    SMap.get BbxRec.init (s.vectorFails t lane y true).bbx.recs s.bbx.next.toNat = quarRecord s t lane := by
  obtain ⟨-, hnext, hfrozen⟩ := s.bbx.siteLogAll_supervisor t.site (s.vectorEvent t lane).recs
  have := Bbx.append_recAt_self (hfrozen.trans h) (quarRecord s t lane)
  rwa [hnext] at this

end

section
variable {s : State} {t : PTile} {lane : Fin 2} {rest : List Bool} (hu : (s.site t.site).up = true)
include hu

/-- A verdict that passes leaves the tile; the lane's next one is due. -/
theorem exec_checkVectorVerdict_pass (h : (s.lane t lane).cvs = true :: rest) :
    exec (.checkVectorVerdict t lane) s = .next ((s.commit t (Fx.ofTile (s.tile t))).setLane t lane { s.lane t lane with cvs := rest }) := by
  simp only [exec, execCheckVectorVerdict, h, hu, if_true, Bool.not_true, Bool.false_and, Bool.or_false]
  rfl

/-- A verdict that fails, outside the replay or of a lane that had not failed. -/
theorem exec_checkVectorVerdict_first (h : (s.lane t lane).cvs = false :: rest) (hf : ((s.lane t lane).failedCv && s.inReplay t) = false) :
    exec (.checkVectorVerdict t lane) s = .next (s.vectorFails t lane ((s.lane t lane).vectorFailed rest) false) := by
  simp only [exec, execCheckVectorVerdict, h, hu, hf, if_true, Bool.not_false, Bool.true_and, Bool.or_true, Bool.false_eq_true, if_false]
  rfl

/-- A second failure, in the replay, quarantines the lane. -/
theorem exec_checkVectorVerdict_second (h : (s.lane t lane).cvs = false :: rest) (hf : ((s.lane t lane).failedCv && s.inReplay t) = true) :
    exec (.checkVectorVerdict t lane) s = .next (s.vectorFails t lane
      (((s.lane t lane).vectorFailed rest).quarantine.redrive (s.tile t).clk lane.val) true) := by
  simp only [exec, execCheckVectorVerdict, h, hu, hf, if_true, Bool.not_false, Bool.true_and, Bool.false_eq_true, if_false]
  rfl

end

/-- Settles O35: a closing vector is run as in a sizing slot; a verdict that fails is marked and counted, the second one in the replay
quarantines. -/
theorem checkVectorsAreJudged : Obligations.CheckVectorsAreJudged := by
  unfold Obligations.CheckVectorsAreJudged
  intro s t lane l win
  refine ⟨fun hw hq hs hr => ?_, fun ok rest h hu => ?_⟩
  · have hlane := State.lane_of_lanes (s.sized_lanes t lane win 0 (l.vectorRun (win || l.checkVector s.nonce (s.lastVat t lane))))
    refine .of_next (exec_closingCheckVector hw hq hs hr) ⟨.of_lanes (State.sized_lanes ..), ?_⟩
    rw [hlane, State.tile_sized]
    exact ⟨rfl, Lane.vectorRun_cvs hs _, rfl, rfl, rfl⟩
  cases ok with
  | true =>
    have lanes (y : Lane) : ((s.commit t (Fx.ofTile (s.tile t))).setLane t lane y).lanes = (s.setLane t lane y).lanes := rfl
    have tile (y : Lane) : ((s.commit t (Fx.ofTile (s.tile t))).setLane t lane y).tile t = s.tile t := State.tile_commit ..
    refine .of_next (exec_checkVectorVerdict_pass hu h) ⟨.of_lanes (lanes _), ?_⟩
    rw [State.lane_of_lanes (lanes _), tile]
    exact ⟨rfl, rfl, rfl, fun _ => ⟨rfl, rfl, rfl⟩, nofun⟩
  | false =>
    have sc : (s.vectorEvent t lane).tile.sc = (s.tile t).sc := by rw [State.vectorEvent, Fx.count_tile]; rfl
    have mem : (s.vectorEvent t lane).tile.mem = (s.tile t).mem := by rw [State.vectorEvent, Fx.count_tile]; rfl
    cases hf : l.failedCv && s.inReplay t with
    | false =>
      refine .of_next (exec_checkVectorVerdict_first hu h hf) ⟨.of_lanes (State.vectorFails_lanes ..), ?_⟩
      rw [State.lane_of_lanes (State.vectorFails_lanes ..), State.tile_vectorFails]
      exact ⟨rfl, sc, mem, nofun, fun _ => ⟨s.vectorEvent_marks t lane, State.vectorFails_chkvec .., rfl, fun _ => ⟨rfl, rfl⟩, nofun⟩⟩
    | true =>
      obtain ⟨d, hd⟩ := (l.vectorFailed rest).quarantine.redrive_eq (s.tile t).clk lane.val
      refine .of_next (exec_checkVectorVerdict_second hu h hf) ⟨.of_lanes (State.vectorFails_lanes ..), ?_⟩
      rw [State.lane_of_lanes (State.vectorFails_lanes ..), State.tile_vectorFails, hd]
      exact ⟨rfl, sc, mem, nofun, fun _ => ⟨s.vectorEvent_marks t lane, State.vectorFails_chkvec .., rfl, nofun,
        fun _ => ⟨rfl, rfl, State.vectorFails_record s t lane _⟩⟩⟩

end Sys2Proof.Machine
end

section
/-! SUPPORT. The end of a pass (R156–R159): the bin and the values of the lane that accepts or rejects it. -/

namespace Sys2Proof.Machine

theorem passCals_length (sums : SMap Nat) : (passCals sums).length = 520 := by simp [passCals]

/-- A key of a list of values that is written reads as the value at its place. -/
theorem SMap.get_setList_map {V α : Type} [DecidableEq V] (d : V) (m : List (Nat × V)) (b : Nat) (f : α → V) {l : List α} {i : Nat} {a : α}
    (h : l[i]? = some a) : get d (setList d m b (l.map f)) (b + i) = f a := by
  obtain ⟨hi, rfl⟩ := List.getElem?_eq_some_iff.1 h
  rw [get_setList_self d m b _ (by rwa [List.length_map]), List.getElem_map]

/-! ### The bin -/

/-- A bin after an acceptance (R158, R161, R171). -/
def Bin.accept (x : Bin) : Bin :=
  let warm := x.warm || min 2 (x.accepted + 1) == 2
  { x with
    held := true, count := x.count + 1, wrap := x.wrap || x.count == 0xFFFFFFFF, barred := false, barwhy := 0, lbarred := false
    accepted := min 2 (x.accepted + 1), warm := warm, due := !warm, ldue := !warm, pass := none, unstamped := true }

/-- A bin is warm with the second acceptance in succession. -/
theorem Bin.accept_warm (x : Bin) : x.accept.warm = (x.warm || decide (1 ≤ x.accepted)) := by
  refine congrArg (x.warm || ·) (Bool.eq_iff_iff.2 ?_)
  rw [beq_iff_eq, decide_eq_true_iff]
  omega

/-- A bin after a rejection (R159). -/
def Bin.reject (x : Bin) : Bin := { x with rej := satAdd x.rej 1, pass := none, accepted := if x.warm then 2 else 0 }

namespace Lane

variable (l : Lane) (b : Nat)

/-- What an acceptance of bin `b` makes of lane `l`: the bin and the values of its range are new (R158). -/
structure Accepted (m : Lane) (ns : List NewCal) : Prop where
  bin : m.getBin b = (l.getBin b).accept
  others : ∀ k : Nat, k ≠ b → m.getBin k = l.getBin k
  gain : m.gain = SMap.setList 0 l.gain (520 * b) (ns.map fun n => BitVec.ofInt 16 n.gain)
  offset : m.offset = SMap.setList 0 l.offset (520 * b) (ns.map fun n => BitVec.ofInt 12 n.off)
  dens : m.dens = SMap.setList 0 l.dens 0 (ns.map fun n => BitVec.ofInt 16 n.dens)
  succ : m.succ = 0
  qcount : m.qcount = l.qcount

theorem lift_bins : l.lift.bins = l.bins := rfl

theorem accept_bins (ns : List NewCal) : (l.accept b ns).bins = SMap.set Bin.init l.bins b (l.getBin b).accept := by
  simp only [accept, Bin.accept]

theorem accept_accepted (ns : List NewCal) (d : Drive) : l.Accepted b { (l.accept b ns).lift with drive := d } ns where
  bin := by rw [getBin, lift_bins, accept_bins, SMap.get_set_self]
  others k h := by rw [getBin, lift_bins, accept_bins, SMap.get_set_ne _ _ _ h, getBin]
  gain := by simp only [lift, accept]
  offset := by simp only [lift, accept]
  dens := by simp only [lift, accept]
  succ := by simp only [lift, accept]
  qcount := by simp only [lift, accept]

/-- A rejection that does not quarantine. -/
theorem reject_of_lt (h : l.succ < 2) : l.reject b = { l.setBin b (l.getBin b).reject with succ := l.succ + 1 } :=
  if_neg (by omega)

/-- The third rejection in succession quarantines. -/
theorem reject_of_le (h : 2 ≤ l.succ) : l.reject b = ({ l.setBin b (l.getBin b).reject with succ := l.succ + 1 } : Lane).quarantine :=
  if_pos (by omega)

theorem reject_getBin_self : (l.reject b).getBin b = (l.getBin b).reject := by
  by_cases h : l.succ < 2
  · rw [reject_of_lt l b h]; exact l.getBin_setBin_self b _
  · rw [reject_of_le l b (by omega), getBin_quarantine]
    exact congrArg (fun x : Bin => { x with pass := none }) (l.getBin_setBin_self b _)

/-- A rejection leaves the values in use. -/
theorem reject_values : (l.reject b).gain = l.gain ∧ (l.reject b).offset = l.offset ∧ (l.reject b).dens = l.dens := by
  by_cases h : l.succ < 2
  · rw [reject_of_lt l b h]; exact ⟨rfl, rfl, rfl⟩
  · rw [reject_of_le l b (by omega)]; exact ⟨rfl, rfl, rfl⟩

variable {b} {sums : SMap Nat}

theorem judge_of_plausible (h : l.plausible b (passCals sums) = true) : l.judge b sums = (l.accept b (passCals sums)).lift := if_pos h

theorem judge_of_implausible (h : l.plausible b (passCals sums) = false) : l.judge b sums = l.reject b :=
  if_neg (by rw [h]; exact Bool.false_ne_true)

/-- Load drive has no part in the outcome of a pass. -/
theorem judge_undriven (d : Drive) : (({ l with drive := d } : Lane).judge b sums).undriven = (l.judge b sums).undriven := by
  have same : ({ l with drive := d } : Lane).plausible b (passCals sums) = l.plausible b (passCals sums) := rfl
  cases h : l.plausible b (passCals sums) with
  | true => rw [judge_of_plausible _ h, judge_of_plausible _ (same.trans h)]; rfl
  | false =>
    rw [judge_of_implausible _ h, judge_of_implausible _ (same.trans h)]
    by_cases hs : l.succ < 2
    · rw [reject_of_lt l b hs, reject_of_lt { l with drive := d } b hs]; rfl
    · rw [reject_of_le l b (by omega), reject_of_le { l with drive := d } b (Nat.not_lt.1 hs)]; rfl

end Lane

/-! ### The block -/

/-- From `s` to `u` lanes change in their load drive alone; tiles, vats, the network, the counters and the supervisor's records stay. -/
structure State.DrivesOnly (s u : State) : Prop where
  lanes : ∀ k : Nat, (SMap.get Lane.init u.lanes k).undriven = (SMap.get Lane.init s.lanes k).undriven
  tiles : u.tiles = s.tiles
  vats : u.vats = s.vats
  vatMem : u.vatMem = s.vatMem
  net : u.net = s.net
  bbx : u.bbx = s.bbx
  sup : u.sup = s.sup
  ctrs : u.ctrs = s.ctrs

theorem State.DrivesOnly.refl (s : State) : s.DrivesOnly s := ⟨fun _ => rfl, rfl, rfl, rfl, rfl, rfl, rfl, rfl⟩

theorem State.DrivesOnly.ite {s u w : State} {p : Prop} [Decidable p] (a : s.DrivesOnly u) (b : s.DrivesOnly w) :
    s.DrivesOnly (if p then u else w) := by split <;> assumption

/-- A warm-up stage turns load drive on and off (R171). -/
theorem State.warmTurn_drivesOnly (s : State) (site : Fin 64) (b : Fin 4) (k : Nat) : s.DrivesOnly (s.warmTurn site b k) := by
  refine .ite (.refl s) ⟨fun j => ?_, rfl, rfl, rfl, rfl, rfl, rfl, rfl⟩
  refine (SMap.get_modifyAll_field _ Lane.undriven (by intros; rfl) ..).trans (SMap.get_modifyAll_field _ Lane.undriven ?_ ..)
  intro k l
  split <;> rfl

/-- The end of a site's warm-up turns load drive off. -/
theorem State.warmEnd_drivesOnly (s : State) (site : Fin 64) : s.DrivesOnly (s.warmEnd site) :=
  .ite (.refl s) ⟨fun _ => SMap.get_modifyAll_field _ Lane.undriven (by intros; rfl) .., rfl, rfl, rfl, rfl, rfl, rfl, rfl⟩

/-- From `s` to `u` the lane's pass for bin `b` has ended with these sums: acceptance with its report, or rejection, whose quarantine is
recorded. -/
structure PassJudged (s u : State) (t : PTile) (lane : Fin 2) (b : Fin 4) (sums : SMap Nat) : Prop where
  judged : (u.lane t lane).undriven = ((s.lane t lane).judge b.val sums).undriven
  others : ∀ (r : PTile) (k : Fin 2), (r ≠ t ∨ k ≠ lane) → (u.lane r k).undriven = (s.lane r k).undriven
  tiles : u.tiles = s.tiles
  vats : u.vats = s.vats
  vatMem : u.vatMem = s.vatMem
  net : u.net = s.net.send (if (s.lane t lane).plausible b.val (passCals sums) then [acceptedFlit s t lane b] else [])
  bbx : u.bbx = s.bbx.appendAll
    (if !(s.lane t lane).plausible b.val (passCals sums) && 2 ≤ (s.lane t lane).succ then [quarRecord s t lane] else [])

theorem State.judgePass_lanes (s : State) (t : PTile) (lane : Fin 2) (b : Fin 4) (sums : SMap Nat) (used : Nat) :
    (s.judgePass t lane b sums used).lanes =
      (s.setLane t lane (((s.lane t lane).judge b.val sums).redrive (s.tile t).clk lane.val)).lanes := rfl

theorem State.judgePass_judged (s : State) (t : PTile) (lane : Fin 2) (b : Fin 4) (sums : SMap Nat) (used : Nat) :
    PassJudged s (s.judgePass t lane b sums used) t lane b sums where
  judged := (congrArg Lane.undriven (State.lane_of_lanes (s.judgePass_lanes ..))).trans (Lane.redrive_undriven ..)
  others r k h := congrArg Lane.undriven (OnlyLane.of_lanes (s.judgePass_lanes ..) r k h)
  tiles := by simp only [State.judgePass]
  vats := by simp only [State.judgePass]
  vatMem := by simp only [State.judgePass]
  net := by simp only [State.judgePass]
  bbx := by simp only [State.judgePass]

/-- Load drive before and after has no part in it. -/
theorem PassJudged.of_drivesOnly {s s1 u1 u : State} {t : PTile} {lane : Fin 2} {b : Fin 4} {sums : SMap Nat} (a : s.DrivesOnly s1)
    (h : PassJudged s1 u1 t lane b sums) (c : u1.DrivesOnly u) : PassJudged s u t lane b sums := by
  obtain ⟨d, hd⟩ : ∃ d, s1.lane t lane = { s.lane t lane with drive := d } := Lane.eq_of_undriven (a.lanes _)
  have flit : acceptedFlit s1 t lane b = acceptedFlit s t lane b := by rw [acceptedFlit, acceptedFlit, State.tile, State.tile, a.net, a.tiles]
  have record : quarRecord s1 t lane = quarRecord s t lane := by rw [quarRecord, quarRecord, State.tile, State.tile, a.sup, a.tiles]
  obtain ⟨hlane, hothers, htiles, hvats, hmem, hnet, hbbx⟩ := h
  rw [hd, Lane.judge_undriven] at hlane
  rw [hd, a.net, flit] at hnet
  rw [hd, a.bbx, record] at hbbx
  exact ⟨(c.lanes _).trans hlane, fun r k hne => ((c.lanes _).trans (hothers r k hne)).trans (a.lanes _), c.tiles.trans (htiles.trans a.tiles),
    c.vats.trans (hvats.trans a.vats), c.vatMem.trans (hmem.trans a.vatMem), c.net.trans hnet, c.bbx.trans hbbx⟩

end Sys2Proof.Machine
end

section
/-! O36: complete passes and passes of warm-up (R156–R159, R171–R174). -/

namespace Sys2Proof.Machine

theorem exec_sizingPassResult {s : State} {t : PTile} {lane : Fin 2} {bin : Fin 4} {p : Pass} (hu : (s.site t.site).up = true)
    (hp : ((s.lane t lane).getBin bin.val).pass = some p) (h16 : p.slots = 16) :
    exec (.sizingPassResult t lane bin) s = .next (s.judgePass t lane bin p.sums 0) := by
  simp only [exec, execSizingPassResult, hp, h16, hu, and_self, if_true]

/-- A pass of warm-up may run on the lane and bin: clocks run, no neighbour test is to come (R508), the tile is good and runs no stage, the
bin owes warm-up, no quarantine keeps the lane, and the power cap has room (R528). -/
structure WarmUpRuns (s : State) (t : PTile) (lane : Fin 2) (bin : Fin 4) : Prop where
  up : (s.site t.site).up = true
  arith : (s.site t.site).arith = true
  tests : s.testsDue t.site = false
  bad : (s.tile t).pl.bad = false
  idle : (s.tile t).clk.running = false
  owed : ((s.lane t lane).getBin bin.val).warm = false ∨ ((s.lane t lane).getBin bin.val).barred = true
  free : (s.lane t lane).quar = false ∨ (s.lane t lane).lifting = true
  room : (s.site t.site).warmSet.contains (laneKey t lane) = true ∨ s.warmFits t.site bin (laneKey t lane) = true

theorem exec_warmUp {s : State} {t : PTile} {lane : Fin 2} {bin : Fin 4} (h : WarmUpRuns s t lane bin) :
    exec (.warmUp t lane bin) s = .next (if (s.site t.site).window.isSome then
        { s.warmTurn t.site bin (laneKey t lane) with ctrs := ctrAdd (s.warmTurn t.site bin (laneKey t lane)).ctrs t.site .discard 1 }
      else ((s.warmTurn t.site bin (laneKey t lane)).judgePass t lane bin (warmSums s.nonce) 1).warmEnd t.site) := by
  have owed : (!((s.lane t lane).getBin bin.val).warm || ((s.lane t lane).getBin bin.val).barred) = true := by simpa using h.owed
  have free : (!(s.lane t lane).quar || (s.lane t lane).lifting) = true := by simpa using h.free
  have room : ((s.site t.site).warmSet.contains (laneKey t lane) || s.warmFits t.site bin (laneKey t lane)) = true := by
    rw [Bool.or_eq_true]; exact h.room
  simp only [exec, execWarmUp, h.up, h.arith, h.tests, h.bad, h.idle, owed, free, room, Bool.not_false, Bool.and_self, if_true]

/-- Settles O36: the lane that a pass ends on is the judged one but for its load drive, in sizing slots and in warm-up. -/
theorem passesAreJudged : Obligations.PassesAreJudged := by
  unfold Obligations.PassesAreJudged
  intro s t lane bin l x undriven judged hu
  have judged_of {i : Instr} {u : State} {sums : SMap Nat} (hx : exec i s = .next u) (h : PassJudged s u t lane bin sums) : judged i sums := by
    refine .of_next hx ?_
    intro m b
    obtain ⟨hlane, hothers, htiles, hvats, hmem, hnet, hbbx⟩ := h
    obtain ⟨d, hm⟩ : ∃ d, m = { l.judge bin.val sums with drive := d } := Lane.eq_of_undriven hlane
    cases hp : l.plausible bin.val (passCals sums) with
    | true =>
      rw [Lane.judge_of_plausible l hp] at hm
      obtain ⟨hb, hbins, hgain, hoffset, hdens, hsucc, hqcount⟩ : l.Accepted bin.val m (passCals sums) := hm ▸ l.accept_accepted ..
      rw [hp, if_pos rfl] at hnet
      refine ⟨hothers, htiles, hvats, hmem, congrArg Bin.pass hb, fun _ => ?_, nofun⟩
      rw [show b = x.accept from hb, hgain, hoffset, hdens]
      refine ⟨rfl, rfl, rfl, rfl, rfl, rfl, rfl, rfl, x.accept_warm, fun c _ n hc => ⟨?_, ?_, ?_⟩, fun k hk => ⟨?_, ?_⟩, hsucc, hqcount,
        hbins, congrArg Net.flits hnet⟩
      · exact SMap.get_setList_map 0 l.gain _ (fun n : NewCal => BitVec.ofInt 16 n.gain) hc
      · exact SMap.get_setList_map 0 l.offset _ (fun n : NewCal => BitVec.ofInt 12 n.off) hc
      · have := SMap.get_setList_map 0 l.dens 0 (fun n : NewCal => BitVec.ofInt 16 n.dens) hc
        rwa [Nat.zero_add] at this
      · exact SMap.get_setList_ne 0 l.gain _ (by rwa [List.length_map, passCals_length])
      · exact SMap.get_setList_ne 0 l.offset _ (by rwa [List.length_map, passCals_length])
    | false =>
      rw [Lane.judge_of_implausible l hp] at hm
      have hb : b = x.reject := (congrArg (Lane.getBin · bin.val) hm).trans (l.reject_getBin_self bin.val)
      obtain ⟨hgain, hoffset, hdens⟩ := l.reject_values bin.val
      rw [hp, if_neg Bool.false_ne_true, Net.send_nil] at hnet
      refine ⟨hothers, htiles, hvats, hmem, by rw [hb]; rfl, nofun, fun _ => ?_⟩
      rw [hb, hm]
      refine ⟨rfl, rfl, rfl, rfl, hgain, hoffset, hdens, hnet, fun hs => ?_, fun hs => ?_⟩
      · rw [Lane.reject_of_lt l _ hs]
        refine ⟨rfl, rfl, rfl, hbbx.trans ?_⟩
        rw [hp, decide_eq_false (Nat.not_le.2 hs)]
        rfl
      · rw [Lane.reject_of_le l _ hs]
        refine ⟨rfl, rfl, fun hf => ?_⟩
        rw [hbbx, hp, decide_eq_true hs]
        exact Bbx.append_recAt_self hf _
  refine ⟨fun p hp h16 => ?_, fun ha ht hb hi owed hq room => ?_⟩
  · have hx := exec_sizingPassResult hu hp h16
    exact ⟨judged_of hx (s.judgePass_judged ..), .of_next hx (.of_lanes (s.judgePass_lanes ..))⟩
  · have hx := exec_warmUp ⟨hu, ha, ht, hb, hi, owed, hq, room⟩
    have turn := s.warmTurn_drivesOnly t.site bin (laneKey t lane)
    refine ⟨fun hw => ?_, fun hw => ?_⟩
    · rw [hw, Option.isSome_none, if_neg Bool.false_ne_true] at hx
      exact judged_of hx (.of_drivesOnly turn (State.judgePass_judged ..) (State.warmEnd_drivesOnly ..))
    · rw [Option.isSome_iff_ne_none.2 hw, if_pos rfl] at hx
      refine .of_next hx ⟨fun r k => turn.lanes _, turn.tiles, turn.net, ?_⟩
      exact (SMap.get_set_self ..).trans (by rw [turn.ctrs]; rfl)

end Sys2Proof.Machine
end

section
/-! O37: the time limits of passes and of warm-up (R154, R172), and the age of bins (R160–R163). -/

namespace Sys2Proof.Machine

/-! ### One bin of a lane written -/

/-- From `s` to `u` bin `b` of the lane has become `c`; the lane's other bins and its values, the other lanes and the tiles stay. -/
structure BinBecomes (s u : State) (t : PTile) (lane : Fin 2) (b : Nat) (c : Bin) : Prop where
  only : OnlyLane s u t lane
  bin : (u.lane t lane).getBin b = c
  others : ∀ k : Nat, k ≠ b → (u.lane t lane).getBin k = (s.lane t lane).getBin k
  gain : (u.lane t lane).gain = (s.lane t lane).gain

section
variable {s u : State} {t : PTile} {lane : Fin 2} {b : Nat} {c : Bin}

/-- The bin is written, and load drive may start. -/
theorem BinBecomes.of_setBin {d : Drive} (h : u.lanes = (s.setLane t lane { (s.lane t lane).setBin b c with drive := d }).lanes) :
    BinBecomes s u t lane b c := by
  refine ⟨.of_lanes h, ?_, fun k hk => ?_, ?_⟩
  · rw [State.lane_of_lanes h]; exact Lane.getBin_setBin_self ..
  · rw [State.lane_of_lanes h]; exact Lane.getBin_setBin_ne _ _ hk
  · rw [State.lane_of_lanes h]; rfl

/-- A lane that is written as it was keeps its bins. -/
theorem BinBecomes.of_same (h : u.lanes = (s.setLane t lane (s.lane t lane)).lanes) : BinBecomes s u t lane b ((s.lane t lane).getBin b) := by
  have same := State.lane_of_lanes h
  exact ⟨.of_lanes h, by rw [same], fun k _ => by rw [same], by rw [same]⟩

end

/-! ### Discarded passes -/

theorem exec_sizingPassDiscard {s : State} {t : PTile} {lane : Fin 2} {bin : Fin 4} {p : Pass}
    (hp : ((s.lane t lane).getBin bin.val).pass = some p) (ht : 16384 ≤ p.total) (h16 : p.slots < 16) :
    exec (.sizingPassDiscard t lane bin) s = .next
      { s.setBin t lane bin { (s.lane t lane).getBin bin.val with pass := none } with ctrs := ctrAdd s.ctrs t.site .discard 1 } := by
  simp only [exec, execSizingPassDiscard, hp, ht, h16, and_self, if_true]
  rfl

/-! ### Failed tiles -/

theorem State.undoInstall_of_none {s : State} {p : Fin 32} (h : (s.part p).prev = none) (rows : List (PTile × Nat)) : s.undoInstall p rows = s := by
  rw [State.undoInstall, h]

/-- A replacement that is due leaves everything but serving, and the partition's reset is due. -/
structure ReplaceDue (s u : State) (p : Fin 32) : Prop where
  due : (u.part p).resetDue = true
  tiles : u.tiles = s.tiles
  lanes : u.lanes = s.lanes

theorem State.replaceDue_due {s : State} {p : Fin 32} (h : (s.part p).oos = false) : ReplaceDue s (s.replaceDue p) p := by
  rw [State.replaceDue, h, if_neg Bool.false_ne_true]
  split
  · exact ⟨congrArg Part.resetDue (SMap.get_set_self ..), rfl, rfl⟩
  · exact ⟨congrArg Part.resetDue (SMap.get_set_self ..), rfl, rfl⟩

/-- A tile that has failed (R172). -/
def Tile.failed (x : Tile) : Tile := { x with pl := { x.pl with failed := true } }

/-- The failure of a tile whose partition installs nothing. -/
theorem State.failTile_of_part {s : State} {t : PTile} {p : Fin 32} (hp : (s.tile t).pl.part = some p) (hprev : (s.part p).prev = none) :
    s.failTile t = (s.setTile t (s.tile t).failed).replaceDue p := by
  simp only [State.failTile, Tile.failed, hp]
  rw [State.undoInstall_of_none]
  exact hprev

/-! ### Warm-up in time -/

/-- A lane whose warm-up has taken too long: quarantined, where it is not already. -/
def Lane.timedOut (l : Lane) : Lane := if l.quar && !l.lifting then l else l.quarantine

theorem Lane.timedOut_quar (l : Lane) : l.timedOut.quar = true := by
  unfold Lane.timedOut
  split
  next h => exact (Bool.and_eq_true_iff.1 h).1
  next => rfl

theorem Lane.timedOut_qcount {l : Lane} (h : l.quar = false) : l.timedOut.qcount = satAdd l.qcount 1 := by
  rw [Lane.timedOut, h]; rfl

/-- The state with the lane timed out and records in the black box. -/
def State.timedOut (s : State) (t : PTile) (lane : Fin 2) (b : Bbx) : State := { s.setLane t lane (s.lane t lane).timedOut with bbx := b }

theorem exec_warmUpTimeout {s : State} {t : PTile} {lane : Fin 2} (hu : (s.site t.site).up = true) (hw : (s.lane t lane).warmedUp = false)
    (hr : (s.lane t lane).rewarm = true) (hs : (s.site t.site).warmSet ≠ []) (hb : (s.tile t).pl.bad = false)
    (hf : (s.tile t).pl.failed = false) (ht : 1000000 ≤ s.sup.counter.toNat - (s.site t.site).warmFrom.toNat) :
    ∃ b : Bbx, exec (.warmUpTimeout t lane) s = .next ((s.timedOut t lane b).failTile t) := by
  have started : (!(s.site t.site).warmSet.isEmpty) = true := by simpa using hs
  simp only [exec, execWarmUpTimeout, hu, hw, hr, started, hb, hf, ht, Bool.not_false, Bool.and_self, decide_true, if_true]
  exact ⟨_, rfl⟩

/-! ### Ages -/

section
variable {s : State} {t : PTile} {lane : Fin 2} {bin : Fin 4}

theorem exec_acceptanceReport (hu : ((s.lane t lane).getBin bin.val).unstamped = true)
    (hr : s.net.ready (fun f => f.src == t.key && f.msg == .accepted lane bin) = true) : exec (.acceptanceReport t lane bin) s = .next
      { s.setBin t lane bin { (s.lane t lane).getBin bin.val with unstamped := false, ts := s.sup.counter } with
        net := s.net.drop fun f => f.src == t.key && f.msg == .accepted lane bin } := by
  simp only [exec, execAcceptanceReport, hu, hr, Bool.and_self, if_true]
  rfl

theorem exec_binDue (hh : ((s.lane t lane).getBin bin.val).held = true) (hs : ((s.lane t lane).getBin bin.val).unstamped = false)
    (hd : ((s.lane t lane).getBin bin.val).due = false) (ha : 10000000 ≤ s.binAge ((s.lane t lane).getBin bin.val)) :
    exec (.binDue t lane bin) s = .next { s.setBin t lane bin { (s.lane t lane).getBin bin.val with due := true } with
      net := s.net.send [sizingFlit s t lane bin false ((s.lane t lane).getBin bin.val).count] } := by
  simp only [exec, execBinDue, hh, hs, hd, ha, Bool.not_false, Bool.and_self, decide_true, if_true]
  rfl

theorem exec_binBarred (hh : ((s.lane t lane).getBin bin.val).held = true) (hs : ((s.lane t lane).getBin bin.val).unstamped = false)
    (hb : ((s.lane t lane).getBin bin.val).barred = false) (ha : 49900000 ≤ s.binAge ((s.lane t lane).getBin bin.val)) :
    exec (.binBarred t lane bin) s = .next
      { s.setBin t lane bin { (s.lane t lane).getBin bin.val with due := true, barred := true, barwhy := 1 } with
        net := s.net.send [sizingFlit s t lane bin true ((s.lane t lane).getBin bin.val).count] } := by
  simp only [exec, execBinBarred, hh, hs, hb, ha, Bool.not_false, Bool.and_self, decide_true, if_true]
  rfl

/-- The lane that a due or bar message for count `n` reaches. -/
def Lane.marked (l : Lane) (b : Nat) (bar : Bool) : Lane :=
  l.setBin b { l.getBin b with ldue := true, lbarred := (l.getBin b).lbarred || bar }

variable {bar : Bool} {n : Word} (ha : s.net.inOrder (·.isWrite t.port0) t.port0 (.sizing lane bin bar n) = true)
include ha

theorem exec_dueBarMessage : exec (.dueBarMessage t lane bin bar n) s = .next
    { s.setLane t lane (if ((s.lane t lane).getBin bin.val).count = n then
        ((s.lane t lane).marked bin.val bar).redrive (s.tile t).clk lane.val else s.lane t lane) with
      net := s.net.drop fun f => f.arrived t.port0 && f.msg == .sizing lane bin bar n } := by
  simp only [exec, execDueBarMessage, ha, if_true]
  rfl

end

/-- Settles O37: each limit and each message writes one bin or quarantines the lane; a message for another count leaves the bin. -/
theorem binsAge : Obligations.BinsAge := by
  unfold Obligations.BinsAge
  refine ⟨fun s t lane => ⟨fun bin p hp ht h16 => ?_, fun p hu hw hr hs hb hf hp ho hprev ht => ?_⟩, fun s t lane bin => ?_⟩
  · obtain ⟨only, hbin, hothers, hgain⟩ : BinBecomes s { s.setBin t lane bin _ with ctrs := ctrAdd s.ctrs t.site .discard 1 } t lane bin.val _ :=
      .of_setBin rfl
    exact .of_next (exec_sizingPassDiscard hp ht h16) ⟨only, hbin, hothers, hgain, SMap.get_set_self .., rfl⟩
  · obtain ⟨b, hx⟩ := exec_warmUpTimeout hu hw hr hs hb hf ht
    rw [State.failTile_of_part (s := s.timedOut t lane b) hp hprev] at hx
    obtain ⟨due, tiles, lanes⟩ := State.replaceDue_due (s := (s.timedOut t lane b).setTile t (s.tile t).failed) ho
    have tile (r : PTile) := congrArg (SMap.get Tile.init · r.key) tiles
    have hlane := State.lane_of_lanes (s := s) lanes
    refine .of_next hx ⟨.of_lanes lanes, ?_, ?_, ?_, ?_, due, fun r hr => (tile r).trans (State.tile_setTile_ne s _ hr)⟩
    · exact (congrArg Lane.quar hlane).trans (Lane.timedOut_quar _)
    · exact fun h => (congrArg Lane.qcount hlane).trans (Lane.timedOut_qcount h)
    · exact congrArg (·.pl.failed) ((tile t).trans (State.tile_setTile s t _))
    · exact congrArg (·.sc) ((tile t).trans (State.tile_setTile s t _))
  · intro b sets
    have sets_of {i : Instr} {u : State} {c : Bin} (hx : exec i s = .next u) (h : BinBecomes s u t lane bin.val c) (ht : u.tiles = s.tiles)
        (hp : u.parts = s.parts) (hs : u.sup = s.sup) : sets i c := .of_next hx ⟨h.only, h.bin, h.others, h.gain, ht, hp, hs⟩
    refine ⟨fun hu hr => ?_, fun hh hs => ⟨fun hd ha => ?_, fun hb ha => ?_⟩, fun bar ha => ?_, fun bar n hn ha => ?_⟩
    · exact sets_of (exec_acceptanceReport hu hr) (.of_setBin rfl) rfl rfl rfl
    · have hx := exec_binDue hh hs hd ha
      exact ⟨sets_of hx (.of_setBin rfl) rfl rfl rfl, .of_next hx rfl⟩
    · have hx := exec_binBarred hh hs hb ha
      exact ⟨sets_of hx (.of_setBin rfl) rfl rfl rfl, .of_next hx rfl⟩
    · have hx := exec_dueBarMessage ha
      obtain ⟨d, hd⟩ := ((s.lane t lane).marked bin.val bar).redrive_eq (s.tile t).clk lane.val
      rw [if_pos rfl, hd] at hx
      exact sets_of hx (.of_setBin rfl) rfl rfl rfl
    · have hx := exec_dueBarMessage ha
      rw [if_neg hn.symm] at hx
      exact sets_of hx (.of_same rfl) rfl rfl rfl

end Sys2Proof.Machine
end

section
/-! O6: LW where a lane has waited for its bank for longer than the 64 cycles for which the ports taken are kept. The scalar core
compares its access with the lane's as it stood, while the lane's losses are counted without the ports forgotten by then: the lane, which
by the statement's premise does not want the port in that cycle, counts a slip that it had met before. -/

namespace Sys2Proof.Machine

/-- An evaluation of lane 0 that has issued in cycle 0: its first row lies in bank 0, the others in bank 1. -/
def waitingEval : QCmd :=
  { op := .leval, f1 := 0, f2 := 0, f3 := 0, mod := 0, a := 0x1FFC0, b := 0x1000, c := 0, pc := 0, tag := 0, seq := 0, st := .issued,
    slipped := [], sub := false, age := 0, at_ := 0, win := false, swaps := 0, lost := [], vatAsk := none }

/-- The scalar core has held bank 0 in cycles 0 to 64, and bank 1 in cycle 1. -/
def portHog : Tile :=
  { Tile.init with
    sc := { Scalar.init with cyc := 65 }
    pl := { Tile.init.pl with part := some 0 }
    lq := [waitingEval]
    ports := ⟨2, 1, 1⟩ :: (List.range 65).map fun n => ⟨2, n, 0⟩ }

/-- Site 0 runs that tile. -/
def portHogState : State :=
  { State.reset with
    sites := [(0, { Site.init with up := true, arith := true })]
    tiles := [(0, portHog)] }

/-- The accesses that the commands of a tile's lanes have lost, after a step. -/
def laneLosses (t : PTile) : Out → List (List Nat)
  | .next u => (u.tile t).lq.map (·.lost)
  | _ => []

/-- The load of word 0 counts a lost access of the lane. -/
theorem portHogState_loses : laneLosses ⟨0, 0, 0⟩ (exec (.lw ⟨0, 0, 0⟩ 0 0 0) portHogState) = [[1]] := by decide +kernel

theorem portHogState_issues : Issues portHogState ⟨0, 0, 0⟩ [0, 0] :=
  ⟨by decide, by decide, by decide, by decide, by decide⟩

/-- Once the ports of 64 cycles ago are forgotten, no lane wants bank 0 in cycle 65. -/
theorem portHogState_notWanted :
    let x := portHogState.tile ⟨0, 0, 0⟩
    let addr := (BitVec.ofInt 32 ((x.sc.reg 0).toInt + (0 : BitVec 16).toInt)).toNat
    (x.take (unitRank 0) [⟨x.sc.cyc.toNat, x.sc.cyc.toNat, addr / 0x20000⟩]).wanted (unitRank 0) x.sc.cyc.toNat (addr / 0x20000) = false := by
  decide +kernel

/-- Refutes O6: where no lane wants the port once the old ports are forgotten, the load counts a lane's lost access all the same, since it
asks whether a lane wants it before they are. -/
theorem not_loadWordReads : ¬ Obligations.LoadWordReads := by
  unfold Obligations.LoadWordReads
  intro h
  obtain ⟨u, hu, -, -, -, -, -, clean⟩ :=
    h portHogState ⟨0, 0, 0⟩ 0 0 0 portHogState_issues (by decide) (by decide) (by decide) (by decide)
  obtain ⟨-, noSlip⟩ := clean (by decide)
  obtain ⟨units, -⟩ := noSlip (by decide) portHogState_notWanted
  have loses := portHogState_loses
  have hlq : (u.tile ⟨0, 0, 0⟩).lq = [waitingEval] := units.lq
  rw [hu, laneLosses, hlq] at loses
  cases loses

end Sys2Proof.Machine
end

section
/-! SUPPORT. The scalar core's accesses of the scratchpad (R188, R192, R289): the address, the port, and what the access leaves. -/

namespace Sys2Proof.Machine

theorem add_sext16 (a : Word) (imm : BitVec 16) : a + sext16 imm = BitVec.ofInt 32 (a.toInt + imm.toInt) := by
  rw [BitVec.ofInt_add, BitVec.ofInt_toInt]
  rfl

theorem bankOf_of_lt {a : Nat} (h : a < 0x200000) : bankOf a = a / 0x20000 := Nat.mod_eq_of_lt (by omega)

/-- The registers, the PC, the bytes of the memories and the data of the matrix and vector cores stay. -/
structure Tile.SameData (x y : Tile) : Prop where
  mx : y.mx = x.mx
  vec : y.vec = x.vec
  scr : y.mem.scr = x.mem.scr
  istore : y.mem.istore = x.mem.istore
  regs : y.sc.regs = x.sc.regs
  pc : y.sc.pc = x.sc.pc

theorem Tile.SameData.trans {x y z : Tile} (a : x.SameData y) (b : y.SameData z) : x.SameData z :=
  ⟨b.mx.trans a.mx, b.vec.trans a.vec, b.scr.trans a.scr, b.istore.trans a.istore, b.regs.trans a.regs, b.pc.trans a.pc⟩

theorem Tile.Fixed.sameData {x y : Tile} (h : x.Fixed y) : x.SameData y := ⟨h.mx, h.vec, h.scr, h.istore, h.regs, h.pc⟩

/-- Taking the port of a bank, with the slips of the core and of the lanes that lose it. -/
theorem Fx.corePort_sameData (f : Fx) (c : Ctx) (b n : Nat) : f.tile.SameData (f.corePort c b n).tile := by
  have slipped {p : Prop} [Decidable p] : f.tile.SameData (if p then f.slip c 5 0 f.tile.sc.pc else f).tile := by
    split
    · exact (f.slip_keeps c 5 0 _).fixed.sameData
    · exact (Tile.Fixed.refl _).sameData
  have taken (y : Tile) (m : Nat) (l : List PortAcc) : y.SameData ((y.pass m).take (unitRank 0) l) := ⟨rfl, rfl, rfl, rfl, rfl, rfl⟩
  unfold Fx.corePort
  dsimp only
  split
  · exact Tile.SameData.trans (slipped.trans (taken _ _ _)) (Fx.arbitrate_keeps (Fx.set _ _) c).fixed.sameData
  · exact slipped.trans (taken _ _ _)

theorem TileMem.correctedAll_istore (l : List Nat) (m : TileMem) : (m.correctedAll l).istore = m.istore := by
  induction l generalizing m with
  | nil => rfl
  | cons k ks ih => rw [correctedAll, ih, corrected]; split <;> rfl

theorem TileMem.suspectAll_istore (l : List Nat) (m : TileMem) : (m.suspectAll l).istore = m.istore := by
  induction l generalizing m with
  | nil => rfl
  | cons k ks ih => rw [suspectAll, ih]; rfl

theorem Fx.readEcc_istore (f : Fx) (c : Ctx) (u off n : Nat) : (f.readEcc c u off n).tile.mem.istore = f.tile.mem.istore := by
  have entered (k : Ctr) (one two : List Nat) (n : Nat) :
      ((f.set { f.tile with mem := (f.tile.mem.correctedAll one).suspectAll two }).count k n).tile.mem.istore = f.tile.mem.istore := by
    rw [Fx.count_tile]
    exact (TileMem.suspectAll_istore ..).trans (TileMem.correctedAll_istore ..)
  unfold Fx.readEcc
  dsimp only
  split
  · exact entered ..
  · exact entered ..

theorem Fx.readEcc_sameData (f : Fx) (c : Ctx) (u off n : Nat) : f.tile.SameData (f.readEcc c u off n).tile :=
  have h := (Fx.OnlyChecks.refl f).readEcc c u off n
  ⟨h.mx, h.vec, h.scr, f.readEcc_istore c u off n, congrArg Scalar.regs h.sc, congrArg Scalar.pc h.sc⟩

/-- An access of a word in a bank that serves it, whose row no earlier command holds, goes on to the port. -/
theorem Fx.scrAccess_go {f : Fx} {c : Ctx} {write : Bool} {addr : Word} (h4 : addr.toNat % 4 = 0) (hlt : addr.toNat < 0x200000)
    (hfree : f.tile.scalarHolds c (if write then [] else [.scr (addr.toNat / 64) (addr.toNat / 64)])
      (if write then [.scr (addr.toNat / 64) (addr.toNat / 64)] else []) = [])
    (hbank : f.tile.mem.bank (addr.toNat / 0x20000) = ⟨.on, none⟩) (word : Nat) (go : Fx → Fx) :
    f.scrAccess c write addr word go = go (f.corePort c (bankOf addr.toNat) (if write then 2 else 1)) := by
  unfold Fx.scrAccess
  dsimp only
  rw [if_neg (by omega), hfree, bankOf_of_lt hlt, hbank]
  rfl

theorem mem_eccWords_self (off : Nat) {n : Nat} (h : 0 < n) : off / 8 ∈ eccWords off n :=
  List.mem_map.2 ⟨0, List.mem_range.2 (by omega), rfl⟩

theorem leBytes_length (n v : Nat) : (leBytes n v).length = n := by simp [leBytes]

theorem leBytes_getElem (n v : Nat) {i : Nat} (h : i < (leBytes n v).length) : (leBytes n v)[i] = BitVec.ofNat 8 (v / 256 ^ i) := by
  simp [leBytes]

theorem eccWords_nodup (off n : Nat) : (eccWords off n).Nodup := List.Nodup.map (fun _ _ => Nat.add_left_cancel) List.nodup_range

/-- A word that is written has valid ECC (R188). -/
theorem TileMem.write_ecc (m : TileMem) {off : Nat} {bs : List Byte} (h : bs ≠ []) {k : Nat} (hk : k ∈ eccWords off bs.length) :
    SMap.get Ecc.ok (m.write off bs).scrEcc k = .ok := by
  unfold TileMem.write
  dsimp only
  rw [if_neg (by simpa using h)]
  exact SMap.get_modifyAll_of_mem Ecc.ok _ (eccWords_nodup ..) hk _

end Sys2Proof.Machine
end

section
/-! O7: SW. -/

namespace Sys2Proof.Machine

variable {s : State} {t : PTile} {rs ra : Reg} {imm : BitVec 16}

/-- What a store does once it has its port: the word it covers in part is read, merged and written (R188). -/
def Fx.store (f : Fx) (c : Ctx) (rs : Reg) (addr : Nat) : Fx :=
  let k := f.readEcc c 0 (addr / 8 * 8) 8
  (k.set { k.tile with mem := k.tile.mem.write addr (leBytes 4 (f.tile.sc.reg rs).toNat) }).next

/-- The tile `y` with the bytes of `v` written, at the next instruction. -/
def Tile.stored (y : Tile) (addr : Nat) (v : Word) : Tile :=
  ({ y with mem := y.mem.write addr (leBytes 4 v.toNat) } : Tile).retired 1 (y.sc.pc + 4)

theorem Fx.store_tile (f : Fx) (c : Ctx) (rs : Reg) (addr : Nat) :
    (f.store c rs addr).tile = (f.readEcc c 0 (addr / 8 * 8) 8).tile.stored addr (f.tile.sc.reg rs) := rfl

/-- A store that issues at once to a bank that serves it. -/
theorem exec_sw (h : Issues s t [ra, rs]) {addr : Word} (ha : (s.tile t).sc.reg ra + sext16 imm = addr) (h4 : addr.toNat % 4 = 0)
    (hlt : addr.toNat < 0x200000) (hfree : (s.tile t).scalarHolds ⟨t, s⟩ [] [.scr (addr.toNat / 64) (addr.toNat / 64)] = [])
    (hbank : (s.tile t).mem.bank (addr.toNat / 0x20000) = ⟨.on, none⟩) :
    exec (.sw t rs ra imm) s = .next (s.commit t
      (((Fx.ofTile (s.tile t)).corePort ⟨t, s⟩ (bankOf addr.toNat) 2).store ⟨t, s⟩ rs addr.toNat)) := by
  subst ha
  refine congrArg Host.Outcome.next ((State.issue_eq h _).trans (congrArg (s.commit t) ?_))
  exact Fx.scrAccess_go (f := Fx.ofTile (s.tile t)) (write := true) h4 hlt hfree hbank _ _

/-- Settles O7: the bytes of the register lie at the address, and what the port and the merging read do leaves all else. -/
theorem storeWordWrites : Obligations.StoreWordWrites := by
  unfold Obligations.StoreWordWrites
  intro s t rs ra imm h m addr h4 hlt hfree hbank
  have port := Fx.corePort_sameData (Fx.ofTile (s.tile t)) ⟨t, s⟩ (bankOf addr) 2
  have same := port.trans (Fx.readEcc_sameData _ ⟨t, s⟩ 0 (addr / 8 * 8) 8)
  have tile := (State.tile_commit s t _).trans (Fx.store_tile ((Fx.ofTile (s.tile t)).corePort ⟨t, s⟩ (bankOf addr) 2) ⟨t, s⟩ rs addr)
  have reg (r : Reg) {y : Tile} (hy : (s.tile t).SameData y) : y.sc.reg r = (s.tile t).sc.reg r := by simp only [Scalar.reg, hy.regs]
  rw [reg rs port] at tile
  have len := leBytes_length 4 ((s.tile t).sc.reg rs).toNat
  refine .of_next (exec_sw h (add_sext16 _ imm) h4 hlt hfree hbank) ⟨fun i hi => ?_, fun a ha => ?_, ?_, fun r => ?_, ?_, ?_, ?_, ?_, fun r hr => State.tile_commit_ne s _ hr⟩
  all_goals rw [tile]
  · exact (SMap.get_setList_self 0 _ _ _ (by omega)).trans (leBytes_getElem ..)
  · exact (SMap.get_setList_ne 0 _ _ (by omega)).trans (congrArg (SMap.get 0 · a) same.scr)
  · refine TileMem.write_ecc _ (fun e => ?_) (mem_eccWords_self addr (by omega))
    rw [e] at len
    cases len
  · exact (reg r same :)
  · exact congrArg (· + 4) same.pc
  · exact same.vec
  · exact same.mx
  · exact same.istore

end Sys2Proof.Machine
end

section
/-! O13: BANK, and the end of a bank's change. -/

namespace Sys2Proof.Machine

/-- The state that BANK's function field names (R290). -/
theorem bkOf_eq {f1 : Reg} (h : f1.toNat < 3) : bkOf f1.toNat = if f1 = 0 then .on else if f1 = 1 then .ret else .off := by
  have small : ∀ f : Fin 3, bkOf f.val = if BitVec.ofNat 5 f.val = 0 then .on else if BitVec.ofNat 5 f.val = 1 then .ret else .off := by decide
  simpa using small ⟨f1.toNat, h⟩

theorem mem_maskedBanks {m n : Nat} : n ∈ maskedBanks m ↔ n < 16 ∧ m.testBit n = true := by simp [maskedBanks]

theorem maskedBanks_nodup (m : Nat) : (maskedBanks m).Nodup := List.nodup_range.filter _

/-- The change of each masked bank that is not in the state starts. -/
theorem TileMem.setBanks_bank (m : TileMem) (mask : Nat) (k : Bk) {n : Nat} (hn : n < 16) :
    (m.setBanks (maskedBanks mask) k).bank n =
      if mask.testBit n ∧ (m.bank n).cur ≠ k then ⟨(m.bank n).cur, some k⟩ else m.bank n := by
  unfold TileMem.setBanks TileMem.bank
  by_cases hm : n ∈ maskedBanks mask
  · rw [SMap.get_modifyAll_of_mem _ _ (maskedBanks_nodup mask) hm]
    simp [(mem_maskedBanks.1 hm).2]
  · rw [SMap.get_modifyAll_of_not_mem _ _ hm, if_neg fun h => hm (mem_maskedBanks.2 ⟨hn, h.1⟩)]

/-- BANK that issues at once, where no masked bank changes already. -/
theorem exec_bank {s : State} {t : PTile} {f1 f2 : Reg} (h : Issues s t [f2]) (hf : f1.toNat < 3)
    (hfree : (s.tile t).scalarHolds ⟨t, s⟩ []
      ((maskedBanks (((s.tile t).sc.reg f2).toNat % 2 ^ 16)).map fun n => .scr (2048 * n) (2048 * n + 2047)) = [])
    (hrest : ∀ n : Nat, n < 16 → ((s.tile t).mem.bank n).next = none) :
    exec (.bank t f1 f2 0) s = .next (s.commit t (Fx.ofTile (({ s.tile t with
      mem := (s.tile t).mem.setBanks (maskedBanks (((s.tile t).sc.reg f2).toNat % 2 ^ 16)) (bkOf f1.toNat) } : Tile).retired 1
      ((s.tile t).sc.pc + 4)))) := by
  have rest (m : Nat) : ((maskedBanks m).any fun b => ((s.tile t).mem.bank b).next.isSome) = false :=
    List.any_eq_false.2 fun b hb => by rw [hrest b (mem_maskedBanks.1 hb).1]; decide
  have legal : (decide (3 ≤ f1.toNat) || ((0 : Reg) != 0)) = false := by simpa using hf
  refine congrArg Host.Outcome.next ?_
  unfold State.sys
  simp only [legal, Bool.false_eq_true, if_false]
  refine (State.issue_eq h _).trans (congrArg (s.commit t) ?_)
  simp only [Fx.ofTile, hfree, rest, List.isEmpty_nil, if_true, Bool.false_eq_true, if_false]
  rfl

/-- A bank that has ended its change is in its new state. -/
theorem TileMem.bankDone_bank {m : TileMem} {b : Nat} {k : Bk} (h : (m.bank b).next = some k) : (m.bankDone b).bank b = ⟨k, none⟩ := by
  unfold TileMem.bankDone
  rw [h]
  exact SMap.get_set_self ..

/-- A map without the keys of a range. -/
theorem SMap.get_clear {V : Type} (d : V) (m : SMap V) (lo hi k : Nat) :
    SMap.get d (SMap.clear m lo hi) k = if lo ≤ k ∧ k < hi then d else SMap.get d m k := by
  induction m with
  | nil => simp [SMap.clear, SMap.get]
  | cons e r ih =>
    obtain ⟨a, v⟩ := e
    unfold SMap.clear at ih ⊢
    by_cases ha : lo ≤ a ∧ a < hi
    · rw [List.filter_cons_of_neg (by simp; omega), ih, SMap.get]
      by_cases hk : k = a
      · rw [if_pos (hk ▸ ha), if_pos (hk ▸ ha)]
      · rw [if_neg hk]
    · rw [List.filter_cons_of_pos (by simp; omega), SMap.get, SMap.get, ih]
      by_cases hk : k = a
      · rw [if_pos hk, if_neg (hk ▸ ha), if_pos hk]
      · rw [if_neg hk, if_neg hk]

/-- Bytes and ECC of a bank that goes to OFF or wakes from OFF (R189, R190): zeros, valid; else they stay. -/
theorem TileMem.bankDone_contents {m : TileMem} {b : Nat} {k : Bk} (h : (m.bank b).next = some k) :
    (∀ a, SMap.get (0 : Byte) (m.bankDone b).scr a =
      if (k = .off ∨ (m.bank b).cur = .off) ∧ b * 0x20000 ≤ a ∧ a < b * 0x20000 + 0x20000 then 0 else SMap.get 0 m.scr a) ∧
    ∀ a, SMap.get Ecc.ok (m.bankDone b).scrEcc a =
      if (k = .off ∨ (m.bank b).cur = .off) ∧ b * 0x4000 ≤ a ∧ a < b * 0x4000 + 0x4000 then .ok else SMap.get Ecc.ok m.scrEcc a := by
  unfold TileMem.bankDone
  rw [h]
  dsimp only
  by_cases hl : k = .off ∨ (m.bank b).cur = .off
  · simp only [hl, if_true, true_and]
    exact ⟨fun a => SMap.get_clear .., fun a => SMap.get_clear ..⟩
  · simp only [hl, false_and, if_false, implies_true, and_self]

/-- Settles O13: BANK changes the banks alone; the end of a change is that of `TileMem.bankDone`, after which the units go on. -/
theorem bankStatesChange : Obligations.BankStatesChange := by
  unfold Obligations.BankStatesChange
  intro s t f1 f2 b x mask new
  refine ⟨fun h hf hfree hrest => ?_, ?_⟩
  · refine .of_next (exec_bank h hf hfree hrest) ?_
    rw [State.tile_commit, bkOf_eq hf]
    exact ⟨fun n hn => TileMem.setBanks_bank _ mask new hn, rfl, rfl, rfl, fun _ => rfl, by constructor <;> rfl, by constructor <;> rfl,
      fun r hr => State.tile_commit_ne s _ hr⟩
  · intro k hu hk lost
    let f : Fx := (Fx.ofTile x).set { x with mem := x.mem.bankDone b.val }
    have hx : exec (.bankStateChangeDone t b) s = .next (s.commit t (f.pump ⟨t, s⟩)) :=
      congrArg Host.Outcome.next (by rw [hu]; rfl)
    have fixed := (f.pump_keeps ⟨t, s⟩).fixed
    obtain ⟨bytes, eccs⟩ := TileMem.bankDone_contents hk
    refine .of_next hx ?_
    rw [State.tile_commit]
    refine ⟨?_, fun a => ⟨fun hl => ?_, fun hl => ?_⟩, fun a hl => ?_, fixed.regs, fixed.pc, fixed.vec, fixed.mx,
      fun r hr => State.tile_commit_ne s _ hr⟩
    · exact (fixed.bankCur b.val).trans (congrArg Bank.cur (TileMem.bankDone_bank hk))
    · rw [fixed.scr]
      exact (bytes a).trans (if_pos ⟨hl.1, by omega, by omega⟩)
    · rw [fixed.scr]
      exact (bytes a).trans (if_neg fun h => hl ⟨h.1, by omega, by omega⟩)
    · rw [fixed.scrEcc]
      exact (eccs a).trans (if_pos ⟨hl.1, by omega, by omega⟩)

end Sys2Proof.Machine
end

section
/-! O26: the two patrol reads of a refresh slot. -/

namespace Sys2Proof.Machine

/-- Two counters of a site, of which each grows by its own count. -/
theorem ctrAdd_ctrAdd_get (m : SMap Word) (i : Fin 64) {j k : Ctr} (h : j ≠ k) (a b : Nat) :
    SMap.get 0 (ctrAdd (ctrAdd m i j a) i k b) (ctrKey i j) = satAdd (SMap.get 0 m (ctrKey i j)) a ∧
    SMap.get 0 (ctrAdd (ctrAdd m i j a) i k b) (ctrKey i k) = satAdd (SMap.get 0 m (ctrKey i k)) b := by
  have hne : ctrKey i j ≠ ctrKey i k := fun e => h ((ctrKey_eq_iff i j k).1 e)
  unfold ctrAdd
  exact ⟨by rw [SMap.get_set_ne _ _ _ hne, SMap.get_set_self], by rw [SMap.get_set_self, SMap.get_set_ne _ _ _ hne.symm]⟩

/-- Keys whose values are all set to one value read as it. -/
theorem SMap.get_modifyAll_const {V : Type} [DecidableEq V] (d v : V) {ks : List Nat} {k : Nat} (hk : k ∈ ks) (m : SMap V) :
    SMap.get d (SMap.modifyAll d (fun _ _ => v) ks m) k = v := by
  induction ks generalizing m with
  | nil => cases hk
  | cons a r ih =>
    rw [SMap.modifyAll]
    by_cases hr : k ∈ r
    · exact ih hr _
    · rw [SMap.get_modifyAll_of_not_mem _ _ hr, (List.mem_cons.1 hk).resolve_right hr, SMap.get_set_self]

/-- The lines of a channel that the patrol reads from its place `n` on. -/
def scrubLines (site : Fin 64) (ch : Fin 16) (n : Nat) : List Nat := [n, n + 1].map fun k => loftLine site.val (scrubOff k ch)

theorem marks_scrubLines (s : State) (site : Fin 64) (ch : Fin 16) (n : Nat) (e : Ecc) :
    (s.loftMarks (scrubLines site ch n) e).length =
      ([n, n + 1].filter fun k => SMap.get Ecc.ok s.loftEcc (loftLine site.val (scrubOff k ch)) == e).length := by
  rw [State.loftMarks, scrubLines, List.filter_map, List.length_map]
  rfl

/-- Settles O26: the slot's lines are read, the correctable ones among them written back with a valid code. -/
theorem patrolScrubReads : Obligations.PatrolScrubReads := by
  unfold Obligations.PatrolScrubReads
  intro s site ch hup href n line marked
  have runs : ((s.site site).up && !(s.site site).selfref) = true := by rw [hup, href]; rfl
  have counts := ctrAdd_ctrAdd_get s.ctrs site (j := .loftCe) (k := .loftUe) (by decide)
    (s.loftMarks (scrubLines site ch n) .single).length (s.loftMarks (scrubLines site ch n) .double).length
  refine .of_next (congrArg Host.Outcome.next (if_pos runs)) ⟨?_, rfl, ?_, ?_, fun k hk hs => ?_, rfl, rfl⟩
  · exact (congrArg (fun x : Site => SMap.get 0 x.scrubAt ch.val) (SMap.get_set_self Site.init s.sites site.val _)).trans
      (SMap.get_set_self 0 (s.site site).scrubAt ch.val (n + 2))
  · exact counts.1.trans (congrArg _ (marks_scrubLines s site ch n .single))
  · exact counts.2.trans (congrArg _ (marks_scrubLines s site ch n .double))
  · refine SMap.get_modifyAll_const Ecc.ok .ok (List.mem_filter.2 ⟨List.mem_map.2 ⟨k, hk, rfl⟩, ?_⟩) _
    exact beq_iff_eq.2 hs

end Sys2Proof.Machine
end

section
/-! SUPPORT. Bytes moved by a copy (R193, R201): lists of bytes read and written, and the checks beside them. -/

namespace Sys2Proof.Machine

theorem SMap.getList_length {V : Type} (d : V) (m : SMap V) (b n : Nat) : (SMap.getList d m b n).length = n := by simp [SMap.getList]

/-- Keys that take the values of others, and the keys beside them. -/
theorem SMap.get_setList_getList {V : Type} [DecidableEq V] (d : V) (m m' : SMap V) (b b' n : Nat) :
    (∀ i, i < n → SMap.get d (SMap.setList d m b (SMap.getList d m' b' n)) (b + i) = SMap.get d m' (b' + i)) ∧
    ∀ a, a < b ∨ b + n ≤ a → SMap.get d (SMap.setList d m b (SMap.getList d m' b' n)) a = SMap.get d m a := by
  have len := SMap.getList_length d m' b' n
  refine ⟨fun i hi => ?_, fun a ha => SMap.get_setList_ne d m _ (by omega)⟩
  rw [SMap.get_setList_self d m b _ (by omega)]
  simp [SMap.getList]

/-- Banks that are ON and change to no other state serve an access. -/
theorem TileMem.answers_of_on {m : TileMem} (h : ∀ b : Nat, m.bank b = ⟨.on, none⟩) (off n : Nat) : m.answers off n = .go := by
  have dead : m.bankDead (banksOf off n) = false := List.any_eq_false.2 fun b _ => by rw [h b]; decide
  have waits : m.bankWaits (banksOf off n) = [] := by
    unfold TileMem.bankWaits
    rw [List.filterMap_eq_nil_iff.2 fun b _ => by rw [h b]; rfl]
    rfl
  rw [TileMem.answers, dead, waits]
  rfl

theorem Tile.dmaGo_of_on {x : Tile} (h : ∀ b : Nat, x.mem.bank b = ⟨.on, none⟩) {off n : Nat} (hp : x.portFree off n = true) :
    x.dmaGo off n = true := by
  rw [Tile.dmaGo, TileMem.answers_of_on h, hp]
  rfl

namespace Fx.OnlyChecks

variable {f g : Fx} (a : f.OnlyChecks g)
include a

theorem mergeEcc (c : Ctx) (u off n : Nat) : f.OnlyChecks (g.mergeEcc c u off n) := by
  have entered (one two : List Nat) : f.OnlyChecks (g.set { g.tile with mem := (g.tile.mem.correctedAll one).suspectAll two }) :=
    a.trans ⟨rfl, (TileMem.suspectAll_scr ..).trans (TileMem.correctedAll_scr ..), rfl, rfl, fun k => by cases k <;> rfl⟩
  exact .ite ((entered _ _).count _ _) (((entered _ _).count _ _).raise c u _ _ _ _)

theorem loftUe (c : Ctx) (site off : Nat) (bad : Bool) : f.OnlyChecks (g.loftUe c site off bad) := .ite (a.raise c 5 _ _ _ _) a

theorem invalidate (b : Bool) : f.OnlyChecks (g.invalidate b) := a.trans ⟨rfl, rfl, rfl, rfl, fun k => by cases k <;> rfl⟩

end Fx.OnlyChecks

/-- The tile `x` with bytes written by the DMA, its part served. -/
def Tile.servedWith (x : Tile) (off : Nat) (bs : List Byte) : Tile := ({ x with mem := x.mem.write off bs } : Tile).served

theorem Fx.mergeEcc_fatal (f : Fx) (c : Ctx) (u off n : Nat) {ev : BitVec 16} (h : ev ∈ f.tile.rp.rep.fatal) :
    ev ∈ (f.mergeEcc c u off n).tile.rp.rep.fatal := by
  unfold Fx.mergeEcc
  dsimp only
  split
  · rwa [Fx.count_tile]
  · simp only [Fx.raise, Fx.count_tile, Fx.set, or_true, if_true, List.mem_append]
    exact .inl h

theorem Fx.loftUe_fatal (f : Fx) (c : Ctx) (site off : Nat) : evtLoftUe ∈ (f.loftUe c site off true).tile.rp.rep.fatal := by
  simp [Fx.loftUe, Fx.raise]

end Sys2Proof.Machine
end

section
/-! O22: the parts of a copy at a remote scratchpad and at a loft. -/

namespace Sys2Proof.Machine

/-! ### Remote scratchpads -/

/-- The part's far offset. -/
def partFar (x : Tile) (q : QCmd) : Nat := adTileOff (q.farAddr x) + x.dma.pos

section
variable (f : Fx) (c : Ctx) (q : QCmd) (d : Tile)

theorem Fx.remoteMove_out (h : q.outward f.tile = true) : ∃ g : Fx, f.OnlyChecks g ∧ (f.remoteMove c q d).tile = g.tile.served := by
  unfold Fx.remoteMove
  dsimp only
  rw [if_pos h]
  have read := (Fx.OnlyChecks.refl f).readEcc c 5 (partOwn f.tile q) (partLen f.tile q)
  exact ⟨_, .ite read (read.raise c 5 _ _ _ _), rfl⟩

theorem Fx.remoteMove_in (h : q.outward f.tile = false) : ∃ g : Fx, f.OnlyChecks g ∧
    (f.remoteMove c q d).tile = g.tile.servedWith (partOwn f.tile q) (d.mem.read (partFar f.tile q) (partLen f.tile q)) := by
  unfold Fx.remoteMove
  dsimp only
  rw [if_neg (by rw [h]; decide)]
  exact ⟨_, (Fx.OnlyChecks.ite (.refl f) ((Fx.OnlyChecks.refl f).raise c 5 _ _ _ _)).mergeEcc c 5 _ _, rfl⟩

/-- The remote scratchpad's bytes after the access. -/
theorem Tile.remoteServed_scr (x : Tile) : (d.remoteServed x q).mem.scr = if q.outward x = true
    then SMap.setList 0 d.mem.scr (partFar x q) (x.mem.read (partOwn x q) (partLen x q)) else d.mem.scr := by
  have entered (one two : List Nat) : ((d.mem.correctedAll one).suspectAll two).scr = d.mem.scr :=
    (TileMem.suspectAll_scr ..).trans (TileMem.correctedAll_scr ..)
  unfold Tile.remoteServed
  dsimp only
  split
  · rw [TileMem.write_scr, entered]
    rfl
  · exact entered ..

theorem Tile.remoteServed_sc (x : Tile) : (d.remoteServed x q).sc = d.sc := by
  unfold Tile.remoteServed
  dsimp only
  split <;> rfl

end

/-- The block after the access at the scratchpad of `dst`. -/
def State.remoteAccessed (s : State) (t dst : PTile) (q : QCmd) : State :=
  let s1 := (s.answered t (s.tile t) q).commit t ((Fx.ofTile (s.tile t)).remoteMove ⟨t, s.answered t (s.tile t) q⟩ q (s.tile dst))
  { s1 with
    tiles := SMap.set Tile.init s1.tiles dst.key ((s.tile dst).remoteServed (s.tile t) q)
    ctrs := ctrAdd s1.ctrs dst.site .scrCe (remoteCe (s.tile dst) (s.tile t) q) }

section
variable {s : State} {t dst : PTile} {q : QCmd}

theorem State.remoteAccessed_tile (h : t ≠ dst) : (s.remoteAccessed t dst q).tile t =
    ((Fx.ofTile (s.tile t)).remoteMove ⟨t, s.answered t (s.tile t) q⟩ q (s.tile dst)).tile :=
  (State.tile_setTile_ne (((s.answered t (s.tile t) q).commit t _)) _ h).trans (State.tile_commit ..)

theorem State.remoteAccessed_far : (s.remoteAccessed t dst q).tile dst = (s.tile dst).remoteServed (s.tile t) q :=
  State.tile_setTile (((s.answered t (s.tile t) q).commit t _)) dst _

theorem State.remoteAccessed_ne {r : PTile} (ht : r ≠ t) (hd : r ≠ dst) : (s.remoteAccessed t dst q).tile r = s.tile r :=
  (State.tile_setTile_ne (((s.answered t (s.tile t) q).commit t _)) _ hd).trans (State.tile_commit_ne _ _ ht)

/-- An access that every bank serves, with both ends' ports free. -/
theorem exec_remoteScrAccess (hq : (s.tile t).copying = some q) (hph : (s.tile t).dma.ph = .access)
    (hsp : adSpace (q.farAddr (s.tile t)) = 0) (hfar : physOf s.map (adC (q.farAddr (s.tile t))) (adR (q.farAddr (s.tile t))) = dst)
    (hne : t ≠ dst) (hup : (s.site t.site).up = true) (hupd : (s.site dst.site).up = true) (hdue : s.net.dataDue t.key = false)
    (hon : ∀ b : Nat, (s.tile t).mem.bank b = ⟨.on, none⟩) (hond : ∀ b : Nat, (s.tile dst).mem.bank b = ⟨.on, none⟩)
    (hp : (s.tile t).portFree (partOwn (s.tile t) q) (partLen (s.tile t) q) = true)
    (hpd : (s.tile dst).portFree (partFar (s.tile t) q) (partLen (s.tile t) q) = true) :
    exec (.remoteScrAccess t dst) s = .next (s.remoteAccessed t dst q) := by
  refine congrArg Host.Outcome.next ?_
  unfold partFar at hpd
  simp only [hq, hph, hsp, hfar, hup, hupd, hdue, ne_eq, hne, not_false_eq_true, and_self, if_true,
    TileMem.answers_of_on hon, TileMem.answers_of_on hond, hp, hpd, Bool.not_true, Bool.false_eq_true, if_false]
  rfl

end

/-- The remote clause of O22: an access at another tile's scratchpad. -/
theorem exec_remoteScrAccess_bytes {s : State} {t dst : PTile} {q : QCmd} (hne : t ≠ dst)
    (hx : exec (.remoteScrAccess t dst) s = .next (s.remoteAccessed t dst q)) :
    let x := s.tile t
    let d := s.tile dst
    let n := partLen x q
    let own := partOwn x q
    let far := partFar x q
    let scr (y : Tile) (a : Nat) : Byte := SMap.get (0 : Byte) y.mem.scr a
    Completes (.remoteScrAccess t dst) s fun u =>
      (u.tile t).dma.ph = .served ∧ (u.tile t).sc.regs = x.sc.regs ∧ (u.tile dst).sc = d.sc ∧
      (q.outward x = true → (∀ i : Nat, i < n → scr (u.tile dst) (far + i) = scr x (own + i)) ∧
        (∀ a : Nat, a < far ∨ far + n ≤ a → scr (u.tile dst) a = scr d a) ∧ (u.tile t).mem.scr = x.mem.scr) ∧
      (q.outward x = false → (∀ i : Nat, i < n → scr (u.tile t) (own + i) = scr d (far + i)) ∧
        (∀ a : Nat, a < own ∨ own + n ≤ a → scr (u.tile t) a = scr x a) ∧ (u.tile dst).mem.scr = d.mem.scr) ∧
      ∀ r : PTile, r ≠ t → r ≠ dst → u.tile r = s.tile r := by
  intro x d n own far scr
  refine .of_next hx ?_
  have farScr := Tile.remoteServed_scr q d x
  rw [State.remoteAccessed_tile hne, State.remoteAccessed_far]
  cases ho : q.outward x with
  | true =>
    obtain ⟨g, keeps, e⟩ := (Fx.ofTile x).remoteMove_out ⟨t, s.answered t x q⟩ q d ho
    obtain ⟨there, beside⟩ := SMap.get_setList_getList (0 : Byte) d.mem.scr x.mem.scr far own n
    rw [if_pos ho] at farScr
    rw [e]
    refine ⟨rfl, congrArg Scalar.regs keeps.sc, Tile.remoteServed_sc q d x, fun _ => ⟨?_, ?_, keeps.scr⟩, fun h => Bool.noConfusion h,
      fun r => State.remoteAccessed_ne⟩
    · exact fun i hi => (congrArg (SMap.get 0 · (far + i)) farScr).trans (there i hi)
    · exact fun a ha => (congrArg (SMap.get 0 · a) farScr).trans (beside a ha)
  | false =>
    obtain ⟨g, keeps, e⟩ := (Fx.ofTile x).remoteMove_in ⟨t, s.answered t x q⟩ q d ho
    obtain ⟨there, beside⟩ := SMap.get_setList_getList (0 : Byte) g.tile.mem.scr d.mem.scr own far n
    rw [if_neg (by rw [ho]; decide)] at farScr
    rw [e]
    refine ⟨rfl, congrArg Scalar.regs keeps.sc, Tile.remoteServed_sc q d x, fun h => Bool.noConfusion h, fun _ => ⟨there, ?_, farScr⟩,
      fun r => State.remoteAccessed_ne⟩
    exact fun a ha => (beside a ha).trans (congrArg (SMap.get 0 · a) keeps.scr)

/-! ### Loft -/

/-- What the issuing tile's step does when a write is served: the reads of its own bytes and of the lines covered in part. -/
def Fx.loftWrote (f : Fx) (c : Ctx) (site off own n : Nat) (ue : Bool) : Fx :=
  let g := (f.readEcc c 5 own n).loftUe c site off ue
  g.set g.tile.served

theorem Fx.loftWrote_scr (f : Fx) (c : Ctx) (site off own n : Nat) (ue : Bool) :
    (f.loftWrote c site off own n ue).tile.mem.scr = f.tile.mem.scr :=
  (((Fx.OnlyChecks.refl f).readEcc c 5 own n).loftUe c site off ue).scr

/-- The block after a write that is served at the loft. -/
def State.loftWrote (s : State) (site : Fin 64) (t : PTile) (q : QCmd) (off : Nat) : State :=
  let x := s.tile t
  let n := partLen x q
  let s1 := (s.answered t x q).commit t ((Fx.ofTile x).loftWrote ⟨t, s.answered t x q⟩ site.val off (partOwn x q) n
    !(s.loftMarks (partLines site.val off n) .double).isEmpty)
  { s1.loftErrs site x.pl.part (partLines site.val off n) with
    loft := SMap.setList 0 s.loft (loftKey site.val off) (x.mem.read (partOwn x q) n)
    loftQ := s.loftQ.erase (site.val, t.key)
    loftEcc := SMap.modifyAll Ecc.ok (fun _ _ => .ok) (linesOf site.val off n) s.loftEcc }

/-- What the issuing tile's step does when a read is served: the bytes arrive. -/
def Fx.loftGot (f : Fx) (c : Ctx) (site off own : Nat) (warned ue : Bool) (bs : List Byte) : Fx :=
  let g := ((f.invalidate warned).loftUe c site off ue).writeScr c 5 own bs
  g.set g.tile.served

/-- The block after a read that is served at the loft. -/
def State.loftGot (s : State) (site : Fin 64) (t : PTile) (q : QCmd) (off : Nat) : State :=
  let x := s.tile t
  let n := partLen x q
  let ls := linesOf site.val off n
  let s1 := (s.answered t x q).commit t ((Fx.ofTile x).loftGot ⟨t, s.answered t x q⟩ site.val off (partOwn x q)
    (s.site site).window.isSome (!(s.loftMarks ls .double).isEmpty) (s.loftRead site.val off n))
  { s1.loftErrs site x.pl.part ls with loftQ := s.loftQ.erase (site.val, t.key) }

section
variable (f : Fx) (c : Ctx) (site off own : Nat) (warned ue : Bool) (bs : List Byte)

/-- A read that is served: the bytes are written, and no other byte changes. -/
theorem Fx.loftGot_tile : ∃ g : Fx, f.OnlyChecks g ∧ (f.loftGot c site off own warned ue bs).tile = g.tile.servedWith own bs :=
  ⟨_, (((Fx.OnlyChecks.refl f).invalidate warned).loftUe c site off ue).mergeEcc c 5 own bs.length, rfl⟩

theorem Fx.loftGot_fatal : evtLoftUe ∈ (f.loftGot c site off own warned true bs).tile.rp.rep.fatal :=
  Fx.mergeEcc_fatal _ c 5 own bs.length (Fx.loftUe_fatal _ c site off)

end

section
variable {s : State} {t : PTile} {site : Fin 64} {q : QCmd} {off : Nat} (hq : (s.tile t).copying = some q)
  (hl : partLoft (s.tile t) q = some (site.val, off)) (hup : (s.site site).up = true)
include hq hl hup

/-- A write with no access ahead of it is served. -/
theorem exec_loftAccess_write (hph : (s.tile t).dma.ph = .access ∨ (s.tile t).dma.ph = .loftQueued)
    (ho : q.outward (s.tile t) = true) (hself : (s.site site).selfref = false) (hdue : s.net.dataDue t.key = false)
    (hahead : s.loftAhead site.val t.key (channelsOf off (partLen (s.tile t) q)) = false)
    (hgo : (s.tile t).dmaGo (partOwn (s.tile t) q) (partLen (s.tile t) q) = true) :
    exec (.loftAccess site t) s = .next (s.loftWrote site t q off) := by
  refine congrArg Host.Outcome.next ?_
  simp only [hq, hl, hph, ho, hup, hself, hdue, hahead, hgo, and_self, and_true, if_true, Bool.false_eq_true, and_false, if_false]
  rfl

/-- A write behind an access that is queued on one of its channels is queued. -/
theorem exec_loftAccess_ahead (hph : (s.tile t).dma.ph = .access) (ho : q.outward (s.tile t) = true)
    (hself : (s.site site).selfref = false) (hdue : s.net.dataDue t.key = false)
    (hahead : s.loftAhead site.val t.key (channelsOf off (partLen (s.tile t) q)) = true) :
    exec (.loftAccess site t) s =
      .next { s.setTile t ((s.tile t).phase .loftQueued) with loftQ := s.loftQ ++ [(site.val, t.key)] } := by
  refine congrArg Host.Outcome.next ?_
  simp only [hq, hl, hph, ho, hup, hself, hdue, hahead, true_or, and_self, if_true, reduceCtorEq, if_false]

/-- A read is queued. -/
theorem exec_loftAccess_read (hph : (s.tile t).dma.ph = .access) (ho : q.outward (s.tile t) = false)
    (hself : (s.site site).selfref = false) (hdue : s.net.dataDue t.key = false) :
    exec (.loftAccess site t) s =
      .next { s.commit t ((Fx.ofTile (s.tile t)).set ((s.tile t).phase .loftQueued)) with
        loftQ := s.loftQ ++ [(site.val, t.key)], net := ((s.commit t ((Fx.ofTile (s.tile t)).set ((s.tile t).phase .loftQueued))).net.dataTaken t.key) } := by
  refine congrArg Host.Outcome.next ?_
  simp only [hq, hl, hph, ho, hup, hself, hdue, true_or, and_self, if_true, Bool.false_eq_true, false_and, if_false]
  rfl

/-- A read with no access ahead of it is served. -/
theorem exec_loftReadDone (hph : (s.tile t).dma.ph = .loftQueued) (ho : q.outward (s.tile t) = false) (hupt : (s.site t.site).up = true)
    (hmem : (site.val, t.key) ∈ s.loftQ)
    (hahead : s.loftAhead site.val t.key (channelsOf off (partLen (s.tile t) q)) = false)
    (hgo : (s.tile t).dmaGo (partOwn (s.tile t) q) (partLen (s.tile t) q) = true) :
    exec (.loftReadDone site t) s = .next (s.loftGot site t q off) := by
  refine congrArg Host.Outcome.next ?_
  simp only [hq, hl, hph, ho, hup, hupt, List.contains_iff_mem.2 hmem, hahead, hgo, and_self, if_true]
  rfl

end

/-- Settles O22: each served part is a list of bytes read at one end and written at the other; the checks beside it change no byte. -/
theorem copyPartsMoveBytes : Obligations.CopyPartsMoveBytes := by
  unfold Obligations.CopyPartsMoveBytes
  intro s t dst site q off x d n own far scr loft allOn hq hupt hon hdue
  refine ⟨fun hph hsp hfar hne hupd hond hp hpd => exec_remoteScrAccess_bytes hne
    (exec_remoteScrAccess hq hph hsp hfar hne hupt hupd hdue hon hond hp hpd), fun hl hup => ⟨fun hself => ⟨?_, ?_⟩, ?_⟩⟩
  case refine_1 =>
    intro ho hph hahead hp
    obtain ⟨there, beside⟩ := SMap.get_setList_getList (0 : Byte) s.loft x.mem.scr (loftKey site.val off) own n
    have tile : (s.loftWrote site t q off).tile t = _ := State.tile_commit (s.answered t x q) t _
    refine .of_next (exec_loftAccess_write hq hl hup hph ho hself hdue hahead (Tile.dmaGo_of_on hon hp)) ⟨?_, fun i hi => ?_, beside, rfl, ?_⟩
    · rw [tile]; rfl
    · exact (congrArg (SMap.get 0 _) (Nat.add_assoc ..).symm).trans (there i hi)
    · rw [tile]; exact Fx.loftWrote_scr ..
  case refine_2 =>
    intro hph hw
    cases ho : q.outward x with
    | true =>
      refine .of_next (exec_loftAccess_ahead hq hl hup hph ho hself hdue (hw ho)) ⟨?_, rfl, rfl, ?_⟩
      · exact congrArg (·.dma.ph) (State.tile_setTile s t _)
      · exact congrArg (·.mem.scr) (State.tile_setTile s t _)
    | false =>
      refine .of_next (exec_loftAccess_read hq hl hup hph ho hself hdue) ⟨?_, rfl, rfl, ?_⟩
      · exact congrArg (·.dma.ph) (State.tile_commit s t _)
      · exact congrArg (·.mem.scr) (State.tile_commit s t _)
  case refine_3 =>
    intro hph ho hmem hahead hp
    obtain ⟨g, keeps, e⟩ := (Fx.ofTile x).loftGot_tile ⟨t, s.answered t x q⟩ site.val off own
      (s.site site).window.isSome (!(s.loftMarks (linesOf site.val off n) .double).isEmpty) (s.loftRead site.val off n)
    have tile : (s.loftGot site t q off).tile t = _ := State.tile_commit (s.answered t x q) t _
    obtain ⟨there, beside⟩ := SMap.get_setList_getList (0 : Byte) g.tile.mem.scr s.loft own (loftKey site.val off) n
    refine .of_next (exec_loftReadDone hq hl hup hph ho hupt hmem hahead (Tile.dmaGo_of_on hon hp)) ⟨?_, fun i hi => ?_, fun a ha => ?_, rfl, rfl, fun hue => ?_⟩
    · rw [tile, e]; rfl
    · rw [tile, e]
      exact (there i hi).trans (congrArg (SMap.get 0 _) (Nat.add_assoc ..))
    · rw [tile, e]
      exact (beside a ha).trans (congrArg (SMap.get 0 · a) keeps.scr)
    · rw [tile]
      rw [List.isEmpty_eq_false_iff.2 hue]
      exact Fx.loftGot_fatal ..

end Sys2Proof.Machine
end

section
/-! SUPPORT. Page tables (R208–R211): what the supervisor's reads of the tables leave, the words that edits write, and the flits to
every tile of a partition. -/

namespace Sys2Proof.Machine

/-- `u` is `s` but for what the supervisor's loft reads count and record. -/
def State.ReadOnly (s u : State) : Prop :=
  ∃ (c : SMap Word) (b : Bbx) (f : Flash), u = { s with ctrs := c, bbx := b, flash := f }

namespace State.ReadOnly

theorem refl (s : State) : s.ReadOnly s := ⟨_, _, _, rfl⟩

theorem trans {s t u : State} (h : s.ReadOnly t) (k : t.ReadOnly u) : s.ReadOnly u := by
  obtain ⟨_, _, _, rfl⟩ := h
  obtain ⟨c, b, f, rfl⟩ := k
  exact ⟨c, b, f, rfl⟩

theorem entryErrs (s : State) (l : List (Nat × Nat)) : s.ReadOnly (s.entryErrs none l) := by
  induction l generalizing s with
  | nil => exact refl s
  | cons e r ih => exact trans ⟨_, _, _, rfl⟩ (ih _)

/-- The reads of a list of edits. -/
theorem edits (l : List PageEdit) (s : State) : s.ReadOnly (l.foldl (fun s e => s.entryErrs none (s.editReads e)) s) := by
  induction l generalizing s with
  | nil => exact refl s
  | cons e r ih => exact (entryErrs s _).trans (ih _)

theorem entriesTo {s u : State} (h : s.ReadOnly u) (rs ro : Nat) (a : BitVec 16) (v n : Nat) :
    u.entriesTo rs ro a v n = s.entriesTo rs ro a v n := by
  obtain ⟨_, _, _, rfl⟩ := h
  induction n with
  | zero => rfl
  | succ n ih =>
    unfold State.entriesTo
    rw [ih]
    rfl

theorem editAt {s u : State} (h : s.ReadOnly u) (e : PageEdit) : u.editAt e = s.editAt e := by
  have walk := h.entriesTo
  obtain ⟨_, _, _, rfl⟩ := h
  unfold State.editAt
  simp only [walk]
  rfl

theorem applyEdits {s u : State} (h : s.ReadOnly u) (m : SMap Byte) (l : List PageEdit) :
    applyEdits u m l = Machine.applyEdits s m l := by
  induction l generalizing m with
  | nil => rfl
  | cons e r ih => simp only [Machine.applyEdits, h.editAt, ih]

end State.ReadOnly

/-- The word that an edit writes: V and W from the edit (W = 1 above level 3), the version after the old one, SITE and ADDR from the
edit, zeros between (R209). -/
theorem editWord_eq (level : Fin 4) (old : Pte) (e : BitVec 64) : editWord level old e =
    (if level = 3 then e.toNat / 2 ^ 62 else e.toNat / 2 ^ 63 * 2 + 1) * 2 ^ 62 + (old.ver.toNat + 1) % 2 ^ 16 * 2 ^ 40 +
      e.toNat % 2 ^ 40 / (if level = 3 then 2 ^ 16 else 2 ^ 12) * (if level = 3 then 2 ^ 16 else 2 ^ 12) := by
  have lt := e.isLt
  have ver : (old.ver + 1).toNat = (old.ver.toNat + 1) % 2 ^ 16 := by simp [BitVec.toNat_add]
  have bit (n : Nat) : (e.getLsbD n = true) = (e.toNat / 2 ^ n % 2 = 1) := by
    rw [BitVec.getLsbD, Nat.testBit_eq_decide_div_mod_eq, decide_eq_true_eq]
  unfold editWord fld
  rw [ver]
  simp only [bit]
  by_cases h : level = 3
  · simp only [h, if_true, ne_eq, not_true_eq_false, false_or]
    split <;> split <;> omega
  · simp only [h, if_false, ne_eq, not_false_eq_true, true_or, if_true]
    split <;> omega

/-- A flit that is sent is in the network. -/
theorem Net.mem_send {n : Net} {fs : List Flit} {f : Flit} (h : f ∈ fs) : f ∈ (n.send fs).flits := List.mem_append_right _ h

/-- A message to every tile of a partition. -/
theorem mem_toTiles {s : State} {p : Fin 32} {k : Nat} (m : Msg) (h : k ∈ s.tilesOf p) :
    ∃ f ∈ toTiles s p m, f.msg = m ∧ (f.dcol, f.drow, f.dport) = (PTile.ofKey k).port0 :=
  ⟨_, List.mem_map_of_mem h, rfl, rfl⟩

end Sys2Proof.Machine
end

section
/-! O25: edits of page tables, and what follows them. -/

namespace Sys2Proof.Machine

/-! ### An edit is made -/

/-- The edit queues of a partition with an edit of a valid entry entered (R367). -/
def Part.enqueue (x : Part) (e : PageEdit) (ws : List Nat) : List EditQ :=
  match (x.editQs.find? fun q => q.handle = e.handle && !q.applied) with
  | some _ => x.editQs.map fun q => if q.handle = e.handle && !q.applied then
      { q with edits := q.edits ++ [e], waiting := ws, frames := q.frames + x.gives e } else q
  | none => x.editQs ++ [⟨e.handle, [e], ws, x.gives e, false, []⟩]

theorem Part.mem_enqueue (x : Part) (e : PageEdit) (ws : List Nat) :
    ∃ r ∈ x.enqueue e ws, r.handle = e.handle ∧ r.applied = false ∧ e ∈ r.edits ∧ r.waiting = ws := by
  unfold Part.enqueue
  split
  case h_1 q found =>
    have open_ := List.find?_some found
    have ⟨handle, waits⟩ : q.handle = e.handle ∧ q.applied = false := by simpa using open_
    exact ⟨_, List.mem_map_of_mem (List.mem_of_find?_eq_some found), by simp [handle, waits]⟩
  case h_2 => exact ⟨_, List.mem_append_right _ (List.mem_singleton_self _), rfl, rfl, List.mem_singleton_self _, rfl⟩

section
variable {s : State} {e : PageEdit} {site off : Nat} (h : s.editAt e = some (site, off))
include h

theorem State.makeEdit_fresh (hv : (s.pte site off).v = false) : s.makeEdit e = { s with
    loft := applyEdits s s.loft [e], parts := SMap.set Part.init s.parts e.part.val ((s.part e.part).noted e) } := by
  unfold State.makeEdit
  simp only [h, hv, Bool.false_eq_true, if_false]

theorem State.makeEdit_valid (hv : (s.pte site off).v = true) : s.makeEdit e = { s with
    parts := SMap.set Part.init s.parts e.part.val
      { s.part e.part with editQs := (s.part e.part).enqueue e (s.tilesOf e.part) }
    net := s.net.send (toTiles s e.part (.edit e.handle)) } := by
  unfold State.makeEdit
  simp only [h, hv, if_true]
  rfl

theorem State.applyEdits_one : applyEdits s s.loft [e] =
    SMap.setList 0 s.loft (loftKey site off) (leBytes 8 (editWord e.level (s.pte site off) e.entry)) := by
  simp only [applyEdits, h]
  rfl

end

theorem Part.noted_editQs (x : Part) (e : PageEdit) : (x.noted e).editQs = x.editQs := by
  unfold Part.noted
  split <;> rfl

theorem Part.mem_noted {x : Part} {m : PageMap} (e : PageEdit) (h : m ∈ x.maps) : m ∈ (x.noted e).maps := by
  unfold Part.noted
  split
  · exact List.mem_append_left _ h
  · exact h

/-- An edit of an entry that is not valid (R368). -/
theorem exec_pageTableEdit_fresh {s : State} {e : PageEdit} {site off : Nat} (h : s.editAt e = some (site, off))
    (hv : (s.pte site off).v = false) : ∃ u : State, s.ReadOnly u ∧ exec (.pageTableEdit e) s = .next { u with
      loft := SMap.setList 0 s.loft (loftKey site off) (leBytes 8 (editWord e.level (s.pte site off) e.entry))
      parts := SMap.set Part.init s.parts e.part.val ((s.part e.part).noted e) } := by
  have only := State.ReadOnly.entryErrs s (s.editReads e)
  refine ⟨_, only, congrArg Host.Outcome.next ?_⟩
  have at' := (only.editAt e).trans h
  unfold State.pageEdit
  generalize hu : s.entryErrs none (s.editReads e) = u at only at'
  obtain ⟨_, _, _, rfl⟩ := only
  rw [State.makeEdit_fresh at' hv, State.applyEdits_one at']
  rfl

/-- An edit of a valid entry (R367). -/
theorem exec_pageTableEdit_valid {s : State} {e : PageEdit} {site off : Nat} (h : s.editAt e = some (site, off))
    (hv : (s.pte site off).v = true) : ∃ u : State, s.ReadOnly u ∧ exec (.pageTableEdit e) s = .next { u with
      parts := SMap.set Part.init s.parts e.part.val
        { s.part e.part with editQs := (s.part e.part).enqueue e (s.tilesOf e.part) }
      net := s.net.send (toTiles s e.part (.edit e.handle)) } := by
  have only := State.ReadOnly.entryErrs s (s.editReads e)
  refine ⟨_, only, congrArg Host.Outcome.next ?_⟩
  have at' := (only.editAt e).trans h
  unfold State.pageEdit
  generalize hu : s.entryErrs none (s.editReads e) = u at only at'
  obtain ⟨_, _, _, rfl⟩ := only
  rw [State.makeEdit_valid at' hv]
  rfl

/-! ### Notices and invalidations arrive at a tile -/

section
variable {s : State} {t : PTile} {handle : BitVec 16} (hup : (s.site t.site).up = true)
include hup

theorem exec_editNotice (hin : s.net.inOrder (·.isWrite t.port0) t.port0 (.edit handle) = true) :
    exec (.editNotice t handle) s = .next (if (s.tile t).walking handle = true then
      { s with
        tiles := SMap.set Tile.init s.tiles t.key { s.tile t with dma := { (s.tile t).dma with held := (s.tile t).dma.held ++ [handle] } }
        ctrs := ctrAdd s.ctrs t.site .hold 1
        net := s.net.drop fun f => f.arrived t.port0 && f.msg == .edit handle }
    else
      { s with
        tiles := SMap.set Tile.init s.tiles t.key { s.tile t with dma := { (s.tile t).dma with
          tlb := (s.tile t).dma.tlb.filter fun e => e.handle != handle } }
        net := (s.net.drop fun f => f.arrived t.port0 && f.msg == .edit handle).send
          [editAckFlit s t (s.tile t).pl.part handle] }) :=
  congrArg Host.Outcome.next (if_pos ⟨hup, hin⟩)

theorem exec_tlbInvalidation {v : Nat} (hin : s.net.inOrder (·.isWrite t.port0) t.port0 (.tlbInval handle v) = true) :
    exec (.tlbInvalidation t handle v) s = .next
      { s with
        tiles := SMap.set Tile.init s.tiles t.key { s.tile t with dma := { (s.tile t).dma with
          tlb := (s.tile t).dma.tlb.filter fun e => !(e.handle = handle && e.vpage = v) } }
        net := (s.net.drop fun f => f.arrived t.port0 && f.msg == .tlbInval handle v).send
          [ackFlit s.net t (s.tile t).pl.part (.invalAck handle)] } :=
  congrArg Host.Outcome.next (if_pos ⟨hup, hin⟩)

end

theorem Tile.walking_iff (x : Tile) (h : BitVec 16) :
    x.walking h = true ↔ (x.dma.walkOvf = true ∨ h ∈ x.dma.walks) ∧ (x.clk.running = true ∨ x.dq ≠ []) := by
  simp [Tile.walking, Dma.walking]

/-! ### Edits apply -/

/-- The pages whose translations the edits of a queue invalidate (R211). -/
def State.editPages (s : State) (q : EditQ) : List Nat := (q.edits.flatMap fun e => s.affectedPages e q.waiting).dedup

theorem State.mem_editPages {s : State} {q : EditQ} {a : PageEdit} (ha : a ∈ q.edits) {v : Nat}
    (h : v = a.vpage ∨ (editCovers a v = true ∧ ∃ j ∈ q.waiting, ∃ y ∈ (s.tile (PTile.ofKey j)).dma.tlb,
      (PTile.ofKey j).key = j ∧ y.handle = a.handle ∧ y.vpage = v)) : v ∈ s.editPages q := by
  refine List.mem_dedup.2 (List.mem_flatMap.2 ⟨a, ha, List.mem_dedup.2 ?_⟩)
  rcases h with rfl | ⟨covers, j, hj, y, hy, key, handle, rfl⟩
  · exact List.mem_cons_self
  · refine List.mem_cons_of_mem _ (List.mem_flatMap.2 ⟨j, hj, List.mem_map_of_mem (List.mem_filter.2 ⟨?_, ?_⟩)⟩)
    · rw [State.tile, key] at hy
      exact hy
    · simp [handle, covers]

/-- Every tile has acknowledged: the edits of the queue apply in order (R367). -/
theorem exec_editApply {s : State} {p : Fin 32} {handle : BitVec 16} {q : EditQ}
    (hq : ((s.part p).editQs.find? fun r => r.handle = handle && !r.applied) = some q)
    (hack : ∀ k ∈ q.waiting, q.edits.length ≤ s.net.acks k (.editAck handle)) :
    ∃ u : State, s.ReadOnly u ∧ exec (.editApply p handle) s = .next { u with
      loft := applyEdits s s.loft q.edits
      parts := SMap.set Part.init s.parts p.val { s.part p with
        editQs := (s.part p).editQs.map fun r => if r.handle = handle && !r.applied then
          { r with applied := true, invals := s.editPages q } else r }
      net := (s.net.takeAcks q.waiting (.editAck handle)).send ((s.editPages q).flatMap fun v => toTiles s p (.tlbInval handle v)) } := by
  have only := State.ReadOnly.edits q.edits s
  refine ⟨_, only, ?_⟩
  have acked : (q.waiting.all fun k => q.edits.length ≤ s.net.acks k (.editAck handle)) = true := by simpa using hack
  have applied := only.applyEdits s.loft q.edits
  refine congrArg Host.Outcome.next ?_
  simp only [hq]
  generalize q.edits.foldl (fun s e => s.entryErrs none (s.editReads e)) s = u at only applied
  obtain ⟨_, _, _, rfl⟩ := only
  rw [← applied]
  have hq' := hq
  simp only [State.part] at hq' ⊢
  simp only [hq', acked, if_true]
  rfl

/-! ### Frames return -/

/-- The frames that leave the counts of the handle's slot: used ones, then reserved ones (R370). -/
def State.leaving (s : State) (p : Fin 32) (handle : BitVec 16) (q : EditQ) : Nat × Nat :=
  match s.slotWith p handle with | none => (0, 0) | some e => e.2.gaveBack q.frames

/-- The partition once the frames of a queue have returned, `n` of those used and `k` of those reserved. -/
def Part.returned (x : Part) (q : EditQ) (n k : Nat) : Part :=
  let stay := min (x.staying q.edits) (n + k)
  { x with
    editQs := x.editQs.erase q, maps := x.maps.filterMap (PageMap.after q.edits)
    used := x.used - n + stay, rsv := x.rsv - k, free := x.free + (n + k - stay) }

theorem State.leaving_fst (s : State) (p : Fin 32) (handle : BitVec 16) (q : EditQ) :
    (s.leaving p handle q).1 = match s.slotWith p handle with | none => 0 | some a => min q.frames a.2.used := by
  unfold State.leaving
  split <;> rfl

theorem State.leaving_snd (s : State) (p : Fin 32) (handle : BitVec 16) (q : EditQ) : (s.leaving p handle q).2 =
    match s.slotWith p handle with | none => 0 | some a => min (q.frames - min q.frames a.2.used) a.2.rsv := by
  unfold State.leaving
  split <;> rfl

theorem exec_frameRelease {s : State} {p : Fin 32} {handle : BitVec 16} {q : EditQ}
    (hq : ((s.part p).editQs.find? fun r => r.handle = handle && r.applied) = some q)
    (hack : ∀ k ∈ q.waiting, q.invals.length ≤ s.net.acks k (.invalAck handle)) :
    exec (.frameRelease p handle) s = .next { s with
      parts := SMap.set Part.init s.parts p.val ((s.part p).returned q (s.leaving p handle q).1 (s.leaving p handle q).2)
      slots := match s.slotWith p handle with
        | none => s.slots
        | some e => SMap.set Slot.init s.slots e.1
          { e.2 with used := e.2.used - (s.leaving p handle q).1, rsv := e.2.rsv - (s.leaving p handle q).2 }
      net := s.net.takeAcks q.waiting (.invalAck handle) } := by
  have acked : (q.waiting.all fun k => q.invals.length ≤ s.net.acks k (.invalAck handle)) = true := by simpa using hack
  refine congrArg Host.Outcome.next ?_
  simp only [hq, acked, if_true]
  rfl

/-- A page that no edit of the queue names stays mapped. -/
theorem PageMap.after_of_miss {es : List PageEdit} {m : PageMap} (h : ∀ a ∈ es, m.hit a = false) : m.after es = some m := by
  unfold PageMap.after
  rw [List.filter_eq_nil_iff.2 fun a ha => by simp [h a ha]]
  rfl

/-- A page whose entry the last edit of the queue removes is mapped no more. -/
theorem PageMap.after_removed {es : List PageEdit} {m m' : PageMap} {a : PageEdit} (hm : m.after es = some m')
    (hlast : es.getLast? = some a) (hv : a.entry.getLsbD 63 = false) : m'.hit a = false := by
  obtain ⟨l, rfl⟩ := List.getLast?_eq_some_iff.1 hlast
  unfold PageMap.after at hm
  cases hit : m.hit a with
  | true =>
    rw [List.filter_append, List.filter_cons_of_pos hit, List.filter_nil, List.getLast?_concat] at hm
    simp only [hv, Bool.false_eq_true, if_false, reduceCtorEq] at hm
  | false =>
    split at hm
    · rw [← Option.some.inj hm, hit]
    · split at hm
      · rw [← Option.some.inj hm]
        exact hit
      · cases hm

/-! ### The obligation's clauses -/

section
variable {s : State} {e : PageEdit} {site off : Nat} (h : s.editAt e = some (site, off))
include h

/-- R368: what an edit of an entry that is not valid writes, and what it leaves. -/
theorem pageTableEdit_fresh_completes (hv : (s.pte site off).v = false) : Completes (.pageTableEdit e) s fun u =>
    (let low := if e.level = 3 then 2 ^ 16 else 2 ^ 12
     let top := if e.level = 3 then e.entry.toNat / 2 ^ 62 else e.entry.toNat / 2 ^ 63 * 2 + 1
     let word := top * 2 ^ 62 + ((s.pte site off).ver.toNat + 1) % 2 ^ 16 * 2 ^ 40 + e.entry.toNat % 2 ^ 40 / low * low
     ∀ i : Nat, i < 8 → SMap.get (0 : Byte) u.loft (site * 2 ^ 34 + off + i) = BitVec.ofNat 8 (word / 256 ^ i)) ∧
    (∀ k : Nat, k < site * 2 ^ 34 + off ∨ site * 2 ^ 34 + off + 8 ≤ k →
      SMap.get (0 : Byte) u.loft k = SMap.get (0 : Byte) s.loft k) ∧ (u.part e.part).editQs = (s.part e.part).editQs ∧
    (∀ m ∈ (s.part e.part).maps, m ∈ (u.part e.part).maps) ∧ (∀ a : Fin 32, a ≠ e.part → u.part a = s.part a) ∧ u.net = s.net := by
  obtain ⟨u, only, hx⟩ := exec_pageTableEdit_fresh h hv
  obtain ⟨c, b, f, rfl⟩ := only
  have part : (s.setPart e.part ((s.part e.part).noted e)).part e.part = _ := State.part_setPart ..
  have len := leBytes_length 8 (editWord e.level (s.pte site off) e.entry)
  refine .of_next hx ⟨fun i hi => ?_, fun k hk => ?_, ?_, fun m hm => ?_, fun a ha => State.part_setPart_ne s _ ha, rfl⟩
  · rw [← editWord_eq]
    exact (SMap.get_setList_self 0 s.loft _ _ (by omega)).trans (leBytes_getElem ..)
  · exact SMap.get_setList_ne 0 s.loft _ (by rwa [len])
  · exact (congrArg Part.editQs part).trans (Part.noted_editQs ..)
  · exact (congrArg (m ∈ ·.maps) part).mpr (Part.mem_noted e hm)

/-- R367: an edit of a valid entry enters the handle's queue, and the notices go out. -/
theorem pageTableEdit_valid_completes (hv : (s.pte site off).v = true) : Completes (.pageTableEdit e) s fun u => u.loft = s.loft ∧
    (∃ r ∈ (u.part e.part).editQs, r.handle = e.handle ∧ r.applied = false ∧ e ∈ r.edits ∧ r.waiting = s.tilesOf e.part) ∧
    ∀ k ∈ s.tilesOf e.part, ∃ f ∈ u.net.flits, f.msg = .edit e.handle ∧ (f.dcol, f.drow, f.dport) = (PTile.ofKey k).port0 := by
  obtain ⟨u, only, hx⟩ := exec_pageTableEdit_valid h hv
  obtain ⟨c, b, f, rfl⟩ := only
  have part : (s.setPart e.part { s.part e.part with editQs := (s.part e.part).enqueue e (s.tilesOf e.part) }).part e.part = _ :=
    State.part_setPart ..
  refine .of_next hx ⟨rfl, ?_, fun k hk => ?_⟩
  · obtain ⟨r, hr, entered⟩ := (s.part e.part).mem_enqueue e (s.tilesOf e.part)
    exact ⟨r, (congrArg (r ∈ ·.editQs) part).mpr hr, entered⟩
  · obtain ⟨f, hf, dest⟩ := mem_toTiles (.edit e.handle) hk
    exact ⟨f, Net.mem_send hf, dest⟩

end

/-- R211, R367: the edits apply, and the invalidations of every page under a changed entry go out. -/
theorem editApply_completes {s : State} {p : Fin 32} {handle : BitVec 16} {q : EditQ}
    (hq : ((s.part p).editQs.find? fun r => r.handle = handle && !r.applied) = some q)
    (hack : ∀ k ∈ q.waiting, q.edits.length ≤ s.net.acks k (.editAck handle)) :
    Completes (.editApply p handle) s fun u => u.loft = applyEdits s s.loft q.edits ∧
      (∀ r ∈ (u.part p).editQs, r.handle = handle → r.applied = true) ∧
      ∀ v ∈ s.editPages q, ∀ k ∈ s.tilesOf p, ∃ f ∈ u.net.flits, f.msg = .tlbInval handle v ∧
        (f.dcol, f.drow, f.dport) = (PTile.ofKey k).port0 := by
  obtain ⟨u, only, hx⟩ := exec_editApply hq hack
  obtain ⟨c, b, f, rfl⟩ := only
  refine .of_next hx ⟨rfl, fun r hr hh => ?_, fun v hv k hk => ?_⟩
  · obtain ⟨r0, hr0, rfl⟩ := List.mem_map.1 ((congrArg (r ∈ ·.editQs) (State.part_setPart s p _)).mp hr)
    by_cases due : (r0.handle = handle && !r0.applied) = true
    · rw [if_pos due]
    · rw [if_neg due] at hh ⊢
      simpa [hh] using due
  · obtain ⟨f, hf, dest⟩ := mem_toTiles (.tlbInval handle v) hk
    exact ⟨f, Net.mem_send (List.mem_flatMap.2 ⟨v, hv, hf⟩), dest⟩

/-- R370: the frames return, and the removed pages are no longer mapped. -/
theorem frameRelease_completes {s : State} {p : Fin 32} {handle : BitVec 16} {q : EditQ}
    (hq : ((s.part p).editQs.find? fun r => r.handle = handle && r.applied) = some q)
    (hack : ∀ k ∈ q.waiting, q.invals.length ≤ s.net.acks k (.invalAck handle)) :
    Completes (.frameRelease p handle) s fun u =>
      u.part p = (s.part p).returned q (s.leaving p handle q).1 (s.leaving p handle q).2 ∧
      (∀ m ∈ (s.part p).maps, (∀ a ∈ q.edits, m.hit a = false) → m ∈ (u.part p).maps) ∧
      (∀ m ∈ (u.part p).maps, ∀ a : PageEdit, q.edits.getLast? = some a → a.entry.getLsbD 63 = false → m.hit a = false) ∧
      u.loft = s.loft := by
  have part := State.part_setPart s p ((s.part p).returned q (s.leaving p handle q).1 (s.leaving p handle q).2)
  refine .of_next (exec_frameRelease hq hack) ⟨part, fun m hm miss => ?_, fun m hm a hlast hv => ?_, rfl⟩
  · exact (congrArg (m ∈ ·.maps) part).mpr (List.mem_filterMap.2 ⟨m, hm, PageMap.after_of_miss miss⟩)
  · obtain ⟨m0, _, after⟩ := List.mem_filterMap.1 ((congrArg (m ∈ ·.maps) part).mp hm)
    exact PageMap.after_removed after hlast hv

/-- Settles O25: the supervisor's reads change none of what the edits speak of, so each clause is read off the step's own equation. -/
theorem pageTableEditsApply : Obligations.PageTableEditsApply := by
  unfold Obligations.PageTableEditsApply
  intro s t e handle vpage site off q x p
  refine ⟨fun h => ⟨pageTableEdit_fresh_completes h, pageTableEdit_valid_completes h⟩, fun hup hin => ⟨fun hw hb => ?_, fun hw => ?_⟩,
    fun hup hin => ?_, fun hq hack => ?_, fun hq hack => ?_⟩
  case refine_1 =>
    have hx := exec_editNotice hup hin
    rw [if_pos ((Tile.walking_iff x handle).2 ⟨hw, hb⟩)] at hx
    have tile := State.tile_setTile s t { x with dma := { x.dma with held := x.dma.held ++ [handle] } }
    exact .of_next hx ⟨congrArg (·.dma.held) tile, congrArg (·.dma.tlb) tile, SMap.get_set_self ..⟩
  case refine_2 =>
    have hx := exec_editNotice hup hin
    have idle : ¬ x.walking handle = true := fun h => by
      obtain ⟨walks, busy⟩ := (Tile.walking_iff x handle).1 h
      rcases hw with ⟨hovf, hmem⟩ | ⟨hrun, hdq⟩
      · exact walks.elim (by simp [hovf]) hmem
      · exact busy.elim (by simp [hrun]) (· hdq)
    rw [if_neg idle] at hx
    have tile := State.tile_setTile s t { x with dma := { x.dma with tlb := x.dma.tlb.filter fun e => e.handle != handle } }
    refine .of_next hx ⟨fun a ha => ?_, congrArg (·.dma.held) tile, _, Net.mem_send (List.mem_singleton_self _), rfl, rfl⟩
    have kept := (congrArg (a ∈ ·.dma.tlb) tile).mp ha
    exact bne_iff_ne.1 (List.mem_filter.1 kept).2
  case refine_3 =>
    have tile := State.tile_setTile s t { x with dma := { x.dma with
      tlb := x.dma.tlb.filter fun e => !(e.handle = handle && e.vpage = vpage) } }
    exact .of_next (exec_tlbInvalidation hup hin) ⟨congrArg (·.dma.tlb) tile, congrArg (·.mem) tile, _,
      Net.mem_send (List.mem_singleton_self _), rfl, rfl⟩
  case refine_4 =>
    obtain ⟨u, hx, loft, applied, sent⟩ := editApply_completes hq hack
    exact ⟨u, hx, loft, applied, fun a ha v hv => sent v (State.mem_editPages ha hv)⟩
  case refine_5 =>
    obtain ⟨u, hx, part, kept, removed, loft⟩ := frameRelease_completes hq hack
    rw [State.leaving_fst, State.leaving_snd] at part
    refine ⟨u, hx, ?_⟩
    cases hslot : s.slotWith e.part handle
    all_goals
      simp only [hslot] at part
      rw [part] at kept removed ⊢
      exact ⟨rfl, rfl, rfl, kept, removed, rfl, loft⟩

end Sys2Proof.Machine
end

section
/-! SUPPORT. The TILE reset over one tile (R174, R198, R286), and what becomes of a tile that it finds without a spare row. -/

namespace Sys2Proof.Machine

theorem mem_laneKeys_self (t : PTile) (k : Fin 2) : laneKey t k ∈ laneKeys [t.key] := by
  have := k.isLt
  simp only [laneKeys, laneKey, List.flatMap_cons, List.flatMap_nil, List.append_nil, List.mem_cons, List.not_mem_nil, or_false]
  omega

theorem mem_laneKeys {ks : List Nat} {n : Nat} : n ∈ laneKeys ks ↔ n / 2 ∈ ks := by
  simp only [laneKeys, List.mem_flatMap, List.mem_cons, List.not_mem_nil, or_false]
  constructor
  · rintro ⟨k, hk, rfl | rfl⟩
    · rwa [Nat.mul_div_cancel_left _ (by omega)]
    · rwa [show (2 * k + 1) / 2 = k by omega]
  · exact fun h => ⟨_, h, by omega⟩

theorem laneKey_half (t : PTile) (k : Fin 2) : laneKey t k / 2 = t.key := by
  have := k.isLt
  simp only [laneKey]
  omega

theorem laneKeys_nodup {ks : List Nat} (h : ks.Nodup) : (laneKeys ks).Nodup := by
  refine List.nodup_flatMap.2 ⟨fun k _ => by simp, h.imp fun {a b} hab => ?_⟩
  simp only [Function.onFun, List.disjoint_left, List.mem_cons, List.not_mem_nil, or_false]
  omega

section
variable (s : State) (t : PTile) (rows : List (PTile × Nat))

theorem State.tile_resetTiles : (s.resetTiles rows [t.key]).tile t = (s.tile t).reset (rowsOf rows t.key) :=
  SMap.get_modifyAll_of_mem Tile.init (fun k (x : Tile) => x.reset (rowsOf rows k)) (List.nodup_singleton _) (List.mem_singleton_self _) s.tiles

theorem State.tile_resetTiles_ne {r : PTile} (h : r ≠ t) : (s.resetTiles rows [t.key]).tile r = s.tile r :=
  SMap.get_modifyAll_of_not_mem Tile.init (fun k (x : Tile) => x.reset (rowsOf rows k))
    (fun hm => h (PTile.key_inj (List.mem_singleton.1 hm))) s.tiles

theorem State.lane_resetTiles (k : Fin 2) : (s.resetTiles rows [t.key]).lane t k = (s.lane t k).tileReset (s.tile t).clk.shared := by
  refine (SMap.get_modifyAll_of_mem Lane.init (fun k (l : Lane) => l.tileReset (SMap.get Tile.init s.tiles (k / 2)).clk.shared)
    (laneKeys_nodup (List.nodup_singleton _)) (mem_laneKeys_self t k) s.lanes).trans ?_
  rw [laneKey_half]
  rfl

end

theorem rowsOf_map (t : PTile) (rows : List Nat) : rowsOf (rows.map fun r => (t, r)) t.key = rows := by
  rw [rowsOf, List.filter_eq_self.2 fun e he => by obtain ⟨r, _, rfl⟩ := List.mem_map.1 he; simp, List.map_map]
  exact List.map_id _

/-- A tile of which only the place changes, and lanes that keep their bins. -/
structure State.Replaced (s u : State) (t : PTile) : Prop where
  tile : ∃ pl, u.tile t = { s.tile t with pl := pl }
  bins : ∀ k : Fin 2, (u.lane t k).bins = (s.lane t k).bins

theorem State.Replaced.trans {s u v : State} {t : PTile} (h : s.Replaced u t) (k : u.Replaced v t) : s.Replaced v t := by
  obtain ⟨pl, hpl⟩ := h.tile
  obtain ⟨pl', hpl'⟩ := k.tile
  exact ⟨⟨pl', by rw [hpl', hpl]⟩, fun n => (k.bins n).trans (h.bins n)⟩

theorem State.retireTile_replaced (s : State) (t : PTile) : s.Replaced (s.retireTile t.key) t :=
  ⟨⟨_, SMap.get_set_self ..⟩, fun k => SMap.get_modifyAll_field Lane.init (f := fun _ (l : Lane) => { l with rewarm := false, lifting := false, drive := .off })
    Lane.bins (fun _ _ => rfl) (laneKeys [t.key]) s.lanes (laneKey t k)⟩

theorem State.moveTile_replaced (s : State) (p : Option (Fin 32)) (c r old : Nat) {new : Nat} {t : PTile} (h : t.key ≠ new) :
    s.Replaced (s.moveTile p c r old new) t := by
  refine ⟨⟨(s.tile t).pl, SMap.get_set_ne _ _ _ h⟩, fun k => congrArg Lane.bins (SMap.get_modifyAll_of_not_mem _ _ (fun hm => ?_) _)⟩
  rw [mem_laneKeys, laneKey_half] at hm
  exact h (List.mem_singleton.1 hm)

theorem State.replaceFree_replaced (s : State) (t : PTile) : s.Replaced (s.replaceFree t) t := by
  have retired := s.retireTile_replaced t
  unfold State.replaceFree
  dsimp only
  split
  · unfold State.remapAll
    dsimp only
    split
    · exact ⟨retired.tile, retired.bins⟩
    next k hk =>
      refine retired.trans (State.moveTile_replaced _ _ _ _ _ fun e => ?_)
      have good := State.spareFor_good hk
      rw [← e, (s.retireTile_retired t.key).isBad] at good
      cases good
  · exact retired

theorem State.replaceDue_keeps (s : State) (p : Fin 32) : (s.replaceDue p).tiles = s.tiles ∧ (s.replaceDue p).lanes = s.lanes := by
  cases h : (s.part p).oos with
  | true => rw [State.replaceDue, h, if_pos rfl]; exact ⟨rfl, rfl⟩
  | false => exact ⟨(State.replaceDue_due h).tiles, (State.replaceDue_due h).lanes⟩

theorem State.failed_replaced (s : State) (t : PTile) : s.Replaced (s.setTile t (s.tile t).failed) t :=
  ⟨⟨_, State.tile_setTile ..⟩, fun _ => rfl⟩

theorem State.failTile_of_none {s : State} {t : PTile} (h : (s.tile t).pl.part = none) :
    s.failTile t = (s.setTile t (s.tile t).failed).replaceFree t := by simp only [State.failTile, Tile.failed, h]

/-- A tile that fails, of a partition that installs nothing or of none. -/
theorem State.failTile_replaced {s : State} {t : PTile} (h : ∀ p : Fin 32, (s.tile t).pl.part = some p → (s.part p).prev = none) :
    s.Replaced (s.failTile t) t := by
  cases hp : (s.tile t).pl.part with
  | none =>
    rw [State.failTile_of_none hp]
    exact (s.failed_replaced t).trans (State.replaceFree_replaced ..)
  | some p =>
    rw [State.failTile_of_part hp (h p hp)]
    obtain ⟨tiles, lanes⟩ := State.replaceDue_keeps (s.setTile t (s.tile t).failed) p
    have tile : ((s.setTile t (s.tile t).failed).replaceDue p).tile t = _ := congrArg (SMap.get Tile.init · t.key) tiles
    exact (s.failed_replaced t).trans ⟨⟨_, tile⟩, fun k => congrArg (fun m => (SMap.get Lane.init m (laneKey t k)).bins) lanes⟩

end Sys2Proof.Machine
end

section
/-! O50, the TILE reset. -/

namespace Sys2Proof.Machine

section
variable {s : State} {t : PTile} (hu : (s.site t.site).up = true) (hr : (s.tile t).clk.running = false) (rows : List Nat)
include hu hr

theorem exec_tileReset : exec (.tileReset t rows) s = .next
    (if (s.tile t).mem.spent rows = true then (s.resetTiles (rows.map fun r => (t, r)) [t.key]).failTile t
    else s.resetTiles (rows.map fun r => (t, r)) [t.key]) := by
  refine congrArg Host.Outcome.next ?_
  simp only [hu, hr, rowsOf_map, Bool.not_false, Bool.and_self, if_true]

end

/-- The bins of a lane after its tile's reset (R174, R613). -/
theorem Lane.getBin_tileReset (l : Lane) (shared : Bool) (b : Nat) :
    (l.tileReset shared).getBin b = if l.quar then (l.getBin b).cleared else l.getBin b := by
  unfold Lane.getBin Lane.tileReset
  dsimp only
  split
  · exact SMap.get_mapVals_of_default (fun _ => rfl) _ _
  · rfl

/-- What the reset clears and keeps in the tile, of which the place alone may change after it (R174, R189, R286), beside what else holds. -/
theorem Tile.reset_fields (x : Tile) (rows : List Nat) {y : Tile} {pl : Place} (h : y = { x.reset rows with pl := pl }) {P : Prop} (hP : P) :
    y.sc.pc = x.sc.entry ∧ y.sc.cyc = x.sc.cyc ∧ (∀ r : Reg, y.sc.reg r = 0) ∧ y.sc.stagecnt = 0 ∧ y.sc.step = 0 ∧
    y.sc.pressovf = 0 ∧ y.sc.slipsTotal = 0 ∧ (∀ k : Nat, y.sc.qd k = 0) ∧ y.sc.wait = .none ∧ y.sc.halted = false ∧
    y.mq = [] ∧ y.vq = [] ∧ y.lq = [] ∧ y.dq = [] ∧ y.sq = [] ∧ (∀ a : Nat, SMap.get 0 y.mem.scr a = 0) ∧
    (∀ b : Nat, y.mem.bank b = ⟨.on, none⟩) ∧ y.mem.istore = x.mem.istore ∧ y.vec = x.vec ∧ y.mx.acc = x.mx.acc ∧
    y.sc.stopped = x.sc.stopped ∧ y.rp.rep = Report.clean ∧ P := by
  subst h
  refine ⟨rfl, rfl, fun r => ?_, rfl, rfl, rfl, rfl, fun _ => rfl, rfl, rfl, rfl, rfl, rfl, rfl, rfl, fun _ => rfl, fun _ => rfl, rfl, rfl,
    rfl, rfl, rfl, hP⟩
  simp [Scalar.reg, Tile.reset, Scalar.reset, Scalar.init, SMap.get]

/-- The tile's own clause of O50, for the state `u` that the reset leaves. -/
structure State.TileWasReset (s u : State) (t : PTile) (rows : List Nat) : Prop where
  tile : ∃ pl, u.tile t = { (s.tile t).reset rows with pl := pl }
  bins : ∀ k : Fin 2, (u.lane t k).bins = ((s.lane t k).tileReset (s.tile t).clk.shared).bins

/-- The obligation's clause on a TILE reset. -/
theorem tileReset_clears {s : State} {t : PTile} {rows : List Nat} (hu : (s.site t.site).up = true) (hr : (s.tile t).clk.running = false)
    (hprev : ∀ p : Fin 32, (s.tile t).pl.part = some p → (s.part p).prev = none) :
    Completes (.tileReset t rows) s fun u => s.TileWasReset u t rows ∧
      ((s.tile t).mem.spent rows = false → u = s.resetTiles (rows.map fun r => (t, r)) [t.key]) ∧
      ((s.tile t).mem.spent rows = true → ∀ p : Fin 32, (s.tile t).pl.part = some p → (s.part p).oos = false →
        (u.tile t).pl.failed = true ∧ (u.part p).resetDue = true) := by
  have tile := s.tile_resetTiles t (rows.map fun r => (t, r))
  have lane := s.lane_resetTiles t (rows.map fun r => (t, r))
  rw [rowsOf_map] at tile
  have hx := exec_tileReset hu hr rows
  cases hs : (s.tile t).mem.spent rows with
  | false =>
    rw [hs, if_neg Bool.false_ne_true] at hx
    exact .of_next hx ⟨⟨⟨_, tile⟩, fun k => congrArg Lane.bins (lane k)⟩, fun _ => rfl, nofun⟩
  | true =>
    rw [hs, if_pos rfl] at hx
    obtain ⟨⟨pl, moved⟩, bins⟩ := State.failTile_replaced (s := s.resetTiles (rows.map fun r => (t, r)) [t.key]) (t := t) (by rw [tile]; exact hprev)
    refine .of_next hx ⟨⟨⟨pl, by rw [moved, tile]⟩, fun k => (bins k).trans (congrArg Lane.bins (lane k))⟩, nofun, fun _ p hp ho => ?_⟩
    rw [State.failTile_of_part (s := s.resetTiles (rows.map fun r => (t, r)) [t.key]) (by rw [tile]; exact hp) (hprev p hp)]
    obtain ⟨due, tiles, _⟩ := State.replaceDue_due (s := (s.resetTiles (rows.map fun r => (t, r)) [t.key]).setTile t
      ((s.resetTiles (rows.map fun r => (t, r)) [t.key]).tile t).failed) ho
    refine ⟨?_, due⟩
    exact (congrArg (fun m => (SMap.get Tile.init m t.key).pl.failed) tiles).trans (congrArg (·.pl.failed) (State.tile_setTile ..))

end Sys2Proof.Machine
end

section
/-! SUPPORT. What the supervisor's work at a PARTITION reset leaves (R261, R405, R465, R497): three relations of a state and a later
one, from the widest to the narrowest, and the operations that meet each. -/

namespace Sys2Proof.Machine

/-! ### Parts of a partition and of the state -/

/-- What closing, opening and stepping change in a partition, and its audit sums. -/
def Part.gate (x : Part) : (Bool × Bool × Bool) × Bool × Bool × Couch × SMap Word :=
  ((x.thermClosed, x.waking, x.doze), x.open_, x.resetDue, x.couch, x.auditSum)

/-- Why a partition must not, or is to, reopen. -/
def Part.cause (x : Part) : Bool × Bool × Bool := (x.thermClosed, x.waking, x.doze)

/-- The root registers, the semaphore stores, the furnish and the peer ports. -/
def State.stores (s : State) : SMap Word × SMap Sem × List Waiter × List Deferred × Option Furnish × SMap PlkPort :=
  (s.roots, s.sems, s.waiters, s.deferred, s.furnish, s.plk)

theorem State.furnish_of_stores {s u : State} (h : u.stores.2 = s.stores.2) : u.furnish = s.furnish := congrArg (·.2.2.2.1) h

theorem Part.cause_of_gate {x y : Part} (h : x.gate = y.gate) : x.cause = y.cause := congrArg Prod.fst h

/-- A partition written with a field as it was. -/
theorem State.part_set_field {α : Type} (g : Part → α) {s : State} {q : Fin 32} {x : Part} (h : g x = g (s.part q)) (p : Fin 32) :
    g (SMap.get Part.init (SMap.set Part.init s.parts q.val x) p.val) = g (s.part p) := by
  by_cases hp : p.val = q.val
  · rw [hp, SMap.get_set_self, Fin.ext hp, h]
  · rw [SMap.get_set_ne _ _ _ hp]
    rfl

theorem mapParts_field {α : Type} (g : Part → α) {f : Fin 32 → Part → Part} (h : ∀ p x, g (f p x) = g x) (ps : List (Fin 32))
    (m : SMap Part) (k : Nat) : g (SMap.get Part.init (mapParts m ps f) k) = g (SMap.get Part.init m k) := by
  unfold mapParts
  induction ps generalizing m with
  | nil => rfl
  | cons q r ih =>
    refine (ih _).trans ?_
    rw [SMap.get_set]
    split
    next e => rw [h, e]
    next => rfl

theorem mapParts_close_cause (ps : List (Fin 32)) (m : SMap Part) (k : Nat) :
    (SMap.get Part.init (mapParts m ps fun _ x => x.close) k).cause = (SMap.get Part.init m k).cause :=
  mapParts_field Part.cause (f := fun _ x => x.close) (fun _ _ => rfl) ps m k

theorem mapParts_not_mem {f : Fin 32 → Part → Part} {ps : List (Fin 32)} {p : Fin 32} (h : p ∉ ps) (m : SMap Part) :
    SMap.get Part.init (mapParts m ps f) p.val = SMap.get Part.init m p.val := by
  unfold mapParts
  induction ps generalizing m with
  | nil => rfl
  | cons q r ih =>
    obtain ⟨hq, hr⟩ := not_or.1 (fun e => h (List.mem_cons.2 e))
    exact (ih hr _).trans (SMap.get_set_ne _ _ _ fun e => hq (Fin.ext e))

/-! ### The relations -/

/-- From `s` to `u` partitions may have closed and slots ended; no slot has been taken, and the stores stay. -/
structure State.Closing (s u : State) : Prop where
  cause : ∀ p : Fin 32, (u.part p).cause = (s.part p).cause
  stores : u.stores = s.stores
  bad : ∀ k ∈ s.net.badRouters, k ∈ u.net.badRouters
  slots : ∀ k : Nat, SMap.get Slot.init s.slots k = Slot.init → SMap.get Slot.init u.slots k = Slot.init

/-- From `s` to `u` no partition has closed or opened either, and the slots stay. -/
structure State.Quiet (s u : State) : Prop where
  gate : ∀ p : Fin 32, (u.part p).gate = (s.part p).gate
  stores : u.stores = s.stores
  bad : u.net.badRouters = s.net.badRouters
  slots : u.slots = s.slots

/-- Tiles of which no more than the sharing of their dies has changed. -/
def SameButShared (m m' : SMap Tile) : Prop :=
  ∀ k : Nat, ∃ b : Bool, SMap.get Tile.init m' k =
    { SMap.get Tile.init m k with clk := { (SMap.get Tile.init m k).clk with shared := b } }

theorem SameButShared.refl (m : SMap Tile) : SameButShared m m := fun _ => ⟨_, rfl⟩

theorem SameButShared.trans {a b c : SMap Tile} (h : SameButShared a b) (k : SameButShared b c) : SameButShared a c := fun n => by
  obtain ⟨x, hx⟩ := h n
  obtain ⟨y, hy⟩ := k n
  exact ⟨y, by rw [hy, hx]⟩

theorem SameButShared.modifyAll (g : Nat → Bool) (ks : List Nat) (m : SMap Tile) :
    SameButShared m (SMap.modifyAll Tile.init (fun k x => { x with clk := { x.clk with shared := g k } }) ks m) := by
  induction ks generalizing m with
  | nil => exact .refl m
  | cons a r ih =>
    refine SameButShared.trans (fun k => ?_) (ih _)
    rw [SMap.get_set]
    split
    next e => exact ⟨g a, by rw [e]⟩
    next => exact ⟨_, rfl⟩

/-- From `s` to `u` the mapping and the tiles stay too, but for the sharing of dies. -/
structure State.Tidy (s u : State) : Prop extends s.Quiet u where
  map : u.map = s.map
  tiles : SameButShared s.tiles u.tiles

namespace State

section
variable {s t u : State}

theorem Closing.refl (s : State) : s.Closing s := ⟨fun _ => rfl, rfl, fun _ => id, fun _ => id⟩

theorem Closing.trans (h : s.Closing t) (k : t.Closing u) : s.Closing u :=
  ⟨fun p => (k.cause p).trans (h.cause p), k.stores.trans h.stores, fun n hn => k.bad n (h.bad n hn), fun n hn => k.slots n (h.slots n hn)⟩

theorem Quiet.refl (s : State) : s.Quiet s := ⟨fun _ => rfl, rfl, rfl, rfl⟩

theorem Quiet.trans (h : s.Quiet t) (k : t.Quiet u) : s.Quiet u :=
  ⟨fun p => (k.gate p).trans (h.gate p), k.stores.trans h.stores, k.bad.trans h.bad, k.slots.trans h.slots⟩

theorem Quiet.closing (h : s.Quiet u) : s.Closing u :=
  ⟨fun p => Part.cause_of_gate (h.gate p), h.stores, fun _ hk => h.bad ▸ hk, fun _ hk => h.slots ▸ hk⟩

theorem Tidy.refl (s : State) : s.Tidy s := ⟨.refl s, rfl, .refl _⟩

theorem Tidy.trans (h : s.Tidy t) (k : t.Tidy u) : s.Tidy u :=
  ⟨h.toQuiet.trans k.toQuiet, k.map.trans h.map, h.tiles.trans k.tiles⟩

theorem Closing.foldl {α : Type} {f : State → α → State} (hf : ∀ (s : State) a, s.Closing (f s a)) (l : List α) (s : State) :
    s.Closing (l.foldl f s) := by
  induction l generalizing s with
  | nil => exact .refl s
  | cons a r ih => exact (hf s a).trans (ih _)

theorem Tidy.foldl {α : Type} {f : State → α → State} (hf : ∀ (s : State) a, s.Tidy (f s a)) (l : List α) (s : State) :
    s.Tidy (l.foldl f s) := by
  induction l generalizing s with
  | nil => exact .refl s
  | cons a r ih => exact (hf s a).trans (ih _)

end

/-! ### Writes to tiles, loads, vats and binding tables -/

section
variable (s : State) (p : Fin 32)

theorem sendWrites_tidy (ws : List (Nat × CfgWrite)) : s.Tidy (s.sendWrites p ws) :=
  ⟨⟨part_set_field Part.gate rfl, rfl, rfl, rfl⟩, rfl, .refl _⟩

theorem bindTiles_tidy (clear : Bool) (ms : List ModelInfo) : s.Tidy (s.bindTiles p clear ms) := by
  unfold State.bindTiles
  split
  · exact s.sendWrites_tidy p _
  · exact .refl s

theorem shareDie_tidy : s.Tidy (s.shareDie p) :=
  ⟨⟨fun _ => rfl, rfl, rfl, rfl⟩, rfl, .modifyAll _ _ _⟩

theorem setPart_tidy {x : Part} (h : x.gate = (s.part p).gate) : s.Tidy (s.setPart p x) :=
  ⟨⟨part_set_field Part.gate h, rfl, rfl, rfl⟩, rfl, .refl _⟩

theorem rebin_tidy : s.Tidy (s.rebin p) := by
  unfold State.rebin
  split
  · exact (s.setPart_tidy p (x := { s.part p with binsDue := false }) rfl).trans ((sendWrites_tidy _ p _).trans (shareDie_tidy _ p))
  · exact .refl s

theorem setLoad_tidy (l : Load) : s.Tidy (s.setLoad p l) := ⟨⟨part_set_field Part.gate rfl, rfl, rfl, rfl⟩, rfl, .refl _⟩

/-- Other vats, codes and records. -/
theorem vats_tidy (v : SMap Vat) (m : SMap Byte) (b : Bbx) : s.Tidy { s with vats := v, vatMem := m, bbx := b } :=
  ⟨⟨fun _ => rfl, rfl, rfl, rfl⟩, rfl, .refl _⟩

theorem enterWrite_tidy (st : BitVec 4) (d : Descriptor) (vs : List Nat) : s.Tidy (s.enterWrite p st d vs) := by
  have opened := (s.setLoad_tidy p { (s.part p).load with state := st, desc := some d, vats := vs }).trans (vats_tidy _
    (openVats s.vats (d.slices.zip vs)) (emptyCodes s.vatMem vs) s.bbx)
  unfold State.enterWrite
  dsimp only
  split
  · exact opened.trans (setLoad_tidy _ p _)
  · exact opened

theorem leaveNow_tidy : s.Tidy (s.leaveNow p) := by
  unfold State.leaveNow
  dsimp only
  split
  · exact .refl s
  · exact ((s.bindTiles_tidy p true _).trans (vats_tidy _ _ _ _)).trans (setLoad_tidy _ p _)

theorem dropNow_tidy : s.Tidy (s.dropNow p) := by
  unfold State.dropNow
  dsimp only
  split
  · exact .refl s
  · exact (vats_tidy s _ _ _).trans (setLoad_tidy _ p _)

theorem evictNow_tidy : s.Tidy (s.evictNow p) := by
  unfold State.evictNow
  dsimp only
  split
  · exact .refl s
  · split
    · exact ((s.bindTiles_tidy p true _).trans (vats_tidy _ _ _ _)).trans (enterWrite_tidy _ p _ _ _)
    · exact .refl s

theorem restore_tidy (l : List ModelInfo) : s.Tidy (s.restore p l) := by
  induction l generalizing s with
  | nil => exact s.setLoad_tidy p _
  | cons m r ih =>
    unfold State.restore
    split
    · exact (s.enterWrite_tidy p _ _ _).trans (setLoad_tidy _ p _)
    · exact (vats_tidy s _ _ _).trans (ih _)

theorem gapWork_tidy : s.Tidy (s.gapWork p) := by
  have work := ((s.leaveNow_tidy p).trans (dropNow_tidy _ p)).trans (evictNow_tidy _ p)
  unfold State.gapWork
  dsimp only
  split
  · split
    · exact work.trans (restore_tidy _ p _)
    · exact work
  · exact .refl s

theorem fetchMissing_quiet : s.Quiet (s.fetchMissing p) := by
  unfold State.fetchMissing
  dsimp only
  split
  · exact .refl s
  · exact ⟨part_set_field Part.gate rfl, rfl, rfl, rfl⟩

/-! ### Programs and tiles -/

theorem writeProgram_quiet (g : Program) (map : SMap Nat) : s.Quiet (s.writeProgram p g map) := by
  unfold State.writeProgram
  split
  · exact ⟨fun _ => rfl, rfl, rfl, rfl⟩
  · exact .refl s

theorem eraseProgram_quiet : s.Quiet (s.eraseProgram p) := ⟨fun _ => rfl, rfl, rfl, rfl⟩

theorem resetTiles_quiet (rows : List (PTile × Nat)) (ks : List Nat) : s.Quiet (s.resetTiles rows ks) := ⟨fun _ => rfl, rfl, rfl, rfl⟩

theorem programFail_quiet {x : Part} (h : x.gate = (s.part p).gate) : s.Quiet (s.programFail p x) :=
  ⟨part_set_field Part.gate h, rfl, rfl, rfl⟩

theorem Serv.pushAll_slots (x : Serv) (l : List (Nat × Frame)) : (x.pushAll l).slots = x.slots := by
  induction l generalizing x with
  | nil => rfl
  | cons e r ih => exact (ih _).trans (Serv.push_slots ..)

theorem answerSome_quiet (n : Option Nat) (f : Frame) : s.Quiet (s.answerSome n f) := by
  cases n with
  | none => exact .refl s
  | some n => exact ⟨fun _ => rfl, rfl, rfl, Serv.pushAll_slots ..⟩

theorem undoInstall_quiet (rows : List (PTile × Nat)) : s.Quiet (s.undoInstall p rows) := by
  unfold State.undoInstall
  split
  · exact .refl s
  next o _ =>
    have failed := s.programFail_quiet p (x := (s.part p).back o) rfl
    refine Quiet.trans (Quiet.trans ?_ (bindTiles_tidy _ p _ _).toQuiet) (answerSome_quiet _ _ _)
    split
    · exact ((failed.trans (writeProgram_quiet _ p _ _)).trans (resetTiles_quiet _ _ _)).trans (shareDie_tidy _ p).toQuiet
    · exact ((failed.trans (eraseProgram_quiet _ p)).trans (resetTiles_quiet _ _ _)).trans (shareDie_tidy _ p).toQuiet

theorem recheck_quiet : s.Quiet (s.recheck p) := by
  have undone : s.Quiet (if s.programsOk p s.map then s else s.undoInstall p []) := by
    split
    · exact .refl s
    · exact s.undoInstall_quiet p []
  unfold State.recheck
  generalize (if s.programsOk p s.map then s else s.undoInstall p []) = v at undone
  dsimp only
  split
  · exact undone
  · exact undone.trans (programFail_quiet _ p rfl)

theorem rewrite_quiet : s.Quiet { s with tiles := SMap.modifyAll Tile.init (fun _ x => x.rewritten) (s.tilesOf p) s.tiles } :=
  ⟨fun _ => rfl, rfl, rfl, rfl⟩

/-! ### Dead tiles -/

theorem retireTile_quiet (k : Nat) : s.Quiet (s.retireTile k) := ⟨fun _ => rfl, rfl, rfl, rfl⟩

theorem moveTile_quiet (q : Option (Fin 32)) (c r old new : Nat) : s.Quiet (s.moveTile q c r old new) := by
  refine ⟨fun a => ?_, rfl, rfl, rfl⟩
  cases q with
  | none => rfl
  | some q =>
    exact part_set_field Part.gate (q := q)
      (x := { s.part q with models := (s.part q).models.map (·.moved ((usedVats s.vats old).zip (freeVats s.vats new))) }) rfl a

theorem map_quiet (m : SMap Nat) : s.Quiet { s with map := m } := ⟨fun _ => rfl, rfl, rfl, rfl⟩

theorem remapAll_quiet (q : Option (Fin 32)) (l : List (Nat × Nat × Nat)) : s.Quiet (s.remapAll q l).1 := by
  induction l generalizing s with
  | nil => exact .refl s
  | cons e r ih =>
    obtain ⟨c, r0, old⟩ := e
    unfold State.remapAll
    dsimp only
    split
    · exact ((s.retireTile_quiet old).trans (map_quiet _ _)).trans (ih _)
    · exact ((s.retireTile_quiet old).trans (moveTile_quiet _ _ _ _ _ _)).trans (ih _)

end

/-! ### Closing -/

section
variable (s : State)

theorem Serv.endSlots_init (x : Serv) (now : Nat) (code detail : BitVec 8) (ks : List Nat) {j : Nat}
    (h : SMap.get Slot.init x.slots j = Slot.init) : SMap.get Slot.init (x.endSlots now code detail ks).slots j = Slot.init := by
  induction ks generalizing x with
  | nil => exact h
  | cons k r ih =>
    refine ih _ ?_
    rw [Serv.endSlot_slots]
    split
    next live =>
      refine (SMap.get_set_ne _ _ _ fun e => ?_).trans h
      rw [← e, h] at live
      cases live
    next => exact h

/-- Slots end and partitions close. -/
theorem closing_of_endServ {ps : List (Fin 32)} {code detail : BitVec 8} {u : State} (hs : u.slots = (s.endServ ps code detail).slots)
    (hp : ∀ p : Fin 32, (u.part p).cause = (s.part p).cause) (hst : u.stores = s.stores)
    (hb : ∀ k ∈ s.net.badRouters, k ∈ u.net.badRouters) : s.Closing u :=
  ⟨hp, hst, hb, fun _ hk => hs ▸ Serv.endSlots_init s.serv _ _ _ _ hk⟩

theorem closeParts_closing (ps : List (Fin 32)) (kind : BitVec 3) : s.Closing (s.closeParts ps kind) :=
  s.closing_of_endServ rfl (fun p => mapParts_close_cause ps s.parts p.val) rfl fun _ => id

theorem replaceDue_closing (p : Fin 32) : s.Closing (s.replaceDue p) := by
  unfold State.replaceDue
  split
  · exact .refl s
  · split
    · exact s.closing_of_endServ rfl (part_set_field Part.cause rfl) rfl fun _ => id
    · exact ⟨part_set_field Part.cause rfl, rfl, fun _ => id, fun _ => id⟩

theorem replaceFree_quiet (t : PTile) : s.Quiet (s.replaceFree t) := by
  unfold State.replaceFree
  dsimp only
  split
  · exact s.remapAll_quiet none _
  · exact s.retireTile_quiet _

theorem failTile_closing (t : PTile) : s.Closing (s.failTile t) := by
  have failed : s.Quiet (s.setTile t { s.tile t with pl := { (s.tile t).pl with failed := true } }) := ⟨fun _ => rfl, rfl, rfl, rfl⟩
  unfold State.failTile
  dsimp only
  split
  · exact (failed.trans (replaceFree_quiet _ t)).closing
  · exact (failed.trans (undoInstall_quiet _ _ _)).closing.trans (replaceDue_closing _ _)

theorem bringupLog_quiet (l : List Nat) : s.Quiet (s.bringupLog l) := ⟨fun _ => rfl, rfl, rfl, rfl⟩

theorem strayTests_closing (p : Fin 32) (vs : List (PTile × PTile × Bool)) : s.Closing (s.strayTests p vs) :=
  (Closing.foldl (fun s k => s.failTile_closing (PTile.ofKey k)) _ s).trans (bringupLog_quiet _ _).closing

theorem auditFail_closing (k check exp found : Nat) : s.Closing (s.auditFail k check exp found) := by
  have h := s.closeParts_closing (s.linkUsers (linkRouter k).col (linkRouter k).row (linkPort k)) 1
  exact ⟨h.cause, h.stores, h.bad, h.slots⟩

theorem auditFails_closing (check : Nat) (l : List (Nat × Nat × Nat)) : s.Closing (s.auditFails check l) := by
  induction l generalizing s with
  | nil => exact .refl s
  | cons e r ih => exact (s.auditFail_closing ..).trans (ih _)

theorem drainFails_closing (l : List (Nat × Nat × Nat × Nat)) : s.Closing (s.drainFails l) := by
  induction l generalizing s with
  | nil => exact .refl s
  | cons e r ih => exact (s.auditFail_closing ..).trans (ih _)

/-- A network with the same bad routers. -/
theorem net_quiet {n : Net} (h : n.badRouters = s.net.badRouters) : s.Quiet { s with net := n } := ⟨fun _ => rfl, rfl, h, rfl⟩

theorem startAudit_closing (q : Nat → Bool) : s.Closing (s.startAudit q) := by
  refine Closing.trans (net_quiet _ ?_).closing (auditFails_closing _ _ _)
  rfl

theorem drained_closing (p : Fin 32) : s.Closing (s.drained p) := by
  refine (((net_quiet _ ?_).closing.trans (drainFails_closing _ _)).trans (startAudit_closing _ _)).trans (net_quiet _ ?_).closing
  all_goals rfl

/-- The routers that failed their tests are bad, and partitions whose routes cross them close (R228, R468). -/
theorem closeRouters_closing (p : Fin 32) (rs : List PTile) :
    s.Closing (s.closeRouters p rs) ∧ ∀ r ∈ rs, r.key ∈ (s.closeRouters p rs).net.badRouters := by
  refine ⟨s.closing_of_endServ rfl (fun p => mapParts_close_cause _ s.parts p.val) rfl
    fun _ => List.mem_append_left _, fun r hr => ?_⟩
  by_cases hb : s.net.badRouters.contains r.key = true
  · exact List.mem_append_left _ (List.contains_iff_mem.1 hb)
  · exact List.mem_append_right _ (List.mem_dedup.2 (List.mem_map_of_mem (List.mem_filter.2 ⟨hr, by simpa using hb⟩)))

end

end State

end Sys2Proof.Machine
end

section
/-! O50, the PARTITION reset (R261, R405, R497). -/

namespace Sys2Proof.Machine

/-! ### Maps under a filter of keys -/

theorem SMap.get_filter_key {V : Type} (d : V) (g : Nat → Bool) (m : SMap V) (k : Nat) :
    SMap.get d (m.filter fun e => g e.1) k = if g k then SMap.get d m k else d := by
  induction m with
  | nil => simp [SMap.get]
  | cons e r ih =>
    obtain ⟨a, v⟩ := e
    cases ha : g a with
    | true =>
      rw [List.filter_cons_of_pos (p := fun e : Nat × V => g e.1) ha, SMap.get, SMap.get, ih]
      by_cases hk : k = a
      · rw [if_pos hk, if_pos hk, if_pos (hk ▸ ha)]
      · rw [if_neg hk, if_neg hk]
    | false =>
      rw [List.filter_cons_of_neg (p := fun e : Nat × V => g e.1) (by simp [ha]), ih, SMap.get]
      by_cases hk : k = a
      · rw [if_neg (by simp [hk, ha]), if_neg (by simp [hk, ha])]
      · rw [if_neg hk]

theorem SMap.mem_mapVals_of {V : Type} [DecidableEq V] {d : V} {f : Nat → V → V} {m : SMap V} {e : Nat × V} (h : e ∈ SMap.mapVals d f m) :
    ∃ v, e.2 = f e.1 v := by
  induction m with
  | nil => cases h
  | cons a r ih =>
    obtain ⟨k, v⟩ := a
    rw [SMap.mapVals] at h
    split at h
    · exact ih (SMap.mem_del h)
    · rcases List.mem_cons.1 h with rfl | h
      · exact ⟨v, rfl⟩
      · exact ih h

/-! ### Slots leave -/

theorem Part.releaseAll_gate (l : List Slot) (x : Part) : (x.releaseAll l).gate = x.gate := by
  induction l generalizing x with
  | nil => rfl
  | cons y r ih =>
    refine (ih _).trans ?_
    unfold Part.releaseSlot Part.unbind Part.retireOld Part.startPending
    cases y.adapt with
    | none => rfl
    | some k =>
      dsimp only
      split
      all_goals split
      all_goals rfl

/-- The slots when those of the partition have ended, before they become FREE. -/
def State.slotsEnded (s : State) (p : Fin 32) (code detail : BitVec 8) : SMap Slot :=
  ((s.flushFaults (s.slots.filter fun e => [p].any fun p => e.1 / 128 == p.val)).endServ [p] code detail).slots

/-- The partition `x` without its slots. -/
def Part.withoutSlots (x : Part) (ys : List Slot) : Part := { x.releaseAll ys with maps := [] }

theorem Part.withoutSlots_gate (x : Part) (ys : List Slot) : (x.withoutSlots ys).gate = x.gate := Part.releaseAll_gate ys x

theorem State.freeSlots_parts (s : State) (p : Fin 32) (code detail : BitVec 8) : (s.freeSlots [p] code detail).parts = mapParts s.parts [p]
    fun p x => x.withoutSlots (((s.slotsEnded p code detail).filter fun e => e.1 / 128 == p.val).map fun e => e.2) := rfl

/-- Every slot of the partition becomes FREE. -/
theorem State.freeSlots_closing (s : State) (p : Fin 32) (code detail : BitVec 8) : s.Closing (s.freeSlots [p] code detail) ∧
    ∀ k : Nat, k / 128 = p.val → SMap.get Slot.init (s.freeSlots [p] code detail).slots k = Slot.init := by
  have slot (k : Nat) := SMap.get_filter_key Slot.init (fun k => !([p].any fun p => k / 128 == p.val)) (s.slotsEnded p code detail) k
  refine ⟨⟨fun q => ?_, rfl, fun _ => id, fun k hk => (slot k).trans ?_⟩, fun k hk => (slot k).trans (if_neg ?_)⟩
  · rw [State.part, State.freeSlots_parts]
    exact Part.cause_of_gate (mapParts_field Part.gate (fun _ x => Part.withoutSlots_gate x _) [p] s.parts q.val)
  · split
    · exact Serv.endSlots_init (s.flushFaults _).serv _ _ _ _ hk
    · rfl
  · simp [hk]

/-! ### The partition's fields are cleared -/

theorem State.stopLoad_quiet (s : State) (p : Fin 32) : s.Quiet (s.stopLoad p) := ⟨State.part_set_field Part.gate rfl, rfl, rfl, rfl⟩

/-- The partition stands closed, its step forgotten. -/
structure Part.Cleared (x : Part) : Prop where
  closed : x.open_ = false
  couch : x.couch = Couch.init

/-- The partition's root registers hold no table (R216). -/
def State.NoRoots (s : State) (p : Fin 32) : Prop :=
  ∀ site : Fin 64, SMap.get 0 s.roots (Machine.rootKey site p) = 0 ∧ SMap.get 0 s.roots (Machine.rootKey site p + 1) = 0

theorem State.clearPart_cleared (s : State) (p : Fin 32) : ((s.clearPart p).part p).Cleared := by
  rw [show (s.clearPart p).part p = _ from SMap.get_set_self ..]
  exact ⟨rfl, rfl⟩

theorem State.clearPart_noRoots (s : State) (p : Fin 32) : (s.clearPart p).NoRoots p := by
  have key (k : Nat) (h : k % 64 / 2 = p.val) : SMap.get 0 (s.clearPart p).roots k = 0 :=
    (SMap.get_filter_key 0 (fun k => Decidable.decide (k % 64 / 2 ≠ p.val)) s.roots k).trans (if_neg (by simp [h]))
  intro site
  have := p.isLt
  exact ⟨key _ (by unfold Machine.rootKey; omega), key _ (by unfold Machine.rootKey; omega)⟩

/-- But for the roots the stores stay, and why the partition is closed. -/
theorem State.clearPart_keeps (s : State) (p : Fin 32) :
    ((s.clearPart p).part p).cause = (s.part p).cause ∧ (s.clearPart p).stores.2 = s.stores.2 ∧
    (s.clearPart p).net.badRouters = s.net.badRouters ∧ (s.clearPart p).slots = s.slots := by
  refine ⟨?_, rfl, rfl, rfl⟩
  rw [show (s.clearPart p).part p = _ from SMap.get_set_self ..]
  exact (Part.cause_of_gate ((s.stopLoad_quiet p).gate p) :)

/-! ### Code and tiles are written again -/

/-- A tile after its reset (R286). -/
structure Tile.Emptied (y : Tile) : Prop where
  pc : y.sc.pc = y.sc.entry
  halted : y.sc.halted = false
  queues : y.mq = [] ∧ y.vq = [] ∧ y.lq = [] ∧ y.dq = [] ∧ y.sq = []
  report : y.rp.rep = Report.clean

/-- A tile after its reset and the writing of its store (R284, R286). -/
structure Tile.Restarted (y : Tile) : Prop extends y.Emptied where
  stopped : y.sc.stopped = false
  istoreEcc : y.mem.istoreEcc = []

theorem Tile.reset_emptied (x : Tile) (rows : List Nat) : (x.reset rows).Emptied := ⟨rfl, rfl, ⟨rfl, rfl, rfl, rfl, rfl⟩, rfl⟩

theorem Tile.Emptied.rewritten {x : Tile} (h : x.Emptied) : x.rewritten.Restarted := ⟨⟨h.pc, h.halted, h.queues, h.report⟩, rfl, rfl⟩

theorem Tile.Restarted.shared {y : Tile} (h : y.Restarted) (b : Bool) : Tile.Restarted { y with clk := { y.clk with shared := b } } :=
  ⟨⟨h.pc, h.halted, h.queues, h.report⟩, h.stopped, h.istoreEcc⟩

/-- What a change makes of a listed key, and keeps when it comes again, holds however often the key is listed. -/
theorem SMap.modifyAll_prop {V : Type} [DecidableEq V] {d : V} {f : Nat → V → V} {P Q : V → Prop} (hf : ∀ k v, Q v → P (f k v))
    (hq : ∀ v, P v → Q v) {ks : List Nat} {k : Nat} (hk : k ∈ ks) {m : SMap V} (h : Q (SMap.get d m k)) :
    P (SMap.get d (SMap.modifyAll d f ks m) k) := by
  have step (a : Nat) (m : SMap V) (h : Q (SMap.get d m k)) : Q (SMap.get d (SMap.set d m a (f a (SMap.get d m a))) k) := by
    rw [SMap.get_set]
    split
    next e => exact hq _ (hf _ _ (e ▸ h))
    next => exact h
  have keeps (ks : List Nat) : ∀ m : SMap V, P (SMap.get d m k) → P (SMap.get d (SMap.modifyAll d f ks m) k) := by
    induction ks with
    | nil => exact fun _ => id
    | cons a r ih =>
      refine fun m h => ih _ ?_
      rw [SMap.get_set]
      split
      next e => exact hf _ _ (e ▸ hq _ h)
      next => exact h
  induction ks generalizing m with
  | nil => cases hk
  | cons a r ih =>
    rcases List.mem_cons.1 hk with rfl | hk
    · refine keeps r _ ?_
      rw [SMap.get_set_self]
      exact hf _ _ h
    · exact ih hk (step a m h)

theorem State.tilesOf_congr {s u : State} (hm : u.map = s.map) (hf : u.furnish = s.furnish) (p : Fin 32) : u.tilesOf p = s.tilesOf p := by
  simp only [State.tilesOf, State.furnPart, hm, hf]

theorem State.tiles_quiet (s : State) (m : SMap Tile) : s.Quiet { s with tiles := m } := ⟨fun _ => rfl, rfl, rfl, rfl⟩

/-- The state with the partition's program written again, if it has one. -/
def State.reprogrammed (s : State) (p : Fin 32) : State :=
  match (s.part p).loaded || (s.part p).prev.isSome, (s.part p).program with
  | true, some g => s.writeProgram p g s.map
  | _, _ => s

theorem State.reprogrammed_quiet (s : State) (p : Fin 32) : s.Quiet (s.reprogrammed p) ∧ (s.reprogrammed p).map = s.map := by
  unfold State.reprogrammed
  split
  · refine ⟨s.writeProgram_quiet p _ _, ?_⟩
    unfold State.writeProgram
    split <;> rfl
  · exact ⟨.refl s, rfl⟩

/-- The tiles after the TILE resets and the writing of their stores. -/
def State.restarted (s : State) (rows : List (PTile × Nat)) (ks : List Nat) : State :=
  { s.resetTiles rows ks with tiles := SMap.modifyAll Tile.init (fun _ x => x.rewritten) ks (s.resetTiles rows ks).tiles }

theorem State.rebuilt_eq (s : State) (p : Fin 32) (rows : List (PTile × Nat)) : s.rebuilt p rows =
    (((s.reprogrammed p).restarted rows (s.tilesOf p)).shareDie p).bindTiles p false (((s.reprogrammed p).restarted rows (s.tilesOf p)).part p).models :=
  rfl

theorem State.restarted_tile (s : State) (rows : List (PTile × Nat)) {ks : List Nat} {k : Nat} (hk : k ∈ ks) :
    (SMap.get Tile.init (s.restarted rows ks).tiles k).Restarted := by
  have reset : (SMap.get Tile.init (Machine.resetTiles s.tiles rows ks) k).Emptied :=
    SMap.modifyAll_prop (Q := fun _ => True) (fun k (x : Tile) _ => x.reset_emptied (rowsOf rows k)) (fun _ _ => trivial) hk trivial
  exact SMap.modifyAll_prop (f := fun _ (x : Tile) => x.rewritten) (fun _ _ => Tile.Emptied.rewritten) (fun _ h => h.toEmptied) hk reset

/-- The partition's tiles are restarted, and no partition opens or closes. -/
theorem State.rebuilt_restarted (s : State) (p : Fin 32) (rows : List (PTile × Nat)) :
    s.Quiet (s.rebuilt p rows) ∧ ∀ k ∈ (s.rebuilt p rows).tilesOf p, (SMap.get Tile.init (s.rebuilt p rows).tiles k).Restarted := by
  rw [State.rebuilt_eq]
  obtain ⟨written, map⟩ := s.reprogrammed_quiet p
  have reset := ((s.reprogrammed p).resetTiles_quiet rows (s.tilesOf p)).trans (State.tiles_quiet _
    (SMap.modifyAll Tile.init (fun _ x => x.rewritten) (s.tilesOf p) ((s.reprogrammed p).resetTiles rows (s.tilesOf p)).tiles))
  have after := (((s.reprogrammed p).restarted rows (s.tilesOf p)).shareDie_tidy p).trans (State.bindTiles_tidy _ p false
    (((s.reprogrammed p).restarted rows (s.tilesOf p)).part p).models)
  have whole := (written.trans reset).trans after.toQuiet
  refine ⟨whole, fun k hk => ?_⟩
  rw [State.tilesOf_congr (after.map.trans map) (State.furnish_of_stores (congrArg Prod.snd whole.stores))] at hk
  obtain ⟨b, hb⟩ := after.tiles k
  rw [hb]
  exact ((s.reprogrammed p).restarted_tile rows hk).shared b

/-! ### Semaphores (R261, R273) -/

/-- The owner's entries stand at their initial values, as its audit sums say. -/
structure State.Balanced (s : State) (p : Fin 32) : Prop where
  initial : ∀ e ∈ s.sems, e.2.owner.toNat = p.val → e.2.value = e.2.init
  sums : (s.part p).auditSum = []

/-- What the reset makes of an entry. -/
def Sem.afterReset (e : Sem) (p : Fin 32) : Sem := if e.owner.toNat = p.val then e.reinit else e

theorem State.sem_resetSems (s : State) (p : Fin 32) (site : Fin 64) (i : BitVec 10) :
    (s.resetSems p).sem site i = (s.sem site i).afterReset p :=
  SMap.get_mapVals_of_default (f := fun _ (e : Sem) => e.afterReset p)
    (fun _ => if_neg (by have := p.isLt; simp only [Sem.unowned]; change (63 : Nat) ≠ _; omega)) s.sems _

theorem State.resetSems_balanced (s : State) (p : Fin 32) : (s.resetSems p).Balanced p := by
  refine ⟨fun e he ho => ?_, congrArg Part.auditSum (SMap.get_set_self ..)⟩
  obtain ⟨v, hv⟩ := SMap.mem_mapVals_of (f := fun _ (e : Sem) => e.afterReset p) he
  rw [hv] at ho ⊢
  unfold Sem.afterReset at ho ⊢
  split at ho
  next h => rw [if_pos h]; rfl
  next h => exact absurd ho h

theorem semSum_fold {l : List (Nat × Sem)} (h : ∀ e ∈ l, e.2.value = e.2.init) (a : Word) :
    l.foldl (fun a e => a + (e.2.value - e.2.init)) a = a := by
  induction l with
  | nil => rfl
  | cons e r ih =>
    rw [List.foldl_cons, h e (List.mem_cons_self ..), BitVec.sub_self, BitVec.add_zero]
    exact ih fun x hx => h x (List.mem_cons_of_mem _ hx)

/-- The audit finds a balanced partition in order. -/
theorem State.Balanced.not_mem_semBad {s : State} {p : Fin 32} (h : s.Balanced p) (site : Fin 64) : p ∉ s.semBad site := by
  have sum : s.semSum site p = 0 := semSum_fold (fun e he => by
    obtain ⟨mem, sel⟩ := List.mem_filter.1 he
    exact h.initial e mem (by simpa using (Bool.and_eq_true_iff.1 sel).2)) 0
  intro hm
  have differs := (List.mem_filter.1 hm).2
  rw [sum, h.sums] at differs
  simp [SMap.get] at differs

/-- From `s` to `u` other partitions than `p` may have closed; the mapping and the tiles stay. -/
structure State.Sweeps (p : Fin 32) (s u : State) : Prop extends s.Closing u where
  gate : (u.part p).gate = (s.part p).gate
  map : u.map = s.map
  tiles : u.tiles = s.tiles

namespace State

theorem Sweeps.refl (p : Fin 32) (s : State) : Sweeps p s s := ⟨.refl s, rfl, rfl, rfl⟩

theorem Sweeps.trans {p : Fin 32} {s t u : State} (h : Sweeps p s t) (k : Sweeps p t u) : Sweeps p s u :=
  ⟨h.toClosing.trans k.toClosing, k.gate.trans h.gate, k.map.trans h.map, k.tiles.trans h.tiles⟩

theorem sems_of_stores {s u : State} (h : u.stores = s.stores) : u.sems = s.sems := congrArg (·.2.1) h

theorem Balanced.sweeps {p : Fin 32} {s u : State} (b : s.Balanced p) (h : Sweeps p s u) : u.Balanced p :=
  ⟨fun e he => b.initial e (sems_of_stores h.stores ▸ he), (congrArg (·.2.2.2.2) h.gate).trans b.sums⟩

theorem semUes_sweeps (p : Fin 32) (l : List SemRead) (s : State) : Sweeps p s (s.semUes l) := by
  induction l generalizing s with
  | nil => exact .refl p s
  | cons x r ih =>
    have one : Sweeps p s (s.semUe x) := ⟨⟨fun _ => rfl, rfl, fun _ => id, fun _ => id⟩, rfl, rfl, rfl⟩
    exact one.trans (ih _)

theorem closeParts_sweeps (s : State) {p : Fin 32} {ps : List (Fin 32)} (h : p ∉ ps) (kind : BitVec 3) : Sweeps p s (s.closeParts ps kind) :=
  ⟨s.closeParts_closing ps kind, congrArg Part.gate (mapParts_not_mem (f := fun _ x => x.close) h s.parts), rfl, rfl⟩

/-- A sweep closes no balanced partition. -/
theorem Balanced.sweepSems {p : Fin 32} {s : State} (b : s.Balanced p) (site : Fin 64) : Sweeps p s (s.sweepSems site) := by
  have read := semUes_sweeps p (uncorrectableSems s.sems (fun k _ => k / 1024 == site.val) none) s
  have good := (b.sweeps read).not_mem_semBad site
  unfold State.sweepSems
  dsimp only
  split
  · exact read
  · obtain ⟨closing, gate, map, tiles⟩ := read.trans (closeParts_sweeps _ good 2)
    exact ⟨⟨closing.cause, closing.stores, closing.bad, closing.slots⟩, gate, map, tiles⟩

theorem Balanced.sweepAll {p : Fin 32} {s : State} (b : s.Balanced p) : Sweeps p s s.sweepAll := by
  unfold State.sweepAll
  induction allSites generalizing s with
  | nil => exact .refl p s
  | cons i r ih =>
    have one : Sweeps p s (if (s.site i).up then s.sweepSems i else s) := by
      split
      · exact b.sweepSems i
      · exact .refl p s
    exact one.trans (ih (b.sweeps one))

end State

end Sys2Proof.Machine
end

section
/-! O50, the PARTITION reset put together: what stands when its parts are done, and after it opens or waits. -/

namespace Sys2Proof.Machine

namespace State

theorem binsMarked_tidy (s : State) (qs : List (Fin 32)) :
    s.Tidy { s with parts := mapParts s.parts qs fun _ x => { x with binsDue := x.loaded || x.prev.isSome } } :=
  ⟨⟨fun q => mapParts_field Part.gate (f := fun _ x => { x with binsDue := x.loaded || x.prev.isSome }) (fun _ _ => rfl) qs s.parts q.val, rfl, rfl, rfl⟩,
    rfl, .refl _⟩

theorem loadsMoved_tidy (s : State) (p : Fin 32) (old : SMap Nat) : s.Tidy (s.loadsMoved p old) := by
  unfold State.loadsMoved
  split
  · exact .refl s
  · exact ((s.binsMarked_tidy _).trans (Tidy.foldl (fun s q => s.rebin_tidy q) _ _)).trans (Tidy.foldl (fun s q => s.shareDie_tidy q) _ _)

end State

/-- What the reset of partition `p` has done from `s` on when its tiles and stores are reset, whether the partition then opens or not. -/
structure State.PartRebuilt (s u : State) (p : Fin 32) (routers : List PTile) : Prop where
  couch : (u.part p).couch = Couch.init
  bad : ∀ r ∈ routers, r.key ∈ u.net.badRouters
  slots : ∀ k : Nat, k / 128 = p.val → SMap.get Slot.init u.slots k = Slot.init
  sems : ∀ (site : Fin 64) (i : BitVec 10), u.sem site i = (s.sem site i).afterReset p
  waiters : ∀ w ∈ u.waiters, w.part ≠ p
  deferred : ∀ d ∈ u.deferred, d.part ≠ p
  tiles : ∀ k ∈ u.tilesOf p, (SMap.get Tile.init u.tiles k).Restarted

/-- Before the reset ends: the partition stands closed, and its sums agree. -/
structure State.PartStopped (s u : State) (p : Fin 32) (routers : List PTile) : Prop extends s.PartRebuilt u p routers where
  closed : (u.part p).open_ = false
  cause : (u.part p).cause = (s.part p).cause
  roots : u.NoRoots p

section
variable {s u v : State} {p : Fin 32} {routers : List PTile}

theorem State.PartRebuilt.keep (h : s.PartRebuilt u p routers) (couch : (v.part p).couch = (u.part p).couch)
    (stores : v.stores.2 = u.stores.2) (bad : ∀ k ∈ u.net.badRouters, k ∈ v.net.badRouters)
    (slots : ∀ k : Nat, SMap.get Slot.init u.slots k = Slot.init → k / 128 = p.val → SMap.get Slot.init v.slots k = Slot.init) (map : v.map = u.map)
    (tiles : SameButShared u.tiles v.tiles) : s.PartRebuilt v p routers := by
  have sems : v.sems = u.sems := congrArg (·.1) stores
  have waiters : v.waiters = u.waiters := congrArg (·.2.1) stores
  have deferred : v.deferred = u.deferred := congrArg (·.2.2.1) stores
  have furnish := State.furnish_of_stores stores
  refine ⟨couch.trans h.couch, fun r hr => bad _ (h.bad r hr), fun k hk => slots k (h.slots k hk) hk, fun site i => ?_,
    waiters ▸ h.waiters, deferred ▸ h.deferred, fun k hk => ?_⟩
  · rw [← h.sems, State.sem, sems]
    rfl
  · rw [State.tilesOf_congr map furnish] at hk
    obtain ⟨b, hb⟩ := tiles k
    rw [hb]
    exact (h.tiles k hk).shared b

theorem State.PartRebuilt.tidy (h : s.PartRebuilt u p routers) (k : u.Tidy v) : s.PartRebuilt v p routers :=
  h.keep (congrArg (·.2.2.2.1) (k.gate p)) (congrArg Prod.snd k.stores) (fun _ hn => k.bad ▸ hn) (fun _ hn _ => k.slots ▸ hn) k.map k.tiles

theorem State.PartStopped.tidy (h : s.PartStopped u p routers) (k : u.Tidy v) : s.PartStopped v p routers := by
  have roots : v.roots = u.roots := congrArg Prod.fst k.stores
  refine ⟨h.toPartRebuilt.tidy k, (congrArg (·.2.1) (k.gate p)).trans h.closed, (Part.cause_of_gate (k.gate p)).trans h.cause, ?_⟩
  unfold State.NoRoots
  rw [roots]
  exact h.roots

theorem State.PartStopped.sweeps (h : s.PartStopped u p routers) (k : State.Sweeps p u v) : s.PartStopped v p routers := by
  have roots : v.roots = u.roots := congrArg Prod.fst k.stores
  refine ⟨h.toPartRebuilt.keep (congrArg (·.2.2.2.1) k.gate) (congrArg Prod.snd k.stores) k.bad (fun n hn _ => k.slots n hn) k.map
    (k.tiles ▸ .refl _), (congrArg (·.2.1) k.gate).trans h.closed, (Part.cause_of_gate k.gate).trans h.cause, ?_⟩
  unfold State.NoRoots
  rw [roots]
  exact h.roots

/-- The partition's own fields are written, its couch and cause as they were. -/
theorem State.PartStopped.setPart (h : s.PartStopped u p routers) {x : Part} (ho : x.open_ = false) (hc : x.couch = (u.part p).couch)
    (hx : x.cause = (u.part p).cause) : s.PartStopped (u.setPart p x) p routers := by
  have part := State.part_setPart u p x
  refine ⟨h.toPartRebuilt.keep ?_ rfl (fun _ => id) (fun _ hn _ => hn) rfl (.refl _), ?_, ?_, h.roots⟩
  · rw [part, hc]
  · rw [part, ho]
  · rw [part, hx, h.cause]

end

/-! ### The steps of R497 -/

/-- Steps 1 to 3: drained, without slots, tested, its fields cleared. -/
def State.partCleared (s : State) (p : Fin 32) (failed : TestFails) : State :=
  (((((s.closeRouters p failed.routers).drained p).freeSlots [p] 5 1).strayTests p failed.verdicts).bringupLog
    (s.retestBad p failed)).clearPart p

/-- Steps 4 to 6: dead tiles replaced, code, tiles and semaphores reset. -/
def State.partRestored (s : State) (p : Fin 32) (failed : TestFails) (rows : List (PTile × Nat)) : State :=
  ((((((s.partCleared p failed).remapAll (some p) (s.deadTiles p failed rows)).1.fetchMissing p).recheck p).rebuilt p rows).resetSems p).loadsMoved p
    s.map

/-- Steps 1 to 3 leave the stores of semaphores, and the partition stopped. -/
structure State.PartCleared (s u : State) (p : Fin 32) (routers : List PTile) : Prop where
  part : (u.part p).Cleared
  cause : (u.part p).cause = (s.part p).cause
  stores : u.stores.2 = s.stores.2
  bad : ∀ r ∈ routers, r.key ∈ u.net.badRouters
  slots : ∀ k : Nat, k / 128 = p.val → SMap.get Slot.init u.slots k = Slot.init
  roots : u.NoRoots p

section
variable (s : State) (p : Fin 32) (failed : TestFails) (rows : List (PTile × Nat))

theorem State.partCleared_cleared : s.PartCleared (s.partCleared p failed) p failed.routers := by
  obtain ⟨routed, bad⟩ := s.closeRouters_closing p failed.routers
  have drained := (s.closeRouters p failed.routers).drained_closing p
  obtain ⟨freed, free⟩ := ((s.closeRouters p failed.routers).drained p).freeSlots_closing p 5 1
  have tested := (State.strayTests_closing (((s.closeRouters p failed.routers).drained p).freeSlots [p] 5 1) p failed.verdicts).trans
    (State.bringupLog_quiet _ (s.retestBad p failed)).closing
  have before := ((routed.trans drained).trans freed).trans tested
  have after := (drained.trans freed).trans tested
  obtain ⟨cause, stores, routers, slots⟩ := State.clearPart_keeps (((((s.closeRouters p failed.routers).drained p).freeSlots [p] 5 1).strayTests p
    failed.verdicts).bringupLog (s.retestBad p failed)) p
  exact ⟨State.clearPart_cleared _ p, cause.trans (before.cause p), stores.trans (congrArg Prod.snd before.stores),
    fun r hr => routers ▸ after.bad _ (bad r hr), fun k hk => slots ▸ tested.slots k (free k hk), State.clearPart_noRoots _ p⟩

end

/-- The operations of steps 4 to 6, but for the mapping of tiles, leave the partition as it was. -/
theorem State.PartCleared.rebuilt {s u : State} {p : Fin 32} {routers : List PTile} (h : s.PartCleared u p routers)
    (rows : List (PTile × Nat)) : s.PartStopped ((u.rebuilt p rows).resetSems p) p routers := by
  obtain ⟨quiet, restarted⟩ := u.rebuilt_restarted p rows
  have roots : (u.rebuilt p rows).roots = u.roots := congrArg Prod.fst quiet.stores
  have sems : (u.rebuilt p rows).sems = s.sems := (congrArg (·.2.1) quiet.stores).trans (congrArg (·.1) h.stores)
  have part := State.part_setPart (u.rebuilt p rows) p { (u.rebuilt p rows).part p with auditSum := [] }
  have field {α : Type} (g : Part → α) : g (((u.rebuilt p rows).resetSems p).part p) = g { (u.rebuilt p rows).part p with auditSum := [] } :=
    congrArg g part
  refine ⟨⟨?_, fun r hr => quiet.bad ▸ h.bad r hr, fun k hk => (congrArg (SMap.get Slot.init · k) quiet.slots).trans (h.slots k hk), fun site i => ?_,
    fun w hw => ?_, fun d hd => ?_, restarted⟩, ?_, ?_, ?_⟩
  · exact (field Part.couch).trans ((congrArg (·.2.2.2.1) (quiet.gate p)).trans h.part.couch)
  · rw [State.sem_resetSems, State.sem, sems]
    rfl
  · simpa using (List.mem_filter.1 hw).2
  · simpa using (List.mem_filter.1 hd).2
  · exact (field Part.open_).trans ((congrArg (·.2.1) (quiet.gate p)).trans h.part.closed)
  · exact (field Part.cause).trans ((Part.cause_of_gate (quiet.gate p)).trans h.cause)
  · unfold State.NoRoots
    rw [show ((u.rebuilt p rows).resetSems p).roots = u.roots from roots]
    exact h.roots

theorem State.PartCleared.quiet {s u v : State} {p : Fin 32} {routers : List PTile} (h : s.PartCleared u p routers) (k : u.Quiet v) :
    s.PartCleared v p routers := by
  have roots : v.roots = u.roots := congrArg Prod.fst k.stores
  refine ⟨⟨(congrArg (·.2.1) (k.gate p)).trans h.part.closed, (congrArg (·.2.2.2.1) (k.gate p)).trans h.part.couch⟩,
    (Part.cause_of_gate (k.gate p)).trans h.cause, (congrArg Prod.snd k.stores).trans h.stores, fun r hr => k.bad ▸ h.bad r hr,
    fun n hn => k.slots ▸ h.slots n hn, ?_⟩
  unfold State.NoRoots
  rw [roots]
  exact h.roots

/-- Steps 1 to 6 stop the partition, and its audit sums agree. -/
theorem State.partRestored_stopped (s : State) (p : Fin 32) (failed : TestFails) (rows : List (PTile × Nat)) :
    s.PartStopped (s.partRestored p failed rows) p failed.routers ∧ (s.partRestored p failed rows).Balanced p := by
  have remapped := ((State.remapAll_quiet (s.partCleared p failed) (some p) (s.deadTiles p failed rows)).trans
    (State.fetchMissing_quiet _ p)).trans (State.recheck_quiet _ p)
  have moved := State.loadsMoved_tidy ((((((s.partCleared p failed).remapAll (some p) (s.deadTiles p failed rows)).1.fetchMissing p).recheck p).rebuilt p
    rows).resetSems p) p s.map
  refine ⟨(((s.partCleared_cleared p failed).quiet remapped).rebuilt rows).tidy moved, ?_⟩
  have balanced := State.resetSems_balanced (((((s.partCleared p failed).remapAll (some p) (s.deadTiles p failed rows)).1.fetchMissing p).recheck
    p).rebuilt p rows) p
  exact ⟨fun e he => balanced.initial e (State.sems_of_stores moved.stores ▸ he), (congrArg (·.2.2.2.2) (moved.gate p)).trans balanced.sums⟩

/-! ### The end of the reset (R387, R473, R497) -/

/-- The reset of the partition is over: it has opened, or stands closed. -/
structure State.PartEnded (s u : State) (p : Fin 32) (routers : List PTile) : Prop extends s.PartRebuilt u p routers where
  due : (u.part p).resetDue = false
  therm : (s.part p).thermClosed = true → (u.part p).open_ = false
  doze : (s.part p).waking = true → (u.part p).open_ = true → (u.part p).doze = false
  roots : (u.part p).open_ = false → u.NoRoots p

theorem State.PartStopped.ended {s u : State} {p : Fin 32} {routers : List PTile} (h : s.PartStopped u p routers)
    (hd : (u.part p).resetDue = false) : s.PartEnded u p routers :=
  ⟨h.toPartRebuilt, hd, fun _ => h.closed, fun _ ho => Bool.noConfusion (h.closed.symm.trans ho), fun _ => h.roots⟩

/-- The fields of a partition that opens (R387). -/
def Part.opened (x : Part) (sw : List SwapEntry) (now : Nat) : Part :=
  { x with
    open_ := true, resetDue := false, couch := Couch.init
    models := x.models.map fun m => { m with gone := false }
    doze := x.doze && !x.waking, waking := false
    load := x.load.resume.next sw now }

/-- The partition opens, before what its gap and its tables call for. -/
def State.opened (s : State) (p : Fin 32) : State :=
  { s.setPart p ((s.part p).opened (s.swapOf p) s.now) with
    roots := match s.furnPart p with
      | none => s.roots
      | some f => rootsOpen s.furnish s.roots p f.supSite (s.sitesOf p) }

theorem State.openPart_eq (s : State) (p : Fin 32) : s.openPart p = ((s.opened p).gapWork p).writeTables p := rfl

/-- A FREE slot has no positions in flight. -/
theorem State.writeTables_slots (s : State) (p : Fin 32) {k : Nat} (h : SMap.get Slot.init s.slots k = Slot.init) :
    SMap.get Slot.init (s.writeTables p).slots k = Slot.init := by
  unfold State.writeTables
  dsimp only
  split
  · exact h
  next g _ =>
    refine (SMap.get_mapVals_of_default (f := fun k (y : Slot) => if k / 128 = p.val then
      { y with nf := y.inFlight g (s.prefilling p == some k) } else y) (fun k => ?_) s.slots k).trans ?_
    · split <;> rfl
    · rw [h]
      split <;> rfl

/-- A stopped partition that no thermal site-off keeps closed opens. -/
theorem State.PartStopped.openPart {s u : State} {p : Fin 32} {routers : List PTile} (h : s.PartStopped u p routers)
    (ht : (u.part p).thermClosed = false) : s.PartEnded (u.openPart p) p routers := by
  rw [State.openPart_eq]
  have part : (u.opened p).part p = _ := State.part_setPart u p ((u.part p).opened (u.swapOf p) u.now)
  have work := (u.opened p).gapWork_tidy p
  have sent := State.sendWrites_tidy ((u.opened p).gapWork p) p (((u.opened p).gapWork p).tableWrites p)
  have opened : s.PartRebuilt (u.opened p) p routers := by
    refine h.toPartRebuilt.keep ?_ rfl (fun _ => id) (fun _ hn _ => hn) rfl (.refl _)
    rw [part, h.couch]
    rfl
  have gate : ((((u.opened p).gapWork p).writeTables p).part p).gate = ((u.opened p).part p).gate := (sent.gate p).trans (work.gate p)
  rw [part] at gate
  have open_ : ((((u.opened p).gapWork p).writeTables p).part p).open_ = true := congrArg (·.2.1) gate
  refine ⟨(opened.tidy work).keep (congrArg (·.2.2.2.1) (sent.gate p)) (congrArg Prod.snd sent.stores) (fun _ hn => sent.bad ▸ hn)
    (fun _ hn _ => State.writeTables_slots _ p hn) sent.map sent.tiles, congrArg (·.2.2.1) gate, fun hs => ?_, fun hw _ => ?_, fun ho => ?_⟩
  · have warm : (s.part p).thermClosed = false := (congrArg Prod.fst h.cause).symm.trans ht
    rw [hs] at warm
    cases warm
  · have waking : (u.part p).waking = true := (congrArg (·.2.1) h.cause).trans hw
    refine (congrArg (·.1.2.2) gate).trans ?_
    simp [Part.gate, Part.opened, waking]
  · rw [open_] at ho
    cases ho

/-- The record of a dead tile without a spare (R466). -/
def State.reachLogged (s : State) (p : Fin 32) : State := { s with bbx := s.bbx.append (s.sup.record evtRemapReach (some p) 0 0) }

/-- Records and counts of the supervisor change none of it. -/
theorem State.PartEnded.withRecords {s u v : State} {p : Fin 32} {routers : List PTile} (h : s.PartEnded u p routers)
    (hv : v = { u with bbx := v.bbx, sup := v.sup }) : s.PartEnded v p routers := by
  rw [hv]
  exact ⟨⟨h.couch, h.bad, h.slots, h.sems, h.waiters, h.deferred, h.tiles⟩, h.due, h.therm, h.doze, h.roots⟩

section
variable {s u : State} {p : Fin 32} {routers : List PTile} (h : s.PartStopped u p routers)
include h

theorem State.PartStopped.putOut : s.PartEnded (u.putOut p) p routers := by
  refine State.PartStopped.ended (h.setPart (x := { u.part p with oos := true, open_ := false, resetDue := false }) rfl rfl rfl) ?_
  exact congrArg Part.resetDue (State.part_setPart u p _)

theorem State.PartStopped.reachLogged : s.PartEnded ((u.putOut p).reachLogged p) p routers := h.putOut.withRecords rfl

theorem State.PartStopped.auditOut : s.PartEnded (u.auditOut p) p routers := by
  unfold State.auditOut
  split
  · exact h.putOut
  · exact h.putOut.withRecords rfl

theorem State.PartStopped.reopen : s.PartEnded (u.reopen p) p routers := by
  unfold State.reopen
  split
  next ready =>
    have cool : (u.part p).thermClosed = false := by
      simp only [Bool.and_eq_true, Bool.not_eq_true'] at ready
      exact ready.1.2
    exact h.openPart cool
  next =>
    have work := State.gapWork_tidy (u.setPart p { u.part p with resetDue := false }) p
    refine ((h.setPart (x := { u.part p with resetDue := false }) h.closed rfl rfl).tidy work).ended ?_
    refine (congrArg (·.2.2.1) (work.gate p)).trans ?_
    rw [State.part_setPart]
    rfl

end

theorem State.partReset_eq (s : State) (p : Fin 32) (failed : TestFails) (rows : List (PTile × Nat)) : s.partReset p failed rows =
    if !((s.partCleared p failed).remapAll (some p) (s.deadTiles p failed rows)).2 then
      ((s.partRestored p failed rows).sweepAll.putOut p).reachLogged p
    else if !(s.partRestored p failed rows).resetAudits p then (s.partRestored p failed rows).sweepAll.auditOut p
    else (s.partRestored p failed rows).sweepAll.reopen p := rfl

theorem State.partReset_ended (s : State) (p : Fin 32) (failed : TestFails) (rows : List (PTile × Nat)) :
    s.PartEnded (s.partReset p failed rows) p failed.routers := by
  obtain ⟨stopped, balanced⟩ := s.partRestored_stopped p failed rows
  have swept := stopped.sweeps balanced.sweepAll
  rw [State.partReset_eq]
  split
  · exact swept.reachLogged
  · split
    · exact swept.auditOut
    · exact swept.reopen

theorem exec_partitionReset {s : State} {p : Fin 32} (failed : TestFails) (rows : List (PTile × Nat))
    (hp : (s.part p).open_ = true ∨ (s.part p).resetDue = true) (ho : (s.part p).oos = false)
    (hs : ∀ i ∈ s.sitesOf p, (s.site (Fin.ofNat 64 i)).up = true ∧ (s.site (Fin.ofNat 64 i)).inReset = false) :
    exec (.partitionReset p failed rows) s = .next (s.partReset p failed rows) := by
  refine congrArg Host.Outcome.next (if_pos ?_)
  simpa [ho, hp] using hs

end Sys2Proof.Machine
end

section
/-! O50, the SUPPLY resets of a site and of the device (R496, R498, R499, R519, R613). -/

namespace Sys2Proof.Machine

/-! ### Keys of a site -/

theorem SMap.get_filter_ne {V : Type} (d : V) (g : Nat → Nat) (n : Nat) (m : SMap V) (k : Nat) :
    SMap.get d (m.filter fun e => g e.1 ≠ n) k = if g k = n then d else SMap.get d m k := by
  rw [SMap.get_filter_key d (fun k => decide (g k ≠ n)) m k]
  by_cases h : g k = n
  · simp [h]
  · simp [h]

theorem PTile.key_site (t : PTile) : t.key / 256 = t.site.val := by
  obtain ⟨s, y, x⟩ := t
  simp only [PTile.key]
  omega

theorem onSite_tile (site : Fin 64) (t : PTile) : onSite site 1 t.key = decide (t.site = site) := by
  simp only [onSite, Nat.div_one, PTile.key_site, Fin.ext_iff, beq_eq_decide]

theorem onSite_vat (site : Fin 64) (t : PTile) {v : Nat} (h : v < 96) : onSite site 96 (t.key * 96 + v) = decide (t.site = site) := by
  rw [onSite, show (t.key * 96 + v) / 96 = t.key by omega, PTile.key_site]
  simp only [Fin.ext_iff, beq_eq_decide]

theorem onSite_lane (site : Fin 64) (t : PTile) (k : Fin 2) : onSite site 2 (laneKey t k) = decide (t.site = site) := by
  rw [onSite, laneKey_half, PTile.key_site]
  simp only [Fin.ext_iff, beq_eq_decide]

/-! ### Loads stop -/

/-- Some partitions' loads have stopped: vats and codes are free, and the other partitions stay. -/
structure State.LoadsStopped (s u : State) (ps : List (Fin 32)) : Prop where
  only : ∃ (v : SMap Vat) (m : SMap Byte) (x : SMap Part), u = { s with vats := v, vatMem := m, parts := x }
  part : ∀ p : Fin 32, p ∉ ps → u.part p = s.part p
  vat : ∀ k : Nat, (s.vat k).part = none → (u.vat k).part = none

/-- What a change keeps holds after it, whichever keys are listed. -/
theorem SMap.modifyAll_keep {V : Type} [DecidableEq V] {d : V} {f : Nat → V → V} {P : V → Prop} (hf : ∀ k v, P v → P (f k v)) {ks : List Nat}
    {k : Nat} {m : SMap V} (h : P (SMap.get d m k)) : P (SMap.get d (SMap.modifyAll d f ks m) k) := by
  induction ks generalizing m with
  | nil => exact h
  | cons a r ih =>
    refine ih ?_
    rw [SMap.get_set]
    split
    next e => exact hf _ _ (e ▸ h)
    next => exact h

theorem emptyVats_part {m : SMap Vat} {k : Nat} (h : (SMap.get Vat.init m k).part = none) (ks : List Nat) :
    (SMap.get Vat.init (emptyVats m ks) k).part = none :=
  SMap.modifyAll_keep (P := fun v : Vat => v.part = none) (fun _ _ _ => rfl) h

theorem State.stopLoads (s : State) (ps : List (Fin 32)) : s.LoadsStopped (ps.foldl State.stopLoad s) ps := by
  induction ps generalizing s with
  | nil => exact ⟨⟨_, _, _, rfl⟩, fun _ _ => rfl, fun _ => id⟩
  | cons p r ih =>
    obtain ⟨⟨v, m, x, only⟩, part, vat⟩ := ih (s.stopLoad p)
    refine ⟨⟨v, m, x, only.trans rfl⟩, fun q hq => ?_, fun k hk => vat k (emptyVats_part hk _)⟩
    obtain ⟨hp, hr⟩ := not_or.1 (fun e => hq (List.mem_cons.2 e))
    exact (part q hr).trans (SMap.get_set_ne _ _ _ fun e => hp (Fin.ext e))

/-! ### The reset of a site -/

/-- What holds of every listed partition after a change of each, whichever it changes first. -/
theorem mapParts_prop {f : Fin 32 → Part → Part} {P : Part → Prop} (hf : ∀ p x, P (f p x)) {ps : List (Fin 32)} {p : Fin 32} (hp : p ∈ ps)
    (m : SMap Part) : P (SMap.get Part.init (mapParts m ps f) p.val) := by
  have keeps (ps : List (Fin 32)) : ∀ m : SMap Part, P (SMap.get Part.init m p.val) → P (SMap.get Part.init (mapParts m ps f) p.val) := by
    induction ps with
    | nil => exact fun _ => id
    | cons q r ih =>
      refine fun m h => ih _ ?_
      rw [SMap.get_set]
      split
      · exact hf _ _
      · exact h
  induction ps generalizing m with
  | nil => cases hp
  | cons q r ih =>
    rcases List.mem_cons.1 hp with rfl | hp
    · refine keeps r _ ?_
      rw [SMap.get_set_self]
      exact hf _ _
    · exact ih hp _

theorem Part.startPending_due (x : Part) : x.startPending.resetDue = x.resetDue := by
  unfold Part.startPending
  split <;> rfl

theorem Part.startAllPending_due (x : Part) : x.startAllPending.resetDue = x.resetDue := by
  unfold Part.startAllPending
  generalize x.pend = l
  induction l generalizing x with
  | nil => rfl
  | cons e r ih =>
    exact (ih _).trans (Part.startPending_due x)

theorem Part.siteReset_due (x : Part) (site : Fin 64) : (x.siteReset site).resetDue = true := (Part.startAllPending_due _).trans rfl

/-- A vat of the site after the reset: without codes, untested, and EMPTY where no slice was bound (R499). -/
structure Vat.Lost (x y : Vat) : Prop where
  rows : y.rows = 0
  tested : y.tested = false
  empty : x.part = none → y.mode = 0

theorem Vat.lost_lost (x : Vat) : x.Lost x.lost := by
  unfold Vat.lost
  split
  next h => exact ⟨rfl, rfl, fun e => by rw [e] at h; cases h⟩
  next => exact ⟨rfl, rfl, fun _ => rfl⟩

/-- A lane of a reset site holds nothing, and its quarantines stay counted (R173). -/
structure Lane.ColdOf (x y : Lane) : Prop where
  bins : y.bins = []
  quar : y.quar = false
  qcount : y.qcount = x.qcount

theorem coldLanes_cold {m : SMap Lane} {q : Nat → Bool} {k : Nat} (h : q k = true) (ks : List Nat) :
    (SMap.get Lane.init m k).ColdOf (SMap.get Lane.init (coldLanes m q ks []) k) := by
  refine SMap.modifyAll_keep (P := (SMap.get Lane.init m k).ColdOf) (fun _ _ h => ?_) ?_
  · exact ⟨h.bins, rfl, h.qcount⟩
  rw [SMap.get_mapVals_of_default (f := fun k (l : Lane) => if q k then l.cold else l) (fun k => by split <;> rfl) m k, if_pos h]
  exact ⟨rfl, rfl, rfl⟩

/-- What the reset of a site leaves of the block (R496, R499). -/
structure State.SiteWasReset (s u : State) (site : Fin 64) : Prop where
  self : u.site site = (s.site site).supplyReset
  sites : ∀ j : Fin 64, j ≠ site → u.site j = s.site j
  cold : ∀ t : PTile, t.site = site → u.tile t = (s.tile t).cold
  tiles : ∀ t : PTile, t.site ≠ site → u.tile t = s.tile t
  vats : ∀ (t : PTile) (v : Nat), t.site = site → v < 96 → ∃ x : Vat, ((s.vat (t.key * 96 + v)).part = none → x.part = none) ∧
    u.vat (t.key * 96 + v) = x.lost
  packages : ∀ k ∈ u.cache.packages, k.site ≠ site.val
  lanes : ∀ (t : PTile) (k : Fin 2), t.site = site → (s.lane t k).ColdOf (u.lane t k)
  loft : ∀ k : Nat, SMap.get 0 u.loft k = if k / 2 ^ 34 = site.val then 0 else SMap.get 0 s.loft k
  ctrs : ∀ k : Nat, SMap.get 0 u.ctrs k = if k / 32 = site.val then 0 else SMap.get 0 s.ctrs k
  due : ∀ p ∈ s.affected site, (u.part p).resetDue = true
  parts : ∀ p : Fin 32, p ∉ s.affected site → u.part p = s.part p
  slots : ∀ k : Nat, (∃ p ∈ s.affected site, k / 128 = p.val) → (SMap.get Slot.init u.slots k).live = false
  sup : u.sup = s.sup
  ident : u.ident = s.ident
  flash : u.flash = s.flash

theorem State.LoadsStopped.eqs {s u : State} {ps : List (Fin 32)} (h : s.LoadsStopped u ps) : u.sites = s.sites ∧ u.tiles = s.tiles ∧
    u.lanes = s.lanes ∧ u.loft = s.loft ∧ u.ctrs = s.ctrs ∧ u.sup = s.sup ∧ u.ident = s.ident ∧ u.flash = s.flash := by
  obtain ⟨v, m, x, rfl⟩ := h.only
  exact ⟨rfl, rfl, rfl, rfl, rfl, rfl, rfl, rfl⟩

theorem State.tile_siteCold (s : State) (site : Fin 64) (t : PTile) :
    SMap.get Tile.init (SMap.mapVals Tile.init (fun k x => if onSite site 1 k then x.cold else x) s.tiles) t.key =
      if t.site = site then (s.tile t).cold else s.tile t := by
  refine (SMap.get_mapVals_of_default (f := fun k (x : Tile) => if onSite site 1 k then x.cold else x) (fun k => ?_) s.tiles t.key).trans ?_
  · split <;> rfl
  · simp only [onSite_tile, decide_eq_true_eq]
    rfl

theorem State.siteReset_wasReset (s : State) (site : Fin 64) : s.SiteWasReset (s.siteReset site) site := by
  have stopped := s.stopLoads (s.affected site)
  unfold State.siteReset
  dsimp only
  generalize (s.affected site).foldl State.stopLoad s = u at stopped
  obtain ⟨sites, tiles, lanes, loft, ctrs, sup, ident, flash⟩ := stopped.eqs
  have site_eq (j : Fin 64) : u.site j = s.site j := congrArg (SMap.get Site.init · j.val) sites
  refine ⟨?_, fun j hj => ?_, fun t ht => ?_, fun t ht => ?_, fun t n ht hn => ⟨u.vat (t.key * 96 + n), stopped.vat _, ?_⟩, fun k hk => ?_,
    fun t k ht => ?_, fun k => ?_, fun k => ?_, fun p hp => ?_, fun p hp => ?_, fun k hk => ?_, sup, ident, flash⟩
  · exact (SMap.get_set_self Site.init u.sites site.val _).trans (congrArg Site.supplyReset (site_eq site))
  · exact (SMap.get_set_ne Site.init u.sites _ fun e => hj (Fin.ext e)).trans (site_eq j)
  · rw [State.tile, tiles]
    exact (s.tile_siteCold site t).trans (if_pos ht)
  · rw [State.tile, tiles]
    exact (s.tile_siteCold site t).trans (if_neg ht)
  · refine (SMap.get_mapVals_of_default (f := fun k (x : Vat) => if onSite site 96 k then x.lost else x) (fun k => ?_) u.vats _).trans
      (if_pos (by rw [onSite_vat site t hn, decide_eq_true ht]))
    split <;> rfl
  · simpa using (List.mem_filter.1 hk).2
  · have cold := coldLanes_cold (m := u.lanes) (q := onSite site 2) (k := laneKey t k) (by rw [onSite_lane, decide_eq_true ht])
      ((mappedKeys u.map).filter (onSite site 1))
    rw [lanes] at cold
    unfold State.lane
    dsimp only
    rw [lanes]
    exact cold
  · rw [loft]
    exact SMap.get_filter_ne 0 (· / 2 ^ 34) site.val s.loft k
  · rw [ctrs]
    exact SMap.get_filter_ne 0 (· / 32) site.val s.ctrs k
  · exact mapParts_prop (P := fun x => x.resetDue = true) (fun _ x => x.siteReset_due site) hp u.parts
  · exact (mapParts_not_mem (f := fun _ x => x.siteReset site) hp u.parts).trans (stopped.part p hp)
  · obtain ⟨p, hp, hk⟩ := hk
    exact State.endServ_not_live _ hp 7 0 hk

end Sys2Proof.Machine
end

section
/-! O50, the device SUPPLY reset (R462, R496, R498, R613). -/

namespace Sys2Proof.Machine

/-- The site holds power or is in its reset. -/
def State.powered (s : State) (i : Fin 64) : Prop := (s.site i).up = true ∨ (s.site i).inReset = true

/-- The site is in its reset, without power. -/
def State.down (s : State) (i : Fin 64) : Prop := (s.site i).up = false ∧ (s.site i).inReset = true

/-- One site of a device SUPPLY reset. -/
def State.siteStep (s : State) (i : Fin 64) : State :=
  if (s.site i).up || (s.site i).inReset then s.siteReset i
  else { s.setSite i { (s.site i).supplyReset with inReset := false } with ctrs := s.ctrs.filter fun e => e.1 / 32 ≠ i.val }

/-- What one site's step changes beside other things that no clause speaks of. -/
structure State.SiteStepped (s u : State) (i : Fin 64) : Prop where
  down : s.powered i → u.down i
  sites : ∀ j : Fin 64, j ≠ i → u.site j = s.site j
  ctrs : ∀ k : Nat, SMap.get 0 u.ctrs k = if k / 32 = i.val then 0 else SMap.get 0 s.ctrs k
  sup : u.sup = s.sup
  ident : u.ident = s.ident
  flash : u.flash = s.flash

theorem State.siteStep_stepped (s : State) (i : Fin 64) : s.SiteStepped (s.siteStep i) i := by
  unfold State.siteStep
  split
  · have h := s.siteReset_wasReset i
    exact ⟨fun _ => ⟨congrArg Site.up h.self, congrArg Site.inReset h.self⟩, h.sites, h.ctrs, h.sup, h.ident, h.flash⟩
  next off =>
    refine ⟨fun on => absurd (by simpa [State.powered] using on) off, fun j hj => SMap.get_set_ne _ _ _ fun e => hj (Fin.ext e),
      fun k => SMap.get_filter_ne 0 (· / 32) i.val s.ctrs k, rfl, rfl, rfl⟩

theorem State.SiteStepped.down_of_down {s u : State} {i : Fin 64} (h : s.SiteStepped u i) {j : Fin 64} (hj : s.down j) : u.down j := by
  by_cases e : j = i
  · exact e ▸ h.down (e ▸ .inr hj.2)
  · unfold State.down
    rwa [h.sites j e]

/-- Sites reset one after the other (R496): each that held power is down, and the counters of each are zero. -/
structure State.SitesWereReset (s u : State) (l : List (Fin 64)) : Prop where
  kept : ∀ j : Fin 64, s.down j → u.down j
  down : ∀ j ∈ l, s.powered j → u.down j
  ctrs : ∀ k : Nat, (∃ j ∈ l, k / 32 = j.val) ∨ SMap.get 0 s.ctrs k = 0 → SMap.get 0 u.ctrs k = 0
  sup : u.sup = s.sup
  ident : u.ident = s.ident
  flash : u.flash = s.flash

theorem State.sitesReset_wereReset (s : State) (l : List (Fin 64)) : s.SitesWereReset (s.sitesReset l) l := by
  induction l generalizing s with
  | nil => exact ⟨fun _ => id, nofun, fun k h => h.resolve_left fun ⟨_, hj, _⟩ => (nomatch hj), rfl, rfl, rfl⟩
  | cons i r ih =>
    have one := s.siteStep_stepped i
    have rest := ih (s.siteStep i)
    refine ⟨fun j hj => rest.kept j (one.down_of_down hj), fun j hj on => ?_, fun k hk => ?_, rest.sup.trans one.sup,
      rest.ident.trans one.ident, rest.flash.trans one.flash⟩
    · by_cases e : j = i
      · exact rest.kept j (e ▸ one.down (e ▸ on))
      · refine rest.down j ((List.mem_cons.1 hj).resolve_left e) ?_
        unfold State.powered
        rwa [one.sites j e]
    · refine rest.ctrs k ?_
      rw [one.ctrs]
      by_cases e : k / 32 = i.val
      · exact .inr (if_pos e)
      · rcases hk with ⟨j, hj, hk⟩ | hk
        · exact .inl ⟨j, (List.mem_cons.1 hj).resolve_left fun h => e (h ▸ hk), hk⟩
        · exact .inr ((if_neg e).trans hk)

theorem mem_allSites (i : Fin 64) : i ∈ allSites := List.mem_ofFn.2 ⟨i, rfl⟩

theorem exec_deviceSupplyReset {s : State} (hf : s.bbx.flushing = false) (hd : s.bbx.freezeDue = false) (ht : s.sup.trip = false)
    (hs : s.sup.starting = false) (hr : s.sup.devRuns = false) (hp : s.sup.supplyDue = true ∨ ∃ i : Fin 64, (s.site i).up = true) :
    exec .deviceSupplyReset s = .next s.deviceReset := by
  have due : (s.sup.supplyDue || allSites.any fun i => (s.site i).up) = true := by
    rcases hp with h | ⟨i, hi⟩
    · rw [h, Bool.true_or]
    · rw [List.any_eq_true.2 ⟨i, mem_allSites i, hi⟩, Bool.or_true]
  refine congrArg Host.Outcome.next (if_pos ?_)
  rw [hf, hd, ht, hs, hr, due]
  rfl

theorem exec_deviceSupplyReset_held {s : State} (h : s.bbx.flushing = true ∨ s.bbx.freezeDue = true ∨ s.sup.trip = true ∨
    s.sup.starting = true ∨ s.sup.devRuns = true) : exec .deviceSupplyReset s = .next s := by
  refine congrArg Host.Outcome.next (if_neg ?_)
  rcases h with h | h | h | h | h
  all_goals simp [h]

theorem ctrKey_site (i : Fin 64) (c : Ctr) : ctrKey i c / 32 = i.val := by
  have := c.code_lt
  simp only [ctrKey]
  omega

end Sys2Proof.Machine
end

section
/-! O50, the LINK resets (R494, R554, R558). -/

namespace Sys2Proof.Machine

/-! ### Peer ports -/

namespace State

theorem writeTables_plk (s : State) (p : Fin 32) : (s.writeTables p).plk = s.plk := rfl

theorem refreshAll_plk (s : State) (l : List (Fin 32)) : (s.refreshAll l).plk = s.plk := by
  induction l generalizing s with
  | nil => rfl
  | cons p r ih =>
    refine (ih _).trans ?_
    unfold State.refreshTables
    split <;> rfl

theorem startReturns_plk (s : State) (l : List Nat) : (s.startReturns l).plk = s.plk := by
  induction l generalizing s with
  | nil => rfl
  | cons k r ih =>
    refine (ih _).trans ?_
    obtain ⟨⟨_, _, _, _, _, _, _, _, h⟩, _⟩ := s.startReturn_only k
    rw [h]

theorem endKeys_plk (s : State) (code detail : BitVec 8) (ks : List Nat) : (s.endKeys code detail ks).plk = s.plk :=
  (startReturns_plk _ ks).trans (refreshAll_plk _ _)

theorem plk_of_stores {s u : State} (h : u.stores = s.stores) : u.plk = s.plk := congrArg (·.2.2.2.2.2) h

theorem answerAll_plk (s : State) (f : Frame) (l : List Nat) : (s.answerAll f l).plk = s.plk := by
  induction l generalizing s with
  | nil => rfl
  | cons n r ih => exact (ih _).trans rfl

theorem lose_plk (s : State) (p : Fin 32) (id : BitVec 16) : (s.lose p id).plk = s.plk := by
  unfold State.lose
  dsimp only
  split <;> rfl

theorem startRestore_plk (s : State) (p : Fin 32) (l : List ModelInfo) : (s.startRestore p l).plk = s.plk := by
  refine (plk_of_stores (gapWork_tidy _ p).stores).trans ?_
  split
  · exact plk_of_stores (s.restore_tidy p []).stores
  · rfl

theorem endInstall_plk (s : State) (p : Fin 32) : (s.endInstall p).plk = s.plk := by
  unfold State.endInstall
  split
  · rfl
  · split
    · exact plk_of_stores ((rebin_tidy (s.setPart p (s.part p).programmed) p).toQuiet.trans (answerSome_quiet _ _ _)).stores
    · rfl

theorem openPart_plk (s : State) (p : Fin 32) : (s.openPart p).plk = s.plk := by
  have work : ((s.opened p).gapWork p).plk = (s.opened p).plk := plk_of_stores (gapWork_tidy _ p).stores
  rw [openPart_eq, writeTables_plk, work]
  rfl

theorem openReady_plk (s : State) (l : List (Fin 32)) : (s.openReady l).plk = s.plk := by
  induction l generalizing s with
  | nil => rfl
  | cons p r ih =>
    refine (ih _).trans ?_
    split
    · exact s.openPart_plk p
    · rfl

theorem foldl_plk {α : Type} {f : State → α → State} (h : ∀ (s : State) a, (f s a).plk = s.plk) (l : List α) (s : State) :
    (l.foldl f s).plk = s.plk := by
  induction l generalizing s with
  | nil => rfl
  | cons a r ih => exact (ih _).trans (h s a)

theorem openAll_plk (s : State) : s.openAll.plk = s.plk := by
  have opened := s.openReady_plk s.furnished
  unfold State.openAll
  dsimp only
  split
  · exact opened
  · exact opened

theorem startLoads_plk (s : State) : s.startLoads.plk = s.plk :=
  foldl_plk (f := fun s p => s.setLoad p ((s.part p).load.next (s.swapOf p) s.now)) (fun _ _ => rfl) s.furnished s

theorem settleStart_plk (s : State) : s.settleStart.plk = s.plk := by
  have ended := foldl_plk endInstall_plk s.furnished s
  unfold State.settleStart
  generalize s.furnished.foldl endInstall s = t at ended
  dsimp only
  split
  · split
    · exact ((openAll_plk _).trans (startLoads_plk _)).trans ended
    · exact ended
  · split
    · exact (openAll_plk t).trans ended
    · split
      · exact (t.openReady_plk _).trans ended
      · exact ended

theorem failLoad_plk (s : State) (p : Fin 32) (reason : BitVec 4) : (s.failLoad p reason).plk = s.plk := by
  unfold State.failLoad
  dsimp only
  split
  · exact startRestore_plk _ p _
  · exact (((settleStart_plk _).trans (startRestore_plk _ p _)).trans (lose_plk _ p _)).trans (answerAll_plk _ _ _)

theorem ite_plk {c : Prop} [Decidable c] {s a b : State} (ha : a.plk = s.plk) (hb : b.plk = s.plk) : (if c then a else b).plk = s.plk := by
  split
  · exact ha
  · exact hb

theorem readFails_plk (s : State) (p : Fin 32) : (s.readFails p).plk = s.plk := ite_plk (failLoad_plk _ p 4) rfl

theorem sourceFails_plk (s : State) (p : Fin 32) : (s.sourceFails p).plk = s.plk :=
  ite_plk (s.readFails_plk p) (ite_plk (failLoad_plk s p 4) rfl)

theorem failReads_plk (s : State) (l : List (Fin 32)) : (s.failReads l).plk = s.plk := by
  induction l generalizing s with
  | nil => rfl
  | cons p r ih => exact (ih _).trans (s.sourceFails_plk p)

end State

/-- A port after its own reset (R558). -/
structure PlkPort.WasReset (x y : PlkPort) : Prop where
  state : y.state = 0
  partner : y.partner = 0
  losses : y.losses = if x.state = 3 then satAdd x.losses 1 else x.losses
  unread : x.state = 3 → y.unread = true

theorem State.peerReset_wasReset (s : State) (n : Fin 8) : (s.plkPort n).WasReset ((s.peerReset n).plkPort n) ∧
    ∀ j : Fin 8, j ≠ n → (s.peerReset n).plkPort j = s.plkPort j := by
  have ports : ∃ y : PlkPort, (s.plkPort n).WasReset y ∧ (s.peerReset n).plk = SMap.set PlkPort.init s.plk n.val y := by
    unfold State.peerReset
    split
    next up =>
      exact ⟨_, ⟨rfl, rfl, (if_pos up).symm, fun _ => rfl⟩, (failReads_plk _ _).trans (endKeys_plk _ 5 5 _)⟩
    next down =>
      exact ⟨{ s.plkPort n with state := 0, partner := 0 }, ⟨rfl, rfl, (if_neg down).symm, fun up => absurd up down⟩, rfl⟩
  obtain ⟨y, reset, set⟩ := ports
  unfold State.plkPort at *
  rw [set]
  refine ⟨?_, fun j hj => SMap.get_set_ne _ _ _ fun e => hj (Fin.ext e)⟩
  rw [SMap.get_set_self]
  exact reset

/-! ### Sessions -/

theorem SMap.find?_set {V : Type} [DecidableEq V] {d v : V} (hv : v ≠ d) (m : SMap V) (k j : Nat) :
    ((SMap.set d m k v).find? fun e => e.1 = j) = if j = k then some (k, v) else m.find? fun e => e.1 = j := by
  rw [SMap.set, if_neg hv]
  induction m with
  | nil => by_cases h : j = k <;> simp [SMap.put, h, eq_comm]
  | cons e r ih =>
    obtain ⟨a, w⟩ := e
    rw [SMap.put]
    split
    next e =>
      subst e
      by_cases h : j = k
      · simp [h]
      · simp [h, Ne.symm h]
    next =>
      split
      · by_cases h : j = k
        · simp [h]
        · rw [if_neg h, List.find?_cons_of_neg (by simpa using Ne.symm h)]
      next hk _ =>
        by_cases h : a = j
        · subst h
          simp [Ne.symm hk]
        · rw [List.find?_cons_of_neg (by simpa using h), ih, List.find?_cons_of_neg (by simpa using h)]

theorem SMap.keys_nodup {V : Type} {d : V} [DecidableEq V] {m : SMap V} (h : SMap.wf d m = true) : (m.map (·.1)).Nodup := by
  have above : ∀ (m : SMap V) (lo : Option Nat), SMap.Above lo m → (∀ b, lo = some b → ∀ e ∈ m, b < e.1) ∧ (m.map (·.1)).Nodup := by
    intro m
    induction m with
    | nil => exact fun _ _ => ⟨fun _ _ _ h => (nomatch h), List.nodup_nil⟩
    | cons e r ih =>
      obtain ⟨a, v⟩ := e
      intro lo h
      obtain ⟨first, rest⟩ := SMap.above_cons.1 h
      obtain ⟨more, nodup⟩ := ih (some a) rest
      refine ⟨fun b hb e he => ?_, List.nodup_cons.2 ⟨fun ha => ?_, nodup⟩⟩
      · rcases List.mem_cons.1 he with rfl | he
        · exact first b hb
        · exact (first b hb).trans (more a rfl e he)
      · obtain ⟨e, he, rfl⟩ := List.mem_map.1 ha
        exact Nat.lt_irrefl _ (more _ rfl e he)
  exact (above m none (SMap.wf_iff.1 h).1).2

/-- A session that is lost on its port. -/
def Session.lostAt (y : Session) (port : Fin 4) (now : Nat) : Session := if y.port = port ∧ y.lost = none then { y with lost := some now } else y

theorem State.session_loseSession (s : State) (n : Nat) (y : Session) (m : Nat) :
    (s.loseSession n y).session m = if m = n then some { y with lost := some s.now } else s.session m := by
  have differs : ({ y with lost := some s.now } : Session) ≠ Session.init := fun e => nomatch congrArg Session.lost e
  refine (congrArg (Option.map (·.2)) (SMap.find?_set differs s.sessions n m)).trans ?_
  split <;> rfl

/-- What the loss of a port leaves. -/
structure State.PortLost (s u : State) : Prop where
  now : u.now = s.now
  slots : u.slots = s.slots
  up : ∀ q : Fin 4, (u.phwPort q).up = (s.phwPort q).up

theorem State.loseSession_lost (s : State) (n : Nat) (y : Session) : s.PortLost (s.loseSession n y) := by
  refine ⟨rfl, rfl, fun q => ?_⟩
  by_cases h : q.val = y.port.val
  · rw [State.phwPort, State.phwPort, h]
    exact (congrArg PhwPort.up (SMap.get_set_self PhwPort.init s.phw y.port.val _)).trans rfl
  · exact congrArg PhwPort.up (SMap.get_set_ne _ _ _ h)

theorem State.losePort_lost (s : State) (port : Fin 4) (l : List (Nat × Session)) : s.PortLost (s.losePort port l) := by
  induction l generalizing s with
  | nil => exact ⟨rfl, rfl, fun _ => rfl⟩
  | cons e r ih =>
    obtain ⟨n, y⟩ := e
    have one : s.PortLost (if y.port = port ∧ y.lost = none then s.loseSession n y else s) := by
      split
      · exact s.loseSession_lost n y
      · exact ⟨rfl, rfl, fun _ => rfl⟩
    have rest := ih (if y.port = port ∧ y.lost = none then s.loseSession n y else s)
    exact ⟨rest.now.trans one.now, rest.slots.trans one.slots, fun q => (rest.up q).trans (one.up q)⟩

/-- Each listed session is lost if it is open on the port; another stays. -/
theorem State.session_losePort (port : Fin 4) {l : List (Nat × Session)} (hl : (l.map (·.1)).Nodup) (s : State)
    (hs : ∀ e ∈ l, s.session e.1 = some e.2) :
    (∀ n, n ∉ l.map (·.1) → (s.losePort port l).session n = s.session n) ∧
    ∀ e ∈ l, (s.losePort port l).session e.1 = some (e.2.lostAt port s.now) := by
  induction l generalizing s with
  | nil => exact ⟨fun _ _ => rfl, nofun⟩
  | cons e r ih =>
    obtain ⟨n, y⟩ := e
    obtain ⟨hn, hr⟩ := List.nodup_cons.1 hl
    let s1 := if y.port = port ∧ y.lost = none then s.loseSession n y else s
    have now : s1.now = s.now := by
      dsimp only [s1]
      split <;> rfl
    have self : s1.session n = some (y.lostAt port s.now) := by
      dsimp only [s1, Session.lostAt]
      split
      · rw [State.session_loseSession, if_pos rfl]
      · exact hs (n, y) List.mem_cons_self
    have other (m : Nat) (h : m ≠ n) : s1.session m = s.session m := by
      dsimp only [s1]
      split
      · rw [State.session_loseSession, if_neg h]
      · rfl
    have ne {e : Nat × Session} (he : e ∈ r) : e.1 ≠ n := fun h => hn (List.mem_map.2 ⟨e, he, h⟩)
    obtain ⟨beside, lost⟩ := ih hr s1 fun e he => (other _ (ne he)).trans (hs e (List.mem_cons_of_mem _ he))
    refine ⟨fun m hm => ?_, fun e he => ?_⟩
    · obtain ⟨hmn, hmr⟩ := not_or.1 (fun h => hm (List.mem_cons.2 h))
      exact (beside m hmr).trans (other m hmn)
    · rcases List.mem_cons.1 he with rfl | he
      · exact (beside n hn).trans self
      · rw [← now]
        exact lost e he

theorem State.session_of_mem {s : State} (hwf : SMap.wf Session.init s.sessions = true) {e : Nat × Session} (he : e ∈ s.sessions) :
    s.session e.1 = some e.2 := by
  have nodup := SMap.keys_nodup hwf
  unfold State.session
  generalize s.sessions = l at nodup he
  induction l with
  | nil => cases he
  | cons a r ih =>
    obtain ⟨ha, hr⟩ := List.nodup_cons.1 nodup
    rcases List.mem_cons.1 he with rfl | he
    · simp
    · rw [List.find?_cons_of_neg (by simpa using fun h => ha (List.mem_map.2 ⟨e, he, h.symm⟩))]
      exact ih hr he

end Sys2Proof.Machine
end

section
/-! O50: the clauses of the obligation, from what each reset leaves. -/

namespace Sys2Proof.Machine

/-- R286, R494: a TILE reset. -/
theorem tileReset_clause {s : State} {t : PTile} {rows : List Nat} (hu : (s.site t.site).up = true) (hr : (s.tile t).clk.running = false)
    (hprev : ∀ p : Fin 32, (s.tile t).pl.part = some p → (s.part p).prev = none) :
    Completes (.tileReset t rows) s fun u =>
      let x := s.tile t
      let y := u.tile t
      y.sc.pc = x.sc.entry ∧ y.sc.cyc = x.sc.cyc ∧ (∀ r : Reg, y.sc.reg r = 0) ∧ y.sc.stagecnt = 0 ∧ y.sc.step = 0 ∧
      y.sc.pressovf = 0 ∧ y.sc.slipsTotal = 0 ∧ (∀ k : Nat, y.sc.qd k = 0) ∧ y.sc.wait = .none ∧ y.sc.halted = false ∧
      y.mq = [] ∧ y.vq = [] ∧ y.lq = [] ∧ y.dq = [] ∧ y.sq = [] ∧ (∀ a : Nat, SMap.get 0 y.mem.scr a = 0) ∧
      (∀ b : Nat, y.mem.bank b = ⟨.on, none⟩) ∧ y.mem.istore = x.mem.istore ∧ y.vec = x.vec ∧ y.mx.acc = x.mx.acc ∧
      y.sc.stopped = x.sc.stopped ∧ y.rp.rep = Report.clean ∧
      (∀ k : Fin 2, (s.lane t k).quar = false → (u.lane t k).bins = (s.lane t k).bins) ∧
      (∀ (k : Fin 2) (b : Nat), (s.lane t k).quar = true → (u.lane t k).getBin b =
        { Bin.init with count := ((s.lane t k).getBin b).count, rej := ((s.lane t k).getBin b).rej, wrap := ((s.lane t k).getBin b).wrap }) ∧
      (x.mem.spent rows = false → (∀ r : PTile, r ≠ t → u.tile r = s.tile r) ∧ (∀ k : Fin 2, (u.lane t k).underTest = false ∧
        (u.lane t k).rewarm = ((s.lane t k).rewarm || (s.lane t k).quar) ∧ (u.lane t k).lifting = (s.lane t k).quar)) ∧
      (x.mem.spent rows = true → ∀ p : Fin 32, x.pl.part = some p → (s.part p).oos = false →
        y.pl.failed = true ∧ (u.part p).resetDue = true) := by
  obtain ⟨u, hx, ⟨⟨pl, tile⟩, bins⟩, good, spent⟩ := tileReset_clears (rows := rows) hu hr hprev
  have bin (k : Fin 2) (b : Nat) : (u.lane t k).getBin b = ((s.lane t k).tileReset (s.tile t).clk.shared).getBin b :=
    congrArg (SMap.get Bin.init · b) (bins k)
  refine ⟨u, hx, Tile.reset_fields _ rows tile ⟨fun k hq => ?_, fun k b hq => ?_, fun hs => ?_, spent⟩⟩
  · rw [bins k, Lane.tileReset, hq]
    rfl
  · rw [bin, Lane.getBin_tileReset, hq]
    rfl
  · rw [good hs]
    refine ⟨fun r hr => s.tile_resetTiles_ne t _ hr, fun k => ?_⟩
    rw [State.lane_resetTiles]
    exact ⟨rfl, rfl, rfl⟩

/-- R261, R405, R497: a PARTITION reset. -/
theorem partitionReset_clause {s : State} {p : Fin 32} (failed : TestFails) (rows : List (PTile × Nat))
    (hp : (s.part p).open_ = true ∨ (s.part p).resetDue = true) (ho : (s.part p).oos = false)
    (hs : ∀ i ∈ s.sitesOf p, (s.site (Fin.ofNat 64 i)).up = true ∧ (s.site (Fin.ofNat 64 i)).inReset = false) :
    Completes (.partitionReset p failed rows) s fun u =>
      (u.part p).resetDue = false ∧ ((s.part p).thermClosed = true → (u.part p).open_ = false) ∧
      ((s.part p).waking = true → (u.part p).open_ = true → (u.part p).doze = false) ∧
      (∀ k : Nat, k / 128 = p.val → SMap.get Slot.init u.slots k = Slot.init) ∧
      ((u.part p).open_ = false →
        ∀ site : Fin 64, SMap.get 0 u.roots (rootKey site p) = 0 ∧ SMap.get 0 u.roots (rootKey site p + 1) = 0) ∧
      (∀ r ∈ failed.routers, r.key ∈ u.net.badRouters) ∧
      (∀ (site : Fin 64) (i : BitVec 10), (s.sem site i).owner.toNat = p.val → (u.sem site i).value = (s.sem site i).init ∧
        (u.sem site i).tag = 0) ∧
      (∀ (site : Fin 64) (i : BitVec 10), (s.sem site i).owner.toNat ≠ p.val → u.sem site i = s.sem site i) ∧
      (∀ w ∈ u.waiters, w.part ≠ p) ∧ (∀ d ∈ u.deferred, d.part ≠ p) ∧
      (∀ t : PTile, t.key ∈ u.tilesOf p → (u.tile t).sc.pc = (u.tile t).sc.entry ∧ (u.tile t).sc.halted = false ∧
        (u.tile t).sc.stopped = false ∧ (u.tile t).mem.istoreEcc = [] ∧ (u.tile t).mq = [] ∧ (u.tile t).vq = [] ∧ (u.tile t).lq = [] ∧
        (u.tile t).dq = [] ∧ (u.tile t).sq = [] ∧ (u.tile t).rp.rep = Report.clean) ∧
      (u.part p).couch.reports = [] ∧ (u.part p).couch.replayDue = false := by
  have ended := s.partReset_ended p failed rows
  refine .of_next (exec_partitionReset failed rows hp ho hs) ⟨ended.due, ended.therm, ended.doze, ended.slots, ended.roots, ended.bad,
    fun site i own => ?_, fun site i own => ?_, ended.waiters, ended.deferred, fun t ht => ?_, ?_, ?_⟩
  · rw [ended.sems, Sem.afterReset, if_pos own]
    exact ⟨rfl, rfl⟩
  · rw [ended.sems, Sem.afterReset, if_neg own]
  · have tile := ended.tiles t.key ht
    obtain ⟨mq, vq, lq, dq, sq⟩ := tile.queues
    exact ⟨tile.pc, tile.halted, tile.stopped, tile.istoreEcc, mq, vq, lq, dq, sq, tile.report⟩
  · rw [ended.couch]
    rfl
  · rw [ended.couch]
    rfl

/-- R498: a site without power, and a start-up that runs, absorb the reset. -/
theorem exec_siteSupplyReset_held {s : State} {site : Fin 64} (h : (s.site site).up = false ∨ s.sup.starting = true) :
    exec (.siteSupplyReset site) s = .next s := by
  refine congrArg Host.Outcome.next (if_neg ?_)
  rcases h with h | h
  all_goals simp [h]

/-- R496, R499, R519: a site SUPPLY reset. -/
theorem siteSupplyReset_clause {s : State} {site : Fin 64} (hu : (s.site site).up = true) (hs : s.sup.starting = false) :
    Completes (.siteSupplyReset site) s fun u =>
      (u.site site).up = false ∧ (u.site site).inReset = true ∧ (u.site site).dom = 0 ∧ (∀ j : Fin 64, j ≠ site → u.site j = s.site j) ∧
      (∀ t : PTile, t.site = site → (∀ a : Nat, SMap.get 0 (u.tile t).mem.scr a = 0) ∧ (u.tile t).sc.cyc = 0 ∧ (u.tile t).mem.istore = []) ∧
      (∀ t : PTile, t.site ≠ site → u.tile t = s.tile t) ∧
      (∀ (t : PTile) (v : Nat), t.site = site → v < 96 → (u.vat (t.key * 96 + v)).rows = 0 ∧ (u.vat (t.key * 96 + v)).tested = false ∧
        ((s.vat (t.key * 96 + v)).part = none → (u.vat (t.key * 96 + v)).mode = 0)) ∧
      (∀ k ∈ u.cache.packages, k.site ≠ site.val) ∧
      (∀ (t : PTile) (k : Fin 2), t.site = site → (u.lane t k).bins = [] ∧ (u.lane t k).quar = false ∧
        (u.lane t k).qcount = (s.lane t k).qcount) ∧
      (∀ a : Nat, a < 2 ^ 34 → SMap.get 0 u.loft (site.val * 2 ^ 34 + a) = 0) ∧
      (∀ k : Nat, k / 2 ^ 34 ≠ site.val → SMap.get 0 u.loft k = SMap.get 0 s.loft k) ∧ (∀ c : Ctr, u.ctr site c = 0) ∧
      (∀ (j : Fin 64) (c : Ctr), j ≠ site → u.ctr j c = s.ctr j c) ∧
      (∀ p ∈ s.affected site, (u.part p).resetDue = true) ∧ (∀ p : Fin 32, p ∉ s.affected site → u.part p = s.part p) ∧
      (∀ k : Nat, (∃ p ∈ s.affected site, k / 128 = p.val) → (SMap.get Slot.init u.slots k).live = false) := by
  have h := s.siteReset_wasReset site
  have hx : exec (.siteSupplyReset site) s = .next (s.siteReset site) :=
    congrArg Host.Outcome.next (if_pos (by rw [hu, hs]; rfl))
  refine .of_next hx ⟨congrArg Site.up h.self, congrArg Site.inReset h.self, congrArg Site.dom h.self, h.sites, fun t ht => ?_, h.tiles,
    fun t v ht hv => ?_, h.packages, fun t k ht => ?_, fun a ha => ?_, fun k hk => ?_, fun c => ?_, fun j c hj => ?_, h.due, h.parts, h.slots⟩
  · rw [h.cold t ht]
    exact ⟨fun _ => rfl, rfl, rfl⟩
  · obtain ⟨x, unbound, lost⟩ := h.vats t v ht hv
    rw [lost]
    exact ⟨x.lost_lost.rows, x.lost_lost.tested, fun hn => x.lost_lost.empty (unbound hn)⟩
  · have cold := h.lanes t k ht
    exact ⟨cold.bins, cold.quar, cold.qcount⟩
  · rw [h.loft, if_pos (by omega)]
  · rw [h.loft, if_neg hk]
  · rw [State.ctr, h.ctrs, if_pos (ctrKey_site site c)]
  · rw [State.ctr, h.ctrs, if_neg (by rw [ctrKey_site]; exact fun e => hj (Fin.ext e))]
    rfl

/-- R462, R496, R498: a device SUPPLY reset. -/
theorem deviceSupplyReset_clause {s : State} (hf : s.bbx.flushing = false) (hd : s.bbx.freezeDue = false) (ht : s.sup.trip = false)
    (hs : s.sup.starting = false) (hr : s.sup.devRuns = false) (hp : s.sup.supplyDue = true ∨ ∃ i : Fin 64, (s.site i).up = true) :
    Completes .deviceSupplyReset s fun u => u.sup.supplyDue = false ∧ u.sup.devRuns = true ∧ u.sup.rstKind = 2 ∧
      u.sup.devrst = satAdd s.sup.devrst 1 ∧ u.sup.counter = s.sup.counter ∧
      (∀ i : Fin 64, ((s.site i).up = true ∨ (s.site i).inReset = true) → (u.site i).up = false ∧ (u.site i).inReset = true) ∧
      (∀ (i : Fin 64) (c : Ctr), u.ctr i c = 0) ∧ u.ident = s.ident ∧ u.flash = s.flash := by
  have h := s.sitesReset_wereReset allSites
  have hx := exec_deviceSupplyReset hf hd ht hs hr hp
  unfold State.deviceReset at hx
  generalize s.sitesReset allSites = v at h hx
  refine .of_next hx ⟨rfl, rfl, rfl, ?_, ?_, fun i => h.down i (mem_allSites i),
    fun i c => h.ctrs _ (.inl ⟨i, mem_allSites i, ctrKey_site i c⟩), h.ident, h.flash⟩
  · dsimp only
    rw [h.sup]
  · dsimp only
    rw [h.sup]

/-- R558: a LINK reset of a peer port. -/
theorem linkReset_peer_clause {s : State} {port : Nat} (h : port < 8) :
    Completes (.linkReset true port) s fun u =>
      let x := s.plkPort (Fin.ofNat 8 port)
      let y := u.plkPort (Fin.ofNat 8 port)
      y.state = 0 ∧ y.partner = 0 ∧ y.losses = (if x.state = 3 then satAdd x.losses 1 else x.losses) ∧
      (x.state = 3 → y.unread = true) ∧ ∀ j : Fin 8, j.val ≠ port → u.plkPort j = s.plkPort j := by
  obtain ⟨reset, others⟩ := s.peerReset_wasReset (Fin.ofNat 8 port)
  refine .of_next (congrArg Host.Outcome.next (if_pos h)) ⟨reset.state, reset.partner, reset.losses, reset.unread, fun j hj => others j ?_⟩
  rintro rfl
  exact hj (Nat.mod_eq_of_lt h)

/-- R554: a LINK reset of a Phiwin port loses the sessions that are open on it. -/
theorem linkReset_phw_clause {s : State} {port : Nat} (h : port < 4) (hwf : SMap.wf Session.init s.sessions = true) :
    Completes (.linkReset false port) s fun u => (u.phwPort (Fin.ofNat 4 port)).up = false ∧ u.slots = s.slots ∧
      ∀ (n : Nat) (z : Session), s.session n = some z →
        (z.port.val = port → z.lost = none → u.session n = some { z with lost := some s.now }) ∧
        ((z.port.val ≠ port ∨ z.lost ≠ none) → u.session n = some z) := by
  let q : Fin 4 := Fin.ofNat 4 port
  have hq : q.val = port := Nat.mod_eq_of_lt h
  have lost := State.losePort_lost (s.setPhw q { s.phwPort q with up := false }) q s.sessions
  have sessions := (State.session_losePort q (SMap.keys_nodup hwf) (s.setPhw q { s.phwPort q with up := false })
    fun e he => State.session_of_mem hwf he).2
  refine .of_next (congrArg Host.Outcome.next (if_pos h)) ⟨(lost.up q).trans (congrArg PhwPort.up (SMap.get_set_self ..)), lost.slots,
    fun n z hz => ?_⟩
  obtain ⟨e, he, rfl⟩ := Option.map_eq_some_iff.1 hz
  have key : e.1 = n := by simpa using List.find?_some he
  have after := sessions e (List.mem_of_find?_eq_some he)
  rw [key, Session.lostAt] at after
  refine ⟨fun hp hl => after.trans ?_, fun hn => after.trans ?_⟩
  · rw [if_pos ⟨Fin.ext (hp.trans hq.symm), hl⟩]
    rfl
  · rw [if_neg fun ⟨hp, hl⟩ => hn.elim (fun ne => ne ((congrArg Fin.val hp).trans hq)) (· hl)]

/-- Settles O50: each reset's own lemma says what it clears and what it leaves. -/
theorem resetsClearTheirParts : Obligations.ResetsClearTheirParts := by
  unfold Obligations.ResetsClearTheirParts
  intro s
  exact ⟨fun t rows hu hr hp => tileReset_clause hu hr hp,
    fun p failed rows routers verdicts hp ho hs => partitionReset_clause ⟨failed, routers, verdicts⟩ rows hp ho hs,
    fun site h => exec_siteSupplyReset_held h, fun site hu hs => siteSupplyReset_clause hu hs, exec_deviceSupplyReset_held,
    deviceSupplyReset_clause, fun port => ⟨linkReset_peer_clause, linkReset_phw_clause⟩⟩

end Sys2Proof.Machine
end

section
/-! SUPPORT. The oldest flit that an event picks (R237): found, taken out or replaced in its place, also once more flits have been sent. -/

namespace Sys2Proof.Machine

section
variable {q : Flit → Bool} {f : Flit} {before : List Flit} (hb : ∀ g ∈ before, q g = false) (hf : q f = true)
include hb hf

theorem find?_oldest (after : List Flit) : (before ++ f :: after).find? q = some f :=
  List.find?_eq_some_iff_append.2 ⟨hf, before, after, rfl, fun g hg => by rw [hb g hg]; rfl⟩

theorem takeFlit_oldest (after : List Flit) : takeFlit q (before ++ f :: after) = some (f, before ++ after) := by
  induction before with
  | nil => exact if_pos hf
  | cons g l ih =>
    rw [List.cons_append, takeFlit, if_neg (by simp [hb g]), ih fun x hx => hb x (List.mem_cons_of_mem g hx)]
    rfl

theorem replFlit_oldest (gs after : List Flit) : replFlit q gs (before ++ f :: after) = before ++ gs ++ after := by
  induction before with
  | nil => exact if_pos hf
  | cons g l ih =>
    rw [List.cons_append, replFlit, if_neg (by simp [hb g]), ih fun x hx => hb x (List.mem_cons_of_mem g hx)]
    rfl

variable {n : Net} {after : List Flit} (hn : n.flits = before ++ f :: after)
include hn

theorem Net.oldest : n.flits.find? q = some f := by rw [hn]; exact find?_oldest hb hf after

theorem Net.drop_send (fs : List Flit) : ((n.send fs).drop q).flits = before ++ after ++ fs := by
  simp only [Net.drop, Net.send, hn, List.append_assoc, List.cons_append, takeFlit_oldest hb hf]

theorem Net.replFlit_send (gs fs : List Flit) : replFlit q gs (n.send fs).flits = before ++ gs ++ after ++ fs := by
  rw [Net.send, hn, List.append_assoc, List.cons_append, replFlit_oldest hb hf, List.append_assoc _ after]

end

/-- A tile's step changes the network by what it sends. -/
theorem State.onTile_net (s : State) (t : PTile) (ok : Bool) (f : Ctx → Fx → Fx) : ∃ fs, (s.onTile t ok f).net = s.net.send fs := by
  cases ok
  · exact ⟨[], (s.net.send_nil).symm⟩
  · exact ⟨_, rfl⟩

/-- A counter of a site after an addition to it. -/
theorem ctrAdd_self (m : SMap Word) (i : Fin 64) (k : Ctr) (n : Nat) :
    SMap.get 0 (ctrAdd m i k n) (ctrKey i k) = satAdd (SMap.get 0 m (ctrKey i k)) n := SMap.get_set_self ..

end Sys2Proof.Machine
end

section
/-! O33: credits and their audit (R248–R250). -/

namespace Sys2Proof.Machine

/-! ### The keys of links -/

theorem PTile.ofKey_key (t : PTile) : PTile.ofKey t.key = t := by
  obtain ⟨site, y, x⟩ := t
  have hs := site.isLt
  have hy := y.isLt
  have hx := x.isLt
  simp only [PTile.ofKey, PTile.key, PTile.mk.injEq, Fin.ext_iff, Fin.val_ofNat]
  omega

/-- A link's key names its sending router. -/
theorem linkRouter_linkKey (r : PTile) (port : Fin 10) (vc : Vc) : linkRouter (linkKey r.key port.val vc.val) = r := by
  have hp := port.isLt
  have hv := vc.isLt
  rw [linkRouter, show linkKey r.key port.val vc.val / 40 = r.key by unfold linkKey; omega, PTile.ofKey_key]

/-! ### A failed check -/

/-- A check that fails counts at the site of the link's sending router. -/
theorem State.auditFail_ctr (s : State) (r : PTile) (port : Fin 10) (vc : Vc) (check exp found : Nat) :
    (s.auditFail (linkKey r.key port.val vc.val) check exp found).ctr r.site .netAudit = satAdd (s.ctr r.site .netAudit) 1 := by
  unfold State.auditFail
  rw [linkRouter_linkKey]
  exact ctrAdd_self ..

/-! ### The commands -/

section
variable {s : State} {r : PTile} {port : Fin 10} {vc : Vc} {m : BitVec 16} {x : LinkCnt}
  (hx : s.net.link (linkKey r.key port.val vc.val) = x)
include hx

/-- R248: a credit that is on its way, with no echo before it. -/
theorem creditReturn_clause (hc : x.c ≠ x.g) (he : x.echo = none) : Completes (.creditReturn r port vc) s fun u =>
    (u.net.link (linkKey r.key port.val vc.val)).g = x.g + 1 ∧ (u.net.link (linkKey r.key port.val vc.val)).aOff = x.aOff - 1 ∧
    (u.net.link (linkKey r.key port.val vc.val)).s = x.s ∧
    (∀ j : Nat, j ≠ linkKey r.key port.val vc.val → u.net.link j = s.net.link j) ∧ u.net.flits = s.net.flits := by
  have credit : x.credit = { x with g := x.g + 1, aOff := x.aOff - 1 } := if_neg (by simp [hc, he])
  refine .of_next rfl ?_
  simp only [Net.link] at hx ⊢
  simp only [SMap.get_set_self, hx, credit, true_and, and_true]
  exact fun j hj => SMap.get_set_ne _ _ _ hj

/-- R249: a marker that equals R at its place. -/
theorem auditMarker_clause_equal (hm : x.marker = some m) (h : x.r - (x.s - m) = m) : Completes (.auditMarker r port vc) s fun u =>
    (u.net.link (linkKey r.key port.val vc.val)).marker = none ∧ (u.net.link (linkKey r.key port.val vc.val)).echo = some x.c ∧
    u.parts = s.parts ∧ u.ctrs = s.ctrs := by
  refine .of_next (by simp only [exec, execAuditMarker, hx, hm, LinkCnt.atMarker, h, if_true]; rfl) ?_
  simp [Net.link]

/-- R249, R250: a marker that differs. -/
theorem auditMarker_clause_differs (hm : x.marker = some m) (h : x.r - (x.s - m) ≠ m) : Completes (.auditMarker r port vc) s fun u =>
    u.ctr r.site .netAudit = satAdd (s.ctr r.site .netAudit) 1 := by
  refine .of_next (by simp only [exec, execAuditMarker, hx, hm, LinkCnt.atMarker, h, if_false]; rfl) ?_
  exact State.auditFail_ctr ..

/-- R249: an echo that equals G. -/
theorem auditEcho_clause_equal (he : x.echo = some m) (h : x.g = m) : Completes (.auditEcho r port vc) s fun u =>
    (u.net.link (linkKey r.key port.val vc.val)).echo = none ∧ u.parts = s.parts ∧ u.ctrs = s.ctrs := by
  have due : x.echoed m = true := by simp [LinkCnt.echoed, h]
  refine .of_next (by simp only [exec, execAuditEcho, hx, he, due, h, if_true]; rfl) ?_
  simp [Net.link]

/-- R249, R250: an echo that differs, with no credit on its way before it. -/
theorem auditEcho_clause_differs (he : x.echo = some m) (hc : x.c = x.g) (h : x.g ≠ m) : Completes (.auditEcho r port vc) s fun u =>
    u.ctr r.site .netAudit = satAdd (s.ctr r.site .netAudit) 1 := by
  have due : x.echoed m = true := by simp [LinkCnt.echoed, hc]
  refine .of_next (by simp only [exec, execAuditEcho, hx, he, due, h, if_true, if_false]; rfl) ?_
  exact State.auditFail_ctr ..

end

/-- An audit of links whose local checks all hold sends the markers alone. -/
theorem State.startAudit_of_balanced {s : State} (h : s.net.unbalanced = []) (q : Nat → Bool) : s.startAudit q = { s with net := { s.net with
    links := SMap.mapVals LinkCnt.init (fun k x => if q k then { x with marker := some x.s } else x) s.net.links } } := by
  rw [State.startAudit, h]
  rfl

/-- R249: the supervisor's audit of every link. -/
theorem creditAuditStart_clause {s : State} (h : s.net.unbalanced = []) : Completes .creditAuditStart s fun u =>
    (∀ j : Nat, SMap.has s.net.links j = true → u.net.link j = { s.net.link j with marker := some (s.net.link j).s }) ∧
    u.parts = s.parts := by
  refine .of_next (congrArg Host.Outcome.next (State.startAudit_of_balanced h _)) ⟨fun j hj => ?_, rfl⟩
  exact (SMap.get_mapVals ..).trans (if_pos hj)

/-- Settles O33: each command by its own clause. -/
theorem creditsAreAudited : Obligations.CreditsAreAudited := by
  unfold Obligations.CreditsAreAudited
  intro s r port vc m
  exact ⟨creditReturn_clause rfl, creditAuditStart_clause, auditMarker_clause_equal rfl, auditMarker_clause_differs rfl,
    auditEcho_clause_equal rfl, auditEcho_clause_differs rfl⟩

end Sys2Proof.Machine
end

section
/-! O24: the supervisor's writes at a tile (R238, R284, R326, R330, R461). -/

namespace Sys2Proof.Machine

/-! ### A write in effect -/

section
variable (s : State) (t : PTile) (m w : CfgWrite)

@[simp] theorem State.tile_configured : (s.configured t m w).tile t = (s.tile t).config w := SMap.get_set_self ..

theorem State.tile_configured_ne {r : PTile} (h : r ≠ t) : (s.configured t m w).tile r = s.tile r :=
  SMap.get_set_ne _ _ _ (PTile.key_ne h)

/-- The acknowledgement of a write stands in the network. -/
theorem State.configured_acks : ∃ f ∈ (s.configured t m w).net.flits,
    f.vc = 2 ∧ f.src = t.key ∧ f.msg = .cfgAck ∧ (f.dcol, f.drow, f.dport) = s.net.supAt :=
  ⟨_, List.mem_append_right _ (List.mem_singleton_self _), rfl, rfl, rfl, rfl⟩

end

/-- A write leaves the registers, the PC and the matrix and vector cores. -/
theorem Tile.config_cores (x : Tile) (w : CfgWrite) :
    (x.config w).sc.regs = x.sc.regs ∧ (x.config w).sc.pc = x.sc.pc ∧ (x.config w).vec = x.vec ∧ (x.config w).mx = x.mx := by
  cases w <;> exact ⟨rfl, rfl, rfl, rfl⟩

/-! ### The acknowledgement and the frame -/

/-- What every write leaves: its acknowledgement in the network, the tile's cores and the other tiles as they were. -/
structure State.WriteAcked (s u : State) (t : PTile) : Prop where
  ack : ∃ f ∈ u.net.flits, f.vc = 2 ∧ f.src = t.key ∧ f.msg = .cfgAck ∧ (f.dcol, f.drow, f.dport) = s.net.supAt
  regs : (u.tile t).sc.regs = (s.tile t).sc.regs
  pc : (u.tile t).sc.pc = (s.tile t).sc.pc
  vec : (u.tile t).vec = (s.tile t).vec
  mx : (u.tile t).mx = (s.tile t).mx
  others : ∀ r : PTile, r ≠ t → u.tile r = s.tile r

theorem State.configured_acked (s : State) (t : PTile) (m w : CfgWrite) : s.WriteAcked (s.configured t m w) t := by
  obtain ⟨regs, pc, vec, mx⟩ := (s.tile t).config_cores w
  rw [← s.tile_configured t m w] at regs pc vec mx
  exact ⟨s.configured_acks t m w, regs, pc, vec, mx, fun r => s.tile_configured_ne t m w⟩

/-- The same after checks of the tile's banks. -/
theorem State.commit_configured_acked {s : State} {t : PTile} {f : Fx} (h : (Fx.ofTile (s.tile t)).OnlyChecks f) (m w : CfgWrite) :
    s.WriteAcked ((s.commit t f).configured t m w) t := by
  have a := (s.commit t f).configured_acked t m w
  have regs := a.regs
  have pc := a.pc
  have vec := a.vec
  have mx := a.mx
  rw [State.tile_commit] at regs pc vec mx
  exact ⟨a.ack, regs.trans (congrArg Scalar.regs h.sc), pc.trans (congrArg Scalar.pc h.sc), vec.trans h.vec, mx.trans h.mx,
    fun r hr => (a.others r hr).trans (s.tile_commit_ne f hr)⟩

/-! ### Which state a write answers -/

section
variable {s : State} {t : PTile}

/-- A write that is no scratchpad region takes effect at once. -/
theorem exec_configWrite {w : CfgWrite} (hu : (s.site t.site).up = true) (ho : s.net.inOrder (·.isWrite t.port0) t.port0 (.cfg w) = true)
    (hg : s.inGap t w = true) (hm : s.mayWrite t w = true) (hs : ∀ off bs, w ≠ .scratch off bs) :
    exec (.configWrite t w) s = .next (s.configured t w w) := by
  refine congrArg Host.Outcome.next ((if_pos ⟨hu, ho, hg, hm⟩).trans ?_)
  cases w with
  | scratch off bs => exact absurd rfl (hs off bs)
  | _ => rfl

section
variable {off : Nat} {bs : List Byte} (hu : (s.site t.site).up = true)
  (ho : s.net.inOrder (·.isWrite t.port0) t.port0 (.cfg (.scratch off bs)) = true)
  (hg : s.inGap t (.scratch off bs) = true)
include hu ho hg

/-- R188: the banks serve a write into the scratchpad. -/
theorem exec_configWrite_go (h : (s.tile t).mem.answers off bs.length = .go) :
    exec (.configWrite t (.scratch off bs)) s = .next ((s.commit t ((Fx.ofTile (s.tile t)).mergeEcc ⟨t, s⟩ 5 off bs.length)).configured t
      (.scratch off bs) (.scratch off bs)) := by
  refine congrArg Host.Outcome.next ((if_pos ⟨hu, ho, hg, rfl⟩).trans ?_)
  simp only [State.configScratch, h, State.onTile_true]

/-- R191: a bank in OFF refuses it. -/
theorem exec_configWrite_off (h : (s.tile t).mem.answers off bs.length = .off) :
    exec (.configWrite t (.scratch off bs)) s = .next ((s.commit t ((Fx.ofTile (s.tile t)).bankOff ⟨t, s⟩ 5
      ((s.tile t).sc.pc.toNat * 2 ^ 32))).configured t (.scratch off bs) (.scratch off [])) := by
  refine congrArg Host.Outcome.next ((if_pos ⟨hu, ho, hg, rfl⟩).trans ?_)
  simp only [State.configScratch, h, State.onTile_true]
  rfl

end

end

/-! ### What each write sets -/

/-- R284: the words of the instruction store from `k`, as far as it goes, with their ECC valid. -/
theorem Tile.config_istore (x : Tile) (k : BitVec 14) (ws : List Word) :
    (∀ (i : Nat) (v : Word), ws[i]? = some v → k.toNat + i < 16384 →
      SMap.get (0 : Word) (x.config (.istore k ws)).mem.istore (k.toNat + i) = v ∧
      SMap.get Ecc.ok (x.config (.istore k ws)).mem.istoreEcc (k.toNat + i) = .ok) ∧
    (∀ a : Nat, a < k.toNat ∨ k.toNat + ws.length ≤ a →
      SMap.get (0 : Word) (x.config (.istore k ws)).mem.istore a = SMap.get (0 : Word) x.mem.istore a) := by
  refine ⟨fun i v hv hi => ?_, fun a ha => SMap.get_setList_ne _ _ _ (by rw [List.length_take]; omega)⟩
  obtain ⟨hlt, rfl⟩ := List.getElem?_eq_some_iff.1 hv
  refine ⟨?_, (SMap.get_clear ..).trans (if_pos ⟨by omega, by omega⟩)⟩
  refine (SMap.get_setList_self _ _ _ _ (i := i) ?_).trans (List.getElem_take ..)
  rw [List.length_take]
  omega

/-- R284: the entry address is that of a word. -/
theorem entry_aligned (pc : BitVec 16) : (pc &&& 0xFFFC).toNat = pc.toNat / 4 * 4 := by
  have mask : ∀ i < 16, (0xFFFC : BitVec 16).getLsbD i = !decide (i < 2) := by decide
  have shifts : pc &&& (0xFFFC : BitVec 16) = (pc >>> 2) <<< 2 := by
    refine BitVec.eq_of_getLsbD_eq fun i hi => ?_
    rw [BitVec.getLsbD_and, mask i hi, BitVec.getLsbD_shiftLeft, BitVec.getLsbD_ushiftRight]
    by_cases h : i < 2
    · simp [h]
    · simp [h, hi, Nat.add_sub_cancel' (Nat.le_of_not_lt h)]
  rw [shifts, BitVec.toNat_shiftLeft, BitVec.toNat_ushiftRight, Nat.shiftLeft_eq, Nat.shiftRight_eq_div_pow]
  exact Nat.mod_eq_of_lt (by have := pc.isLt; omega)

/-- R209: the root of a partition's page table, without its reserved bits. -/
theorem rootsWith_seqRoot (m : SMap Word) (site : Fin 64) (p : Fin 32) (lo hi : Word) :
    SMap.get 0 (rootsWith m site (.seqRoot p lo hi)) (site.val * 64 + 2 * p.val) = lo &&& 0xFFFFF001 ∧
    SMap.get 0 (rootsWith m site (.seqRoot p lo hi)) (site.val * 64 + 2 * p.val + 1) = hi &&& 0xFF := by
  refine ⟨?_, SMap.get_set_self ..⟩
  exact (SMap.get_set_ne _ _ _ (by unfold rootKey; omega)).trans (SMap.get_set_self ..)

/-- R188, R191, R330: a region of the scratchpad, which the banks take or refuse. -/
theorem configWrite_scratch {s : State} {t : PTile} {off : Nat} {bs : List Byte} (hu : (s.site t.site).up = true)
    (ho : s.net.inOrder (·.isWrite t.port0) t.port0 (.cfg (.scratch off bs)) = true) (hg : s.inGap t (.scratch off bs) = true)
    (hw : ∀ n, (s.tile t).mem.answers off bs.length ≠ .wait n) :
    Completes (.configWrite t (.scratch off bs)) s fun u => s.WriteAcked u t ∧
      ((s.tile t).mem.answers off bs.length = .off → (u.tile t).mem.scr = (s.tile t).mem.scr ∧ evtBankOff ∈ (u.tile t).rp.rep.fatal) ∧
      ((s.tile t).mem.answers off bs.length = .go → ∀ (i : Nat) (b : Byte), bs[i]? = some b →
        SMap.get (0 : Byte) (u.tile t).mem.scr (off + i) = b) ∧
      (∀ a : Nat, a < off ∨ off + bs.length ≤ a →
        SMap.get (0 : Byte) (u.tile t).mem.scr a = SMap.get (0 : Byte) (s.tile t).mem.scr a) := by
  cases h : (s.tile t).mem.answers off bs.length with
  | wait n => exact absurd h (hw n)
  | off =>
    have checks := (Fx.OnlyChecks.refl (Fx.ofTile (s.tile t))).raise ⟨t, s⟩ 5 evtBankOff (BitVec.ofNat 64 ((s.tile t).sc.pc.toNat * 2 ^ 32))
      .program true
    refine .of_next (exec_configWrite_off hu ho hg h) ⟨State.commit_configured_acked checks _ _, fun _ => ?_, nofun, fun a _ => ?_⟩
    all_goals rw [State.tile_configured, State.tile_commit]
    · exact ⟨rfl, List.mem_append_right _ (List.mem_singleton_self _)⟩
    · rfl
  | go =>
    have checks := (Fx.OnlyChecks.refl (Fx.ofTile (s.tile t))).mergeEcc ⟨t, s⟩ 5 off bs.length
    refine .of_next (exec_configWrite_go hu ho hg h) ⟨State.commit_configured_acked checks _ _, nofun, fun _ i b hb => ?_, fun a ha => ?_⟩
    all_goals rw [State.tile_configured, State.tile_commit]
    · obtain ⟨hlt, rfl⟩ := List.getElem?_eq_some_iff.1 hb
      exact SMap.get_setList_self 0 _ off bs hlt
    · exact (SMap.get_setList_ne 0 _ bs ha).trans (by rw [checks.scr]; rfl)

/-- Settles O24: a scratchpad region by the answer of its banks, every other write by what it sets. -/
theorem configWritesTakeEffect : Obligations.ConfigWritesTakeEffect := by
  unfold Obligations.ConfigWritesTakeEffect
  intro s t w hu ho hg hm hw
  by_cases hs : ∃ off bs, w = .scratch off bs
  · obtain ⟨off, bs, rfl⟩ := hs
    obtain ⟨u, hx, ⟨ack, regs, pc, vec, mx, others⟩, effect⟩ := configWrite_scratch hu ho hg fun n => hw off bs n rfl
    exact ⟨u, hx, ack, regs, pc, vec, mx, others, effect⟩
  · obtain ⟨ack, regs, pc, vec, mx, others⟩ := s.configured_acked t w w
    refine .of_next (exec_configWrite hu ho hg hm fun off bs e => hs ⟨off, bs, e⟩) ⟨ack, regs, pc, vec, mx, others, ?_⟩
    rw [State.tile_configured]
    cases w with
    | scratch off bs => exact absurd ⟨off, bs, rfl⟩ hs
    | istore k ws => exact ⟨((s.tile t).config_istore k ws).1, ((s.tile t).config_istore k ws).2, rfl⟩
    | entry e => exact ⟨entry_aligned e, rfl⟩
    | budgets st => exact ⟨rfl, rfl⟩
    | tree id e => exact ⟨SMap.get_set_self .., rfl⟩
    | place c r p => exact ⟨rfl, rfl, rfl, rfl⟩
    | watchdog n => exact ⟨rfl, rfl⟩
    | seqRoot p lo hi => exact ⟨rfl, rootsWith_seqRoot s.roots t.site p lo hi⟩

end Sys2Proof.Machine
end

section
/-! O30: a flit crosses a link (R236, R246, R248), is discarded there, or is refused (R16). -/

namespace Sys2Proof.Machine

/-! ### Whose turn it is -/

/-- What waits for an output channel stands at its router. -/
theorem Net.mem_waiting {n : Net} {c w port : Nat} {vc : Vc} {f : Flit} (h : f ∈ n.waiting c w port vc) :
    f.vc = vc ∧ f.col = c ∧ f.row = w := by
  obtain ⟨-, h⟩ := List.mem_filter.1 h
  simp only [Bool.and_eq_true, beq_iff_eq] at h
  exact ⟨h.1.1.1, h.1.1.2, h.1.2⟩

/-- The flit whose turn it is waits there, and its channel has a credit. -/
theorem Net.next_some {n : Net} {c w port : Nat} {vc : Vc} {f : Flit} (h : n.next c w port vc = some f) :
    f ∈ n.waiting c w port vc ∧ (n.link (linkKey (tileAt c w).key port vc.val)).avail vc.val ≠ 0 := by
  unfold Net.next at h
  dsimp only at h
  split at h
  · cases h
  · next ha =>
    obtain ⟨p, -, hp⟩ := Option.bind_eq_some_iff.1 h
    exact ⟨List.mem_of_find?_eq_some hp, ha⟩

/-- VC0 goes before all others (R236). -/
theorem Net.nextVc_of_vc0 {n : Net} {c w port : Nat} (h : n.next c w port 0 ≠ none) : n.nextVc c w port = some 0 :=
  if_pos (Option.isSome_iff_ne_none.2 h)

/-- The flit that crosses: of its channel, the next of its router's output, with a credit, and no flit of VC0 before it. -/
theorem Net.crossing_some {n : Net} {r : PTile} {port : Fin 10} {vc : Vc} {f : Flit} (h : n.crossing r port vc = some f) :
    f.vc = vc ∧ (vc ≠ 0 → n.next f.col f.row (opposite port.val) 0 = none) ∧
    (n.link (linkKey (tileAt f.col f.row).key (opposite port.val) vc.val)).avail vc.val ≠ 0 := by
  unfold Net.crossing at h
  split at h
  · next c w _ =>
    split at h
    · next hvc =>
      obtain ⟨waits, avail⟩ := Net.next_some h
      obtain ⟨rfl, rfl, rfl⟩ := Net.mem_waiting waits
      refine ⟨rfl, fun hne => by_contra fun h0 => hne ?_, avail⟩
      have := hvc.symm.trans (Net.nextVc_of_vc0 h0)
      exact Fin.ext (Option.some.inj this)
    · cases h
  · cases h

/-- A channel with a credit has fewer flits under way than its buffer holds. -/
theorem LinkCnt.off_lt_of_avail {x : LinkCnt} {vc : Vc} (h : x.avail vc.val ≠ 0) :
    x.aOff.toNat < (if vc = 0 then 4 else if vc = 1 then 8 else 16) := by
  have hd : vcDepth vc.val = if vc = 0 then 4 else if vc = 1 then 8 else 16 := by
    clear h
    revert vc
    decide
  unfold LinkCnt.avail at h
  omega

/-! ### The counts of a link -/

/-- A freed slot of a buffer moves the count of returned credits alone (R248). -/
theorem get_freeVia (m : SMap LinkCnt) (via : Option Nat) (k : Nat) :
    ∃ c, SMap.get LinkCnt.init (freeVia m via) k = { SMap.get LinkCnt.init m k with c := c } := by
  cases via with
  | none => exact ⟨_, rfl⟩
  | some j =>
    rw [freeVia, SMap.get_set]
    split_ifs with h
    · exact ⟨_, by rw [h]; rfl⟩
    · exact ⟨_, rfl⟩

/-- The counts after a flit that held the buffer slot `via` has crossed the link `k`. -/
def crossed (m : SMap LinkCnt) (via : Option Nat) (k : Nat) : SMap LinkCnt :=
  SMap.set LinkCnt.init (freeVia m via) k (SMap.get LinkCnt.init (freeVia m via) k).cross

/-- Both ends count the flit, and a credit is taken, whatever slots are freed then. -/
theorem get_freeVia_crossed (m : SMap LinkCnt) (via v : Option Nat) (k : Nat) :
    ∃ c, SMap.get LinkCnt.init (freeVia (crossed m via k) v) k = { (SMap.get LinkCnt.init m k).cross with c := c } := by
  obtain ⟨c, hc⟩ := get_freeVia m via k
  obtain ⟨d, hd⟩ := get_freeVia (crossed m via k) v k
  exact ⟨d, by rw [hd, crossed, SMap.get_set_self, hc]; rfl⟩

/-! ### The tile that the flit reaches -/

/-- A part that reaches a bank changes the DMA engine of the tile that sent for it, and nothing where it is no part. -/
theorem State.get_reachesBank (s : State) (r : PTile) (f : Flit) (k : Nat) :
    ∃ d, SMap.get Tile.init (s.reachesBank r f) k = { SMap.get Tile.init s.tiles k with dma := d } := by
  unfold State.reachesBank
  dsimp only
  split_ifs
  · rw [SMap.get_set]
    split_ifs with h
    · exact ⟨_, by rw [h]⟩
    · exact ⟨_, rfl⟩
  · exact ⟨_, rfl⟩

theorem State.reachesBank_of_not_data {s : State} {f : Flit} (h : f.isData f.src = false) (r : PTile) : s.reachesBank r f = s.tiles :=
  if_neg fun hd => by simp [hd.2.2.2.1] at h

/-! ### The three ends of a hop -/

section
variable {s : State} {r : PTile} {port : Fin 10} {vc : Vc} {f : Flit} {before after : List Flit}

/-- The link that the flit crosses. -/
def Flit.hopKey (f : Flit) (port : Fin 10) (vc : Vc) : Nat := linkKey (tileAt f.col f.row).key (opposite port.val) vc.val

section
variable (hc : s.net.crossing r port vc = some f) (hu : (s.site r.site).up = true)
include hc hu

/-- R246: the hop with a wrong CRC. -/
theorem exec_flitHop_wrong : ∃ b, exec (.flitHop r port vc false) s = .next { s with
    net := { s.net.served f.col f.row (opposite port.val) f with
      flits := replFlit (· == f) [] s.net.flits ++ [linkNotice s r (f.hopKey port vc)]
      links := freeVia (crossed s.net.links f.via (f.hopKey port vc)) (some (f.hopKey port vc)) }
    ctrs := ctrAdd s.ctrs r.site .hcrc 1
    bbx := b } := by
  exact ⟨_, by simp only [exec, execFlitHop, hc, hu]; rfl⟩

/-- R16: the hop of a flit for a tile outside its partition. -/
theorem exec_flitHop_fenced (hf : s.fenced r f = true) : ∃ b, exec (.flitHop r port vc true) s = .next { s with
    net := { s.net.served f.col f.row (opposite port.val) f with
      flits := replFlit (· == f) [] s.net.flits ++ deckleNotice s r f.part
      links := freeVia (crossed s.net.links f.via (f.hopKey port vc)) (some (f.hopKey port vc)) }
    ctrs := ctrAdd s.ctrs r.site .netFence 1
    bbx := b } := by
  exact ⟨_, by simp only [exec, execFlitHop, hc, hu, hf]; rfl⟩

/-- R236: the hop that leaves the flit in the router, where it holds the slot of its last link or, at home, none. -/
theorem exec_flitHop_through (hf : s.fenced r f = false) : ∃ via inval v, exec (.flitHop r port vc true) s = .next { s with
    tiles := s.reachesBank r f
    net := { s.net.served f.col f.row (opposite port.val) f with
      flits := replFlit (· == f) [{ f with col := r.col, row := r.row, inPort := port.val, via := via, inval := inval }] s.net.flits
      links := freeVia (crossed s.net.links f.via (f.hopKey port vc)) v } } := by
  have freed (home : Bool) (m : SMap LinkCnt) (k : Nat) : (if home then freeVia m (some k) else m) = freeVia m (if home then some k else none) := by
    cases home <;> rfl
  exact ⟨_, _, _, by simp only [exec, execFlitHop, hc, hu, hf, freed]; rfl⟩

omit hu in
/-- What every hop does to its link's counts and to the turn of its output. -/
theorem flitHop_counts (v : Option Nat) :
    let n := { s.net.served f.col f.row (opposite port.val) f with links := freeVia (crossed s.net.links f.via (f.hopKey port vc)) v }
    (n.link (f.hopKey port vc)).s = (s.net.link (f.hopKey port vc)).s + 1 ∧
    (n.link (f.hopKey port vc)).r = (s.net.link (f.hopKey port vc)).r + 1 ∧
    (n.link (f.hopKey port vc)).aOff = (s.net.link (f.hopKey port vc)).aOff + 1 ∧
    SMap.get 0 n.turns (f.hopKey port vc) = (f.inPort + 1) % 10 := by
  obtain ⟨c, hk⟩ := get_freeVia_crossed s.net.links f.via v (f.hopKey port vc)
  have turn : SMap.get 0 (s.net.served f.col f.row (opposite port.val) f).turns (f.hopKey port vc) = (f.inPort + 1) % 10 := by
    rw [Flit.hopKey, ← (Net.crossing_some hc).1]
    exact SMap.get_set_self ..
  exact ⟨congrArg LinkCnt.s hk, congrArg LinkCnt.r hk, congrArg LinkCnt.aOff hk, turn⟩

variable (hn : s.net.flits = before ++ f :: after) (hf : f ∉ before)
include hn hf

omit hc hu in
/-- The flit that crosses is replaced in its place. -/
theorem replFlit_crossing (gs : List Flit) : replFlit (· == f) gs s.net.flits = before ++ gs ++ after := by
  rw [hn]
  exact replFlit_oldest (fun g hg => beq_eq_false_iff_ne.2 fun e : g = f => hf (e ▸ hg)) (beq_self_eq_true f) gs after

/-- R246: a wrong hop CRC. -/
theorem flitHop_clause_wrong : Completes (.flitHop r port vc false) s fun u =>
    (∃ g, u.net.flits = before ++ after ++ [g] ∧ ∃ n, g.msg = .notice n ∧ n.code = evtNetHcrc ∧ n.link = some (f.hopKey port vc)) ∧
    u.ctr r.site .hcrc = satAdd (s.ctr r.site .hcrc) 1 ∧
    (u.net.link (f.hopKey port vc)).s = (s.net.link (f.hopKey port vc)).s + 1 ∧
    (u.net.link (f.hopKey port vc)).r = (s.net.link (f.hopKey port vc)).r + 1 ∧ u.tiles = s.tiles := by
  obtain ⟨b, hx⟩ := exec_flitHop_wrong hc hu
  obtain ⟨sent, received, -, -⟩ := flitHop_counts hc (some (f.hopKey port vc))
  refine .of_next hx ⟨⟨linkNotice s r (f.hopKey port vc), ?_, _, rfl, rfl, rfl⟩, ctrAdd_self .., sent, received, rfl⟩
  dsimp only
  rw [replFlit_crossing hn hf, List.append_nil]

/-- R236, R248: the flit is in the router. -/
theorem flitHop_clause_through (hd : s.fenced r f = false) : Completes (.flitHop r port vc true) s fun u =>
    (∃ g, u.net.flits = before ++ g :: after ∧ (g.col, g.row, g.inPort) = (r.col, r.row, port.val) ∧ g.msg = f.msg ∧
      g.vc = f.vc ∧ (g.dcol, g.drow, g.dport) = (f.dcol, f.drow, f.dport) ∧ g.part = f.part ∧ g.src = f.src) ∧
    (u.net.link (f.hopKey port vc)).s = (s.net.link (f.hopKey port vc)).s + 1 ∧
    (u.net.link (f.hopKey port vc)).r = (s.net.link (f.hopKey port vc)).r + 1 ∧
    (u.net.link (f.hopKey port vc)).aOff = (s.net.link (f.hopKey port vc)).aOff + 1 ∧
    SMap.get 0 u.net.turns (f.hopKey port vc) = (f.inPort + 1) % 10 ∧ (f.isData f.src = false → u.tiles = s.tiles) ∧
    (∀ a : PTile, (u.tile a).mem = (s.tile a).mem ∧ (u.tile a).sc = (s.tile a).sc) ∧ u.ctrs = s.ctrs := by
  obtain ⟨via, inval, v, hx⟩ := exec_flitHop_through hc hu hd
  obtain ⟨sent, received, taken, turn⟩ := flitHop_counts hc v
  refine .of_next hx ⟨⟨{ f with col := r.col, row := r.row, inPort := port.val, via := via, inval := inval }, ?_, rfl, rfl, rfl, rfl, rfl, rfl⟩,
    sent, received, taken, turn, fun h => s.reachesBank_of_not_data h r, fun a => ?_, rfl⟩
  · dsimp only
    rw [replFlit_crossing hn hf, List.append_assoc]
    rfl
  · obtain ⟨d, hk⟩ := s.get_reachesBank r f a.key
    exact ⟨(congrArg Tile.mem hk :), (congrArg Tile.sc hk :)⟩

/-- R16: the flit is refused. -/
theorem flitHop_clause_fenced (hd : s.fenced r f = true) : Completes (.flitHop r port vc true) s fun u =>
    (∃ rest, u.net.flits = before ++ after ++ rest) ∧ u.ctr r.site .netFence = satAdd (s.ctr r.site .netFence) 1 ∧ u.tiles = s.tiles := by
  obtain ⟨b, hx⟩ := exec_flitHop_fenced hc hu hd
  refine .of_next hx ⟨⟨deckleNotice s r f.part, ?_⟩, ctrAdd_self .., rfl⟩
  dsimp only
  rw [replFlit_crossing hn hf, List.append_nil]

end

end

/-- Settles O30: the turn of R236 says which flit crosses, and each end of its hop has its clause. -/
theorem flitsHop : Obligations.FlitsHop := by
  unfold Obligations.FlitsHop
  intro s r port vc f before after hc hn hf hu
  obtain ⟨-, first, avail⟩ := Net.crossing_some hc
  exact ⟨first, LinkCnt.off_lt_of_avail avail, flitHop_clause_wrong hc hu hn hf, flitHop_clause_through hc hu hn hf,
    flitHop_clause_fenced hc hu hn hf⟩

end Sys2Proof.Machine
end

section
/-! SUPPORT. What a flit's arrival does to the report of the tile that takes it: an end-to-end mismatch marks and counts (R247), and what
crossed a site in a supply-warning window is invalid (R521). -/

namespace Sys2Proof.Machine

/-- From the report `x` to `y`, and from the count `m` of mismatches to `n`: a flit was judged, right where `ok` holds, and invalid where
`inval` holds. -/
structure FlitJudged (ok inval : Bool) (x y : TileRep) (m n : Word) : Prop where
  clean : ok = true → y = { x with rep := { x.rep with invalid := x.rep.invalid || inval } }
  invalid : (x.rep.invalid || inval) = true → y.rep.invalid = true
  recov : ok = false → evtNetE2e ∈ y.rep.recov
  ctr : n = if ok then m else satAdd m 1

namespace FlitJudged

theorem refl (x : TileRep) (m : Word) : FlitJudged true false x x m m :=
  ⟨fun _ => by rw [Bool.or_false], by simp, nofun, rfl⟩

/-- Two checks of one flit, of which one at most fails. -/
theorem trans {a b i j : Bool} {x y z : TileRep} {m n o : Word} (h : FlitJudged a i x y m n) (k : FlitJudged b j y z n o)
    (hab : a = true ∨ b = true) : FlitJudged (a && b) (i || j) x z m o where
  clean hc := by
    obtain ⟨ha, hb⟩ := Bool.and_eq_true_iff.1 hc
    rw [k.clean hb, h.clean ha, Bool.or_assoc]
  invalid hi := k.invalid (by
    rw [← Bool.or_assoc] at hi
    rcases Bool.or_eq_true_iff.1 hi with hi | hj
    · rw [h.invalid hi, Bool.true_or]
    · rw [hj, Bool.or_true])
  recov hc := by
    cases b
    · exact k.recov rfl
    · rw [k.clean rfl]
      exact h.recov (by simpa using hc)
  ctr := by
    rw [k.ctr, h.ctr]
    rcases hab with rfl | rfl
    · rw [Bool.true_and]
      rfl
    · rw [Bool.and_true]
      rfl

end FlitJudged

/-- The count `w` of a counter after what a step has counted. -/
def Fx.counted (f : Fx) (k : Ctr) (w : Word) : Word := (f.ctrs.filter fun e => e.1 = k).foldl (fun w e => satAdd w e.2) w

theorem Fx.counted_count (f : Fx) (k : Ctr) (n : Nat) (w : Word) : (f.count k n).counted k w = satAdd (f.counted k w) n := by
  unfold Fx.counted Fx.count
  split_ifs with h
  · rw [h, satAdd_zero]
  · simp [List.filter_append]

theorem Fx.counted_count_ne (f : Fx) {j k : Ctr} (h : j ≠ k) (n : Nat) (w : Word) : (f.count j n).counted k w = f.counted k w := by
  rw [Fx.counted, ((Fx.Quiet.refl f).count h n).ctr, Fx.counted]

/-- A step judges a flit. -/
def Fx.Judges (f g : Fx) (ok inval : Bool) : Prop := ∀ w, FlitJudged ok inval f.tile.rp g.tile.rp (f.counted .e2e w) (g.counted .e2e w)

/-- From `s` to `u` tile `r` has judged a flit. -/
def State.JudgedAt (s u : State) (r : PTile) (ok inval : Bool) : Prop :=
  FlitJudged ok inval (s.tile r).rp (u.tile r).rp (s.ctr r.site .e2e) (u.ctr r.site .e2e)

section
variable {f g h : Fx} {ok inval : Bool}

theorem Fx.Judges.refl (f : Fx) : f.Judges f true false := fun _ => .refl ..

theorem Fx.Judges.trans {a b i j : Bool} (k : f.Judges g a i) (l : g.Judges h b j) (hab : a = true ∨ b = true) :
    f.Judges h (a && b) (i || j) := fun w => (k w).trans (l w) hab

/-- A change outside the report that counts no mismatch. -/
theorem Fx.Judges.keep (k : f.Judges g ok inval) (hr : h.tile.rp = g.tile.rp)
    (hc : ∀ w, h.counted .e2e w = g.counted .e2e w) : f.Judges h ok inval := fun w => by
  rw [hr, hc]
  exact k w

theorem Fx.invalidate_judges (f : Fx) (b : Bool) : f.Judges (f.invalidate b) true b := fun _ => ⟨fun _ => rfl, id, nofun, rfl⟩

/-- R247: an end-to-end mismatch is marked and counted. -/
theorem Fx.netE2e_judges (f : Fx) (c : Ctx) (port vc : Nat) : f.Judges (f.netE2e c port vc) false false := fun w => by
  refine ⟨nofun, fun hi => (Bool.or_false _).symm.trans hi, fun _ => List.mem_append_right _ (List.mem_singleton_self _), ?_⟩
  rw [Fx.netE2e, Fx.counted_count]
  rfl

/-- A check that is right, or a mismatch. -/
theorem Fx.checked_judges (f : Fx) (c : Ctx) (port vc : Nat) (ok : Bool) : f.Judges (if ok then f else f.netE2e c port vc) ok false := by
  cases ok
  · exact f.netE2e_judges c port vc
  · exact .refl f

theorem Fx.count_judges (k : f.Judges g ok inval) {j : Ctr} (hj : j ≠ .e2e) (n : Nat) : f.Judges (g.count j n) ok inval :=
  k.keep (by rw [Fx.count_tile]) fun w => g.counted_count_ne hj n w

end

section
variable {s u : State} {r : PTile} {ok inval : Bool}

/-- A step that judges, committed. -/
theorem State.commit_judged {f : Fx} (h : (Fx.ofTile (s.tile r)).Judges f ok inval) : s.JudgedAt (s.commit r f) r ok inval := by
  unfold State.JudgedAt
  rw [State.tile_commit, State.ctr_commit]
  exact h _

/-- The check of an input's CRC, which is a step of the tile where it fails. -/
theorem State.onTile_judged (s : State) (r : PTile) (port vc : Nat) (ok : Bool) :
    s.JudgedAt (s.onTile r (!ok) fun c g => g.netE2e c port vc) r ok false := by
  cases ok
  · exact State.commit_judged ((Fx.ofTile (s.tile r)).netE2e_judges ⟨r, s⟩ port vc)
  · exact .refl ..

theorem State.JudgedAt.clauses (h : s.JudgedAt u r ok inval) :
    (ok = true → (u.tile r).rp = { (s.tile r).rp with rep := { (s.tile r).rp.rep with invalid := (s.tile r).rp.rep.invalid || inval } }) ∧
    (inval = true → (u.tile r).rp.rep.invalid = true) ∧
    (ok = false → evtNetE2e ∈ (u.tile r).rp.rep.recov ∧ u.ctr r.site .e2e = satAdd (s.ctr r.site .e2e) 1) :=
  ⟨h.clean, fun hi => h.invalid (by rw [hi, Bool.or_true]), fun ho => ⟨h.recov ho, h.ctr.trans (if_neg (by simp [ho]))⟩⟩

end

end Sys2Proof.Machine
end

section
/-! SUPPORT. A row of 64 bytes in a tile's scratchpad: it lies in one bank, covers whole words, and a tree's flit fills it (R187, R240, R244). -/

namespace Sys2Proof.Machine

/-! ### One bank -/

/-- A row that the scratchpad holds lies in one bank. -/
theorem banksOf_row {k : Nat} (h : k * 64 + 64 ≤ 0x200000) : banksOf (k * 64) 64 = [k * 64 / 0x20000] := by
  have last : bankOf (k * 64 + 64 - 1) = k * 64 / 0x20000 := by rw [bankOf_of_lt (by omega)]; omega
  rw [banksOf, last, bankOf_of_lt (by omega), List.range_succ, List.drop_append_of_le_length (by simp), List.drop_of_length_le (by simp)]
  rfl

theorem TileMem.answers_of_banksOf {m : TileMem} {off n b : Nat} (h : banksOf off n = [b]) : m.answers off n = (m.bank b).answer := by
  unfold TileMem.answers TileMem.bankDead TileMem.bankWaits
  rw [h]
  cases hb : (m.bank b).answer <;> simp [hb]

/-- A bank in OFF refuses (R191). -/
theorem Bank.answer_off {b : Bank} (h : b.cur = .off) : b.answer = .off := by
  unfold Bank.answer
  rw [h]

/-- A bank in retention makes an access wait (R190). -/
theorem Bank.answer_ret {b : Bank} (h : b.cur = .ret) : ∃ n, b.answer = .wait n := by
  obtain ⟨cur, next⟩ := b
  cases h
  rcases next with _ | _ | _ | _
  all_goals exact ⟨_, rfl⟩

/-! ### Whole words -/

/-- A row covers no word in part. -/
theorem partWords_row (k : Nat) : partWords (k * 64) 64 = [] := by
  rw [partWords, if_neg (by decide), List.filter_eq_nil_iff]
  intro w hw
  obtain ⟨i, hi, rfl⟩ := List.mem_map.1 hw
  rw [List.mem_range] at hi
  simp only [Bool.or_eq_true, decide_eq_true_eq]
  omega

/-- A write that covers whole words reads none. -/
theorem Fx.mergeEcc_of_whole {off n : Nat} (h : partWords off n = []) (f : Fx) (c : Ctx) (u : Nat) : f.mergeEcc c u off n = f := by
  unfold Fx.mergeEcc TileMem.mergeErrs
  rw [h]
  rfl

/-! ### The delivery of a tree's flit -/

/-- The row of an entry's flit of an index. -/
def deliveryRow (e : TreeEntry) (index : Nat) : Nat := (e.lrow.toNat + index) * 64

/-- The tile's marks of a flit that is delivered. -/
def Fx.taken (f : Fx) (x : TreeFlit) : Fx :=
  (f.invalidate x.inval).set { (f.invalidate x.inval).tile with sc := { f.tile.sc with
    pressovf := if x.ovf then satAdd f.tile.sc.pressovf 1 else f.tile.sc.pressovf } }

theorem Fx.taken_judges (f : Fx) (x : TreeFlit) : f.Judges (f.taken x) true x.inval := (f.invalidate_judges x.inval).keep rfl fun _ => rfl

section
variable {f : Fx} {e : TreeEntry} {x : TreeFlit} (hfit : deliveryRow e x.index + 64 ≤ 0x200000) (c : Ctx)
include hfit

/-- A bank that is ON takes the flit's words. -/
theorem Fx.deliver_on (hb : f.tile.mem.bank (deliveryRow e x.index / 0x20000) = ⟨.on, none⟩) (hlen : x.words.length = 16) :
    f.deliver c e x = (f.taken x).set { (f.taken x).tile with mem := f.tile.mem.write (deliveryRow e x.index) (wordBytes x.words) } := by
  have live : f.tile.mem.bankDead [bankOf (deliveryRow e x.index)] = false := by
    rw [bankOf_of_lt (by omega), TileMem.bankDead, List.any_cons, hb]
    rfl
  have bytes : (wordBytes x.words).length = 64 := by rw [wordBytes_length, hlen]
  have whole : (f.taken x).mergeEcc c 7 (deliveryRow e x.index) (wordBytes x.words).length = f.taken x :=
    Fx.mergeEcc_of_whole (by rw [bytes]; exact partWords_row _) ..
  refine (if_neg (by unfold deliveryRow at hfit; omega)).trans ((if_neg (Bool.eq_false_iff.1 live)).trans ?_)
  change ((f.taken x).writeScr c 7 (deliveryRow e x.index) (wordBytes x.words)) = _
  rw [Fx.writeScr, whole]
  rfl

/-- A bank that is OFF refuses it (R191). -/
theorem Fx.deliver_off (hb : (f.tile.mem.bank (deliveryRow e x.index / 0x20000)).cur = .off) :
    f.deliver c e x = (f.taken x).bankOff c 7 (f.tile.sc.pc.toNat * 2 ^ 32) := by
  have dead : f.tile.mem.bankDead [bankOf (deliveryRow e x.index)] = true := by
    rw [bankOf_of_lt (by omega), TileMem.bankDead, List.any_cons, Bank.answer_off hb]
    rfl
  exact (if_neg (by unfold deliveryRow at hfit; omega)).trans ((if_pos dead).trans rfl)

end

/-- The bytes of 16 words written in a row. -/
theorem get_row_words (m : SMap Byte) (row : Nat) {ws : List Word} (hlen : ws.length = 16) {i b : Nat} (hi : i < 16) (hb : b < 4) :
    SMap.get (0 : Byte) (SMap.setList 0 m row (wordBytes ws)) (row + 4 * i + b) = BitVec.ofNat 8 ((ws.getD i 0).toNat / 256 ^ b) := by
  have hlt : 4 * i + b < (wordBytes ws).length := by rw [wordBytes_length]; omega
  rw [Nat.add_assoc, SMap.get_setList_self 0 m row _ hlt, ← wordBytes_getD ws (by omega) hb, List.getD_eq_getElem _ _ hlt]

/-- The delivery of a row that the scratchpad holds waits where its bank makes accesses wait (R190). -/
theorem State.deliveryWaits_eq (s : State) (r : PTile) {e : TreeEntry} {x : TreeFlit} (hfit : deliveryRow e x.index + 64 ≤ 0x200000) :
    s.deliveryWaits r e x = true ↔ ∃ n, ((s.tile r).mem.bank (deliveryRow e x.index / 0x20000)).answer = .wait n := by
  have answer : (s.tile r).mem.answers ((e.lrow.toNat + x.index) * 64) 64 = ((s.tile r).mem.bank (deliveryRow e x.index / 0x20000)).answer :=
    TileMem.answers_of_banksOf (banksOf_row hfit)
  unfold State.deliveryWaits
  dsimp only
  rw [answer]
  unfold deliveryRow at hfit
  cases ((s.tile r).mem.bank (deliveryRow e x.index / 0x20000)).answer <;> simp [hfit]

/-! ### A delivery that waits -/

/-- A slip sends nothing out of the tile and leaves its memories. -/
theorem Fx.slip_sends (f : Fx) (c : Ctx) (cause unit : Nat) (pc : BitVec 16) :
    (f.slip c cause unit pc).flits = f.flits ∧ (f.slip c cause unit pc).notes = f.notes ∧ (f.slip c cause unit pc).tile.mem = f.tile.mem := by
  simp only [Fx.slip]
  split <;> exact ⟨rfl, rfl, rfl⟩

/-- A bank in retention that an access meets is on its way (R190). -/
theorem TileMem.wake_changes {m : TileMem} {b : Nat} (h : (m.bank b).cur = .ret) : ((m.wake b).bank b).next.isSome = true := by
  rw [TileMem.bank_wake, if_pos rfl]
  split_ifs with hw
  · rfl
  · exact Option.isSome_iff_ne_none.2 fun hn => hw ⟨h, hn⟩

end Sys2Proof.Machine
end

section
/-! O31: transfers (R247), press inputs (R241–R244) and multicast flits (R242–R244) arrive. -/

namespace Sys2Proof.Machine

/-! ### Transfers -/

/-- R247, R521: the last flit of a transfer. -/
theorem transferArrival_clause {s : State} {r : PTile} {f : Flit} {before after : List Flit} (crcOk : Bool) (hu : (s.site r.site).up = true)
    (hn : s.net.flits = before ++ f :: after) (ha : f.arrived r.port0 = true) (hm : f.msg = .data true)
    (hb : ∀ g ∈ before, (g.arrived r.port0 && g.msg == .data true) = false) :
    Completes (.transferArrival r crcOk) s fun u => s.JudgedAt u r crcOk f.inval ∧ (u.tile r).mem = (s.tile r).mem ∧
      (∃ rest, u.net.flits = before ++ after ++ rest) ∧ ∀ a : PTile, a ≠ r → u.tile a = s.tile a := by
  have hf : (f.arrived r.port0 && f.msg == .data true) = true := by rw [ha, hm]; rfl
  let g : Fx := (Fx.ofTile (s.tile r)).invalidate f.inval
  let k : Fx := if crcOk then g else g.netE2e ⟨r, s⟩ f.inPort f.vc.val
  have hx : exec (.transferArrival r crcOk) s = .next { s.commit r k with
      net := (s.commit r k).net.drop fun f => f.arrived r.port0 && f.msg == .data true } := by
    simp only [exec, execTransferArrival, hu, Net.oldest hb hf hn, if_true, State.onTile_true]
    rfl
  have judges : (Fx.ofTile (s.tile r)).Judges k (true && crcOk) (f.inval || false) :=
    (Fx.invalidate_judges (Fx.ofTile (s.tile r)) f.inval).trans (g.checked_judges ⟨r, s⟩ f.inPort f.vc.val crcOk) (.inl rfl)
  rw [Bool.true_and, Bool.or_false] at judges
  refine .of_next hx ⟨State.commit_judged judges, ?_, ⟨_, Net.drop_send hb hf hn _⟩, fun a hne => s.tile_commit_ne k hne⟩
  refine (congrArg Tile.mem (s.tile_commit r k)).trans ?_
  cases crcOk <;> rfl

/-! ### What the press unit decides (R241, R242) -/

/-- The entry takes an input that came by `port`. -/
def EntryTakes (e : TreeEntry) (p : Option (Fin 32)) : Prop := e.v = true ∧ p.map (·.val) = some e.part.toNat

theorem entryRefuses_iff (e : TreeEntry) (p : Option (Fin 32)) (b : Bool) :
    (!e.v || p.map (·.val) != some e.part.toNat || !b) = true ↔ ¬ (EntryTakes e p ∧ b = true) := by
  cases hv : e.v <;> cases b <;> simp [EntryTakes, hv]

/-- An entry of a multicast takes what comes by its own input port alone. -/
theorem entryRefuses_port_iff (e : TreeEntry) (p : Option (Fin 32)) (port : Nat) :
    (!e.v || p.map (·.val) != some e.part.toNat || e.port.toNat != port) = true ↔ ¬ (EntryTakes e p ∧ e.port.toNat = port) :=
  (entryRefuses_iff e p (e.port.toNat == port)).trans (by rw [beq_iff_eq])

/-- Every port of the mask has an input. -/
theorem maskPorts_all (m : BitVec 10) (ins : List PressIn) : ((maskPorts m).all fun q => ins.any fun y => y.port == q) = true ↔
    ∀ n : Nat, n < 10 → m.getLsbD n = true → ∃ y ∈ ins, y.port = n := by
  simp [maskPorts, imp_iff_not_or]

/-- Two inputs have one rank. -/
theorem dedup_shorter_iff {α : Type} [DecidableEq α] (l : List α) : l.dedup.length < l.length ↔ ¬ l.Nodup := by
  rw [← List.dedup_eq_self]
  refine ⟨fun h e => by rw [e] at h; exact Nat.lt_irrefl _ h, fun h => ?_⟩
  exact Nat.lt_of_le_of_ne l.dedup_sublist.length_le fun e => h (l.dedup_sublist.eq_of_length e)

/-- The inputs of an index with the one that arrives. -/
def Net.inputsWith (n : Net) (r : PTile) (port : Nat) (x : TreeFlit) : List PressIn := n.inputs r x.id x.index ++ [x.asInput r port]

/-- The sum that goes on from an entry. -/
def sumOf (e : TreeEntry) (x : TreeFlit) (ins : List PressIn) : TreeFlit :=
  ⟨x.id, e.rank, e.use, x.index, (pressSum e.ty ins).1, ins.any (·.ovf) || (pressSum e.ty ins).2 != 0, ins.any (·.inval)⟩

section
variable {n : Net} {r : PTile} {port : Nat} {p : Option (Fin 32)} {x : TreeFlit}

theorem Net.pressAct_drop (h : ¬ (EntryTakes (n.tree r x.id) p ∧ (n.tree r x.id).pmask.getLsbD port = true)) : n.pressAct r port p x = .drop :=
  if_pos ((entryRefuses_iff ..).2 h)

section
variable (ht : EntryTakes (n.tree r x.id) p) (hp : (n.tree r x.id).pmask.getLsbD port = true)
include ht hp

theorem Net.not_refuses : ¬ (!(n.tree r x.id).v || p.map (·.val) != some (n.tree r x.id).part.toNat ||
    !(n.tree r x.id).pmask.getLsbD port) = true := fun h => (entryRefuses_iff ..).1 h ⟨ht, hp⟩

theorem Net.pressAct_wait (h : x.use ≠ (n.tree r x.id).use ∨ 32 ≤ (n.press.filter fun y => y.router == r.key).length) :
    n.pressAct r port p x = .wait :=
  (if_neg (Net.not_refuses ht hp)).trans (if_pos (by simpa using h))

variable (hu : x.use = (n.tree r x.id).use) (hl : (n.press.filter fun y => y.router == r.key).length < 32)
include hu hl

omit ht hp in
theorem Net.not_waits : ¬ (x.use != (n.tree r x.id).use || decide (32 ≤ (n.press.filter fun y => y.router == r.key).length)) = true := by
  simp [hu, hl]

theorem Net.pressAct_hold (h : ∃ m : Nat, m < 10 ∧ (n.tree r x.id).pmask.getLsbD m = true ∧ ∀ y ∈ n.inputsWith r port x, y.port ≠ m) :
    n.pressAct r port p x = .hold := by
  refine (if_neg (Net.not_refuses ht hp)).trans ((if_neg (Net.not_waits hu hl)).trans (if_neg ?_))
  rw [maskPorts_all]
  obtain ⟨m, hm, bit, none⟩ := h
  exact fun all => (all m hm bit).elim fun y hy => none y hy.1 hy.2

variable (ha : ∀ m : Nat, m < 10 → (n.tree r x.id).pmask.getLsbD m = true → ∃ y ∈ n.inputsWith r port x, y.port = m)
include ha

theorem Net.pressAct_clash (h : ¬ ((n.inputsWith r port x).map (·.rank)).Nodup) : n.pressAct r port p x = .clash := by
  refine (if_neg (Net.not_refuses ht hp)).trans ((if_neg (Net.not_waits hu hl)).trans ((if_pos ((maskPorts_all ..).2 ha)).trans (if_pos ?_)))
  exact (dedup_shorter_iff _).2 h |>.trans_eq (List.length_map ..)

theorem Net.pressAct_sum (h : ((n.inputsWith r port x).map (·.rank)).Nodup) : n.pressAct r port p x =
    .sum (sumOf (n.tree r x.id) x (n.inputsWith r port x)) (pressSum (n.tree r x.id).ty (n.inputsWith r port x)).2 := by
  refine (if_neg (Net.not_refuses ht hp)).trans ((if_neg (Net.not_waits hu hl)).trans ((if_pos ((maskPorts_all ..).2 ha)).trans (if_neg ?_)))
  exact fun hd => (dedup_shorter_iff _).1 (hd.trans_eq (List.length_map ..).symm) h

end

end

/-! ### A flit that a router drops -/

/-- A dropped flit leaves the network, and counts. -/
theorem State.treeDrop_dropped {s : State} {r : PTile} {f : Flit} {before after : List Flit} {q : Flit → Bool} (hb : ∀ g ∈ before, q g = false)
    (hq : q f = true) (hn : s.net.flits = before ++ f :: after) (port : Nat) :
    (∃ rest, (s.treeDrop r port q f).net.flits = before ++ after ++ rest) ∧
      (s.treeDrop r port q f).ctr r.site .netFence = satAdd (s.ctr r.site .netFence) 1 := by
  refine ⟨⟨deckleNotice s r f.part, ?_⟩, ctrAdd_self ..⟩
  unfold State.treeDrop
  dsimp only
  rw [hn, replFlit_oldest hb hq, List.append_nil]

/-! ### The tile's step with a sum -/

/-- The last input's tile before the sum leaves it: the adder checked, the saturated additions counted. -/
def Fx.summed (f : Fx) (c : Ctx) (port vc : Nat) (adderOk : Bool) (sat : Nat) : Fx :=
  (if adderOk then f else f.netE2e c port vc).count .pressovf sat

theorem Fx.summed_judges (g : Fx) (c : Ctx) (port vc : Nat) (adderOk : Bool) (sat : Nat) : g.Judges (g.summed c port vc adderOk sat) adderOk false :=
  Fx.count_judges (g.checked_judges c port vc adderOk) (by decide) sat

theorem Fx.summed_counted (g : Fx) (c : Ctx) (port vc : Nat) (adderOk : Bool) (sat : Nat) (w : Word) :
    (g.summed c port vc adderOk sat).counted .pressovf w = satAdd (g.counted .pressovf w) sat := by
  rw [Fx.summed, Fx.counted_count]
  cases adderOk
  · exact congrArg (satAdd · sat) (Fx.counted_count_ne _ (by decide) 1 w)
  · rfl

theorem Fx.summed_mem (g : Fx) (c : Ctx) (port vc : Nat) (adderOk : Bool) (sat : Nat) :
    (g.summed c port vc adderOk sat).tile.mem = g.tile.mem := by
  rw [Fx.summed, Fx.count_tile]
  cases adderOk <;> rfl

theorem pressSum_length (int32 : Bool) (ins : List PressIn) : (pressSum int32 ins).1.length = 16 := by simp [pressSum]

/-- What the tile does with the sum `y`, of which `sat` additions saturated. -/
def sumStep (e : TreeEntry) (port : Fin 10) (f : Flit) (adderOk : Bool) (y : TreeFlit) (sat : Nat) (c : Ctx) (g : Fx) : Fx :=
  if e.port = 0 then (g.summed c port.val f.vc.val adderOk sat).deliver c e y else g.summed c port.val f.vc.val adderOk sat

/-! ### Press inputs -/

section
variable {s : State} {r : PTile} {port : Fin 10} {f : Flit} {x : TreeFlit} {before after : List Flit} {crcOk adderOk : Bool}
  (hu : (s.site r.site).up = true) (hn : s.net.flits = before ++ f :: after) (hx : f.asTree = some x)

/-- The state after the check of an input's CRC. -/
def State.inputChecked (s : State) (r : PTile) (port : Fin 10) (f : Flit) (crcOk : Bool) : State :=
  s.onTile r (!crcOk) fun c g => g.netE2e c port.val f.vc.val

/-- The check leaves the memories. -/
theorem State.inputChecked_mem (s : State) (r : PTile) (port : Fin 10) (f : Flit) (crcOk : Bool) :
    ((s.inputChecked r port f crcOk).tile r).mem = (s.tile r).mem := by
  cases crcOk
  · exact (congrArg Tile.mem (State.tile_commit ..) :)
  · rfl

/-- The check counts mismatches alone. -/
theorem State.inputChecked_ctr (s : State) (r : PTile) (port : Fin 10) (f : Flit) (crcOk : Bool) {k : Ctr} (h : .e2e ≠ k) :
    (s.inputChecked r port f crcOk).ctr r.site k = s.ctr r.site k := by
  cases crcOk
  · exact (s.ctr_commit r _ k).trans (Fx.counted_count_ne _ h 1 _)
  · rfl

/-- From `s` to `u` an index of an entry is done (R241). -/
structure State.IndexDone (s u : State) (r : PTile) (x : TreeFlit) : Prop where
  press : ∀ z ∈ u.net.press, ¬ (z.router = r.key ∧ z.id = x.id ∧ z.index = x.index)
  use : (u.net.tree r x.id).use = if x.index = (s.net.tree r x.id).nflit.toNat then !(s.net.tree r x.id).use else (s.net.tree r x.id).use

theorem State.IndexDone.of_net {u : State}
    (hp : ∃ l : List PressIn, u.net.press = l.filter fun z => !(z.router == r.key && z.id == x.id && z.index == x.index))
    (ht : ∃ m, u.net.trees = SMap.set TreeEntry.init m (r.key * 256 + x.id.toNat) (afterIndex (s.net.tree r x.id) x.index)) :
    s.IndexDone u r x := by
  obtain ⟨l, hp⟩ := hp
  obtain ⟨m, ht⟩ := ht
  refine ⟨fun z hz => ?_, ?_⟩
  · rw [hp, List.mem_filter] at hz
    simpa [imp_iff_not_or, or_assoc] using hz.2
  · rw [Net.tree, ht, SMap.get_set_self, afterIndex]
    split <;> rfl

section
variable (hb : ∀ g ∈ before, s.net.treeAt r port.val false g = false) (hq : s.net.treeAt r port.val false f = true)
include hu hn hx hb hq

theorem exec_pressInput_drop (h : s.net.pressAct r port.val f.part x = .drop) : exec (.pressInput r port ⟨crcOk, adderOk⟩) s =
    .next (s.treeDrop r port.val (s.net.treeAt r port.val false) f) := by
  simp only [exec, execPressInput, Net.oldest hb hq hn, hx, hu, h]
  rfl

theorem exec_pressInput_wait (h : s.net.pressAct r port.val f.part x = .wait) : exec (.pressInput r port ⟨crcOk, adderOk⟩) s = .next s := by
  simp only [exec, execPressInput, Net.oldest hb hq hn, hx, hu, h]
  rfl

theorem exec_pressInput_hold (h : s.net.pressAct r port.val f.part x = .hold) : exec (.pressInput r port ⟨crcOk, adderOk⟩) s =
    let s0 := s.inputChecked r port f crcOk
    .next { s0 with net := { s0.net with
      flits := replFlit (s.net.treeAt r port.val false) [] s0.net.flits
      links := freeVia s0.net.links f.via
      press := s0.net.press ++ [x.asInput r port.val] } } := by
  simp only [exec, execPressInput, Net.oldest hb hq hn, hx, hu, h]
  rfl

theorem exec_pressInput_clash (h : s.net.pressAct r port.val f.part x = .clash) : exec (.pressInput r port ⟨crcOk, adderOk⟩) s =
    let s0 := s.inputChecked r port f crcOk
    .next { s0 with
      net := { s0.net with
        flits := replFlit (s.net.treeAt r port.val false) [] s0.net.flits ++ deckleNotice s r f.part
        links := freeVia s0.net.links f.via
        press := s0.net.press.filter fun y => !(y.router == r.key && y.id == x.id && y.index == x.index)
        trees := SMap.set TreeEntry.init s0.net.trees (r.key * 256 + x.id.toNat) (afterIndex (s.net.tree r x.id) x.index) }
      ctrs := ctrAdd s0.ctrs r.site .netFence (s.net.inputs r x.id x.index).length.succ
      bbx := s0.bbx.siteLog r.site (routerRecord s r f.part evtDeckle port.val 3) } := by
  simp only [exec, execPressInput, Net.oldest hb hq hn, hx, hu, h]
  rfl

theorem exec_pressInput_sum {y : TreeFlit} {sat : Nat} (h : s.net.pressAct r port.val f.part x = .sum y sat)
    (hw : ((s.net.tree r x.id).port = 0 && s.deliveryWaits r (s.net.tree r x.id) y) = false) {g : Fx}
    (hg : sumStep (s.net.tree r x.id) port f adderOk y sat ⟨r, s.inputChecked r port f crcOk⟩
      (Fx.ofTile ((s.inputChecked r port f crcOk).tile r)) = g) :
    exec (.pressInput r port ⟨crcOk, adderOk⟩) s =
    let e := s.net.tree r x.id
    let s1 := (s.inputChecked r port f crcOk).commit r g
    .next { s1 with net := { s1.net with
      flits := replFlit (s.net.treeAt r port.val false) [] s1.net.flits ++ (if e.port = 0 then [] else [treeFlit r e.port.toNat e.part y])
      links := freeVia s1.net.links f.via
      press := s1.net.press.filter fun z => !(z.router == r.key && z.id == x.id && z.index == x.index)
      trees := SMap.set TreeEntry.init s1.net.trees (r.key * 256 + x.id.toNat) (afterIndex e x.index) } } := by
  subst hg
  simp only [exec, execPressInput, Net.oldest hb hq hn, hx, hu, h, hw]
  rfl

/-- R242: an input that the entry does not take. -/
theorem pressInput_clause_drop (h : s.net.pressAct r port.val f.part x = .drop) : Completes (.pressInput r port ⟨crcOk, adderOk⟩) s fun u =>
    u.net.press = s.net.press ∧ (∃ rest, u.net.flits = before ++ after ++ rest) ∧
    u.ctr r.site .netFence = satAdd (s.ctr r.site .netFence) 1 :=
  .of_next (exec_pressInput_drop hu hn hx hb hq h) ⟨rfl, State.treeDrop_dropped hb hq hn port.val⟩

/-- R241: an input that is held. -/
theorem pressInput_clause_hold (h : s.net.pressAct r port.val f.part x = .hold) : Completes (.pressInput r port ⟨crcOk, adderOk⟩) s fun u =>
    s.JudgedAt u r crcOk false ∧ (∃ rest, u.net.flits = before ++ after ++ rest) ∧
    u.net.press = s.net.press ++ [x.asInput r port.val] := by
  obtain ⟨fs, net⟩ := s.onTile_net r (!crcOk) fun c g => g.netE2e c port.val f.vc.val
  refine .of_next (exec_pressInput_hold hu hn hx hb hq h) ⟨State.onTile_judged .., ⟨fs, ?_⟩, ?_⟩
  all_goals simp only [State.inputChecked, net]
  · rw [Net.replFlit_send hb hq hn, List.append_nil]
  · rfl

/-- R242: inputs of equal rank. -/
theorem pressInput_clause_clash (h : s.net.pressAct r port.val f.part x = .clash) : Completes (.pressInput r port ⟨crcOk, adderOk⟩) s fun u =>
    ((∃ rest, u.net.flits = before ++ after ++ rest) ∧ s.IndexDone u r x) ∧
    u.ctr r.site .netFence = satAdd (s.ctr r.site .netFence) (s.net.inputsWith r port.val x).length := by
  obtain ⟨fs, net⟩ := s.onTile_net r (!crcOk) fun c g => g.netE2e c port.val f.vc.val
  refine .of_next (exec_pressInput_clash hu hn hx hb hq h) ⟨⟨⟨fs ++ deckleNotice s r f.part, ?_⟩, .of_net ⟨_, rfl⟩ ⟨_, rfl⟩⟩, ?_⟩
  · simp only [State.inputChecked, net]
    rw [Net.replFlit_send hb hq hn, List.append_nil, List.append_assoc]
  · refine (ctrAdd_self ..).trans ?_
    rw [Net.inputsWith, List.length_append]
    exact congrArg (satAdd · _) (s.inputChecked_ctr r port f crcOk (by decide))

/-- R241: the sum of an index, of which the tile's step `g` judges the last input. -/
theorem pressInput_sum {y : TreeFlit} {sat : Nat} {inval : Bool} (h : s.net.pressAct r port.val f.part x = .sum y sat)
    (hw : ((s.net.tree r x.id).port = 0 && s.deliveryWaits r (s.net.tree r x.id) y) = false) (hk : crcOk = true ∨ adderOk = true) {g : Fx}
    (hg : sumStep (s.net.tree r x.id) port f adderOk y sat ⟨r, s.inputChecked r port f crcOk⟩
      (Fx.ofTile ((s.inputChecked r port f crcOk).tile r)) = g)
    (judges : (Fx.ofTile ((s.inputChecked r port f crcOk).tile r)).Judges g adderOk inval) :
    Completes (.pressInput r port ⟨crcOk, adderOk⟩) s fun u => s.JudgedAt u r (crcOk && adderOk) inval ∧
      ((∃ rest, u.net.flits = before ++ after ++ rest) ∧ s.IndexDone u r x) ∧ u.tile r = g.tile ∧
      (∀ k, .e2e ≠ k → u.ctr r.site k = g.counted k (s.ctr r.site k)) ∧
      ((s.net.tree r x.id).port ≠ 0 → treeFlit r (s.net.tree r x.id).port.toNat (s.net.tree r x.id).part y ∈ u.net.flits) := by
  have judged : s.JudgedAt ((s.inputChecked r port f crcOk).commit r g) r (crcOk && adderOk) inval :=
    Bool.false_or inval ▸ FlitJudged.trans (s.onTile_judged r port.val f.vc.val crcOk) (State.commit_judged judges) hk
  obtain ⟨fs, net⟩ : ∃ fs, ((s.inputChecked r port f crcOk).commit r g).net = s.net.send fs := by
    obtain ⟨fs, net⟩ := s.onTile_net r (!crcOk) fun c g => g.netE2e c port.val f.vc.val
    exact ⟨_, (congrArg (Net.send · _) net).trans (Net.send_send ..)⟩
  refine .of_next (exec_pressInput_sum hu hn hx hb hq h hw hg) ⟨judged, ⟨?_, .of_net ⟨_, rfl⟩ ⟨_, rfl⟩⟩, State.tile_commit ..,
    fun k hne => ?_, fun hp => ?_⟩
  · dsimp only
    rw [net, Net.replFlit_send hb hq hn, List.append_nil, List.append_assoc]
    exact ⟨_, rfl⟩
  · exact (State.ctr_commit ..).trans (congrArg (g.counted k) (s.inputChecked_ctr r port f crcOk hne))
  · refine List.mem_append_right _ ?_
    rw [if_neg hp]
    exact List.mem_singleton_self _

section
variable {y : TreeFlit} {sat : Nat} (h : s.net.pressAct r port.val f.part x = .sum y sat) (hk : crcOk = true ∨ adderOk = true)
include h hk

/-- R241: a sum that goes on. -/
theorem pressInput_clause_forward (hp : (s.net.tree r x.id).port ≠ 0) : Completes (.pressInput r port ⟨crcOk, adderOk⟩) s fun u =>
    s.JudgedAt u r (crcOk && adderOk) false ∧ ((∃ rest, u.net.flits = before ++ after ++ rest) ∧ s.IndexDone u r x) ∧
    u.ctr r.site .pressovf = satAdd (s.ctr r.site .pressovf) sat ∧
    ∃ g ∈ u.net.flits, g.inPort = (s.net.tree r x.id).port.toNat ∧ (g.col, g.row) = (r.col, r.row) ∧ g.asTree = some y := by
  obtain ⟨u, hx, judged, done, -, ctr, sent⟩ := pressInput_sum hu hn hx hb hq h (by rw [decide_eq_false hp, Bool.false_and]) hk (if_neg hp)
    (Fx.summed_judges _ _ port.val f.vc.val adderOk sat)
  exact ⟨u, hx, judged, done, (ctr _ (by decide)).trans (Fx.summed_counted ..), _, sent hp, rfl, rfl, rfl⟩

/-- R240, R241, R244: a sum that is delivered. -/
theorem pressInput_clause_deliver (hp : (s.net.tree r x.id).port = 0) (hfit : deliveryRow (s.net.tree r x.id) y.index + 64 ≤ 0x200000)
    (hbank : (s.tile r).mem.bank (deliveryRow (s.net.tree r x.id) y.index / 0x20000) = ⟨.on, none⟩) (hlen : y.words.length = 16) :
    Completes (.pressInput r port ⟨crcOk, adderOk⟩) s fun u =>
    s.JudgedAt u r (crcOk && adderOk) y.inval ∧ ((∃ rest, u.net.flits = before ++ after ++ rest) ∧ s.IndexDone u r x) ∧
    ∀ i b : Nat, i < 16 → b < 4 → SMap.get (0 : Byte) (u.tile r).mem.scr (deliveryRow (s.net.tree r x.id) y.index + 4 * i + b) =
      BitVec.ofNat 8 ((y.words.getD i 0).toNat / 256 ^ b) := by
  let a : Fx := Fx.ofTile ((s.inputChecked r port f crcOk).tile r)
  let k : Fx := a.summed ⟨r, s.inputChecked r port f crcOk⟩ port.val f.vc.val adderOk sat
  have mem : k.tile.mem = (s.tile r).mem := (Fx.summed_mem ..).trans (s.inputChecked_mem ..)
  have delivers := Fx.deliver_on (f := k) hfit ⟨r, s.inputChecked r port f crcOk⟩ (by rw [mem]; exact hbank) hlen
  have judges := (a.summed_judges ⟨r, s.inputChecked r port f crcOk⟩ port.val f.vc.val adderOk sat).trans (k.taken_judges y) (.inr rfl)
  rw [Bool.and_true, Bool.false_or] at judges
  have serves : ((s.net.tree r x.id).port = 0 && s.deliveryWaits r (s.net.tree r x.id) y) = false := by
    rw [Bool.and_eq_false_iff, ← Bool.not_eq_true (s.deliveryWaits r _ y), State.deliveryWaits_eq s r hfit, hbank]
    exact .inr nofun
  obtain ⟨u, hx, judged, done, tile, -, -⟩ := pressInput_sum hu hn hx hb hq h serves hk ((if_pos hp).trans delivers)
    (judges.keep rfl fun _ => rfl)
  refine ⟨u, hx, judged, done, fun i b hi hb => ?_⟩
  rw [tile]
  exact get_row_words _ _ hlen hi hb

end

end

end

/-! ### A delivery that waits at its bank -/

section
variable {s : State} {r : PTile} {q : Flit → Bool} {f : Flit} {e : TreeEntry} {x : TreeFlit}

/-- A delivery that waits is a step of the tile that sends nothing and wakes the bank, and a mark of the flit. -/
theorem State.holdDelivery_eq (s : State) (r : PTile) (q : Flit → Bool) (f : Flit) (e : TreeEntry) (x : TreeFlit) : ∃ (h : Fx) (g : Flit),
    s.holdDelivery r q f e x = { s.commit r h with net := { (s.commit r h).net with flits := replFlit q [g] (s.commit r h).net.flits } } ∧
    h.flits = [] ∧ h.notes = [] ∧ h.tile.mem = (s.tile r).mem.wake (bankOf (deliveryRow e x.index)) := by
  refine ⟨_, _, rfl, ?_⟩
  dsimp only [Fx.set]
  split
  · obtain ⟨flits, notes, mem⟩ := Fx.slip_sends (Fx.ofTile (s.tile r)) ⟨r, s⟩ _ 5 (s.tile r).sc.pc
    exact ⟨flits, notes, congrArg (TileMem.wake · _) mem⟩
  · exact ⟨rfl, rfl, rfl⟩

/-- The flit of a delivery that waits stays in its place in the network, and its bank wakes (R190). -/
theorem State.holdDelivery_holds {before after : List Flit} (hb : ∀ g ∈ before, q g = false) (hq : q f = true)
    (hn : s.net.flits = before ++ f :: after) (hfit : deliveryRow e x.index + 64 ≤ 0x200000)
    (hret : ((s.tile r).mem.bank (deliveryRow e x.index / 0x20000)).cur = .ret) :
    (s.holdDelivery r q f e x).net.flits.length = s.net.flits.length ∧ (s.holdDelivery r q f e x).net.press = s.net.press ∧
    ((s.holdDelivery r q f e x).tile r).mem.scr = (s.tile r).mem.scr ∧
    (((s.holdDelivery r q f e x).tile r).mem.bank (deliveryRow e x.index / 0x20000)).next.isSome = true := by
  obtain ⟨h, g, eq, flits, notes, mem⟩ := s.holdDelivery_eq r q f e x
  rw [bankOf_of_lt (by omega)] at mem
  have tile : ((s.holdDelivery r q f e x).tile r).mem = (s.tile r).mem.wake (deliveryRow e x.index / 0x20000) := by
    rw [eq, ← mem]
    exact (congrArg Tile.mem (s.tile_commit r h) :)
  have sent : (s.commit r h).net = s.net.send [] := by simp [State.commit, flits, notes]
  refine ⟨?_, by rw [eq]; rfl, by rw [tile]; rfl, by rw [tile]; exact TileMem.wake_changes hret⟩
  rw [eq]
  dsimp only
  rw [sent, Net.replFlit_send hb hq hn, hn]
  simp

end

/-! ### Multicast flits -/

section
variable {s : State} {r : PTile} {port : Fin 10} {f : Flit} {x : TreeFlit} {before after : List Flit}
  (hu : (s.site r.site).up = true) (hn : s.net.flits = before ++ f :: after) (hx : f.asTree = some x)
  (hb : ∀ g ∈ before, s.net.treeAt r port.val true g = false) (hq : s.net.treeAt r port.val true f = true)

/-- The copies that an entry sends to the routers beside it. -/
def treeCopies (r : PTile) (e : TreeEntry) (x : TreeFlit) : List Flit :=
  ((maskPorts e.pmask).filter (· != 0)).map fun p => treeFlit r p e.part { x with rank := 0 }

/-- A copy goes out of each port of the mask but the tile's own. -/
theorem mem_treeCopies (r : PTile) {e : TreeEntry} (x : TreeFlit) {n : Nat} (h0 : 0 < n) (h10 : n < 10) (hm : e.pmask.getLsbD n = true) :
    treeFlit r n e.part { x with rank := 0 } ∈ treeCopies r e x :=
  List.mem_map.2 ⟨n, List.mem_filter.2 ⟨List.mem_filter.2 ⟨List.mem_range.2 h10, hm⟩, bne_iff_ne.2 (Nat.ne_of_gt h0)⟩, rfl⟩

/-- In `u` a flit is gone from among the flits `left`, and its copies are on their way from router `r` (R242, R243). -/
def State.Copied (u : State) (r : PTile) (e : TreeEntry) (x : TreeFlit) (left : List Flit) : Prop :=
  (∃ rest, u.net.flits = left ++ rest) ∧ ∀ n : Nat, 0 < n → n < 10 → e.pmask.getLsbD n = true → ∃ g ∈ u.net.flits,
    g.inPort = n ∧ (g.col, g.row) = (r.col, r.row) ∧ ∃ y, g.asTree = some y ∧ y.id = x.id ∧ y.index = x.index ∧ y.words = x.words

include hu hn hx hb hq

/-- R242: a flit that the entry does not take. -/
theorem multicastFlit_clause_drop (h : ¬ (EntryTakes (s.net.tree r x.id) f.part ∧ (s.net.tree r x.id).port.toNat = port.val)) :
    Completes (.multicastFlit r port) s fun u => (∃ rest, u.net.flits = before ++ after ++ rest) ∧ u.tiles = s.tiles ∧
    u.ctr r.site .netFence = satAdd (s.ctr r.site .netFence) 1 := by
  have refuses := (entryRefuses_port_iff ..).2 h
  have hd : exec (.multicastFlit r port) s = .next (s.treeDrop r port.val (s.net.treeAt r port.val true) f) := by
    simp only [exec, execMulticastFlit, Net.oldest hb hq hn, hx, hu, refuses]
    rfl
  obtain ⟨gone, counted⟩ := State.treeDrop_dropped hb hq hn port.val
  exact .of_next hd ⟨gone, rfl, counted⟩

section
variable (ht : EntryTakes (s.net.tree r x.id) f.part) (hp : (s.net.tree r x.id).port.toNat = port.val)
include ht hp

theorem exec_multicastFlit_held (hw : ((s.net.tree r x.id).pmask.getLsbD 0 && s.deliveryWaits r (s.net.tree r x.id) x) = true) :
    exec (.multicastFlit r port) s = .next (s.holdDelivery r (s.net.treeAt r port.val true) f (s.net.tree r x.id) x) := by
  have takes := Bool.eq_false_iff.2 ((entryRefuses_port_iff ..).not.2 (not_not_intro (And.intro ht hp)))
  simp only [exec, execMulticastFlit, Net.oldest hb hq hn, hx, hu, takes, hw]
  rfl

theorem exec_multicastFlit_copied {g : Fx} (hw : ((s.net.tree r x.id).pmask.getLsbD 0 && s.deliveryWaits r (s.net.tree r x.id) x) = false)
    (hg : (if (s.net.tree r x.id).pmask.getLsbD 0 then (Fx.ofTile (s.tile r)).deliver ⟨r, s⟩ (s.net.tree r x.id) x
      else Fx.ofTile (s.tile r)) = g) :
    exec (.multicastFlit r port) s = .next { s.commit r g with net := { (s.commit r g).net with
      flits := replFlit (s.net.treeAt r port.val true) [] (s.commit r g).net.flits ++ treeCopies r (s.net.tree r x.id) x
      links := freeVia (s.commit r g).net.links f.via } } := by
  have takes := Bool.eq_false_iff.2 ((entryRefuses_port_iff ..).not.2 (not_not_intro (And.intro ht hp)))
  subst hg
  simp only [exec, execMulticastFlit, Net.oldest hb hq hn, hx, hu, takes, hw]
  rfl

/-- R242, R243: a flit that is copied, with what the tile's step `g` makes of it. -/
theorem multicastFlit_copied {g : Fx} (hw : ((s.net.tree r x.id).pmask.getLsbD 0 && s.deliveryWaits r (s.net.tree r x.id) x) = false)
    (hg : (if (s.net.tree r x.id).pmask.getLsbD 0 then (Fx.ofTile (s.tile r)).deliver ⟨r, s⟩ (s.net.tree r x.id) x
      else Fx.ofTile (s.tile r)) = g) :
    Completes (.multicastFlit r port) s fun u => u.Copied r (s.net.tree r x.id) x (before ++ after) ∧ u.tile r = g.tile ∧
      ∀ a : PTile, a ≠ r → u.tile a = s.tile a := by
  obtain ⟨fs, net⟩ : ∃ fs, (s.commit r g).net = s.net.send fs := ⟨_, rfl⟩
  refine .of_next (exec_multicastFlit_copied hu hn hx hb hq ht hp hw hg) ⟨⟨?_, fun n h0 h10 hm => ?_⟩, State.tile_commit ..,
    fun a ha => s.tile_commit_ne g ha⟩
  · dsimp only
    rw [net, Net.replFlit_send hb hq hn, List.append_nil, List.append_assoc]
    exact ⟨_, rfl⟩
  · exact ⟨_, List.mem_append_right _ (mem_treeCopies r x h0 h10 hm), rfl, rfl, _, rfl, rfl, rfl, rfl⟩

/-- R242: a flit that only passes on. -/
theorem multicastFlit_clause_passed (h0 : (s.net.tree r x.id).pmask.getLsbD 0 = false) : Completes (.multicastFlit r port) s fun u =>
    u.Copied r (s.net.tree r x.id) x (before ++ after) ∧ ∀ a : PTile, u.tile a = s.tile a := by
  obtain ⟨u, hx, copied, tile, others⟩ := multicastFlit_copied hu hn hx hb hq ht hp (by rw [h0, Bool.false_and]) (if_neg (by rw [h0]; nofun))
  refine ⟨u, hx, copied, fun a => ?_⟩
  by_cases ha : a = r
  · rw [ha, tile]
    rfl
  · exact others a ha

section
variable (h0 : (s.net.tree r x.id).pmask.getLsbD 0 = true) (hfit : deliveryRow (s.net.tree r x.id) x.index + 64 ≤ 0x200000)
include h0 hfit

/-- A bank that makes no access wait lets the flit go on. -/
theorem multicastFlit_goes {a : BankAns} (ha : ((s.tile r).mem.bank (deliveryRow (s.net.tree r x.id) x.index / 0x20000)).answer = a)
    (hne : ∀ n, a ≠ .wait n) {g : Fx} (hg : (Fx.ofTile (s.tile r)).deliver ⟨r, s⟩ (s.net.tree r x.id) x = g) :
    Completes (.multicastFlit r port) s fun u => u.Copied r (s.net.tree r x.id) x (before ++ after) ∧ u.tile r = g.tile := by
  have goes : s.deliveryWaits r (s.net.tree r x.id) x = false := by
    rw [← Bool.not_eq_true, State.deliveryWaits_eq s r hfit, ha]
    exact fun ⟨n, hn⟩ => hne n hn
  obtain ⟨u, hx, copied, tile, -⟩ := multicastFlit_copied hu hn hx hb hq ht hp (by rw [goes, Bool.and_false]) ((if_pos h0).trans hg)
  exact ⟨u, hx, copied, tile⟩

/-- R240, R244: a flit that is delivered to a bank that is ON. -/
theorem multicastFlit_clause_delivered (hbank : (s.tile r).mem.bank (deliveryRow (s.net.tree r x.id) x.index / 0x20000) = ⟨.on, none⟩)
    (hlen : x.words.length = 16) : Completes (.multicastFlit r port) s fun u => u.Copied r (s.net.tree r x.id) x (before ++ after) ∧
      ∀ i b : Nat, i < 16 → b < 4 → SMap.get (0 : Byte) (u.tile r).mem.scr (deliveryRow (s.net.tree r x.id) x.index + 4 * i + b) =
        BitVec.ofNat 8 ((x.words.getD i 0).toNat / 256 ^ b) := by
  obtain ⟨u, hx, copied, tile⟩ := multicastFlit_goes hu hn hx hb hq ht hp h0 hfit (congrArg Bank.answer hbank) nofun
    (Fx.deliver_on hfit _ hbank hlen)
  refine ⟨u, hx, copied, fun i b hi hb => ?_⟩
  rw [tile]
  exact get_row_words _ _ hlen hi hb

/-- R191: a flit for a bank that is OFF. -/
theorem multicastFlit_clause_off (hoff : ((s.tile r).mem.bank (deliveryRow (s.net.tree r x.id) x.index / 0x20000)).cur = .off) :
    Completes (.multicastFlit r port) s fun u => u.Copied r (s.net.tree r x.id) x (before ++ after) ∧
      (u.tile r).mem.scr = (s.tile r).mem.scr ∧ evtBankOff ∈ (u.tile r).rp.rep.fatal := by
  obtain ⟨u, hx, copied, tile⟩ := multicastFlit_goes hu hn hx hb hq ht hp h0 hfit (Bank.answer_off hoff) nofun (Fx.deliver_off hfit _ hoff)
  refine ⟨u, hx, copied, ?_⟩
  rw [tile]
  exact ⟨rfl, List.mem_append_right _ (List.mem_singleton_self _)⟩

/-- R190: a flit for a bank in retention. -/
theorem multicastFlit_clause_held (hret : ((s.tile r).mem.bank (deliveryRow (s.net.tree r x.id) x.index / 0x20000)).cur = .ret) :
    Completes (.multicastFlit r port) s fun u => u.net.flits.length = s.net.flits.length ∧ u.net.press = s.net.press ∧
      (u.tile r).mem.scr = (s.tile r).mem.scr ∧
      ((u.tile r).mem.bank (deliveryRow (s.net.tree r x.id) x.index / 0x20000)).next.isSome = true := by
  have waits := (State.deliveryWaits_eq s r hfit).2 (Bank.answer_ret hret)
  exact .of_next (exec_multicastFlit_held hu hn hx hb hq ht hp (by rw [waits, h0]; rfl)) (State.holdDelivery_holds hb hq hn hfit hret)

end

end

end

/-- Settles O31: a transfer, a press input by what the press unit decides on it, and a multicast flit by its entry and its bank. -/
theorem treesCombine : Obligations.TreesCombine := by
  unfold Obligations.TreesCombine
  intro s r port f x before after crcOk adderOk hu hn e gone judged takes delivered row
  refine ⟨fun ha hm hb => ?_, fun hx hb hq => ?_, fun hx hb hq => ?_⟩
  · obtain ⟨u, hx, j, rest⟩ := transferArrival_clause crcOk hu hn ha hm hb
    exact ⟨u, hx, j.clauses, rest⟩
  · refine ⟨fun h => ?_, fun ht hp => ⟨fun h => ?_, fun hs hl => ⟨fun h => ?_, fun h => ⟨fun hd hk => ⟨fun h0 => ?_, fun h0 hfit hbank => ?_⟩,
      fun hd => ?_⟩⟩⟩⟩
    · exact pressInput_clause_drop hu hn hx hb hq (Net.pressAct_drop h)
    · exact .of_next (exec_pressInput_wait hu hn hx hb hq (Net.pressAct_wait ht hp h)) rfl
    · obtain ⟨u, hx, j, rest⟩ := pressInput_clause_hold hu hn hx hb hq (Net.pressAct_hold ht hp hs hl h) (crcOk := crcOk) (adderOk := adderOk)
      exact ⟨u, hx, j.clauses, rest⟩
    · obtain ⟨u, hx, j, ⟨gone, done⟩, ctr, sent⟩ := pressInput_clause_forward hu hn hx hb hq (Net.pressAct_sum ht hp hs hl h hd) hk h0
      exact ⟨u, hx, j.clauses, ⟨gone, done.press, done.use⟩, ctr, sent⟩
    · obtain ⟨u, hx, j, ⟨gone, done⟩, bytes⟩ := pressInput_clause_deliver hu hn hx hb hq (Net.pressAct_sum ht hp hs hl h hd) hk h0 hfit hbank
        (pressSum_length ..)
      exact ⟨u, hx, j.clauses, ⟨gone, done.press, done.use⟩, bytes⟩
    · obtain ⟨u, hx, ⟨gone, done⟩, ctr⟩ := pressInput_clause_clash hu hn hx hb hq (Net.pressAct_clash ht hp hs hl h hd) (crcOk := crcOk)
        (adderOk := adderOk)
      exact ⟨u, hx, ⟨gone, done.press, done.use⟩, ctr⟩
  · refine ⟨fun h => ?_, fun ht hp => ⟨fun h0 => ?_, fun h0 hfit hlen => ⟨fun hbank => ?_, fun hoff => ?_, fun hret => ?_⟩⟩⟩
    · exact multicastFlit_clause_drop hu hn hx hb hq h
    · exact multicastFlit_clause_passed hu hn hx hb hq ht hp h0
    · exact multicastFlit_clause_delivered hu hn hx hb hq ht hp h0 hfit hbank hlen
    · exact multicastFlit_clause_off hu hn hx hb hq ht hp h0 hfit hoff
    · exact multicastFlit_clause_held hu hn hx hb hq ht hp h0 hfit hret

end Sys2Proof.Machine
end

section
/-! SUPPORT. The semaphore stores (R262–R268): the fields of an operation word, the uncorrectable entries that a store reports, and what
the store does with one operation, by what R265 decides on it. -/

namespace Sys2Proof.Machine

/-! ### Operation words -/

section
variable {code : Nat} (hc : code < 16) (w : BitVec 64)
include hc

theorem setSemOp_toNat : (setSemOp code w).toNat = code * 2 ^ 60 + w.toNat % 2 ^ 60 := by
  rw [setSemOp, BitVec.toNat_ofNat, Nat.mod_eq_of_lt]
  omega

theorem semOpOf_setSemOp : semOpOf (setSemOp code w) = code := by
  have pos : 0 < 2 ^ 60 := by decide
  rw [semOpOf, setSemOp_toNat hc, Nat.add_comm, Nat.add_mul_div_right _ _ pos, Nat.div_eq_of_lt (Nat.mod_lt _ pos), Nat.zero_add]

/-- A bit below the operation code. -/
theorem getLsbD_setSemOp {j : Nat} (h : j < 60) : (setSemOp code w).getLsbD j = w.getLsbD j := by
  have pos : 0 < 2 ^ 60 := by decide
  rw [BitVec.getLsbD, setSemOp_toNat hc, Nat.mul_comm, Nat.testBit_two_pow_mul_add _ (Nat.mod_lt _ pos), if_pos h,
    Nat.testBit_mod_two_pow, decide_eq_true h, Bool.true_and, BitVec.getLsbD]

/-- A field below the operation code. -/
theorem extractLsb'_setSemOp {a b : Nat} (h : a + b ≤ 60) : (setSemOp code w).extractLsb' a b = w.extractLsb' a b := by
  refine BitVec.eq_of_getLsbD_eq fun j hj => ?_
  rw [BitVec.getLsbD_extractLsb', BitVec.getLsbD_extractLsb', getLsbD_setSemOp hc w (by omega)]

theorem semTag_setSemOp : semTag (setSemOp code w) = semTag w := extractLsb'_setSemOp hc w (by decide)
theorem semIdx_setSemOp : semIdx (setSemOp code w) = semIdx w := extractLsb'_setSemOp hc w (by decide)
theorem semN_setSemOp : semN (setSemOp code w) = semN w := extractLsb'_setSemOp hc w (by decide)

theorem semRsv_setSemOp (h : w.toNat / 2 ^ 42 % 4 = 0) : semRsv (setSemOp code w) = false := by
  have low : (setSemOp code w).toNat / 2 ^ 42 % 4 = w.toNat / 2 ^ 42 % 4 := by
    rw [setSemOp_toNat hc]
    omega
  rw [semRsv, low, h]
  rfl

end

/-! ### Uncorrectable entries -/

/-- The report of uncorrectable entries sends notices and makes records. -/
theorem State.semUes_only (s : State) (l : List SemRead) : ∃ fs b, s.semUes l = { s with net := s.net.send fs, bbx := b } := by
  induction l generalizing s with
  | nil => exact ⟨[], s.bbx, by rw [Net.send_nil]; rfl⟩
  | cons x r ih =>
    obtain ⟨fs, b, h⟩ := ih (s.semUe x)
    exact ⟨_, b, by rw [State.semUes, h, State.semUe, Net.send_send]⟩

/-! ### One operation -/

/-- What the store decides on operation `w` of tile `src`, a tile of partition `p` (R265). -/
def State.semAct (s : State) (site : Fin 64) (src : PTile) (p : Fin 32) (w : BitVec 64) : SemAct :=
  (semPerform (s.sem site (semIdx w)) w (some p) (s.deferred.filter fun d => d.site = site && some d.part == some p).length
    (s.waiters.filter fun x => x.site = site && some x.part == some p).length (s.quota p site)).marked
    (s.sem site (semIdx w)) (s.tile src).sc.step.toNat

/-- The acknowledgement of operation `w` to tile `src`. -/
def semAck (site : Fin 64) (src : PTile) (p : Fin 32) (w : BitVec 64) (st : SemSt) (v : Word) : Flit :=
  mkFlit 0 (storeAt site) src.port0 (some p) src.key (.semAck (ackWord st (semTag w) (semIdx w) v))

/-- The counters of a store after a status. -/
def SemSt.counted (st : SemSt) (m : SMap Word) (site : Fin 64) : SMap Word :=
  match st with
  | .ok | .deferred => m
  | .fence => ctrAdd m site .semFence 1
  | .overflow | .order | .full | .badop => ctrAdd m site .semError 1

section
variable {s : State} {site : Fin 64} {src : PTile} {w : BitVec 64} {p : Fin 32} (hp : (s.tile src).pl.part = some p)
  (hecc : (s.sem site (semIdx w)).ecc = .ok)
include hp hecc

theorem State.semOp_answer {st : SemSt} {v : Word} (h : s.semAct site src p w = .answer st v) : s.semOp site src w =
    { s with net := (s.net.drop (semOpFlit site src w)).send [semAck site src p w st v], ctrs := st.counted s.ctrs site } := by
  rw [State.semAct] at h
  simp only [State.semOp, hp, h, hecc]
  cases st <;> rfl

theorem State.semOp_change {e : Sem} {st : SemSt} (h : s.semAct site src p w = .change e st) : s.semOp site src w =
    { s with
      sems := SMap.set Sem.unowned s.sems (semKey site (semIdx w)) e
      parts := addAudit s.parts (s.sem site (semIdx w)).owner site (e.value - (s.sem site (semIdx w)).value)
      waiters := s.waiters.filter fun x => !x.isReady site (semIdx w) e
      net := (s.net.drop (semOpFlit site src w)).send (semAck site src p w st e.value :: releases s.waiters site (semIdx w) e)
      ctrs := st.counted s.ctrs site } := by
  rw [State.semAct] at h
  simp only [State.semOp, hp, h, hecc]
  cases st <;> rfl

theorem State.semOp_hold (h : s.semAct site src p w = .hold) : s.semOp site src w =
    { s with
      deferred := s.deferred ++ [⟨site, p, w, (s.tile src).sc.step.toNat⟩]
      net := (s.net.drop (semOpFlit site src w)).send [semAck site src p w .deferred (s.sem site (semIdx w)).value] } := by
  rw [State.semAct] at h
  simp only [State.semOp, hp, h, hecc]
  rfl

theorem State.semOp_wait (h : s.semAct site src p w = .wait) : (s.semOp site src w).sems = s.sems ∧
    (s.semOp site src w).waiters = s.waiters ++ [⟨site, semIdx w, semN w, semTag w, p, src⟩] := by
  rw [State.semAct] at h
  simp only [State.semOp, hp, h, hecc]
  exact ⟨rfl, rfl⟩

end

/-! ### What R265 decides -/

section
variable {e : Sem} {p : Fin 32} {w : BitVec 64} {nd nw quota : Nat}

/-- The partition owns the entry or shares in it. -/
def Sem.admits (e : Sem) (p : Fin 32) : Prop := e.owner ≠ 63 ∧ (e.owner.toNat = p.val ∨ e.share.getLsbD p.val = true)

theorem semPerform_of_not_admits (h : ¬ e.admits p) : semPerform e w (some p) nd nw quota = .answer .fence 0 := by
  refine if_pos ?_
  by_cases ho : e.owner = 63
  · rw [decide_eq_true ho, Bool.true_or]
  · obtain ⟨other, unshared⟩ := not_or.1 fun ha => h ⟨ho, ha⟩
    simp only [decide_eq_false other, Bool.eq_false_iff.2 unshared, Bool.or_false, Bool.not_false, Bool.or_true]

/-- The tests behind the fence. -/
theorem semPerform_of_admits (h : e.admits p) (hop : semOpOf w ≠ 0 ∧ semOpOf w ≤ 4) (hr : semRsv w = false) :
    semPerform e w (some p) nd nw quota =
      if semOpOf w ≤ 2 then
        if !e.seq && semN w == 0x80000000 then .answer .badop e.value
        else if e.share ≠ 0 then (if 64 ≤ nd then .answer .full e.value else .hold)
        else if 2 ^ 15 ≤ (semTag w - e.tag).toNat then .answer .order e.value
        else .change { (if semTag w = e.tag then e else { e with snap := e.value, tag := semTag w }) with
          value := (e.applied (semOpOf w = 1) (semN w)).1 } (e.applied (semOpOf w = 1) (semN w)).2
      else if semOpOf w = 4 then .answer .ok e.value
      else if e.satisfied (semN w) then .answer .ok e.value
      else if quota ≤ nw then .answer .full e.value
      else .wait := by
  obtain ⟨ho, ha⟩ := h
  obtain ⟨h0, h4⟩ := hop
  have mine : (decide (e.owner.toNat = p.val) || e.share.getLsbD p.val) = true := by rwa [Bool.or_eq_true, decide_eq_true_eq]
  unfold semPerform
  rw [if_neg (by simp only [decide_eq_false ho, mine]; decide), if_neg (by simp [h0, h4, hr])]
  split_ifs <;> rfl

end

end Sys2Proof.Machine
end

section
/-! O27: ADD and SUB (R264–R266). -/

namespace Sys2Proof.Machine

/-- R265: the value after an addition or a subtraction, and its status. -/
theorem Sem.applied_eq (e : Sem) (add : Bool) (n : Word) {sum clamped : Int} (hs : sum = e.value.toInt + if add then n.toInt else -n.toInt)
    (hc : clamped = max (-(2 ^ 31 - 1)) (min sum (2 ^ 31 - 1))) :
    e.applied add n = (BitVec.ofInt 32 (if e.seq = true then sum else clamped), if e.seq = true ∨ clamped = sum then .ok else .overflow) := by
  unfold Sem.applied
  cases e.seq
  · have order : clamped = min (max sum (-(2 ^ 31 - 1))) (2 ^ 31 - 1) := by omega
    simp [← hs, order]
  · have wraps : (if add then e.value + n else e.value - n) = BitVec.ofInt 32 sum := by
      rw [hs]
      cases add
      · simp [BitVec.ofInt_add, BitVec.ofInt_neg, BitVec.sub_eq_add_neg]
      · simp [BitVec.ofInt_add]
    simp [wraps]

/-- Entry `e` after an operation with tag `t` that gives it the value `v`: SNAP keeps the value before a new tag (R266). -/
structure Sem.Took (e e' : Sem) (t : BitVec 16) (v : Word) : Prop where
  value : e'.value = v
  tag : e'.tag = t
  snap : e'.snap = if t = e.tag then e.snap else e.value
  owner : e'.owner = e.owner
  share : e'.share = e.share
  init : e'.init = e.init
  seq : e'.seq = e.seq

/-- An addition or a subtraction on an entry that the partition owns and shares with none. -/
theorem semPerform_owned {e : Sem} {p : Fin 32} {w : BitVec 64} (ho : e.owner.toNat = p.val) (hs : e.share = 0)
    (hop : semOpOf w = 1 ∨ semOpOf w = 2) (hr : semRsv w = false) (hn : e.seq = true ∨ semN w ≠ 0x80000000)
    (hord : (semTag w - e.tag).toNat < 2 ^ 15) (nd nw quota : Nat) :
    ∃ e', semPerform e w (some p) nd nw quota = .change e' (e.applied (semOpOf w = 1) (semN w)).2 ∧
      e.Took e' (semTag w) (e.applied (semOpOf w = 1) (semN w)).1 := by
  have admits : e.admits p := ⟨fun h => by rw [h] at ho; have := p.isLt; change 63 = _ at ho; omega, .inl ho⟩
  have fits : ¬ (!e.seq && semN w == 0x80000000) = true := by simpa [or_iff_not_imp_left] using hn
  have act := semPerform_of_admits (nd := nd) (nw := nw) (quota := quota) admits (by omega) hr
  rw [if_pos (by omega), if_neg fits, if_neg (not_not_intro hs), if_neg (by omega)] at act
  refine ⟨_, act, ?_⟩
  split
  next h => exact ⟨rfl, h.symm, (if_pos h).symm, rfl, rfl, rfl, rfl⟩
  next h => exact ⟨rfl, rfl, (if_neg h).symm, rfl, rfl, rfl, rfl⟩

section
variable {s : State} {site : Fin 64} {src : PTile} {p : Fin 32} {w : BitVec 64}

/-- The marks of R270 leave what the operation has done. -/
theorem State.semAct_owned (ho : (s.sem site (semIdx w)).owner.toNat = p.val) (hs : (s.sem site (semIdx w)).share = 0)
    (hop : semOpOf w = 1 ∨ semOpOf w = 2) (hr : semRsv w = false)
    (hn : (s.sem site (semIdx w)).seq = true ∨ semN w ≠ 0x80000000) (hord : (semTag w - (s.sem site (semIdx w)).tag).toNat < 2 ^ 15) :
    ∃ e', s.semAct site src p w = .change e' ((s.sem site (semIdx w)).applied (semOpOf w = 1) (semN w)).2 ∧
      (s.sem site (semIdx w)).Took e' (semTag w) ((s.sem site (semIdx w)).applied (semOpOf w = 1) (semN w)).1 := by
  obtain ⟨e', act, took⟩ := semPerform_owned ho hs hop hr hn hord
    (s.deferred.filter fun d => d.site = site && some d.part == some p).length
    (s.waiters.filter fun x => x.site = site && some x.part == some p).length (s.quota p site)
  refine ⟨_, by rw [State.semAct, act, SemAct.marked], ?_⟩
  exact ⟨took.value, took.tag, took.snap, took.owner, took.share, took.init, took.seq⟩

/-- R265, R266: an operation that changes its entry. -/
theorem semOp_clause_change {i : Instr} (hx : exec i s = .next (s.semOp site src w)) (hp : (s.tile src).pl.part = some p)
    (hecc : (s.sem site (semIdx w)).ecc = .ok) {e : Sem} {st : SemSt} (h : s.semAct site src p w = .change e st) :
    Completes i s fun u => u.sem site (semIdx w) = e ∧ (∀ (j : Fin 64) (k : BitVec 10), (j ≠ site ∨ k ≠ semIdx w) → u.sem j k = s.sem j k) ∧
      (∀ x ∈ u.waiters, x ∈ s.waiters ∧ ¬ (x.site = site ∧ x.index = semIdx w ∧ e.satisfied x.n = true)) ∧
      semAck site src p w st e.value ∈ u.net.flits ∧ u.tiles = s.tiles := by
  refine ⟨_, hx, ?_⟩
  rw [State.semOp_change hp hecc h]
  refine ⟨State.sem_setSem s .., fun j k hne => s.sem_setSem_ne e hne, fun x hx => ?_, ?_, rfl⟩
  · obtain ⟨mem, waits⟩ := List.mem_filter.1 hx
    exact ⟨mem, by simpa [Waiter.isReady, or_assoc, imp_iff_not_or] using waits⟩
  · exact List.mem_append_right _ (List.mem_cons_self ..)

end

/-! ### The commands -/

section
variable {s : State} {site : Fin 64} {src : PTile} {op : BitVec 64}

theorem exec_semOpAdd (h : s.storeTakes site src (setSemOp 1 op) = true) :
    exec (.semOpAdd site src op) s = .next (s.semOp site src (setSemOp 1 op)) := congrArg Host.Outcome.next (if_pos h)

theorem exec_semOpSub (h : s.storeTakes site src (setSemOp 2 op) = true) :
    exec (.semOpSub site src op) s = .next (s.semOp site src (setSemOp 2 op)) := congrArg Host.Outcome.next (if_pos h)

theorem exec_semOpWaitGe (h : s.storeTakes site src (setSemOp 3 op) = true) :
    exec (.semOpWaitGe site src op) s = .next (s.semOp site src (setSemOp 3 op)) := congrArg Host.Outcome.next (if_pos h)

theorem exec_semOpRead (h : s.storeTakes site src (setSemOp 4 op) = true) :
    exec (.semOpRead site src op) s = .next (s.semOp site src (setSemOp 4 op)) := congrArg Host.Outcome.next (if_pos h)

end

section
variable {s : State} {site : Fin 64} {src : PTile} {op : BitVec 64} {p : Fin 32} {code : Nat} {i : Instr} {sum clamped : Int}

/-- ADD (1) and SUB (2). -/
theorem semOp_clause_addSub (hcode : code = 1 ∨ code = 2) (hx : exec i s = .next (s.semOp site src (setSemOp code op)))
    (hp : (s.tile src).pl.part = some p) (ho : (s.sem site (semIdx op)).owner.toNat = p.val) (hs : (s.sem site (semIdx op)).share = 0)
    (hecc : (s.sem site (semIdx op)).ecc = .ok) (hr : op.toNat / 2 ^ 42 % 4 = 0)
    (hn : (s.sem site (semIdx op)).seq = true ∨ semN op ≠ 0x80000000) (hord : (semTag op - (s.sem site (semIdx op)).tag).toNat < 2 ^ 15)
    (hsum : sum = (s.sem site (semIdx op)).value.toInt + if code = 1 then (semN op).toInt else -(semN op).toInt)
    (hclamped : clamped = max (-(2 ^ 31 - 1)) (min sum (2 ^ 31 - 1))) :
    Completes i s fun u =>
      (s.sem site (semIdx op)).Took (u.sem site (semIdx op)) (semTag op)
        (BitVec.ofInt 32 (if (s.sem site (semIdx op)).seq = true then sum else clamped)) ∧
      (∀ (j : Fin 64) (k : BitVec 10), (j ≠ site ∨ k ≠ semIdx op) → u.sem j k = s.sem j k) ∧
      (∀ x ∈ u.waiters, x ∈ s.waiters ∧ ¬ (x.site = site ∧ x.index = semIdx op ∧ (u.sem site (semIdx op)).satisfied x.n = true)) ∧
      semAck site src p op (if (s.sem site (semIdx op)).seq = true ∨ clamped = sum then .ok else .overflow)
        (BitVec.ofInt 32 (if (s.sem site (semIdx op)).seq = true then sum else clamped)) ∈ u.net.flits ∧ u.tiles = s.tiles := by
  have hc : code < 16 := by omega
  have idx := semIdx_setSemOp hc op
  have tag := semTag_setSemOp hc op
  have n := semN_setSemOp hc op
  have opOf := semOpOf_setSemOp hc op
  rw [← idx] at ho hs hecc hn hord hsum ⊢
  rw [← n] at hn hsum
  rw [← tag] at hord ⊢
  obtain ⟨e, act, took⟩ := s.semAct_owned ho hs (by rwa [opOf]) (semRsv_setSemOp hc op hr) hn hord
  rw [Sem.applied_eq _ (semOpOf (setSemOp code op) = 1) _ (by simp only [hsum, opOf, decide_eq_true_eq]) hclamped] at act took
  obtain ⟨u, hu, entry, others, waiters, ack, tiles⟩ := semOp_clause_change hx hp hecc act
  rw [took.value] at ack
  refine ⟨u, hu, entry ▸ took, others, ?_, ?_, tiles⟩
  · rwa [entry]
  · rwa [semAck, ← idx, ← tag]

end

/-- Settles O27: the procedure of R265 for the two operations on an entry of one owner. -/
theorem semaphoreAddsApply : Obligations.SemaphoreAddsApply := by
  unfold Obligations.SemaphoreAddsApply
  intro s site src op p e amount order hp ho hs hecc hr hn hord changes
  have clause {code : Nat} (hcode : code = 1 ∨ code = 2) {i : Instr} {sum : Int}
      (hsum : sum = e.value.toInt + if code = 1 then amount else -amount)
      (hx : s.storeTakes site src (setSemOp code op) = true → exec i s = .next (s.semOp site src (setSemOp code op))) :
      changes i code sum := by
    intro takes clamped v status
    obtain ⟨u, hu, took, others, waiters, ack, tiles⟩ := semOp_clause_addSub hcode (hx takes) hp ho hs hecc hr hn hord hsum rfl
    refine ⟨u, hu, took.value, took.tag, took.snap, took.owner, took.share, took.init, took.seq, others, waiters, ⟨_, ack, rfl, rfl, ?_⟩, tiles⟩
    have code : (if e.seq = true ∨ clamped = sum then SemSt.ok else .overflow).code = status := by
      rw [apply_ite SemSt.code]
      rfl
    exact congrArg (fun n => Msg.semAck (BitVec.ofNat 64 (n * 2 ^ 60 + (semTag op).toNat * 2 ^ 44 + (semIdx op).toNat * 2 ^ 32 + v.toNat))) code
  exact ⟨clause (.inl rfl) rfl exec_semOpAdd, clause (.inr rfl) (Int.sub_eq_add_neg ..) exec_semOpSub⟩

end Sys2Proof.Machine
end

section
/-! O28: READ, WAIT_GE, deferred operations and the fence (R264–R266, R268). -/

namespace Sys2Proof.Machine

/-! ### What R265 decides -/

section
variable {e : Sem} {p : Fin 32} {w : BitVec 64} {nd nw quota : Nat} (h : e.admits p) (hr : semRsv w = false)
include h hr

theorem semPerform_read (hop : semOpOf w = 4) : semPerform e w (some p) nd nw quota = .answer .ok e.value := by
  rw [semPerform_of_admits h (by omega) hr, if_neg (by omega), if_pos hop]

theorem semPerform_waitGe (hop : semOpOf w = 3) : semPerform e w (some p) nd nw quota =
    if e.satisfied (semN w) then .answer .ok e.value else if quota ≤ nw then .answer .full e.value else .wait := by
  rw [semPerform_of_admits h (by omega) hr, if_neg (by omega), if_neg (by omega)]

theorem semPerform_shared (hop : semOpOf w = 1 ∨ semOpOf w = 2) (hs : e.share ≠ 0) (hn : e.seq = true ∨ semN w ≠ 0x80000000)
    (hd : nd < 64) : semPerform e w (some p) nd nw quota = .hold := by
  have fits : ¬ (!e.seq && semN w == 0x80000000) = true := by simpa [or_iff_not_imp_left] using hn
  rw [semPerform_of_admits h (by omega) hr, if_pos (by omega), if_neg fits, if_pos hs, if_neg (by omega)]

end

/-- A target that is reached (R264): signed in count mode, by serial number in sequence mode. -/
theorem Sem.satisfied_iff (e : Sem) (n : Word) :
    e.satisfied n = true ↔ if e.seq = true then (e.value - n).toNat < 2 ^ 31 else n.toInt ≤ e.value.toInt := by
  unfold Sem.satisfied
  cases e.seq
  · simp [BitVec.slt]
  · simp

/-! ### The commands -/

/-- The operation code changes nothing in the acknowledgement. -/
theorem semAck_setSemOp {code : Nat} (hc : code < 16) (site : Fin 64) (src : PTile) (p : Fin 32) (op : BitVec 64) (st : SemSt) (v : Word) :
    semAck site src p (setSemOp code op) st v = semAck site src p op st v := by
  rw [semAck, semTag_setSemOp hc, semIdx_setSemOp hc, semAck]

section
variable {s : State} {site : Fin 64} {src : PTile} {op : BitVec 64} {p : Fin 32} {code : Nat} {i : Instr}
  (hx : exec i s = .next (s.semOp site src (setSemOp code op))) (hc : code < 16) (hp : (s.tile src).pl.part = some p)
  (hecc : (s.sem site (semIdx op)).ecc = .ok)
include hx hc hp hecc

/-- An operation that the store answers at once. -/
theorem semOp_clause_answer {st : SemSt} {v : Word}
    (h : ∀ nd nw quota, semPerform (s.sem site (semIdx op)) (setSemOp code op) (some p) nd nw quota = .answer st v) :
    Completes i s fun u => semAck site src p op st v ∈ u.net.flits ∧ u.sems = s.sems ∧ u.waiters = s.waiters ∧ u.deferred = s.deferred ∧
      u.ctrs = st.counted s.ctrs site := by
  have act : s.semAct site src p (setSemOp code op) = .answer st v := by
    rw [State.semAct, semIdx_setSemOp hc, h]
    rfl
  refine ⟨_, hx, ?_⟩
  rw [State.semOp_answer hp (by rwa [semIdx_setSemOp hc]) act, semAck_setSemOp hc]
  exact ⟨List.mem_append_right _ (List.mem_singleton_self _), rfl, rfl, rfl, rfl⟩

/-- An operation that waits for its target. -/
theorem semOp_clause_wait (hq : (s.waiters.filter fun x => x.site = site && x.part = p).length < s.quota p site)
    (h : ∀ nd nw quota, nw < quota → semPerform (s.sem site (semIdx op)) (setSemOp code op) (some p) nd nw quota = .wait) :
    Completes i s fun u => u.sems = s.sems ∧ u.waiters = s.waiters ++ [⟨site, semIdx op, semN op, semTag op, p, src⟩] := by
  have act : s.semAct site src p (setSemOp code op) = .wait := by
    rw [State.semAct, semIdx_setSemOp hc, h _ _ _ (by simpa [beq_eq_decide] using hq)]
    rfl
  refine ⟨_, hx, ?_⟩
  obtain ⟨sems, waiters⟩ := State.semOp_wait hp (by rwa [semIdx_setSemOp hc]) act
  exact ⟨sems, by rw [waiters, semIdx_setSemOp hc, semN_setSemOp hc, semTag_setSemOp hc]⟩

/-- An operation that is held (R268). -/
theorem semOp_clause_hold (hd : (s.deferred.filter fun d => d.site = site && d.part = p).length < 64)
    (h : ∀ nd nw quota, nd < 64 → semPerform (s.sem site (semIdx op)) (setSemOp code op) (some p) nd nw quota = .hold) :
    Completes i s fun u => semAck site src p op .deferred (s.sem site (semIdx op)).value ∈ u.net.flits ∧ u.sems = s.sems ∧
      u.deferred = s.deferred ++ [⟨site, p, setSemOp code op, (s.tile src).sc.step.toNat⟩] := by
  have act : s.semAct site src p (setSemOp code op) = .hold := by
    rw [State.semAct, semIdx_setSemOp hc, h _ _ _ (by simpa [beq_eq_decide] using hd)]
    rfl
  refine ⟨_, hx, ?_⟩
  rw [State.semOp_hold hp (by rwa [semIdx_setSemOp hc]) act, semAck_setSemOp hc, semIdx_setSemOp hc]
  exact ⟨List.mem_append_right _ (List.mem_singleton_self _), rfl, rfl⟩

end

/-- Settles O28: what R265 decides on each operation, and what the store does with it. -/
theorem semaphoreReadsAndWaits : Obligations.SemaphoreReadsAndWaits := by
  unfold Obligations.SemaphoreReadsAndWaits
  intro s site src op p e acks reached takes now hp hr hecc
  have acked {u : State} (st : SemSt) {v : Word} (h : semAck site src p op st v ∈ u.net.flits) : acks u st.code v.toNat :=
    ⟨_, h, rfl, rfl, rfl⟩
  have rsv {code : Nat} (hc : code < 16) := semRsv_setSemOp hc op hr
  have opOf {code : Nat} (hc : code < 16) := semOpOf_setSemOp hc op
  refine ⟨fun hown hmine => ?_, fun hno => ?_⟩
  · have admits : e.admits p := ⟨hown, hmine⟩
    refine ⟨fun ht => ?_, fun ht hreach => ?_, fun ht hreach hq => ?_, fun hs hn hd => ?_⟩
    · obtain ⟨u, hu, ack, sems, waiters, -⟩ := semOp_clause_answer (exec_semOpRead ht) (by decide) hp hecc
        fun _ _ _ => semPerform_read admits (rsv (by decide)) (opOf (by decide))
      exact ⟨u, hu, acked .ok ack, sems, waiters⟩
    · have done : e.satisfied (semN op) = true := (e.satisfied_iff _).2 hreach
      obtain ⟨u, hu, ack, sems, waiters, -⟩ := semOp_clause_answer (exec_semOpWaitGe ht) (by decide) hp hecc fun _ _ _ => by
        rw [semPerform_waitGe admits (rsv (by decide)) (opOf (by decide)), semN_setSemOp (by decide), if_pos done]
      exact ⟨u, hu, acked .ok ack, sems, waiters⟩
    · have early : ¬ e.satisfied (semN op) = true := (e.satisfied_iff _).not.2 hreach
      exact semOp_clause_wait (exec_semOpWaitGe ht) (by decide) hp hecc hq fun _ _ _ hq => by
        rw [semPerform_waitGe admits (rsv (by decide)) (opOf (by decide)), semN_setSemOp (by decide), if_neg early, if_neg (by omega)]
    · have held {code : Nat} (hcode : code = 1 ∨ code = 2) {i : Instr} (hx : exec i s = .next (s.semOp site src (setSemOp code op))) :
          Completes i s fun u => acks u 1 e.value.toNat ∧ u.sems = s.sems ∧
            u.deferred = s.deferred ++ [⟨site, p, setSemOp code op, now⟩] := by
        have hc : code < 16 := by omega
        obtain ⟨u, hu, ack, rest⟩ := semOp_clause_hold hx hc hp hecc hd fun _ _ _ =>
          semPerform_shared admits (rsv hc) (by rwa [opOf hc]) hs (by rwa [semN_setSemOp hc])
        exact ⟨u, hu, acked .deferred ack, rest⟩
      exact ⟨fun ht => held (.inl rfl) (exec_semOpAdd ht), fun ht => held (.inr rfl) (exec_semOpSub ht)⟩
  · have alien : ¬ e.admits p := fun ⟨hown, hmine⟩ => by
      rcases hno with h | ⟨h, h'⟩
      · exact hown h
      · exact hmine.elim h (by rw [h']; nofun)
    have fenced {code : Nat} (hc : code < 16) {i : Instr} (hx : exec i s = .next (s.semOp site src (setSemOp code op))) :
        Completes i s fun u => acks u 2 0 ∧ u.sems = s.sems ∧ u.waiters = s.waiters ∧ u.deferred = s.deferred ∧
          u.ctr site .semFence = satAdd (s.ctr site .semFence) 1 := by
      obtain ⟨u, hu, ack, sems, waiters, deferred, ctrs⟩ := semOp_clause_answer hx hc hp hecc fun _ _ _ => semPerform_of_not_admits alien
      exact ⟨u, hu, acked .fence ack, sems, waiters, deferred, (congrArg (SMap.get 0 · _) ctrs).trans (ctrAdd_self ..)⟩
    simp only [List.forall_mem_cons, List.not_mem_nil, IsEmpty.forall_iff, implies_true, and_true]
    exact ⟨fun ht => fenced (by decide) (exec_semOpAdd ht), fun ht => fenced (by decide) (exec_semOpSub ht),
      fun ht => fenced (by decide) (exec_semOpWaitGe ht), fun ht => fenced (by decide) (exec_semOpRead ht)⟩

end Sys2Proof.Machine
end

section
/-! SUPPORT. The check report while the units take commands (`Fx.pump`): no mark leaves it (R402). -/

namespace Sys2Proof.Machine

/-- Every mark in the check report of `f` stands in that of `g`. -/
structure Fx.Gains (f g : Fx) : Prop where
  recov : f.tile.rp.rep.recov ⊆ g.tile.rp.rep.recov
  fatal : f.tile.rp.rep.fatal ⊆ g.tile.rp.rep.fatal

namespace Fx.Gains

theorem refl (f : Fx) : f.Gains f := ⟨fun _ => id, fun _ => id⟩

theorem trans {f g h : Fx} (a : f.Gains g) (b : g.Gains h) : f.Gains h := ⟨fun _ e => b.recov (a.recov e), fun _ e => b.fatal (a.fatal e)⟩

theorem ite {f g h : Fx} {p : Prop} [Decidable p] (a : f.Gains g) (b : f.Gains h) : f.Gains (if p then g else h) := by
  split <;> assumption

theorem foldl {α : Type} {h : Fx → α → Fx} (step : ∀ (g : Fx) (e : α), g.Gains (h g e)) (l : List α) (f : Fx) : f.Gains (l.foldl h f) := by
  induction l generalizing f with
  | nil => exact refl f
  | cons e l ih => exact (step f e).trans (ih _)

section
variable {f g : Fx} (a : f.Gains g)
include a

/-- A change outside the marks. -/
theorem keep {h : Fx} (hr : h.tile.rp.rep.recov = g.tile.rp.rep.recov) (hf : h.tile.rp.rep.fatal = g.tile.rp.rep.fatal) : f.Gains h :=
  ⟨hr ▸ a.recov, hf ▸ a.fatal⟩

theorem dma (d : Dma) : f.Gains (g.set { g.tile with dma := d }) := a.keep rfl rfl

theorem queue (k : Queue) (l : List QCmd) : f.Gains (g.set (g.tile.setQueue k l)) := a.keep (by cases k <;> rfl) (by cases k <;> rfl)

theorem complete (k : Queue) (n : Nat) : f.Gains (g.set (g.tile.complete k n)) := a.keep (by cases k <;> rfl) (by cases k <;> rfl)

theorem count (k : Ctr) (n : Nat) : f.Gains (g.count k n) := a.keep (by rw [Fx.count_tile]) (by rw [Fx.count_tile])

theorem raise (c : Ctx) (u : Nat) (ev : BitVec 16) (d : BitVec 64) (m : Mark) (o : Bool) : f.Gains (g.raise c u ev d m o) := by
  refine ⟨fun e he => ?_, fun e he => ?_⟩
  all_goals simp only [Fx.raise]; split
  · exact List.mem_append_left _ (a.recov he)
  · exact a.recov he
  · exact List.mem_append_left _ (a.fatal he)
  · exact a.fatal he

theorem insnFault (c : Ctx) (u : Nat) (pc : BitVec 16) (w : Nat) : f.Gains (g.insnFault c u pc w) :=
  (a.raise c u evtInsnFault (BitVec.ofNat 64 (pc.toNat * 2 ^ 32 + w)) .program true).keep rfl rfl

end

end Fx.Gains

section
variable (f : Fx) (c : Ctx)

/-! ### Slips -/

theorem Fx.slip_gains (cause unit : Nat) (pc : BitVec 16) : f.Gains (f.slip c cause unit pc) := by
  simp only [Fx.slip]
  exact .ite ((Fx.Gains.refl f).keep rfl rfl) ((Fx.Gains.refl f).keep rfl rfl)

theorem Fx.slipCmd_gains (k : Queue) (q : QCmd) (l : List Nat) : f.Gains (f.slipCmd c k q l) :=
  (Fx.Gains.foldl (fun g n => g.slip_gains c n (q.op.unit q.lane) q.pc) _ f).queue k _

theorem Fx.arbitrate_gains : f.Gains (f.arbitrate c) := by
  have lose (l : List QCmd) (f : Fx) : f.Gains (f.losePorts c l) := by
    induction l generalizing f with
    | nil => exact .refl f
    | cons e r ih =>
      exact ((Fx.Gains.foldl (fun g _ => g.slip_gains c 5 _ _) _ f).queue e.op.portQueue _).trans (ih _)
  exact lose _ f

theorem Fx.askVat_gains (k : Queue) (q : QCmd) : f.Gains (f.askVat c k q) := by
  unfold Fx.askVat
  exact .ite (.refl f) (((Fx.Gains.refl f).queue k _).keep rfl rfl)

/-! ### Issue -/

theorem Fx.dmaPart_gains (q : QCmd) : f.Gains (f.dmaPart c q) := by
  have engine (d : Dma) : f.Gains (f.set { f.tile with dma := d }) := (Fx.Gains.refl f).dma d
  have translated (g : Fx) (e : TlbEntry) (w : Bool) : g.Gains (g.translate c q e w) := by
    have freed (d : Dma) : g.Gains (g.set { g.tile with dma := d }) := (Fx.Gains.refl g).dma d
    simp only [Fx.translate]
    exact .ite (((freed _).raise c _ _ _ _ _).complete .dq q.seq)
      (.ite ((((freed _).raise c _ _ _ _ _).count _ _).complete .dq q.seq) ((freed _).keep rfl rfl))
  simp only [Fx.dmaPart]
  split
  · split
    · exact (engine _).trans (translated _ _ _)
    · exact engine _
  · exact .ite (((engine _).trans (Fx.askVat_gains _ c .dq q)).trans (Fx.slipCmd_gains _ c .dq q _)) ((engine _).keep rfl rfl)

theorem Fx.issueCmd_gains (k : Queue) (q : QCmd) : f.Gains (f.issueCmd c k q) := by
  have same := Fx.Gains.refl f
  have issued (j : Queue) (g : QCmd → QCmd) := same.queue j (updCmd q.seq g (f.tile.queue j))
  have semOp : f.Gains (f.semIssue c q) := by
    simp only [Fx.semIssue]
    exact .ite (((issued .sq _).raise c _ _ _ _ _).complete .sq q.seq) ((issued .sq _).keep rfl rfl)
  simp only [Fx.issueCmd]
  refine .ite ((same.insnFault c _ _ _).queue k _) (.ite ((same.raise c _ _ _ _ _).complete k q.seq) ?_)
  split
  · simp only [Fx.levalIssue]
    exact .ite (issued .lq _) (((issued .lq _).raise c _ _ _ _ _).complete .lq q.seq)
  · exact (issued k _).keep rfl rfl
  · simp only [Fx.dcopyIssue]
    exact .ite (((issued .dq _).dma _).trans (Fx.dmaPart_gains _ c q)) ((((issued .dq _).raise c _ _ _ _ _).count _ _).complete .dq q.seq)
  iterate 4 exact semOp
  refine .ite ((same.raise c _ _ _ _ _).complete k q.seq) ?_
  split
  · exact (issued k _).dma _
  · exact issued k _

/-! ### The units in turn -/

theorem Fx.tryCmd_gains (k : Queue) (q : QCmd) : f.Gains (f.tryCmd c k q) := by
  have woken (m : TileMem) : f.Gains (f.set { f.tile with mem := m }) := (Fx.Gains.refl f).keep rfl rfl
  simp only [Fx.tryCmd]
  refine .ite (.refl f) (.ite (.ite ((f.issueCmd_gains c k q).trans (Fx.arbitrate_gains _ c)) ?_) (f.slipCmd_gains c k q _))
  exact (Fx.Gains.ite ((woken _).trans (Fx.askVat_gains _ c k q)) (woken _)).trans (Fx.slipCmd_gains _ c k q _)

theorem Fx.trySq_gains (l : List QCmd) (f : Fx) : f.Gains (f.trySq c l) := by
  induction l generalizing f with
  | nil => exact .refl f
  | cons q l ih =>
    simp only [Fx.trySq]
    exact .ite ((f.tryCmd_gains c .sq q).trans (ih _)) (f.tryCmd_gains c .sq q)

theorem Fx.pumpOnce_gains : f.Gains (f.pumpOnce c) := by
  have dma : f.Gains (f.tryDma c) := by
    unfold Fx.tryDma
    split
    · exact .ite (f.dmaPart_gains c _) (.refl f)
    · exact .refl f
  have heads (k : Queue) (l : List QCmd) (g : Fx) : g.Gains (l.foldl (fun h q => h.tryCmd c k q) g) :=
    .foldl (fun h q => h.tryCmd_gains c k q) l g
  simp only [Fx.pumpOnce]
  exact ((((dma.trans (heads .mq _ _)).trans (heads .vq _ _)).trans (heads .lq _ _)).trans (heads .dq _ _)).trans (Fx.trySq_gains c _ _)

theorem Fx.pumpAll_gains (n : Nat) (f : Fx) : f.Gains (f.pumpAll n c) := by
  induction n generalizing f with
  | zero => exact .refl f
  | succ n ih =>
    simp only [Fx.pumpAll]
    exact .ite ((f.pumpOnce_gains c).trans (ih _)) (f.pumpOnce_gains c)

/-- A completion leaves every mark. -/
theorem Fx.finish_gains (k : Queue) (n : Nat) : f.Gains (f.finish c k n) :=
  ((Fx.Gains.refl f).complete k n).trans (Fx.pumpAll_gains c _ _)

end

end Sys2Proof.Machine
end

section
/-! O29: acknowledgements and time-outs at the issuing tile (R264, R272, R294, R312), deferred operations (R268), the audit (R273). -/

namespace Sys2Proof.Machine

/-! ### Acknowledgements -/

/-- An SREAD's register takes the value of its acknowledgement. -/
def Fx.readBack (f : Fx) (q : QCmd) (ack : BitVec 64) : Fx :=
  if q.op = .sread then f.set { f.tile with sc := f.tile.sc.setReg q.f3 (semN ack) } else f

/-- A tile's step with an acknowledgement, before its command completes (R264). -/
def Fx.acked (f : Fx) (c : Ctx) (q : QCmd) (ack : BitVec 64) : Fx := (f.readBack q ack).semStatus c q (ack.toNat / 2 ^ 60)

theorem Fx.semStatus_onlyChecks (f : Fx) (c : Ctx) (q : QCmd) (st : Nat) : f.OnlyChecks (f.semStatus c q st) := by
  unfold Fx.semStatus
  exact .ite (.refl f) (.ite (((Fx.OnlyChecks.refl f).raise c _ _ _ _ _).raise c _ _ _ _ _) ((Fx.OnlyChecks.refl f).raise c _ _ _ _ _))

/-- FENCE has an event of its own; the other errors have one together. -/
theorem Fx.semStatus_fatal (f : Fx) (c : Ctx) (q : QCmd) (st : Nat) :
    (3 ≤ st → evtSemError ∈ (f.semStatus c q st).tile.rp.rep.fatal) ∧ (st = 2 → evtSemFence ∈ (f.semStatus c q st).tile.rp.rep.fatal) := by
  unfold Fx.semStatus
  refine ⟨fun h => ?_, fun h => ?_⟩
  · rw [if_neg (by omega), if_neg (by omega)]
    exact List.mem_append_right _ (List.mem_singleton_self _)
  · rw [if_neg (by omega), if_pos h]
    exact List.mem_append_right _ (List.mem_singleton_self _)

/-- The register has the value; the rest of the scalar core, the scratchpad and the queues stay. -/
theorem Fx.acked_keeps (f : Fx) (c : Ctx) (q : QCmd) (ack : BitVec 64) :
    (∀ r : Reg, (f.acked c q ack).tile.sc.reg r = if q.op = .sread ∧ r = q.f3 ∧ r ≠ 0 then semN ack else f.tile.sc.reg r) ∧
    (f.acked c q ack).tile.sc.pc = f.tile.sc.pc ∧ (f.acked c q ack).tile.sc.qdone = f.tile.sc.qdone ∧
    (f.acked c q ack).tile.mem.scr = f.tile.mem.scr ∧ (f.acked c q ack).tile.queue .sq = f.tile.queue .sq := by
  obtain ⟨-, scr, -, sc, queue⟩ := Fx.semStatus_onlyChecks (f.readBack q ack) c q (ack.toNat / 2 ^ 60)
  rw [Fx.acked, sc, scr, queue, Fx.readBack]
  split_ifs with h
  · exact ⟨fun r => (Scalar.reg_setReg ..).trans (by simp only [h, true_and]), rfl, rfl, rfl, rfl⟩
  · exact ⟨fun r => by simp only [h, false_and, if_false], rfl, rfl, rfl, rfl⟩

section
variable {s : State} {t : PTile} {site : Fin 64} {ack : BitVec 64} {q : QCmd}

theorem exec_semAckArrival (hup : (s.site t.site).up = true) (hr : s.net.ready (semAckFlit t site ack) = true)
    (ha : ackFor (s.tile t) site ack = some q) : Completes (.semAckArrival t site ack) s fun u =>
      u.tile t = (((Fx.ofTile (s.tile t)).acked ⟨t, s⟩ q ack).finish ⟨t, s⟩ .sq q.seq).tile := by
  have step : exec (.semAckArrival t site ack) s = .next (
      let s1 := s.commit t (((Fx.ofTile (s.tile t)).acked ⟨t, s⟩ q ack).finish ⟨t, s⟩ .sq q.seq)
      { s1 with net := s1.net.drop (semAckFlit t site ack) }) := by
    simp only [exec, execSemAckArrival, ha, hup, hr, and_self, if_true]
    rfl
  generalize ((Fx.ofTile (s.tile t)).acked ⟨t, s⟩ q ack).finish ⟨t, s⟩ .sq q.seq = g at step ⊢
  exact .of_next step (s.tile_commit t g)

/-- R264, R294, R312: the acknowledgement of the tile's only semaphore command. -/
theorem semAckArrival_clause (hup : (s.site t.site).up = true) (hr : s.net.ready (semAckFlit t site ack) = true)
    (hq : (s.tile t).sq = [q]) (ha : ackFor (s.tile t) site ack = some q) (hop : q.op ≠ .qwait) :
    Completes (.semAckArrival t site ack) s fun u =>
      (u.tile t).sq = [] ∧ (u.tile t).sc.qd 4 = (s.tile t).sc.qd 4 + 1 ∧ (u.tile t).sc.pc = (s.tile t).sc.pc ∧
      (u.tile t).mem.scr = (s.tile t).mem.scr ∧
      (∀ r : Reg, (u.tile t).sc.reg r = if q.op = .sread ∧ r = q.f3 ∧ r ≠ 0 then semN ack else (s.tile t).sc.reg r) ∧
      (3 ≤ ack.toNat / 2 ^ 60 → evtSemError ∈ (u.tile t).rp.rep.fatal) ∧
      (ack.toNat / 2 ^ 60 = 2 → evtSemFence ∈ (u.tile t).rp.rep.fatal) := by
  obtain ⟨u, hx, tile⟩ := exec_semAckArrival hup hr ha
  obtain ⟨regs, pc, qdone, scr, sq⟩ := (Fx.ofTile (s.tile t)).acked_keeps ⟨t, s⟩ q ack
  obtain ⟨errors, fence⟩ := Fx.semStatus_fatal ((Fx.ofTile (s.tile t)).readBack q ack) ⟨t, s⟩ q (ack.toNat / 2 ^ 60)
  rw [← Fx.acked] at errors fence
  generalize (Fx.ofTile (s.tile t)).acked ⟨t, s⟩ q ack = g at tile regs pc qdone scr sq errors fence
  have marks := (g.finish_gains ⟨t, s⟩ .sq q.seq).fatal
  have fixed := g.finish_fixed ⟨t, s⟩ .sq q.seq
  obtain ⟨empty, count⟩ := g.finish_alone ⟨t, s⟩ (k := .sq) (sq.trans hq) hop
  rw [← tile] at marks fixed empty count
  have qd : g.tile.sc.qd 4 = (s.tile t).sc.qd 4 := by rw [Scalar.qd, qdone, Scalar.qd]; rfl
  have reg (r : Reg) : (u.tile t).sc.reg r = g.tile.sc.reg r := by rw [Scalar.reg, fixed.regs, Scalar.reg]
  exact ⟨u, hx, empty, count.trans (congrArg (· + 1) qd), fixed.pc.trans pc, fixed.scr.trans scr, fun r => (reg r).trans (regs r),
    fun h => marks (errors h), fun h => marks (fence h)⟩

/-- R272: an operation that has waited too long is reported, and waits on. -/
theorem semAckTimeout_clause (hup : (s.site t.site).up = true) (hq : timedOut (s.tile t) = some q) :
    Completes (.semAckTimeout t) s fun u => evtSemNoack ∈ (u.tile t).rp.rep.recov ∧ (u.tile t).sq.length = (s.tile t).sq.length ∧
      (u.tile t).mem = (s.tile t).mem ∧ (u.tile t).sc = (s.tile t).sc := by
  have step : exec (.semAckTimeout t) s = .next (s.commit t (((Fx.ofTile (s.tile t)).set { s.tile t with
      sq := updCmd q.seq (fun e => { e with slipped := e.slipped ++ [0x100] }) (s.tile t).sq }).raise ⟨t, s⟩ 6 evtSemNoack 0 .recov false)) := by
    simp only [exec, execSemAckTimeout, hq, hup]
    rfl
  refine .of_next step ?_
  rw [State.tile_commit]
  exact ⟨List.mem_append_right _ (List.mem_singleton_self _), List.length_map .., rfl, rfl⟩

end

/-! ### At the store -/

section
variable {s : State} {p : Fin 32}

/-- R268: the deferred operation of a finished step. -/
theorem semDeferredPerform_clause {d : Deferred} (hd : s.deferred = [d]) (hp : d.part = p) (hc : (s.part p).stepClosed d.step = true) :
    Completes (.semDeferredPerform p) s fun u => u.deferred = [] ∧ u.sem d.site (semIdx d.word) =
      { s.sem d.site (semIdx d.word) with value := ((s.sem d.site (semIdx d.word)).applied (semOpOf d.word = 1) (semN d.word)).1 } := by
  have due : (s.deferred.filter fun d => d.part = p && (s.part p).stepClosed d.step) = [d] := by simp [hd, hp, hc]
  have none : (s.deferred.filter fun d => !(d.part = p && (s.part p).stepClosed d.step)) = [] := by simp [hd, hp, hc]
  refine .of_next rfl ?_
  simp only [State.performDeferred, due, none, List.foldl_cons, List.foldl_nil]
  obtain ⟨fs, b, only⟩ := State.semUes_only (s := _) (l := _)
  rw [only]
  exact ⟨rfl, SMap.get_set_self ..⟩

/-- R273: a sum that differs closes its partition. -/
theorem semAudit_clause {site : Fin 64} (hup : (s.site site).up = true) (hb : s.semBad site = [p]) :
    Completes (.semAudit site) s fun u =>
      (u.part p).open_ = false ∧ u.ctr site .semAudit = satAdd (s.ctr site .semAudit) 1 ∧ u.sems = s.sems := by
  refine .of_next (congrArg Host.Outcome.next (if_pos hup)) ?_
  obtain ⟨fs, b, only⟩ := s.semUes_only (uncorrectableSems s.sems (fun k _ => k / 1024 == site.val) none)
  generalize hv : ({ s with net := s.net.send fs, bbx := b } : State) = v at only
  have bad : v.semBad site = [p] := by rw [← hv, ← hb]; rfl
  have ctrs : v.ctrs = s.ctrs := by rw [← hv]
  have sems : v.sems = s.sems := by rw [← hv]
  simp only [State.sweepSems, only, bad, reduceCtorEq, if_false]
  have closed := mapParts_prop (f := fun _ x => x.close) (P := fun x => x.open_ = false) (fun _ _ => rfl) (List.mem_singleton_self p) v.parts
  exact ⟨closed, (ctrAdd_self ..).trans (by rw [ctrs]; rfl), sems⟩

end

/-- Settles O29: acknowledgements and time-outs at the tile, deferred operations and the audit at the store. -/
theorem semaphoreEventsComplete : Obligations.SemaphoreEventsComplete := by
  unfold Obligations.SemaphoreEventsComplete
  intro s t site ack p q d x
  refine ⟨fun hup hr hq ha hop => ?_, semAckTimeout_clause, fun hd hp hc hseq => ?_, semAudit_clause⟩
  · exact semAckArrival_clause hup hr hq ha (by rcases hop with h | h | h | h <;> rw [h] <;> decide)
  · obtain ⟨u, hu, none, entry⟩ := semDeferredPerform_clause hd hp hc
    refine ⟨u, hu, none, ?_, by rw [entry]⟩
    rw [entry, Sem.applied, if_pos hseq]
    simp only [decide_eq_true_eq]
    rfl

end Sys2Proof.Machine
end

section
/-! SUPPORT. The status of slots that end together (R407, R421). -/

namespace Sys2Proof.Machine

section
variable {x : Serv} {j : Nat} (now : Nat) (code detail : BitVec 8)

theorem Serv.endSlot_get_ne {k : Nat} (h : j ≠ k) :
    SMap.get Slot.init (x.endSlot now code detail k).slots j = SMap.get Slot.init x.slots j := by
  rw [Serv.endSlot_slots]
  split
  · exact SMap.get_set_ne _ _ _ h
  · rfl

/-- A slot that is not live stays as it is. -/
theorem Serv.endSlots_get_of_not_live (ks : List Nat) (h : (SMap.get Slot.init x.slots j).live = false) :
    SMap.get Slot.init (x.endSlots now code detail ks).slots j = SMap.get Slot.init x.slots j := by
  induction ks generalizing x with
  | nil => rfl
  | cons k r ih =>
    have first : SMap.get Slot.init (x.endSlot now code detail k).slots j = SMap.get Slot.init x.slots j := by
      by_cases e : j = k
      · rw [Serv.endSlot_slots, ← e, if_neg (by rw [h]; nofun)]
      · exact Serv.endSlot_get_ne now code detail e
    exact (ih (by rwa [first])).trans first

/-- A live slot of the list ends, once. -/
theorem Serv.endSlots_get_of_mem {ks : List Nat} (hj : j ∈ ks) (h : (SMap.get Slot.init x.slots j).live = true) :
    SMap.get Slot.init (x.endSlots now code detail ks).slots j = (SMap.get Slot.init x.slots j).ended code detail now := by
  induction ks generalizing x with
  | nil => cases hj
  | cons k r ih =>
    by_cases e : j = k
    · have first : SMap.get Slot.init (x.endSlot now code detail k).slots j = (SMap.get Slot.init x.slots j).ended code detail now := by
        rw [Serv.endSlot_slots, ← e, if_pos h, SMap.get_set_self]
      exact (Serv.endSlots_get_of_not_live now code detail r (by rw [first]; rfl)).trans first
    · have first := Serv.endSlot_get_ne (x := x) now code detail e
      exact (ih ((List.mem_cons.1 hj).resolve_left e) (by rwa [first])).trans (by rw [first])

end

/-- The live slots of partition `p` in `m` have ended with this status in `m'`. -/
def SlotsEnded (m m' : SMap Slot) (p : Fin 32) (code detail : BitVec 8) : Prop :=
  ∀ k : Nat, k / 128 = p.val → (SMap.get Slot.init m' k).live = false ∧ ((SMap.get Slot.init m k).live = true →
    (SMap.get Slot.init m' k).status = some ⟨code, detail, (SMap.get Slot.init m k).handed⟩)

theorem State.endServ_ended (s : State) (p : Fin 32) (code detail : BitVec 8) :
    SlotsEnded s.slots (s.endServ [p] code detail).slots p code detail := by
  intro k hk
  refine ⟨s.endServ_not_live (List.mem_singleton_self p) code detail hk, fun live => ?_⟩
  have ended := Serv.endSlots_get_of_mem (x := s.serv) s.now code detail (State.mem_liveSlots (List.mem_singleton_self p) hk live) live
  exact congrArg Slot.status ended

end Sys2Proof.Machine
end

section
/-! SUPPORT. What the couch decides on an event (R404, R406, R526, R615), and what follows. -/

namespace Sys2Proof.Machine

/-! ### The decision -/

section
variable (c : Couch) (t : Option PTile)

/-- A named tile enters one list of the couch. -/
theorem Couch.name_eq : ∃ l, c.name t = { c with named := l } := by
  cases t with
  | none => exact ⟨c.named, rfl⟩
  | some t => exact ⟨_, rfl⟩

/-- The first event's status is all that an event writes before it is judged. -/
theorem Couch.noted_eq (k : NoticeKind) : ∃ l f, (c.name t).note k = { c with named := l, first := f } := by
  obtain ⟨l, hl⟩ := c.name_eq t
  unfold Couch.note
  rw [hl]
  split
  · exact ⟨l, c.first, rfl⟩
  · exact ⟨l, _, rfl⟩

variable (tag : Option (BitVec 16))

/-- The first recoverable event of a step. -/
theorem Couch.judged_attempt (hg : c.gap = false) (hr : c.replayed = false) (hd : c.replayDue = false) :
    ((c.name t).note .recoverable).judged .recoverable tag = .attempt tag := by
  obtain ⟨l, f, h⟩ := c.noted_eq t .recoverable
  rw [h]
  simp [Couch.judged, NoticeKind.bySupervisor, NoticeKind.replayable, hg, hr, hd]

/-- One after the replay. -/
theorem Couch.judged_second (hg : c.gap = false) (hr : c.replayed = true) :
    ((c.name t).note .recoverable).judged .recoverable tag = .end_ 5 1 true := by
  obtain ⟨l, f, h⟩ := c.noted_eq t .recoverable
  rw [h]
  simp [Couch.judged, Couch.code, NoticeKind.bySupervisor, NoticeKind.replayable, NoticeKind.environment, NoticeKind.status, hg, hr]

/-- Events that are not replayed. -/
theorem Couch.judged_fatal {k : NoticeKind} (hk : k = .program ∨ k = .hardware) :
    ((c.name t).note k).judged k tag = .end_ k.status.1 k.status.2 false := by
  rcases hk with rfl | rfl <;>
    simp [Couch.judged, Couch.code, NoticeKind.bySupervisor, NoticeKind.replayable, NoticeKind.environment]

/-- A site's reset or its site-off in a step has the status of the step's first event (R526). -/
theorem Couch.judged_site {k : NoticeKind} (hk : k = .thermalEnd ∨ k = .supplyEnd) (hg : c.gap = false) :
    ((c.name t).note k).judged k tag = .end_ (c.first.getD k.status.1) k.status.2 false := by
  obtain ⟨l, hl⟩ := c.name_eq t
  rw [hl]
  rcases hk with rfl | rfl <;>
    simp [Couch.judged, Couch.code, Couch.note, NoticeKind.bySupervisor, NoticeKind.replayable, NoticeKind.environment, hg]

/-- In the gap it ends the slots outside R406 (R615). -/
theorem Couch.judged_gap {k : NoticeKind} (hk : k = .thermalEnd ∨ k = .supplyEnd) (hg : c.gap = true) :
    ((c.name t).note k).judged k tag = .endGap k.status.1 k.status.2 := by
  obtain ⟨l, f, h⟩ := c.noted_eq t k
  rw [h]
  rcases hk with rfl | rfl <;> simp [Couch.judged, NoticeKind.bySupervisor, NoticeKind.replayable, hg]

end

/-! ### What follows -/

section
variable {s : State} {p : Fin 32} {n : Notice} {code detail : BitVec 8} (ho : (s.part p).open_ = true) (hd : (s.part p).resetDue = false)
include ho hd

/-- An event of a step calls for a replay. -/
theorem State.judge_attempt {r : Option (BitVec 16)} (hj : (((s.part p).couch.name n.tile).note n.kind).judged n.kind
      (if n.kind = .recoverable then some n.tag else s.highestTag p) = .attempt r) :
    s.judge p n = s.setPart p { s.part p with couch := (((s.part p).couch.name n.tile).note n.kind).attempt n.kind r } := by
  unfold State.judge
  dsimp only
  rw [if_neg (by rw [ho, hd]; nofun), hj]

/-- An event ends the slots; a record says that a replay was spent. -/
theorem State.judge_end {second : Bool} (hj : (((s.part p).couch.name n.tile).note n.kind).judged n.kind
      (if n.kind = .recoverable then some n.tag else s.highestTag p) = .end_ code detail second) :
    ∃ b, s.judge p n =
      { (s.setPart p { s.part p with couch := ((s.part p).couch.name n.tile).note n.kind }).endStep p code detail with bbx := b } := by
  unfold State.judge
  dsimp only
  rw [if_neg (by rw [ho, hd]; nofun), hj]
  exact ⟨_, rfl⟩

/-- An event in the gap ends the slots outside a step. -/
theorem State.judge_endGap (hj : (((s.part p).couch.name n.tile).note n.kind).judged n.kind
      (if n.kind = .recoverable then some n.tag else s.highestTag p) = .endGap code detail) :
    s.judge p n = s.endOutside p code detail := by
  unfold State.judge
  dsimp only
  rw [if_neg (by rw [ho, hd]; nofun), hj]

end

end Sys2Proof.Machine
end

section
/-! O42: events, replays and stage overruns (R269, R320, R326, R401–R407, R526, R615). -/

namespace Sys2Proof.Machine

/-! ### Notices -/

section
variable (s : State) {p : Fin 32} (code detail : BitVec 8)

theorem State.endStep_effect : ((s.endStep p code detail).part p).resetDue = true ∧ ((s.endStep p code detail).part p).couch.released = true ∧
    ((s.endStep p code detail).part p).couch.replayDue = (s.part p).couch.replayDue ∧
    ((s.endStep p code detail).part p).ended = satAdd (s.part p).ended (s.liveCount p) ∧
    SlotsEnded s.slots (s.endStep p code detail).slots p code detail := by
  have part : (s.endStep p code detail).part p = { (s.part p).reset' with ended := satAdd (s.part p).ended (s.liveCount p) } :=
    SMap.get_set_self ..
  rw [part]
  exact ⟨rfl, rfl, rfl, rfl, s.endServ_ended p code detail⟩

theorem State.endStep_part_ne {r : Fin 32} (h : r ≠ p) : (s.endStep p code detail).part r = s.part r :=
  SMap.get_set_ne _ _ _ fun e => h (Fin.ext e)

theorem State.endOutside_effect : ((s.endOutside p code detail).part p).resetDue = true ∧
    ((s.endOutside p code detail).part p).ended = (s.part p).ended ∧ SlotsEnded s.slots (s.endOutside p code detail).slots p code detail := by
  have part : (s.endOutside p code detail).part p = (s.part p).reset' := SMap.get_set_self ..
  rw [part]
  exact ⟨rfl, rfl, s.endServ_ended p code detail⟩

theorem State.endOutside_part_ne {r : Fin 32} (h : r ≠ p) : (s.endOutside p code detail).part r = s.part r :=
  SMap.get_set_ne _ _ _ fun e => h (Fin.ext e)

end

/-- A notice for one partition reaches its couch. -/
theorem exec_faultNotice {s : State} {p : Fin 32} {n : Notice} (hl : n.link = none) (hs : n.site = none)
    (hr : s.net.ready (·.isNotice p n) = true) : ∃ m, exec (.faultNotice p n) s = .next (({ s with net := m } : State).judge p n) := by
  have step : exec (.faultNotice p n) s = .next ((({ s with net := s.net.drop fun f => f.arrived s.net.supAt && f.isNotice p n } :
      State).warned n).judgeAll n (s.concerns p n)) := congrArg Host.Outcome.next (if_pos hr)
  rw [step, State.warned, State.concerns, hs, hl]
  exact ⟨_, rfl⟩

section
variable {s : State} {p : Fin 32} {n : Notice} (ho : (s.part p).open_ = true) (hd : (s.part p).resetDue = false) (hl : n.link = none)
  (hs : n.site = none) (hr : s.net.ready (·.isNotice p n) = true)
include ho hd hl hs hr

/-- The first recoverable event of a step (R404). -/
theorem faultNotice_clause_attempt (hk : n.kind = .recoverable) (hg : (s.part p).couch.gap = false) (hp : (s.part p).couch.replayed = false)
    (hq : (s.part p).couch.replayDue = false) : Completes (.faultNotice p n) s fun u =>
      (u.part p).couch.replayDue = true ∧ (u.part p).couch.replayTag = some n.tag ∧ (u.part p).resetDue = false ∧ u.slots = s.slots ∧
      u.tiles = s.tiles ∧ u.sems = s.sems := by
  obtain ⟨m, hx⟩ := exec_faultNotice hl hs hr
  have judged := Couch.judged_attempt (s.part p).couch n.tile (some n.tag) hg hp hq
  refine .of_next hx ?_
  rw [State.judge_attempt (s := { s with net := m }) ho hd (by rw [hk]; exact judged), State.part_setPart]
  exact ⟨rfl, rfl, hd, rfl, rfl, rfl⟩

/-- An event that ends the step's slots, with a PARTITION reset to follow (R406). -/
theorem faultNotice_clause_end {code detail : BitVec 8} {second : Bool}
    (hj : ∀ tag, (((s.part p).couch.name n.tile).note n.kind).judged n.kind tag = .end_ code detail second) :
    Completes (.faultNotice p n) s fun u =>
      (u.part p).resetDue = true ∧ (u.part p).couch.released = true ∧ (u.part p).couch.replayDue = (s.part p).couch.replayDue ∧
      (u.part p).ended = satAdd (s.part p).ended (s.liveCount p) ∧ u.tiles = s.tiles ∧ u.sems = s.sems ∧
      SlotsEnded s.slots u.slots p code detail ∧ ∀ r : Fin 32, r ≠ p → u.part r = s.part r := by
  obtain ⟨m, hx⟩ := exec_faultNotice hl hs hr
  obtain ⟨b, judged⟩ := State.judge_end (s := { s with net := m }) ho hd (hj _)
  have same : (((s.part p).couch.name n.tile).note n.kind).replayDue = (s.part p).couch.replayDue := by
    obtain ⟨l, f, noted⟩ := (s.part p).couch.noted_eq n.tile n.kind
    rw [noted]
  have written := State.part_setPart { s with net := m } p { s.part p with couch := ((s.part p).couch.name n.tile).note n.kind }
  obtain ⟨due, released, replayDue, ended, slots⟩ := State.endStep_effect (p := p) (({ s with net := m } : State).setPart p
    { s.part p with couch := ((s.part p).couch.name n.tile).note n.kind }) code detail
  rw [written] at replayDue ended
  rw [judged] at hx
  refine .of_next hx ⟨due, released, replayDue.trans same, ended, rfl, rfl, slots, fun r h => ?_⟩
  exact (State.endStep_part_ne _ code detail h).trans (State.part_setPart_ne _ _ h)

/-- A site's reset or its site-off in the gap (R524, R533, R615). -/
theorem faultNotice_clause_gap (hk : n.kind = .thermalEnd ∨ n.kind = .supplyEnd) (hg : (s.part p).couch.gap = true) :
    Completes (.faultNotice p n) s fun u =>
      (u.part p).resetDue = true ∧ (u.part p).ended = (s.part p).ended ∧ u.tiles = s.tiles ∧
      SlotsEnded s.slots u.slots p n.kind.status.1 n.kind.status.2 ∧ ∀ r : Fin 32, r ≠ p → u.part r = s.part r := by
  obtain ⟨m, hx⟩ := exec_faultNotice hl hs hr
  have judged := fun tag => Couch.judged_gap (s.part p).couch n.tile tag hk hg
  rw [State.judge_endGap (s := { s with net := m }) ho hd (judged _)] at hx
  obtain ⟨due, ended, slots⟩ := State.endOutside_effect (p := p) { s with net := m } n.kind.status.1 n.kind.status.2
  exact .of_next hx ⟨due, ended, rfl, slots, fun r h => State.endOutside_part_ne _ _ _ h⟩

end

/-! ### Replays -/

/-- The step's last report is in, and no replay is due. -/
theorem State.stepOver_gap {s : State} {p : Fin 32} (h : (s.part p).couch.reports.length = (s.tilesOf p).length ∧ (s.part p).couch.replayDue = false) :
    ((s.stepOver p).part p).couch = { (s.part p).couch with gap := true } ∧ ((s.stepOver p).part p).replays = (s.part p).replays ∧
    (s.stepOver p).slots = s.slots ∧ (s.stepOver p).tiles = s.tiles ∧ (s.stepOver p).sems = s.sems := by
  unfold State.stepOver
  dsimp only
  rw [if_pos h, State.part, SMap.get_set_self]
  exact ⟨rfl, rfl, rfl, rfl, rfl⟩

theorem exec_stageReplay {s : State} {p : Fin 32} (h : s.mayReplay p = true) : exec (.stageReplay p) s = .next (s.replay p) :=
  congrArg Host.Outcome.next (if_pos h)

/-- A step in which no stage has begun has nothing to replay: it ends. -/
theorem stageReplay_clause_none {s : State} {p : Fin 32} (hm : s.mayReplay p = true) (hr : s.replayStage p = none) :
    Completes (.stageReplay p) s fun u =>
      (u.part p).couch.replayDue = false ∧ (u.part p).couch.gap = true ∧ (u.part p).replays = (s.part p).replays ∧ u.slots = s.slots ∧
      u.tiles = s.tiles ∧ u.sems = s.sems := by
  have reports : (s.part p).couch.reports.length = (s.tilesOf p).length := by
    rw [State.mayReplay, hr] at hm
    simpa using (Bool.and_eq_true_iff.1 hm).2
  have written := State.part_setPart s p { s.part p with couch := { (s.part p).couch with replayDue := false } }
  obtain ⟨couch, replays, slots, tiles, sems⟩ := State.stepOver_gap
    (s := s.setPart p { s.part p with couch := { (s.part p).couch with replayDue := false } }) (p := p) ⟨by rw [written]; exact reports, by rw [written]⟩
  rw [written] at couch replays
  have step : exec (.stageReplay p) s = .next
      ((s.setPart p { s.part p with couch := { (s.part p).couch with replayDue := false } }).stepOver p) := by
    rw [exec_stageReplay hm, State.replay, hr]
  exact .of_next step ⟨by rw [couch], by rw [couch], replays, slots, tiles, sems⟩

/-- What a restart leaves of a tile. -/
structure Tile.KeptAtReplay (y z : Tile) : Prop where
  ckpt : z.sc.ckpt = y.sc.ckpt
  halted : z.sc.halted = y.sc.halted
  mem : z.mem = y.mem
  vec : z.vec = y.vec
  fatal : z.rp.rep.fatal = y.rp.rep.fatal

/-- Tile `z` stands at the checkpoint of tile `y`, its commands discarded and the marks of its stage cleared (R320, R405). -/
structure Tile.Rewound (y z : Tile) : Prop extends y.KeptAtReplay z where
  pc : z.sc.pc = y.sc.ckpt.pc
  regs : z.sc.regs = y.sc.ckpt.regs
  stagecnt : z.sc.stagecnt = y.sc.ckpt.stagecnt
  qdone : z.sc.qdone = y.sc.ckpt.qdone
  wait : z.sc.wait = .none
  queues : z.mq = [] ∧ z.vq = [] ∧ z.lq = [] ∧ z.dq = [] ∧ z.sq = []
  recov : z.rp.rep.recov = []

theorem Tile.KeptAtReplay.restart {y x : Tile} (h : y.KeptAtReplay x) : y.Rewound x.restart :=
  ⟨⟨h.ckpt, h.halted, h.mem, h.vec, h.fatal⟩, congrArg Ckpt.pc h.ckpt, congrArg Ckpt.regs h.ckpt, congrArg Ckpt.stagecnt h.ckpt,
    congrArg Ckpt.qdone h.ckpt, rfl, ⟨rfl, rfl, rfl, rfl, rfl⟩, rfl⟩

/-- A restored entry takes SNAP where R270 was kept (R269). -/
theorem Sem.restored_eq {e : Sem} (h : e.mixed = false) (nonce k : Nat) : e.restored nonce k = { e with value := e.snap } := by
  rw [Sem.restored, h]
  rfl

theorem get_restoreSems (m : SMap Sem) (p : Fin 32) (r : BitVec 16) (nonce k : Nat) : SMap.get Sem.unowned (restoreSems m p r nonce) k =
    if (SMap.get Sem.unowned m k).restores p r then (SMap.get Sem.unowned m k).restored nonce k else SMap.get Sem.unowned m k := by
  have unowned : Sem.unowned.restores p r = false := by
    have other : Sem.unowned.owner.toNat ≠ p.val := fun e => by have := p.isLt; change 63 = _ at e; omega
    rw [Sem.restores, beq_eq_false_iff_ne.2 other]
    rfl
  exact SMap.get_mapVals_of_default (f := fun k (e : Sem) => if e.restores p r then e.restored nonce k else e)
    (fun _ => if_neg (by rw [unowned]; nofun)) m k

/-- Restored entries change a partition in its audit sums alone (R273). -/
theorem addAudit_field {α : Type} (g : Part → α) (h : ∀ x a, g { x with auditSum := a } = g x) (m : SMap Part) (owner : BitVec 6)
    (site : Fin 64) (d : Word) (k : Nat) : g (SMap.get Part.init (addAudit m owner site d) k) = g (SMap.get Part.init m k) := by
  unfold addAudit
  split
  · rw [SMap.get_set]
    split
    next e => rw [h, e]
    next => rfl
  · rfl

theorem restoreAudit_field {α : Type} (g : Part → α) (h : ∀ x a, g { x with auditSum := a } = g x) (m : SMap Sem) (p : Fin 32) (r : BitVec 16)
    (nonce : Nat) (parts : SMap Part) (k : Nat) :
    g (SMap.get Part.init (restoreAudit m p r nonce parts) k) = g (SMap.get Part.init parts k) := by
  unfold restoreAudit
  generalize m.filter _ = l
  induction l generalizing parts with
  | nil => rfl
  | cons e l ih => exact (ih _).trans (addAudit_field g h ..)

/-- The replay of stage `r` (R269, R405). -/
theorem stageReplay_clause_some {s : State} {p : Fin 32} {r : BitVec 16} (hm : s.mayReplay p = true) (hr : s.replayStage p = some r) :
    Completes (.stageReplay p) s fun u =>
      (u.part p).replays = satAdd (s.part p).replays 1 ∧ (u.part p).couch.replayDue = false ∧ (u.part p).couch.replayed = true ∧
      (∀ t : PTile, t.key ∈ s.stopped p r → (s.tile t).Rewound (u.tile t)) ∧ (∀ t : PTile, t.key ∉ s.stopped p r → u.tile t = s.tile t) ∧
      (∀ (site : Fin 64) (i : BitVec 10), u.sem site i = if (s.sem site i).restores p r then
        (s.sem site i).restored s.nonce (site.val * 1024 + i.toNat) else s.sem site i) ∧
      (∀ w ∈ u.waiters, w.part ≠ p) ∧ (∀ d ∈ u.deferred, d.part = p → semTag d.word ≠ r) ∧ u.slots = s.slots := by
  refine .of_next (exec_stageReplay hm) ?_
  rw [State.replay, hr]
  dsimp only
  rw [State.replayOf]
  obtain ⟨fs, b, only⟩ := State.semUes_only (s := _) (l := uncorrectableSems s.sems (fun _ e => e.restores p r) (some p))
  rw [only]
  refine ⟨(congrArg Part.replays (SMap.get_set_self ..)).trans (congrArg (satAdd · 1) (restoreAudit_field Part.replays (fun _ _ => rfl) ..)),
    congrArg (fun y : Part => y.couch.replayDue) (SMap.get_set_self ..), congrArg (fun y : Part => y.couch.replayed) (SMap.get_set_self ..), fun t ht => ?_, fun t ht => ?_,
    fun site i => get_restoreSems .., fun w hw => ?_, fun d hd hp ht => ?_, rfl⟩
  · exact SMap.modifyAll_prop (P := (s.tile t).Rewound) (fun _ _ h => h.restart) (fun _ h => h.toKeptAtReplay) ht ⟨rfl, rfl, rfl, rfl, rfl⟩
  · exact SMap.get_modifyAll_of_not_mem _ _ ht _
  · exact bne_iff_ne.1 (List.mem_filter.1 hw).2
  · have kept := (List.mem_filter.1 hd).2
    rw [hp, ht, beq_self_eq_true, beq_self_eq_true] at kept
    cases kept

/-! ### Overruns -/

/-- R326, R327: a stage past its budget. -/
theorem stageOverrun_clause {s : State} {t : PTile} (ho : (s.tile t).clk.overrun = true)
    (hl : (s.tile t).rp.logged.contains evtStageOverrun = false) : Completes (.stageOverrun t) s fun u =>
      (u.tile t).rp.rep.timing = true ∧ evtStageOverrun ∈ (u.tile t).rp.logged ∧
      (u.tile t).rp.rep.fatal = (s.tile t).rp.rep.fatal ∧ (u.tile t).rp.rep.recov = (s.tile t).rp.rep.recov ∧
      (u.tile t).sc = (s.tile t).sc ∧ (u.tile t).mem = (s.tile t).mem ∧ ∀ r : PTile, r ≠ t → u.tile r = s.tile r := by
  have step : exec (.stageOverrun t) s = .next (s.commit t (
      let g := (Fx.ofTile (s.tile t)).raise ⟨t, s⟩ 0 evtStageOverrun (BitVec.ofNat 64 ((s.tile t).sc.pc.toNat * 2 ^ 32 + (s.tile t).sc.slip1a.toNat))
        .none true
      g.set { g.tile with rp := { g.tile.rp with rep := { g.tile.rp.rep with timing := true } } })) := by
    simp only [exec, execStageOverrun, ho, hl]
    rfl
  refine .of_next step ?_
  rw [State.tile_commit]
  refine ⟨rfl, ?_, rfl, rfl, rfl, rfl, fun r h => State.tile_commit_ne s _ h⟩
  simp only [Fx.set, Fx.raise]
  rw [Fx.ofTile, hl]
  exact List.mem_append_right _ (List.mem_singleton_self _)

/-- Settles O42: a notice by what the couch decides on it, a replay by its stage, and a stage past its budget. -/
theorem eventsAndReplays : Obligations.EventsAndReplays := by
  unfold Obligations.EventsAndReplays
  intro s p n x c ends
  refine ⟨fun ho hd hl hs hr => ?_, stageReplay_clause_none, fun r hm hr => ?_, fun t => stageOverrun_clause⟩
  · have ended {code detail : BitVec 8} {second : Bool}
        (hj : ∀ tag, ((c.name n.tile).note n.kind).judged n.kind tag = .end_ code detail second) : ends code detail :=
      faultNotice_clause_end ho hd hl hs hr hj
    refine ⟨faultNotice_clause_attempt ho hd hl hs hr, fun hk hg hp => ended (second := true) ?_, fun hk => ended (second := false) ?_,
      fun hk => ended (second := false) ?_, fun hk hg => ended (second := false) ?_, fun hk hg => ended (second := false) ?_, fun hk hg => ?_⟩
    · rw [hk]
      exact fun tag => c.judged_second n.tile tag hg hp
    · rw [hk]
      exact fun tag => c.judged_fatal n.tile tag (.inl rfl)
    · rw [hk]
      exact fun tag => c.judged_fatal n.tile tag (.inr rfl)
    · rw [hk]
      exact fun tag => c.judged_site n.tile tag (.inl rfl) hg
    · rw [hk]
      exact fun tag => c.judged_site n.tile tag (.inr rfl) hg
    · have status : n.kind.status = (if n.kind = .thermalEnd then 6 else 7, 0) := by
        rcases hk with h | h <;> rw [h] <;> rfl
      have gap := faultNotice_clause_gap ho hd hl hs hr hk hg
      rwa [status] at gap
  · obtain ⟨u, hu, replays, due, replayed, rewound, others, sems, waiters, deferred, slots⟩ := stageReplay_clause_some hm hr
    refine ⟨u, hu, replays, due, replayed, fun t ht => ?_, others, fun site i => ⟨fun h hmix => ?_, fun h => ?_⟩, waiters, deferred, slots⟩
    · have z := rewound t ht
      obtain ⟨mq, vq, lq, dq, sq⟩ := z.queues
      exact ⟨z.pc, z.regs, z.stagecnt, z.qdone, z.wait, z.halted, mq, vq, lq, dq, sq, z.mem, z.vec, z.recov, z.fatal⟩
    · rw [sems, if_pos h, Sem.restored_eq hmix]
    · rw [sems, if_neg (by rw [h]; nofun)]

end Sys2Proof.Machine
end

section
/-! SUPPORT. The operators of the scalar core's functions (R288, R289) in integer arithmetic. -/

namespace Sys2Proof.Machine

section
variable (a b : Word)

theorem word_add_eq : a + b = BitVec.ofNat 32 (a.toNat + b.toNat) := BitVec.eq_of_toNat_eq (by simp)

theorem word_sub_eq : a - b = BitVec.ofInt 32 (a.toInt - b.toInt) := by
  exact BitVec.eq_of_toInt_eq (by rw [BitVec.toInt_sub, BitVec.toInt_ofInt])

theorem word_mul_eq : a * b = BitVec.ofNat 32 (a.toNat * b.toNat) := BitVec.eq_of_toNat_eq (by simp)

theorem word_shiftLeft_eq (n : Nat) : a <<< n = BitVec.ofNat 32 (a.toNat * 2 ^ n) :=
  BitVec.eq_of_toNat_eq (by simp [Nat.shiftLeft_eq])

theorem word_shiftRight_eq (n : Nat) : a >>> n = BitVec.ofNat 32 (a.toNat / 2 ^ n) := by
  rw [← Nat.shiftRight_eq_div_pow, ← BitVec.toNat_ushiftRight, BitVec.ofNat_toNat, BitVec.setWidth_eq]

theorem word_sshiftRight_eq (n : Nat) : a.sshiftRight n = BitVec.ofInt 32 (a.toInt / 2 ^ n) := by
  rw [BitVec.sshiftRight, Int.shiftRight_eq_div_pow]
  norm_cast

theorem b2w_decide (p : Prop) [Decidable p] : b2w (decide p) = if p then 1 else 0 := by
  by_cases h : p <;> simp [b2w, h]

theorem b2w_slt : b2w (a.slt b) = if a.toInt < b.toInt then 1 else 0 := b2w_decide _

theorem b2w_ult : b2w (a.ult b) = if a.toNat < b.toNat then 1 else 0 := b2w_decide _

/-- The choice of the smaller of two words by a signed comparison, and of the larger. -/
theorem word_min_eq : (if a.slt b then a else b) = BitVec.ofInt 32 (min a.toInt b.toInt) := by
  simp only [BitVec.slt_iff_toInt_lt]
  split
  next h => rw [min_eq_left h.le, BitVec.ofInt_toInt]
  next h => rw [min_eq_right (not_lt.1 h), BitVec.ofInt_toInt]

theorem word_max_eq : (if a.slt b then b else a) = BitVec.ofInt 32 (max a.toInt b.toInt) := by
  simp only [BitVec.slt_iff_toInt_lt]
  split
  next h => rw [max_eq_right h.le, BitVec.ofInt_toInt]
  next h => rw [max_eq_left (not_lt.1 h), BitVec.ofInt_toInt]

theorem word_minu_eq : (if a.ult b then a else b) = BitVec.ofNat 32 (min a.toNat b.toNat) := by
  simp only [BitVec.ult_iff_toNat_lt]
  split
  next h => rw [min_eq_left h.le, BitVec.ofNat_toNat, BitVec.setWidth_eq]
  next h => rw [min_eq_right (not_lt.1 h), BitVec.ofNat_toNat, BitVec.setWidth_eq]

theorem word_maxu_eq : (if a.ult b then b else a) = BitVec.ofNat 32 (max a.toNat b.toNat) := by
  simp only [BitVec.ult_iff_toNat_lt]
  split
  next h => rw [max_eq_right h.le, BitVec.ofNat_toNat, BitVec.setWidth_eq]
  next h => rw [max_eq_left (not_lt.1 h), BitVec.ofNat_toNat, BitVec.setWidth_eq]

end

theorem sext16_toInt (i : BitVec 16) : (sext16 i).toInt = i.toInt := BitVec.toInt_signExtend_of_le (by omega)

theorem zeroExtend_eq_ofNat {w : Nat} (x : BitVec w) : x.zeroExtend 32 = BitVec.ofNat 32 x.toNat := (BitVec.ofNat_toNat ..).symm

theorem zext16_eq (i : BitVec 16) : zext16 i = BitVec.ofNat 32 i.toNat := zeroExtend_eq_ofNat i

theorem branchTo_eq (pc : BitVec 16) (off : Int) : branchTo pc off = BitVec.ofInt 16 (pc.toInt + 4 * off) := by
  rw [BitVec.ofInt_add, BitVec.ofInt_toInt, branchTo]

/-- The word that JAL and JALR write to `rd` (R288). -/
theorem link_eq (pc : BitVec 16) : (pc + 4).zeroExtend 32 = BitVec.ofNat 32 ((pc.toNat + 4) % 2 ^ 16) :=
  BitVec.eq_of_toNat_eq (by simp)

end Sys2Proof.Machine
end

section
/-! O3: the functions of the ALU. -/

namespace Sys2Proof.Machine

/-- Settles O3: each function is `State.alu` with its operator. -/
theorem aluWrites : Obligations.AluWrites := by
  unfold Obligations.AluWrites
  intro s t rd ra rb h a b writes
  have wrote {i : Instr} {lat : Nat} {op : Word → Word → Word} {v : Word} (hx : exec i s = .next (s.alu t rd ra rb lat op))
      (hv : op a b = v) : writes i v := .of_next hx (hv ▸ State.alu_wrote h lat op)
  exact ⟨wrote rfl (word_add_eq a b), wrote rfl (word_sub_eq a b), wrote rfl rfl, wrote rfl rfl, wrote rfl rfl,
    wrote rfl (word_shiftLeft_eq a _), wrote rfl (word_shiftRight_eq a _), wrote rfl (word_sshiftRight_eq a _),
    wrote rfl (b2w_slt a b), wrote rfl (b2w_ult a b), wrote rfl (word_mul_eq a b), wrote rfl rfl,
    wrote rfl (word_min_eq a b), wrote rfl (word_max_eq a b), wrote rfl (word_minu_eq a b), wrote rfl (word_maxu_eq a b)⟩

end Sys2Proof.Machine
end

section
/-! O4: the register-immediate instructions. -/

namespace Sys2Proof.Machine

/-- The three kinds of shift of an SHI that is not reserved, by imm16[6:5]. -/
theorem shiOp_eq (imm : BitVec 16) (a : Word) :
    (imm.toNat < 32 → shiOp imm a = BitVec.ofNat 32 (a.toNat * 2 ^ imm.toNat)) ∧
    (32 ≤ imm.toNat → imm.toNat < 64 → shiOp imm a = BitVec.ofNat 32 (a.toNat / 2 ^ (imm.toNat - 32))) ∧
    (64 ≤ imm.toNat → imm.toNat < 96 → shiOp imm a = BitVec.ofInt 32 (a.toInt / 2 ^ (imm.toNat - 64))) := by
  unfold shiOp
  refine ⟨fun h => ?_, fun h h' => ?_, fun h h' => ?_⟩
  · rw [show imm.toNat / 32 % 4 = 0 by omega, Nat.mod_eq_of_lt h]
    exact word_shiftLeft_eq ..
  · rw [show imm.toNat / 32 % 4 = 1 by omega, show imm.toNat % 32 = imm.toNat - 32 by omega]
    exact word_shiftRight_eq ..
  · rw [show imm.toNat / 32 % 4 = 2 by omega, show imm.toNat % 32 = imm.toNat - 64 by omega]
    exact word_sshiftRight_eq ..

/-- An SHI whose fields are not reserved. -/
theorem exec_shi {t : PTile} {rd ra : Reg} {imm : BitVec 16} {s : State} (h : imm.toNat < 96) :
    exec (.shi t rd ra imm) s = .next (s.aluImm t rd ra (shiOp imm)) := by
  refine congrArg Host.Outcome.next (if_neg ?_)
  omega

/-- A LUI with ra = 0. -/
theorem exec_lui (t : PTile) (rd : Reg) (imm : BitVec 16) (s : State) :
    exec (.lui t rd 0 imm) s = .next (s.aluImm t rd 0 fun _ => zext16 imm <<< 16) := rfl

/-- Settles O4: each instruction is `State.aluImm` with its operator. -/
theorem immediateWrites : Obligations.ImmediateWrites := by
  unfold Obligations.ImmediateWrites
  intro s t rd ra imm h a writes
  have wrote {i : Instr} {op : Word → Word} {v : Word} (hx : exec i s = .next (s.aluImm t rd ra op)) (hv : op a = v) :
      writes i v := .of_next hx (hv ▸ State.aluImm_wrote h op)
  obtain ⟨left, right, arith⟩ := shiOp_eq imm a
  refine ⟨wrote rfl (add_sext16 a imm), wrote rfl (congrArg (a &&& ·) (zext16_eq imm)), wrote rfl (congrArg (a ||| ·) (zext16_eq imm)),
    wrote rfl (congrArg (a ^^^ ·) (zext16_eq imm)), wrote rfl ((b2w_slt a _).trans (by rw [sext16_toInt])), wrote rfl (b2w_ult a _),
    fun h0 => wrote (exec_shi (by omega)) (left h0), fun h0 h1 => wrote (exec_shi (by omega)) (right h0 h1),
    fun h0 h1 => wrote (exec_shi h1) (arith h0 h1), fun h0 => ?_⟩
  subst h0
  refine wrote (exec_lui t rd imm s) ?_
  rw [word_shiftLeft_eq, zext16_eq, BitVec.toNat_ofNat, Nat.mod_eq_of_lt (by omega)]

end Sys2Proof.Machine
end

section
/-! O8 and O9: branches and jumps. -/

namespace Sys2Proof.Machine

/-- Settles O8: each branch is `State.branch` with its comparison. -/
theorem branchesMove : Obligations.BranchesMove := by
  unfold Obligations.BranchesMove
  intro s t ra rb off h a b pc taken goes
  have moved {i : Instr} {cond : Word → Word → Bool} {npc : BitVec 16} (hx : exec i s = .next (s.branch t ra rb off cond))
      (hv : (if cond a b then taken else pc + 4) = npc) : goes i npc := by
    refine .of_next hx (hv ▸ ?_)
    have m := State.branch_moved h off cond
    rwa [branchTo_eq] at m
  refine ⟨moved rfl ?_, moved rfl ?_, moved rfl ?_, moved rfl ?_, moved rfl ?_, moved rfl ?_⟩
  · simp only [beq_iff_eq]
  · simp only [bne_iff_ne, ite_not]
  · simp only [BitVec.slt_iff_toInt_lt]
  · simp only [Bool.not_eq_true', ← Bool.not_eq_true, BitVec.slt_iff_toInt_lt, ite_not]
  · simp only [BitVec.ult_iff_toNat_lt]
  · simp only [Bool.not_eq_true', ← Bool.not_eq_true, BitVec.ult_iff_toNat_lt, ite_not]

/-- A jump that issues writes its link and goes to its target. -/
theorem State.jump_wrote {s : State} {t : PTile} {rs : List Reg} (h : Issues s t rs) (rd : Reg) (target : Tile → BitVec 16) :
    Wrote s (s.onTile t (s.canIssue t) fun c f => f.issue c rs fun g =>
        (g.result rd ((g.tile.sc.pc + 4).zeroExtend 32) 1).retire 3 (target g.tile))
      t rd (BitVec.ofNat 32 (((s.tile t).sc.pc.toNat + 4) % 2 ^ 16)) (target (s.tile t)) := by
  rw [State.issue_eq h fun _ g => (g.result rd ((g.tile.sc.pc + 4).zeroExtend 32) 1).retire 3 (target g.tile), ← link_eq]
  exact State.commit_wrote s t rd _ 1 3 _

/-- Settles O9: both jumps by the rule of a jump. -/
theorem jumpsLink : Obligations.JumpsLink := by
  unfold Obligations.JumpsLink
  intro s t rd ra off imm pc link
  refine ⟨fun h => .of_next rfl ?_, fun h => .of_next rfl ?_⟩
  · have w := State.jump_wrote h rd fun x => branchTo x.sc.pc off.toInt
    rwa [branchTo_eq] at w
  · have w := State.jump_wrote h rd fun x => BitVec.ofNat 16 ((x.sc.reg ra + sext16 imm).toNat / 4 * 4)
    rwa [add_sext16] at w

end Sys2Proof.Machine
end

section
/-! O10: the control and status registers. -/

namespace Sys2Proof.Machine

/-- A CSRR of a listed register writes the register's value. -/
theorem execCsrr_wrote {s : State} {t : PTile} {rd : Reg} (h : Issues s t [rd]) {imm : BitVec 16} (hn : imm.toNat < 16) {v : Word}
    (hv : (s.tile t).csr imm.toNat = some v) :
    Completes (.csrr t rd 0 imm) s fun u => Wrote s u t rd v ((s.tile t).sc.pc + 4) := by
  have legal : ¬ ((0 : Reg) ≠ 0 ∨ 16 ≤ imm.toNat) := by simpa using hn
  refine .of_next (u := s.commit t (Fx.ofTile (((s.tile t).wrote rd v 2).retired 1 ((s.tile t).sc.pc + 4)))) (congrArg Host.Outcome.next ?_)
    (State.commit_wrote s t rd v 2 1 _)
  simp only [if_neg legal]
  refine (State.issue_eq h _).trans (congrArg (s.commit t) ?_)
  simp only [Fx.ofTile, hv]
  rw [← Tile.wrote_pc _ rd v 2]
  rfl

/-- Two halfwords in one word. -/
theorem append_halves (hi lo : BitVec 16) : (hi ++ lo : Word) = BitVec.ofNat 32 (hi.toNat * 2 ^ 16 + lo.toNat) :=
  BitVec.eq_of_toNat_eq (by
    rw [BitVec.toNat_append, BitVec.toNat_ofNat, ← Nat.shiftLeft_add_eq_or_of_lt lo.isLt, Nat.shiftLeft_eq, Nat.mod_eq_of_lt (by omega)])

theorem extractLsb'_eq {w : Nat} (x : BitVec w) (lo n : Nat) : x.extractLsb' lo n = BitVec.ofNat n (x.toNat / 2 ^ lo) :=
  BitVec.eq_of_toNat_eq (by rw [BitVec.extractLsb'_toNat, BitVec.toNat_ofNat, Nat.shiftRight_eq_div_pow])

/-- The low word of a count. -/
theorem lowWord_eq {w : Nat} (x : BitVec w) : x.extractLsb' 0 32 = BitVec.ofNat 32 (x.toNat % 2 ^ 32) := by
  rw [extractLsb'_eq, pow_zero, Nat.div_one]
  exact BitVec.eq_of_toNat_eq (by simp)

/-- The high half of the cycle count. -/
theorem highCyc_eq (x : BitVec 48) : (x.extractLsb' 32 16).zeroExtend 32 = BitVec.ofNat 32 (x.toNat / 2 ^ 32) := by
  rw [extractLsb'_eq, zeroExtend_eq_ofNat, BitVec.toNat_ofNat, Nat.mod_eq_of_lt (by omega)]

/-- Settles O10: the listed registers of `Tile.csr`, each in the arithmetic of its fields. -/
theorem csrReads : Obligations.CsrReads := by
  unfold Obligations.CsrReads
  intro s t rd part h hp x sc free reads
  have read {n v : Nat} {w : Word} (hn : n < 16) (hw : w = BitVec.ofNat 32 v) (hv : x.csr n = some w) : reads n v := by
    have hi : (BitVec.ofNat 16 n).toNat = n := Nat.mod_eq_of_lt (by omega)
    exact execCsrr_wrote h (hi.symm ▸ hn) (by rw [hi, ← hw]; exact hv)
  refine ⟨read (by decide) (lowWord_eq sc.cyc) rfl, read (by decide) (highCyc_eq sc.cyc) rfl, read (by decide) (zeroExtend_eq_ofNat sc.stagecnt) rfl,
    read (by decide) (lowWord_eq sc.step) rfl, read (by decide) (extractLsb'_eq sc.step 32 32) rfl, read (by decide) ?_ rfl,
    read (by decide) (append_halves (sc.qd 1) (sc.qd 0)) rfl, read (by decide) (append_halves (sc.qd 3) (sc.qd 2)) rfl,
    read (by decide) (zeroExtend_eq_ofNat (sc.qd 4)) rfl, read (by decide) rfl rfl,
    read (by decide) (append_halves sc.slipsTotal sc.slipsStep) rfl, read (by decide) (BitVec.ofNat_toNat ..).symm rfl,
    read (by decide) (BitVec.ofNat_toNat ..).symm rfl, read (by decide) (zeroExtend_eq_ofNat sc.entry) rfl,
    read (by decide) (zeroExtend_eq_ofNat sc.bin) rfl, read (by decide) (zeroExtend_eq_ofNat sc.pressovf) rfl⟩
  rw [hp]

end Sys2Proof.Machine
end

section
/-! SUPPORT. Command faults of a word (R287): the step of the fault, and the instructions that take it. -/

namespace Sys2Proof.Machine

/-- The general registers read as the ones kept. -/
theorem Scalar.reg_of_regs {a b : Scalar} (h : b.regs = a.regs) (r : Reg) : b.reg r = a.reg r := by rw [Scalar.reg, h, Scalar.reg]

/-- The block after tile `t` has taken the command fault of the word `w` at its PC. -/
def State.faultAt (s : State) (t : PTile) (w : Nat) : State := s.commit t ((Fx.ofTile (s.tile t)).fault ⟨t, s⟩ w)

theorem State.faultAt_faulted (s : State) (t : PTile) (w : Nat) : Faulted s (s.faultAt t w) t := by
  constructor
  case event =>
    rw [State.faultAt, State.tile_commit]
    exact List.mem_append_right _ (List.mem_singleton_self _)
  case others => exact fun r hr => State.tile_commit_ne s _ hr
  all_goals
    rw [State.faultAt, State.tile_commit]
    intros
    rfl

theorem State.faultAt_queue (s : State) (t : PTile) (w : Nat) (k : Queue) : ((s.faultAt t w).tile t).queue k = (s.tile t).queue k := by
  rw [State.faultAt, State.tile_commit]
  cases k <;> rfl

/-- A system instruction with a reserved or unused field set (R290). -/
theorem State.sys_bad {s : State} {t : PTile} (h : Issues s t []) {bad : Bool} (hb : bad = true) (func : Nat) (f1 f2 f3 : Reg) (rs : List Reg)
    (go : Ctx → Fx → Fx) : s.sys t func f1 f2 f3 bad rs go = s.faultAt t (sysWord func f1 f2 f3) := by
  unfold State.sys
  simp only [hb, if_true]
  exact State.issue_eq h _

/-- A system instruction with the fields it must have. -/
theorem State.sys_good {s : State} {t : PTile} {rs : List Reg} (h : Issues s t rs) {bad : Bool} (hb : bad = false) (func : Nat) (f1 f2 f3 : Reg)
    (go : Ctx → Fx → Fx) : s.sys t func f1 f2 f3 bad rs go = s.commit t (go ⟨t, s⟩ (Fx.ofTile (s.tile t))) := by
  unfold State.sys
  simp only [hb, Bool.false_eq_true, if_false]
  exact State.issue_eq h go

/-- A queue command whose word is malformed is not written. -/
theorem State.enqueue_bad {s : State} {t : PTile} (h : Issues s t []) {k : Queue} {op : QOp} {f1 f2 f3 : Reg} {mod : BitVec 6}
    (hw : wordFault k op f1 f2 f3 mod = true) : s.enqueue t k op f1 f2 f3 mod = s.faultAt t (qWord k op f1 f2 f3 mod) := by
  unfold State.enqueue
  simp only [hw, if_true]
  exact State.issue_eq h _

/-- An access of an address that is no word of the scratchpad (R289). -/
theorem Fx.scrAccess_bad {addr : Word} (h : addr.toNat % 4 ≠ 0 ∨ 0x200000 ≤ addr.toNat) (f : Fx) (c : Ctx) (write : Bool) (word : Nat) (go : Fx → Fx) :
    f.scrAccess c write addr word go = f.fault c word := if_pos h

end Sys2Proof.Machine
end

section
/-! SUPPORT. The words that are no command (R287–R290, log entry 1), and a cycle of the aon clock at a core that stands at one. -/

namespace Sys2Proof.Machine

/-! ### Reserved words -/

theorem opcode_toNat (w : Word) : (w.extractLsb' 26 6).toNat = w.toNat / 2 ^ 26 := by
  rw [BitVec.extractLsb'_toNat, Nat.shiftRight_eq_div_pow, Nat.mod_eq_of_lt (by omega)]

theorem func_toNat (w : Word) : (w.extractLsb' 0 11).toNat = w.toNat % 2 ^ 11 := by
  rw [BitVec.extractLsb'_toNat, Nat.shiftRight_zero]

theorem aluOf_eq_none (t : PTile) {w : Word} (h : 16 ≤ w.toNat % 2 ^ 11) : aluOf t w = none := by
  rw [← func_toNat] at h
  unfold aluOf
  split
  case h_17 => rfl
  all_goals omega

theorem sysOf_eq_none (t : PTile) {w : Word} (h : 6 ≤ w.toNat % 2 ^ 11) : sysOf t w = none := by
  rw [← func_toNat] at h
  unfold sysOf
  split
  case h_7 => rfl
  all_goals omega

/-- The major opcodes of R288 that name an instruction, a group of functions or a queue. -/
def listedOpcodes : List Nat :=
  [0x01, 0x02, 0x03, 0x04, 0x05, 0x06, 0x07, 0x08, 0x0B, 0x0C, 0x0D, 0x10, 0x11, 0x12, 0x13, 0x14, 0x15, 0x16, 0x17, 0x18, 0x1A, 0x20, 0x21,
    0x22, 0x23, 0x24]

theorem insnOf_unlisted (t : PTile) {w : Word} (h : w.toNat / 2 ^ 26 ∉ listedOpcodes) : insnOf t w = none := by
  rw [← opcode_toNat] at h
  unfold insnOf
  split
  case h_27 => rfl
  all_goals
    next e =>
      rw [e] at h
      exact absurd (by decide) h

theorem insnOf_alu (t : PTile) {w : Word} (h : w.toNat / 2 ^ 26 = 1) : insnOf t w = aluOf t w := by
  rw [insnOf, opcode_toNat, h]
  rfl

theorem insnOf_sys (t : PTile) {w : Word} (h : w.toNat / 2 ^ 26 = 0x1A) : insnOf t w = sysOf t w := by
  rw [insnOf, opcode_toNat, h]
  rfl

/-- The opcodes between the listed ones, by their ranges. -/
theorem reserved_cases {w : Nat} (h : w / 2 ^ 26 = 0 ∨ w / 2 ^ 26 = 9 ∨ w / 2 ^ 26 = 0xA ∨ w / 2 ^ 26 = 0xE ∨ w / 2 ^ 26 = 0xF ∨
    w / 2 ^ 26 = 0x19 ∨ (0x1B ≤ w / 2 ^ 26 ∧ w / 2 ^ 26 ≤ 0x1F) ∨ 0x25 ≤ w / 2 ^ 26 ∨
    (w / 2 ^ 26 = 1 ∧ 16 ≤ w % 2 ^ 11) ∨ (w / 2 ^ 26 = 0x1A ∧ 6 ≤ w % 2 ^ 11)) :
    w / 2 ^ 26 ∉ listedOpcodes ∨ (w / 2 ^ 26 = 1 ∧ 16 ≤ w % 2 ^ 11) ∨ (w / 2 ^ 26 = 0x1A ∧ 6 ≤ w % 2 ^ 11) := by
  simp only [listedOpcodes, List.mem_cons, List.not_mem_nil, or_false]
  omega

/-- A word whose major opcode, or whose ALU or SYS func, is not listed. -/
theorem insnOf_reserved (t : PTile) {w : Word} (h : w.toNat / 2 ^ 26 ∉ listedOpcodes ∨ (w.toNat / 2 ^ 26 = 1 ∧ 16 ≤ w.toNat % 2 ^ 11) ∨
    (w.toNat / 2 ^ 26 = 0x1A ∧ 6 ≤ w.toNat % 2 ^ 11)) : insnOf t w = none := by
  rcases h with h | ⟨h, hf⟩ | ⟨h, hf⟩
  · exact insnOf_unlisted t h
  · rw [insnOf_alu t h, aluOf_eq_none t hf]
  · rw [insnOf_sys t h, sysOf_eq_none t hf]

/-! ### What settles at the end of a cycle leaves the tiles but for the sharing of dies -/

namespace SameButShared

theorem foldl {α : Type} {f : State → α → State} (hf : ∀ (s : State) a, SameButShared s.tiles (f s a).tiles) (l : List α) (s : State) :
    SameButShared s.tiles (l.foldl f s).tiles := by
  induction l generalizing s with
  | nil => exact .refl _
  | cons a r ih => exact (hf s a).trans (ih _)

end SameButShared

namespace State

theorem endInstall_sameButShared (s : State) (p : Fin 32) : SameButShared s.tiles (s.endInstall p).tiles := by
  have answered (u : State) (n : Option Nat) (f : Frame) : (u.answerSome n f).tiles = u.tiles := by cases n <;> rfl
  unfold State.endInstall
  split
  · exact .refl _
  · split
    · rw [answered]
      exact (rebin_tidy (s.setPart p (s.part p).programmed) p).tiles
    · exact .refl _

theorem openPart_sameButShared (s : State) (p : Fin 32) : SameButShared s.tiles (s.openPart p).tiles := by
  have written (u : State) : (u.writeTables p).tiles = u.tiles := rfl
  rw [openPart_eq, written]
  exact (gapWork_tidy (s.opened p) p).tiles

theorem openReady_sameButShared (l : List (Fin 32)) (s : State) : SameButShared s.tiles (s.openReady l).tiles := by
  induction l generalizing s with
  | nil => exact .refl _
  | cons p r ih =>
    rw [openReady]
    split
    · exact (s.openPart_sameButShared p).trans (ih _)
    · exact ih s

theorem openAll_sameButShared (s : State) : SameButShared s.tiles s.openAll.tiles := by
  unfold State.openAll
  dsimp only
  split
  · exact openReady_sameButShared _ s
  · exact openReady_sameButShared _ s

theorem startLoads_sameButShared (s : State) : SameButShared s.tiles s.startLoads.tiles :=
  .foldl (f := fun s p => s.setLoad p ((s.part p).load.next (s.swapOf p) s.now)) (fun s _ => .refl s.tiles) _ s

theorem settleStart_sameButShared (s : State) : SameButShared s.tiles s.settleStart.tiles := by
  have ended : SameButShared s.tiles (s.furnished.foldl State.endInstall s).tiles := .foldl endInstall_sameButShared _ s
  unfold State.settleStart
  generalize s.furnished.foldl State.endInstall s = u at ended
  dsimp only
  split
  · split
    · exact ended.trans ((startLoads_sameButShared { u with sup := { u.sup with phase := 10 } }).trans (openAll_sameButShared _))
    · exact ended
  · split
    · exact ended.trans (openAll_sameButShared u)
    · split
      · exact ended.trans (openReady_sameButShared _ u)
      · exact ended

/-! ### Cores that stand at reserved words -/

end State

/-- What `Fx.issue` does before an instruction without registers. -/
theorem Fx.issue_nil {x : Tile} (h : SMap.get Ecc.ok x.mem.istoreEcc (x.sc.pc.toNat / 4) ≠ .double) (c : Ctx) (body : Fx → Fx) :
    (Fx.ofTile x).issue c [] body = body ((Fx.ofTile x).lockstep c) := by
  have free : x.scalarHolds c [] [] = [] := by simp [Tile.scalarHolds, clashes]
  have ready : (Fx.ofTile x).readyWait c [] = Fx.ofTile x := by simp [Fx.readyWait, Scalar.readyAt]
  have ht : (Fx.ofTile x).tile = x := rfl
  unfold Fx.issue
  dsimp only
  rw [ht, if_neg h, List.filter_nil, List.map_nil, free, ready]
  rfl

/-- The core of `y` has stopped with a command fault, at the PC and with the registers of `x`. -/
structure Tile.Halted (x y : Tile) : Prop where
  event : evtInsnFault ∈ y.rp.rep.fatal
  halted : y.sc.halted = true
  pc : y.sc.pc = x.sc.pc
  regs : y.sc.regs = x.sc.regs

/-- A lockstep mismatch leaves the scalar core. -/
theorem Fx.lockstep_sc (f : Fx) (c : Ctx) : (f.lockstep c).tile.sc = f.tile.sc := by
  unfold Fx.lockstep
  split <;> rfl

/-- The commands that wait in a tile, its engine and its health, which its units go by. -/
structure Tile.SameWork (x y : Tile) : Prop where
  waiting : y.waiting = x.waiting
  dma : y.dma = x.dma
  bad : y.pl.bad = x.pl.bad

theorem Tile.SameWork.refl (x : Tile) : x.SameWork x := ⟨rfl, rfl, rfl⟩

theorem Tile.SameWork.trans {x y z : Tile} (h : x.SameWork y) (k : y.SameWork z) : x.SameWork z :=
  ⟨k.waiting.trans h.waiting, k.dma.trans h.dma, k.bad.trans h.bad⟩

theorem Fx.lockstep_sameWork (f : Fx) (c : Ctx) : f.tile.SameWork (f.lockstep c).tile := by
  unfold Fx.lockstep
  split
  · exact ⟨rfl, rfl, rfl⟩
  · exact .refl _

theorem Fx.fault_sameWork (f : Fx) (c : Ctx) (w : Nat) : f.tile.SameWork (f.fault c w).tile := ⟨rfl, rfl, rfl⟩

/-- A word that is read with an uncorrectable error stops the core in its place (R284). -/
theorem Fx.issue_fault_sameWork (x : Tile) (c : Ctx) (w : Nat) : x.SameWork ((Fx.ofTile x).issue c [] fun g => g.fault c w).tile := by
  by_cases h : SMap.get Ecc.ok x.mem.istoreEcc (x.sc.pc.toNat / 4) = .double
  · unfold Fx.issue
    dsimp only
    rw [if_pos (show SMap.get Ecc.ok (Fx.ofTile x).tile.mem.istoreEcc ((Fx.ofTile x).tile.sc.pc.toNat / 4) = .double from h)]
    exact ⟨rfl, rfl, rfl⟩
  · rw [Fx.issue_nil h]
    exact (Fx.lockstep_sameWork (Fx.ofTile x) c).trans (Fx.fault_sameWork _ c w)

namespace State

section
variable (s : State) (t : PTile)

theorem runReserved_tile_ne {r : PTile} (h : r ≠ t) : (s.runReserved t).tile r = s.tile r := by
  unfold runReserved onTile
  split
  · exact s.tile_commit_ne _ h
  · rfl

theorem runReserved_parts : (s.runReserved t).parts = s.parts := by
  unfold runReserved onTile
  split <;> rfl

theorem runReserved_sites : (s.runReserved t).sites = s.sites := by
  unfold runReserved onTile
  split <;> rfl

end

/-- Where the core stands at a reserved word, it stops there. -/
theorem runReserved_halted {s : State} {t : PTile} (hc : s.canIssue t = true) (hr : s.atReserved t = true)
    (hw : SMap.get Ecc.ok (s.tile t).mem.istoreEcc ((s.tile t).sc.pc.toNat / 4) ≠ .double) :
    (s.tile t).Halted ((s.runReserved t).tile t) := by
  rw [runReserved, hc, hr, Bool.and_self, onTile_true, tile_commit, Fx.issue_nil hw]
  have same := Fx.lockstep_sc (Fx.ofTile (s.tile t)) ⟨t, s⟩
  exact ⟨List.mem_append_right _ (List.mem_singleton_self _), rfl, (congrArg Scalar.pc same :), (congrArg Scalar.regs same :)⟩

/-- A core that has stopped takes no command fault. -/
theorem runReserved_of_halted {s : State} {t : PTile} (h : (s.tile t).sc.halted = true) : s.runReserved t = s := by
  have stopped : s.canIssue t = false := by simp [canIssue, h]
  rw [runReserved, stopped, Bool.false_and, onTile_false]

theorem runReserved_sameWork (s : State) (t r : PTile) : (s.tile r).SameWork ((s.runReserved t).tile r) := by
  by_cases hr : r = t
  · subst hr
    unfold runReserved onTile
    split
    · rw [tile_commit]
      exact Fx.issue_fault_sameWork _ _ _
    · exact .refl _
  · rw [s.runReserved_tile_ne t hr]
    exact .refl _

theorem runReserved_pumpDue (s : State) (t r : PTile) : (s.runReserved t).pumpDue r = s.pumpDue r := by
  obtain ⟨waiting, dma, bad⟩ := s.runReserved_sameWork t r
  simp only [pumpDue, tileRuns, site, runReserved_sites, waiting, dma, bad]

/-- Every tile of a list takes the fault of the reserved word where it stands. -/
def runReservedIn (s : State) (l : List (Nat × Tile)) : State := l.foldl (fun s e => s.runReserved (PTile.ofKey e.1)) s

theorem runReservedIn_pumpDue (l : List (Nat × Tile)) (s : State) (r : PTile) : (s.runReservedIn l).pumpDue r = s.pumpDue r := by
  induction l generalizing s with
  | nil => rfl
  | cons e l ih => exact (ih _).trans (s.runReserved_pumpDue _ r)

theorem runReservedIn_of_halted {t : PTile} (l : List (Nat × Tile)) {s : State} (h : (s.tile t).sc.halted = true) :
    (s.runReservedIn l).tile t = s.tile t := by
  induction l generalizing s with
  | nil => rfl
  | cons e l ih =>
    have same : (s.runReserved (PTile.ofKey e.1)).tile t = s.tile t := by
      by_cases he : t = PTile.ofKey e.1
      · rw [← he, runReserved_of_halted h]
      · exact s.runReserved_tile_ne _ he
    exact (ih (same ▸ h)).trans same

theorem runReservedIn_halted {t : PTile} {l : List (Nat × Tile)} {s : State} (hl : ∃ e ∈ l, PTile.ofKey e.1 = t) (hc : s.canIssue t = true)
    (hr : s.atReserved t = true) (hw : SMap.get Ecc.ok (s.tile t).mem.istoreEcc ((s.tile t).sc.pc.toNat / 4) ≠ .double) :
    (s.tile t).Halted ((s.runReservedIn l).tile t) := by
  induction l generalizing s with
  | nil =>
    obtain ⟨e, he, -⟩ := hl
    cases he
  | cons e l ih =>
    by_cases he : PTile.ofKey e.1 = t
    · have stops := runReserved_halted hc hr hw
      rw [← he] at stops hw
      have stays := runReservedIn_of_halted l stops.halted
      subst he
      exact (show ((s.runReserved _).runReservedIn l).tile _ = _ from stays) ▸ stops
    · have same := s.runReserved_tile_ne (PTile.ofKey e.1) (Ne.symm he)
      have rest : ∃ e ∈ l, PTile.ofKey e.1 = t := by
        obtain ⟨d, hd, ht⟩ := hl
        rcases List.mem_cons.1 hd with rfl | hd
        · exact absurd ht he
        · exact ⟨d, hd, ht⟩
      have hc' : (s.runReserved (PTile.ofKey e.1)).canIssue t = true := by
        simp only [canIssue, tileRuns, site, runReserved_sites, same]
        exact hc
      have hr' : (s.runReserved (PTile.ofKey e.1)).atReserved t = true := by
        simp only [atReserved, part, runReserved_parts, same]
        exact hr
      exact same ▸ ih rest hc' hr' (same ▸ hw)

/-- One cycle of the aon clock where no unit waits: a core that stands at a reserved word takes its command fault (R287). -/
theorem tick_halted {s : State} {t : PTile} (hd : ∀ r : PTile, s.pumpDue r = false) (hc : s.canIssue t = true) (hr : s.atReserved t = true)
    (hw : SMap.get Ecc.ok (s.tile t).mem.istoreEcc ((s.tile t).sc.pc.toNat / 4) ≠ .double) : (s.tile t).Halted (s.tick.tile t) := by
  obtain ⟨n, clock⟩ := s.clocks_tile_sc t
  have mapped : (s.clocks.tile t).pl.part.isSome = true := by
    rw [clocks_tile_pl]
    simp only [canIssue, Bool.and_eq_true] at hc
    exact hc.1.1.1.2
  have listed : (t.key, s.clocks.tile t) ∈ s.clocks.tiles := SMap.mem_of_get_ne fun e => by
    rw [show s.clocks.tile t = Tile.init from e] at mapped
    cases mapped
  have stops : (s.clocks.tile t).Halted (s.clocks.runAllReserved.tile t) := by
    refine runReservedIn_halted ⟨_, listed, PTile.ofKey_key t⟩ ?_ ?_ ?_
    · rwa [clocks_canIssue]
    · rwa [clocks_atReserved]
    · rwa [clocks_tile_mem, clock]
  have idle : s.clocks.runAllReserved.pumpTiles = s.clocks.runAllReserved := pumpTiles_of_none fun r =>
    (runReservedIn_pumpDue _ _ r).trans ((s.clocks_pumpDue r).trans (hd r))
  obtain ⟨b, shared⟩ := settleStart_sameButShared s.clocks.runAllReserved t.key
  rw [tick, idle]
  have last : (s.clocks.runAllReserved.settleStart.tile t) = _ := shared
  rw [last]
  exact ⟨stops.event, stops.halted, stops.pc.trans (by rw [clock]), stops.regs.trans (by rw [clock])⟩

end State
end Sys2Proof.Machine
end

section
/-! O5: malformed scalar and system instructions, and reserved words. -/

namespace Sys2Proof.Machine

variable {s : State} {t : PTile} {rd ra : Reg} {imm : BitVec 16}

theorem exec_shi_bad (h : Issues s t []) (hi : 96 ≤ imm.toNat) : exec (.shi t rd ra imm) s = .next (s.faultAt t (iWord 8 rd ra imm)) := by
  have reserved : imm.toNat / 32 % 4 = 3 ∨ 128 ≤ imm.toNat := by omega
  exact congrArg Host.Outcome.next ((if_pos reserved).trans (State.issue_eq h _))

theorem exec_lui_bad (h : Issues s t []) (hr : ra ≠ 0) : exec (.lui t rd ra imm) s = .next (s.faultAt t (iWord 0xB rd ra imm)) :=
  congrArg Host.Outcome.next ((if_pos hr).trans (State.issue_eq h _))

theorem exec_csrr_bad (h : Issues s t []) (hi : ra ≠ 0 ∨ 16 ≤ imm.toNat) :
    exec (.csrr t rd ra imm) s = .next (s.faultAt t (iWord 0x18 rd ra imm)) := by
  refine congrArg Host.Outcome.next ?_
  simp only [if_pos hi]
  exact State.issue_eq h _

section
variable (h : Issues s t [ra, rd]) (ha : ((s.tile t).sc.reg ra + sext16 imm).toNat % 4 ≠ 0 ∨ 0x200000 ≤ ((s.tile t).sc.reg ra + sext16 imm).toNat)
include h ha

theorem exec_lw_bad : exec (.lw t rd ra imm) s = .next (s.faultAt t (iWord 0xC rd ra imm)) :=
  congrArg Host.Outcome.next ((State.issue_eq h _).trans (congrArg (s.commit t) (Fx.scrAccess_bad ha _ _ _ _ _)))

theorem exec_sw_bad : exec (.sw t rd ra imm) s = .next (s.faultAt t (iWord 0xD rd ra imm)) :=
  congrArg Host.Outcome.next ((State.issue_eq h _).trans (congrArg (s.commit t) (Fx.scrAccess_bad ha _ _ _ _ _)))

end

/-- The core of a loaded or open partition stands at a word that the tables of R288 to R290 do not list. -/
theorem State.atReserved_of_word {part : Fin 32} (hp : (s.tile t).pl.part = some part)
    (ho : (s.part part).loaded = true ∨ (s.part part).open_ = true) (hi : insnOf t (s.tile t).wordAt = none) : s.atReserved t = true := by
  simp only [State.atReserved, hp, hi]
  simpa using ho

/-- Settles O5: each malformed form goes to its command fault, and a cycle of the clock to that of a reserved word. -/
theorem malformedInstructionsFault : Obligations.MalformedInstructionsFault := by
  unfold Obligations.MalformedInstructionsFault
  intro s t rd ra imm faults addr
  have faulted {i : Instr} {w : Nat} (hx : exec i s = .next (s.faultAt t w)) : faults i := .of_next hx (s.faultAt_faulted t w)
  refine ⟨fun h => ?_, fun h ha => ?_, fun part hq _ _ _ hc hp ho hd hw hres => ?_⟩
  · have sys {i : Instr} {bad : Bool} {func : Nat} {f1 f2 f3 : Reg} {rs : List Reg} {go : Ctx → Fx → Fx}
        (hx : exec i s = .next (s.sys t func f1 f2 f3 bad rs go)) (hb : bad = true) : faults i := faulted (hx.trans (congrArg _ (State.sys_bad h hb ..)))
    refine ⟨fun hi => faulted (exec_shi_bad h hi), fun hr => faulted (exec_lui_bad h hr), fun hi => faulted (exec_csrr_bad h hi),
      fun hf => ?_, fun hf => sys rfl ?_, fun hf => sys rfl ?_, fun hf => sys rfl ?_⟩
    · have bad : (rd != 0 || ra != 0 || (0 : Reg) != 0) = true := by simpa using hf
      exact ⟨sys rfl bad, sys rfl bad, sys rfl bad⟩
    · simpa using hf
    · simpa using hf
    · simpa using hf
  · rw [show addr = (s.tile t).sc.reg ra + sext16 imm from (add_sext16 _ imm).symm] at ha
    exact ⟨faulted (exec_lw_bad h ha), faulted (exec_sw_bad h ha)⟩
  · have none : insnOf t (s.tile t).wordAt = none := insnOf_reserved t (reserved_cases hres)
    obtain ⟨event, halted, pc, regs⟩ := State.tick_halted hd hc (State.atReserved_of_word hp ho none) hw
    exact ⟨s.tick, by rw [step, hq], event, halted, pc, Scalar.reg_of_regs regs⟩

end Sys2Proof.Machine
end

section
/-! O11: the instructions that begin planned waits. -/

namespace Sys2Proof.Machine

/-- Load drive that is to end with its slot, where it is on (R306). -/
theorem Lane.driven_ending_drive (l : Lane) : (l.driven .ending).drive = if l.drive ≠ .off then .ending else l.drive := by
  cases h : l.drive <;> simp [Lane.driven, h]

/-- A step that ends the load drive of both lanes. -/
theorem State.lane_commit_ending (s : State) (t : PTile) {f : Fx} (h : f.drives = [(0, .ending), (1, .ending)]) (l : Fin 2) :
    (s.commit t f).lane t l = (s.lane t l).driven .ending := by
  have ne : t.key * 2 + 1 ≠ t.key * 2 + 0 := by omega
  unfold State.lane State.commit laneKey
  rw [h]
  fin_cases l
  · exact (SMap.get_set_ne _ _ _ ne.symm).trans (SMap.get_set_self ..)
  · exact (SMap.get_set_self ..).trans (congrArg (Lane.driven · .ending) (SMap.get_set_ne _ _ _ ne))

/-- The step that begins a planned wait. -/
theorem State.beginWait_waiting (s : State) (t : PTile) (w : Wait) (ends : Bool) :
    let u := s.commit t ((Fx.ofTile (s.tile t)).beginWait w ends)
    Waiting s u t w ∧ ∀ l : Fin 2, (u.lane t l).drive = if ends = true ∧ (s.lane t l).drive ≠ .off then .ending else (s.lane t l).drive := by
  refine ⟨?_, fun l => ?_⟩
  · constructor
    case others => exact fun r hr => State.tile_commit_ne s _ hr
    case units =>
      rw [State.tile_commit]
      constructor <;> rfl
    all_goals
      rw [State.tile_commit]
      intros
      rfl
  · cases ends
    · simp only [Bool.false_eq_true, false_and, if_false]
      exact congrArg (fun m => (SMap.get Lane.init m (laneKey t l)).drive) (s.commit_lanes t rfl)
    · simp only [true_and]
      rw [State.lane_commit_ending s t rfl, Lane.driven_ending_drive]

/-- Settles O11: NOP retires, and each of the others is the step that begins its wait. -/
theorem systemWaitsBegin : Obligations.SystemWaitsBegin := by
  unfold Obligations.SystemWaitsBegin
  intro s t f1 h waits
  have begins {i : Instr} {bad : Bool} {func : Nat} {g1 g2 g3 : Reg} {w : Wait} {ends : Bool}
      (hx : exec i s = .next (s.sys t func g1 g2 g3 bad [] fun _ f => f.beginWait w ends)) (hb : bad = false) : waits i w ends :=
    .of_next (hx.trans (congrArg _ (State.sys_good h hb ..))) (s.beginWait_waiting t w ends)
  refine ⟨.of_next (congrArg Host.Outcome.next (State.sys_good h rfl 0 0 0 0 fun _ f => f.next)) (State.commit_moved s t 1 _),
    fun hf => begins rfl ?_, begins rfl rfl, begins rfl rfl, begins rfl rfl⟩
  simpa using hf

end Sys2Proof.Machine
end

section
/-! O12: the ends of the planned waits (R291, R292, R366, R367, R369). -/

namespace Sys2Proof.Machine

theorem Tile.allQuiet_of_empty {x : Tile} (h : ∀ k : Queue, x.queue k = []) : x.allQuiet = true := by
  simp [Tile.allQuiet, allQueues, Tile.quiet, h]

theorem Tile.quietMask_of_empty {x : Tile} (h : ∀ k : Queue, x.queue k = []) (m : BitVec 5) : x.quietMask m = true := by
  simp [Tile.quietMask, allQueues, Tile.quiet, h]

/-- Both lanes of a tile, each changed by its number. -/
theorem State.lane_setLanesBy (s : State) (t : PTile) (g : Nat → Lane → Lane) (l : Fin 2) :
    (s.setLanesBy t g).lane t l = g l.val (s.lane t l) := by
  have distinct : [t.key * 2, t.key * 2 + 1].Nodup := by simp
  have listed : laneKey t l ∈ [t.key * 2, t.key * 2 + 1] := by fin_cases l <;> simp [laneKey]
  have number : laneKey t l % 2 = l.val := by simp only [laneKey]; omega
  refine (SMap.get_modifyAll_of_mem Lane.init (fun k y => g (k % 2) y) distinct listed s.lanes).trans ?_
  rw [number]
  rfl

variable {s : State} {t : PTile}

/-! ### STAGE -/

/-- The tile at whose core a STAGE retires with bin `b`. -/
def State.staged (s : State) (t : PTile) (b : BitVec 2) : Tile := (s.tile t).beginStage b (s.heldAt t) s.sup.counter

theorem exec_stageRetire {b : BitVec 2} (hw : (s.tile t).sc.wait = .stage b) (hr : s.tileRuns t = true) (hq : (s.tile t).allQuiet = true) :
    exec (.stageRetire t) s = .next ((s.commit t (Fx.ofTile (s.staged t b))).setLanesBy t fun n l => l.beginStage b (s.staged t b).clk n) := by
  refine congrArg Host.Outcome.next ?_
  simp only [hw, hr, hq, Bool.and_self, if_true]
  rfl

/-! ### SEND and STEPEND -/

/-- Nothing keeps SEND and STEPEND from retiring (R292). -/
theorem State.mayClose_of_quiet (hr : s.tileRuns t = true) (hq : (s.tile t).allQuiet = true) (ha : (s.tile t).mx.abftDue = 0)
    (hl : ∀ l : Fin 2, (s.lane t l).verdicts = [] ∧ (s.lane t l).cvs = [] ∧ (s.lane t l).since = false) (hs : (s.tile t).rp.recovInStage = false) :
    s.mayClose t = true := by
  have closed (l : Fin 2) : (s.lane t l).closed = true := by
    obtain ⟨verdicts, cvs, since⟩ := hl l
    simp [Lane.closed, verdicts, cvs, since]
  simp [State.mayClose, hr, hq, ha, hs, closed]

theorem exec_sendRetire (hw : (s.tile t).sc.wait = .send) (hm : s.mayClose t = true) :
    exec (.sendRetire t) s =
      .next ((s.commit t ((Fx.ofTile (s.tile t)).closeStage ⟨t, s⟩)).setLanes t fun l => l.idle (s.tile t).clk.shared) :=
  congrArg Host.Outcome.next (if_pos ⟨hw, hm⟩)

theorem exec_stependRetire (hw : (s.tile t).sc.wait = .stepend) (hm : s.mayClose t = true) :
    exec (.stependRetire t) s = .next ((s.commit t ((Fx.ofTile (s.tile t)).closeStep ⟨t, s⟩)).setLanes t fun l =>
      { l.idle (s.tile t).clk.shared with failedChk := false, failedCv := false }) :=
  congrArg Host.Outcome.next (if_pos ⟨hw, hm⟩)

/-- A tile that closes its step sends its check report. -/
theorem State.report_mem_closeStep (s : State) (t : PTile) :
    reportFlit s.net t (s.tile t) ∈ (s.commit t ((Fx.ofTile (s.tile t)).closeStep ⟨t, s⟩)).net.flits :=
  List.mem_append_right _ (List.mem_append_left _ (List.mem_append_right _ (List.mem_singleton_self _)))

/-! ### FENCE -/

theorem exec_fenceRetire {m : BitVec 5} (hw : (s.tile t).sc.wait = .fence m) (hr : s.tileRuns t = true) (hq : (s.tile t).quietMask m = true) :
    exec (.fenceRetire t) s = .next (s.commit t
      (Fx.ofTile (({ s.tile t with sc := { (s.tile t).sc with wait := .none } } : Tile).retired 1 ((s.tile t).sc.pc + 4)))) := by
  refine congrArg Host.Outcome.next ?_
  simp only [hw, hr, hq, Bool.and_self, State.onTile_true]
  rfl

/-- Settles O12: each wait's end by what its step makes of the tile, the lanes and the flits. -/
theorem plannedWaitsEnd : Obligations.PlannedWaitsEnd := by
  unfold Obligations.PlannedWaitsEnd
  refine ⟨fun s t b hw hr hq => ?_, fun s t hr hq ha hl hs => ?_⟩
  · refine .of_next (exec_stageRetire hw hr (Tile.allQuiet_of_empty hq)) ?_
    have tile : (((s.commit t (Fx.ofTile (s.staged t b))).setLanesBy t fun n l => l.beginStage b (s.staged t b).clk n).tile t) = s.staged t b :=
      State.tile_commit ..
    rw [tile]
    refine ⟨rfl, rfl, rfl, rfl, rfl, rfl, rfl, rfl, rfl, rfl, rfl, rfl, rfl, rfl, rfl, fun l => ?_, fun r hr => State.tile_commit_ne s _ hr⟩
    have lane : (s.commit t (Fx.ofTile (s.staged t b))).lane t l = s.lane t l :=
      congrArg (SMap.get Lane.init · (laneKey t l)) (s.commit_lanes t rfl)
    rw [State.lane_setLanesBy, lane]
    exact ⟨rfl, rfl, rfl⟩
  · have mayClose := State.mayClose_of_quiet hr (Tile.allQuiet_of_empty hq) ha hl hs
    refine ⟨fun hw => .of_next (exec_sendRetire hw mayClose) ?_, fun hw => .of_next (exec_stependRetire hw mayClose) ?_,
      fun m hw => .of_next (exec_fenceRetire hw hr (Tile.quietMask_of_empty hq m)) ?_⟩
    · have tile : ((s.commit t ((Fx.ofTile (s.tile t)).closeStage ⟨t, s⟩)).setLanes t fun l => l.idle (s.tile t).clk.shared).tile t =
          ((Fx.ofTile (s.tile t)).closeStage ⟨t, s⟩).tile := State.tile_commit ..
      rw [tile]
      exact ⟨rfl, rfl, rfl, rfl, rfl, rfl, rfl, rfl⟩
    · have tile : ((s.commit t ((Fx.ofTile (s.tile t)).closeStep ⟨t, s⟩)).setLanes t fun l =>
          { l.idle (s.tile t).clk.shared with failedChk := false, failedCv := false }).tile t = ((Fx.ofTile (s.tile t)).closeStep ⟨t, s⟩).tile := State.tile_commit ..
      rw [tile]
      exact ⟨rfl, rfl, rfl, rfl, rfl, rfl, rfl, rfl, rfl, _, s.report_mem_closeStep t, rfl, rfl, rfl, rfl⟩
    · rw [State.tile_commit]
      exact ⟨rfl, rfl, rfl, rfl, rfl, rfl⟩

end Sys2Proof.Machine
end

section
/-! O14: queue commands are written (R287, R293). -/

namespace Sys2Proof.Machine

/-! ### The command with its operand values -/

section
variable (c : Ctx) (x : Tile) (op : QOp) (f1 f2 f3 : Reg) (mod : BitVec 6)

theorem toNat_pair (hi lo : Word) : (hi ++ lo).toNat = hi.toNat * 2 ^ 32 + lo.toNat := by
  rw [BitVec.toNat_append, ← Nat.shiftLeft_add_eq_or_of_lt lo.isLt, Nat.shiftLeft_eq]

theorem toNat_wide (v : Word) : (v.zeroExtend 64).toNat = v.toNat := BitVec.toNat_setWidth_of_le (by omega)

theorem mkCmd_a_low : (mkCmd c x op f1 f2 f3 mod).a.toNat % 2 ^ 32 = (x.sc.reg f1).toNat := by
  have lt := (x.sc.reg f1).isLt
  unfold mkCmd
  dsimp only
  split
  · rw [toNat_pair]; omega
  · rw [toNat_wide]; omega

theorem mkCmd_b_low : (mkCmd c x op f1 f2 f3 mod).b.toNat % 2 ^ 32 = (x.sc.reg f2).toNat := by
  have lt := (x.sc.reg f2).isLt
  unfold mkCmd
  dsimp only
  split
  · rw [toNat_pair]; omega
  · rw [toNat_wide]; omega

/-- The high words of a DCOPY's pairs (R310). -/
theorem mkCmd_pairs : (mkCmd c x .dcopy f1 f2 f3 mod).a.toNat / 2 ^ 32 = (x.sc.reg (f1 + 1)).toNat ∧
    (mkCmd c x .dcopy f1 f2 f3 mod).b.toNat / 2 ^ 32 = (x.sc.reg (f2 + 1)).toNat := by
  unfold mkCmd
  simp only [if_true]
  rw [toNat_pair, toNat_pair]
  omega

theorem mkCmd_c (hp : op ≠ .dpress) (hm : op ≠ .dmcast) : (mkCmd c x op f1 f2 f3 mod).c.toNat = (x.sc.reg f3).toNat := by
  unfold mkCmd
  simp only [hp, hm, or_self, if_false]
  exact toNat_wide _

end

/-! ### The write -/

/-- The tile's step that writes `q` into queue `k`, before the units take what they can. -/
def Tile.putCmd (x : Tile) (k : Queue) (q : QCmd) : Fx :=
  { Fx.ofTile ((x.setQueue k (x.queue k ++ [q])).retired 1 (x.sc.pc + 4)) with drives := driveEnds k q }

theorem Tile.mem_putCmd_queue (x : Tile) (k : Queue) (q : QCmd) : q ∈ (x.putCmd k q).tile.queue k := by
  have queue : (x.putCmd k q).tile.queue k = (x.setQueue k (x.queue k ++ [q])).queue k := by cases k <;> rfl
  rw [queue, Tile.queue_setQueue_self]
  exact List.mem_append_right _ (List.mem_singleton_self q)

variable {s : State} {t : PTile} {k : Queue} {op : QOp} {f1 f2 f3 : Reg} {mod : BitVec 6}

theorem State.enqueue_good (hw : wordFault k op f1 f2 f3 mod = false) (h : Issues s t (cmdRegs op f1 f2 f3)) (hroom : (s.tile t).written k < 16)
    (hsb : op = .qwait ∨ (s.tile t).entries ⟨t, s⟩ + (mkCmd ⟨t, s⟩ (s.tile t) op f1 f2 f3 mod).need ⟨t, s⟩ (s.tile t) ≤ 64) :
    s.enqueue t k op f1 f2 f3 mod =
      s.commit t (((s.tile t).putCmd k (mkCmd ⟨t, s⟩ (s.tile t) op f1 f2 f3 mod)).pump ⟨t, s⟩) := by
  have room : ¬ 16 ≤ (Fx.ofTile (s.tile t)).tile.written k := Nat.not_le.2 hroom
  have fits : ¬ (op ≠ .qwait ∧ 64 < (Fx.ofTile (s.tile t)).tile.entries ⟨t, s⟩ +
      (mkCmd ⟨t, s⟩ (Fx.ofTile (s.tile t)).tile op f1 f2 f3 mod).need ⟨t, s⟩ (Fx.ofTile (s.tile t)).tile ∧
      (Fx.ofTile (s.tile t)).tile.entries ⟨t, s⟩ ≠ 0) := by
    rintro ⟨hne, hlt, -⟩
    rcases hsb with hq | hle
    · exact hne hq
    · exact Nat.not_lt.2 hle hlt
  unfold State.enqueue
  simp only [hw, Bool.false_eq_true, if_false]
  refine (State.issue_eq h _).trans (congrArg (s.commit t) ?_)
  rw [if_neg room, if_neg fits]
  rfl

/-- Settles O14: the command stands at the end of its queue, and the units keep it there but for an event's mark. -/
theorem queueCommandsAreWritten : Obligations.QueueCommandsAreWritten := by
  unfold Obligations.QueueCommandsAreWritten
  intro s t f1 f2 f3 mod x written
  have put {i : Instr} {k : Queue} {op : QOp} (hx : exec i s = .next (s.enqueue t k op f1 f2 f3 mod)) : written i k op := by
    intro hw h hroom hsb
    obtain ⟨fixed, -, cmds⟩ := Fx.pump_keeps (x.putCmd k (mkCmd ⟨t, s⟩ x op f1 f2 f3 mod)) ⟨t, s⟩
    refine .of_next (hx.trans (congrArg _ (State.enqueue_good hw h hroom hsb))) ?_
    rw [State.tile_commit]
    refine ⟨fixed.pc, Scalar.reg_of_regs fixed.regs, fixed.scr, fixed.vec, fixed.mx, fixed.pl,
      fun r hr => State.tile_commit_ne s _ hr, cmds.imp (fun stays => ?_) id⟩
    obtain ⟨e, he, same⟩ := stays k _ (x.mem_putCmd_queue k _)
    refine ⟨e, he, same.op, same.f1, same.f2, same.f3, same.mod, same.pc, same.tag, ?_, ?_, fun hop => ?_, fun hp hm => ?_⟩
    · rw [same.a, mkCmd_a_low]
    · rw [same.b, mkCmd_b_low]
    · subst hop
      rw [same.a, same.b]
      exact mkCmd_pairs ⟨t, s⟩ x f1 f2 f3 mod
    · rw [same.c, mkCmd_c _ _ _ _ _ _ _ hp hm]
  exact ⟨fun _ => put rfl, put rfl, put rfl, put rfl, put rfl, put rfl, put rfl, put rfl, put rfl, put rfl, put rfl, put rfl, put rfl, put rfl,
    put rfl, put rfl, put rfl, put rfl, put rfl, put rfl, put rfl, put rfl, put rfl, put rfl, put rfl, put rfl, put rfl, put rfl, put rfl,
    put rfl, put rfl, put rfl, put rfl, put rfl, put rfl, put rfl, put rfl, put rfl, put rfl, put rfl, put rfl, put rfl, put rfl, put rfl,
    put rfl⟩

end Sys2Proof.Machine
end

section
/-! O15: malformed queue words (R287). -/

namespace Sys2Proof.Machine

section
variable {k : Queue} {op : QOp} {f1 f2 f3 : Reg} {mod : BitVec 6}

/-- A QWAIT that watches no other queue, or with an unused field set (R295). -/
theorem wordFault_qwait (h : 4 < mod.toNat ∨ mod.toNat = k.code ∨ f2 ≠ 0 ∨ f3 ≠ 0) : wordFault k .qwait f1 f2 f3 mod = true := by
  have code : k.code ≤ 4 := by cases k <;> decide
  simp only [wordFault, Bool.or_eq_true, decide_eq_true_eq, beq_iff_eq, bne_iff_ne]
  rcases h with h | h | h | h
  · exact .inl (.inl (by omega))
  · exact .inl (.inl (by omega))
  · exact .inl (.inr h)
  · exact .inr h

/-- The commands whose MOD is 0 (R298, R302, R312). -/
def plainMod : List QOp := [.wld, .wldv, .wsp, .osp, .sread, .vdraw, .vdrain, .vrot, .dcopy, .dpress, .dmcast, .sadd, .ssub, .swait, .vld, .vbcst, .vst]

theorem wordFault_plainMod (hop : op ∈ plainMod) (h : mod ≠ 0) : wordFault k op f1 f2 f3 mod = true := by
  have field : (mod != 0) = true := bne_iff_ne.2 h
  have value : (mod.toNat != 0) = true := bne_iff_ne.2 fun e => h (BitVec.eq_of_toNat_eq e)
  unfold plainMod at hop
  fin_cases hop <;> simp only [wordFault, vqFault, field, value, Bool.true_or]

/-- The commands outside the vector queue that do not use F3 (R310, R312). -/
def withoutF3 : List QOp := [.dpress, .dmcast, .sadd, .ssub, .swait]

theorem withoutF3_plainMod : withoutF3 ⊆ plainMod := by decide

theorem wordFault_f3 (hop : op ∈ withoutF3) (h : f3 ≠ 0) : wordFault k op f1 f2 f3 mod = true := by
  have field : (f3 != 0) = true := bne_iff_ne.2 h
  unfold withoutF3 at hop
  fin_cases hop <;> simp only [wordFault, field, Bool.or_true]

/-- The loads and broadcasts, which do not use F2, and the store, which does not use F1 (R302). -/
theorem wordFault_f2 (hop : op ∈ [QOp.vld, .vbcst]) (h : f2 ≠ 0) : wordFault k op f1 f2 f3 mod = true := by
  have field : (f2 != 0) = true := bne_iff_ne.2 h
  fin_cases hop <;> simp only [wordFault, vqFault, field, Bool.or_true]

theorem wordFault_vst (h : f1 ≠ 0) : wordFault k .vst f1 f2 f3 mod = true := by
  have field : (f1 != 0) = true := bne_iff_ne.2 h
  simp only [wordFault, vqFault, field, Bool.or_true]

/-- A pair named by an odd register or by s0 (R310). -/
theorem wordFault_dcopy (h : f1.toNat % 2 = 1 ∨ f1 = 0 ∨ f2.toNat % 2 = 1 ∨ f2 = 0) : wordFault k .dcopy f1 f2 f3 mod = true := by
  simp only [wordFault, badPair, Bool.or_eq_true, beq_iff_eq, bne_iff_ne]
  tauto

theorem wordFault_leval (h : 4 ≤ mod.toNat) : wordFault k .leval f1 f2 f3 mod = true := decide_eq_true h

theorem wordFault_ldrive (h : 2 ≤ mod.toNat ∨ f1 ≠ 0 ∨ f2 ≠ 0 ∨ f3 ≠ 0) : wordFault k .ldrive f1 f2 f3 mod = true := by
  simp only [wordFault, Bool.or_eq_true, decide_eq_true_eq, bne_iff_ne]
  tauto

/-- The bitwise commands take MOD 11 alone (R302). -/
theorem wordFault_bitwise (hop : op ∈ [QOp.vand, .vor, .vxor]) (h : mod ≠ 11) : wordFault k op f1 f2 f3 mod = true := by
  have other : (mod.toNat != 11) = true := bne_iff_ne.2 fun e => h (BitVec.eq_of_toNat_eq e)
  fin_cases hop <;> exact other

/-- The vector commands of which MOD[5] is reserved (R302, R304). -/
theorem wordFault_high32 (hop : op ∈ [QOp.vadd, .vsub, .vmul, .vshl, .venc]) (h : 32 ≤ mod.toNat) : wordFault k op f1 f2 f3 mod = true := by
  have high : decide (1 < mod.toNat / 16) = true := decide_eq_true (by omega)
  fin_cases hop <;> simp only [wordFault, vqFault, high, Bool.or_true, Bool.true_or]

/-- The vector commands of which MOD[5:4] is reserved (R302, R305). -/
def high16Reserved : List QOp := [.vfma, .vmin, .vmax, .vclt, .vceq, .vsel, .vshr, .vscan, .vexp, .vrcp, .vrsq, .vsrch, .vamax, .vsmax]

theorem wordFault_high16 (hop : op ∈ high16Reserved) (h : 16 ≤ mod.toNat) : wordFault k op f1 f2 f3 mod = true := by
  unfold high16Reserved at hop
  have high : (mod.toNat / 16 != 0) = true := bne_iff_ne.2 (by omega)
  fin_cases hop <;> simp only [wordFault, vqFault, high, Bool.or_true, Bool.true_or]

/-- Spans of two, four and three registers that run past v31 (R302). -/
theorem wordFault_vamax (h : f1 = 31) : wordFault k .vamax f1 f2 f3 mod = true := by
  subst h
  simp [wordFault, vqFault, pastV31]

theorem wordFault_vtopk (h : 29 ≤ f1.toNat) : wordFault k .vtopk f1 f2 f3 mod = true := by
  have past : pastV31 f1 4 = true := decide_eq_true (by omega)
  simp [wordFault, vqFault, past]

theorem wordFault_vsmax (h : 30 ≤ f1.toNat) : wordFault k .vsmax f1 f2 f3 mod = true := by
  have past : pastV31 f1 3 = true := decide_eq_true (by omega)
  simp [wordFault, vqFault, past]

/-- A reduction of another type than FP32, of the reserved kind, or with F3 set (R302). -/
theorem wordFault_vred (h : mod.toNat % 16 ≠ 10 ∨ 48 ≤ mod.toNat ∨ f3 ≠ 0) : wordFault k .vred f1 f2 f3 mod = true := by
  simp only [wordFault, vqFault, Bool.or_eq_true, beq_iff_eq, bne_iff_ne]
  rcases h with h | h | h
  · exact .inl (.inl h)
  · exact .inl (.inr (by omega))
  · exact .inr h

/-- A conversion of FP32 to itself (R303). -/
theorem wordFault_vcvt (h : mod.toNat % 16 = 10) : wordFault k .vcvt f1 f2 f3 mod = true := by
  simp [wordFault, vqFault, h]

end

/-- Settles O15: each malformed form is a fault of its word, so that the command is not written. -/
theorem malformedQueueWordsFault : Obligations.MalformedQueueWordsFault := by
  unfold Obligations.MalformedQueueWordsFault
  intro s t f1 f2 f3 mod h faults
  have bad {i : Instr} {k : Queue} {op : QOp} (hw : wordFault k op f1 f2 f3 mod = true) (hx : exec i s = .next (s.enqueue t k op f1 f2 f3 mod)) :
      faults i := .of_next (hx.trans (congrArg _ (State.enqueue_bad h hw))) ⟨s.faultAt_faulted t _, s.faultAt_queue t _⟩
  have plain {i : Instr} {k : Queue} {op : QOp} (hm : mod ≠ 0) (hop : op ∈ plainMod) (hx : exec i s = .next (s.enqueue t k op f1 f2 f3 mod)) :
      faults i := bad (wordFault_plainMod hop hm) hx
  refine ⟨fun k hk => bad (wordFault_qwait hk) rfl, fun hm => ?_, fun hm => ?_, fun hm => ?_, fun hm => ?_, fun hm => ?_,
    fun hm => bad (wordFault_leval hm) rfl, fun hm => bad (wordFault_ldrive hm) rfl, fun hm => ?_, fun hm => ?_, fun hm => ?_,
    fun hf => bad (wordFault_vamax hf) rfl, fun hf => bad (wordFault_vtopk hf) rfl, fun hf => bad (wordFault_vsmax hf) rfl,
    fun hm => bad (wordFault_vred hm) rfl, fun hm => bad (wordFault_vcvt hm) rfl⟩
  · have faulty {i : Instr} {k : Queue} {op : QOp} := plain (i := i) (k := k) (op := op) hm
    exact ⟨faulty (by decide) rfl, faulty (by decide) rfl, faulty (by decide) rfl, faulty (by decide) rfl, faulty (by decide) rfl,
      faulty (by decide) rfl, faulty (by decide) rfl, faulty (by decide) rfl⟩
  · have faulty {i : Instr} {k : Queue} {op : QOp} (hop : op ∈ withoutF3)
        (hx : exec i s = .next (s.enqueue t k op f1 f2 f3 mod)) : faults i :=
      hm.elim (fun h => plain h (withoutF3_plainMod hop) hx) fun h => bad (wordFault_f3 hop h) hx
    exact ⟨faulty (by decide) rfl, faulty (by decide) rfl, faulty (by decide) rfl, faulty (by decide) rfl, faulty (by decide) rfl⟩
  · exact ⟨hm.elim (fun h => plain h (op := .vld) (by decide) rfl) fun h => bad (wordFault_f2 (op := .vld) (by decide) h) rfl,
      hm.elim (fun h => plain h (op := .vbcst) (by decide) rfl) fun h => bad (wordFault_f2 (op := .vbcst) (by decide) h) rfl⟩
  · exact hm.elim (fun h => plain h (op := .vst) (by decide) rfl) fun h => bad (wordFault_vst h) rfl
  · exact hm.elim (fun h => plain h (op := .dcopy) (by decide) rfl) fun h => bad (wordFault_dcopy h) rfl
  · have faulty {i : Instr} {k : Queue} {op : QOp} (hop : op ∈ [QOp.vand, .vor, .vxor]) := bad (i := i) (k := k) (wordFault_bitwise hop hm)
    exact ⟨faulty (by decide) rfl, faulty (by decide) rfl, faulty (by decide) rfl⟩
  · have faulty {i : Instr} {k : Queue} {op : QOp} (hop : op ∈ [QOp.vadd, .vsub, .vmul, .vshl, .venc]) :=
      bad (i := i) (k := k) (wordFault_high32 hop hm)
    exact ⟨faulty (by decide) rfl, faulty (by decide) rfl, faulty (by decide) rfl, faulty (by decide) rfl, faulty (by decide) rfl⟩
  · have faulty {i : Instr} {k : Queue} {op : QOp} (hop : op ∈ high16Reserved) := bad (i := i) (k := k) (wordFault_high16 hop hm)
    exact ⟨faulty (by decide) rfl, faulty (by decide) rfl, faulty (by decide) rfl, faulty (by decide) rfl, faulty (by decide) rfl,
      faulty (by decide) rfl, faulty (by decide) rfl, faulty (by decide) rfl, faulty (by decide) rfl, faulty (by decide) rfl,
      faulty (by decide) rfl, faulty (by decide) rfl, faulty (by decide) rfl, faulty (by decide) rfl⟩

end Sys2Proof.Machine
end

section
/-! O16: QWAIT (R294, R295). -/

namespace Sys2Proof.Machine

/-- The distance from the target to the count, at 16 bits. -/
theorem reached_ofNat {count : BitVec 16} {n : Nat} (h : (count.toNat + 2 ^ 16 - n % 2 ^ 16) % 2 ^ 16 < 2 ^ 15) :
    reached count (BitVec.ofNat 16 n) = true := by
  have distance : (count - BitVec.ofNat 16 n).toNat = (count.toNat + 2 ^ 16 - n % 2 ^ 16) % 2 ^ 16 := by
    rw [BitVec.toNat_sub, BitVec.toNat_ofNat]
    omega
  rw [reached, distance]
  simpa using h

/-- A QWAIT that completes alone in its queue empties it and is not counted. -/
theorem Tile.completed_qwait {x : Tile} {k : Queue} {q : QCmd} (h : x.queue k = [q]) (hq : q.op = .qwait) : x.completed k q.seq = (0, []) := by
  rw [Tile.completed, h]
  simp [updCmd, popDone, hq]

theorem exec_qwaitComplete {s : State} {t : PTile} {k : Queue} {q : QCmd} (hr : s.tileRuns t = true) (hk : (s.tile t).queue k = [q])
    (hop : q.op = .qwait) (hst : q.st = .queued) (hm : qwaitMet (s.tile t).sc q = true) :
    exec (.qwaitComplete t k) s = .next (s.commit t ((Fx.ofTile (s.tile t)).finish ⟨t, s⟩ k q.seq)) := by
  have holds : holdingQwait ((s.tile t).queue k) = some q := by simp [holdingQwait, hk, hop, hst]
  refine congrArg Host.Outcome.next ?_
  simp only [holds, hr, hm, Bool.and_self, State.onTile_true]

/-- Settles O16: the QWAIT leaves its queue uncounted, and the units leave an empty queue as it is. -/
theorem qwaitCompletes : Obligations.QwaitCompletes := by
  unfold Obligations.QwaitCompletes
  intro s t k q x hr hk hop hst hn
  have alone := Tile.completed_qwait hk hop
  have fixed := Fx.finish_fixed (Fx.ofTile x) ⟨t, s⟩ k q.seq
  obtain ⟨empty, count⟩ := (Fx.pump_idle ((Fx.ofTile x).set (x.complete k q.seq)) ⟨t, s⟩).idle k
    ((Tile.complete_queue x k k q.seq).trans (by rw [if_pos rfl, alone]))
  have kept : (x.complete k q.seq).sc.qd k.code = x.sc.qd k.code := by
    rw [Tile.complete_qd, if_pos rfl, alone]
    exact BitVec.add_zero _
  refine .of_next (exec_qwaitComplete hr hk hop hst (reached_ofNat hn)) ?_
  rw [State.tile_commit]
  exact ⟨empty, count.trans kept, fixed.regs, fixed.pc, fixed.scr, fixed.vec, fixed.mx, fun r hr => State.tile_commit_ne s _ hr⟩

end Sys2Proof.Machine
end

section
/-! O45: the installation of a program in a partition one of whose places the mapping tables give no tile (R12, R469, log entry 67). The
value of such an entry decodes to the tile in row 6 and column 15 of site 63 all the same: the program is written there, but the resets leave
that tile out, since it is none of the partition's. -/

namespace Sys2Proof.Machine

/-- A partition of one block on site 0, with the power of that site. -/
def oneBlock : FurnPart :=
  { part := 0, bx := 0, byy := 0, bw := 1, bh := 1, bwMode := .uniform, power := .static, share := 300, g64 := 64, dmaWait := 64,
    slipHalt := 0, exact := .narrow, tuning := false, pool := [], adapterGrant := none, supSite := 0 }

def oneBlockFurnish : Furnish :=
  { sig := ⟨true, true, ⟨1, 1, []⟩, []⟩, slot := 0, key := 0, digest := 0, svn := 0, magic := [], fmtver := 1, binding := 0, length := 0,
    nsection := 0, sections := [], reserved := [], cap := 800, fanFloor := 0, cacheBytes := 0, pause := 0, sleepUnassigned := false, reamId := 0,
    parts := [oneBlock], grants := [], ranges := [], quotas := [], classes := [], swap := [], publishers := [], nodes := [], ream := [] }

/-- A program of one stage for that block, the same word of zeros in each of its tiles. -/
def oneStage : Program :=
  { pkg := ⟨[], 1, 2, 0, 0, 0, 0, 0, 0, 0, [], [], ⟨true, true, ⟨1, 1, []⟩, []⟩, 0⟩, exact := false, bw := 1, bh := 1, bwMode := .uniform,
    power := .static, entry := 0, stages := [⟨100, 0, 0, [], [], []⟩], images := [[0]], tileTable := List.replicate 64 0, memPlan := [],
    powerPlan := [], links := [], trees := [], sems := [], patches := [], kp := 1, q := 1, attnTiles := 1, lengthClass := 1, gamma := 0,
    adapterRank := 0, adapterArea := 0, factors := [], slotTable := [], bindTable := 0, segments := [] }

/-- The tile to which the value `noTile` decodes. -/
def strandedTile : PTile := ⟨63, 6, 15⟩

/-- The first place of the block has lost its tile, and the partition changes to its narrow program. In the stranded tile, which belongs to no
partition, register s1 holds 1. -/
def strandedState : State :=
  { State.reset with
    map := [(0, noTile)]
    furnish := some oneBlockFurnish
    tiles := [(strandedTile.key, { Tile.init with sc := { Scalar.init with regs := [(1, 1)] } })]
    parts := [(0, { Part.init with narrow := some oneStage, switching := some false })] }

theorem strandedState_place : (strandedState.ground oneBlock strandedState.map).tile 0 = strandedTile := by decide

theorem strandedState_passes : strandedState.programOk 0 oneStage strandedState.map = true := by decide +kernel

theorem strandedState_noneFails :
    ¬ ((strandedState.writeProgram 0 oneStage strandedState.map).resetTiles [] (strandedState.tilesOf 0)).anyFailed 0 = true := by
  decide +kernel

/-- The registers of a tile's scalar core after a step. -/
def coreRegs (t : PTile) : Out → Option (SMap Word)
  | .next u => some (u.tile t).sc.regs
  | _ => none

/-- The program change leaves the registers of the stranded tile as they were. -/
theorem strandedState_keepsRegs : coreRegs strandedTile (exec (.programChangeDone 0 true []) strandedState) = some [(1, 1)] := by
  decide +kernel

/-- Refutes O45: where the mapping tables name no tile for a place of the rectangle, the tile that the statement takes for that place
receives the program but is not reset, and its core keeps its registers. The statement does not ask that they name one for each place. -/
theorem not_programsAreInstalled : ¬ Obligations.ProgramsAreInstalled := by
  unfold Obligations.ProgramsAreInstalled
  intro h
  obtain ⟨-, -, -, changes⟩ := h strandedState 0 oneBlockFurnish oneBlock oneStage [] rfl (by decide)
  obtain ⟨installs, -⟩ := changes false true (by decide) (by decide) (by decide) (by decide)
  obtain ⟨change, -⟩ := installs rfl strandedState_passes (by decide) (by decide)
  obtain ⟨u, hu, ⟨-, -, -, -, tiles⟩, -⟩ := change strandedState_noneFails
  obtain ⟨-, -, regs, -⟩ := tiles 0 (by decide)
  rw [strandedState_place] at regs
  have kept := strandedState_keepsRegs
  rw [hu, coreRegs, regs] at kept
  cases kept

end Sys2Proof.Machine
end

section
/-! SUPPORT. Frames to the sessions (R547, R549): a frame that is sent reaches a session that stands, and what has been sent to a session,
or is queued for it, stays with it. -/

namespace Sys2Proof.Machine

/-! ### One session -/

/-- Session `y` has every frame that had been sent to `x` and not acknowledged, or was queued for it. -/
def Session.Follows (x y : Session) : Prop := x.unacked ++ x.queued ⊆ y.unacked ++ y.queued

namespace Session

section
variable (x : Session) (now : Nat) (f : Frame)

theorem rekey_follows : x.Follows x.rekey := by
  unfold Session.rekey
  split
  · intro g hg
    simp only [List.mem_append] at hg ⊢
    tauto
  · exact List.Subset.refl _

theorem push_follows : x.Follows (x.push now f) := by
  unfold Session.push
  split
  · intro g hg
    refine rekey_follows _ ?_
    simp only [List.mem_append] at hg ⊢
    tauto
  · intro g hg
    simp only [List.mem_append] at hg ⊢
    tauto

theorem mem_push : f ∈ (x.push now f).unacked ++ (x.push now f).queued := by
  unfold Session.push
  split
  · exact rekey_follows _ (by simp)
  · simp

@[simp] theorem rekey_heldCancels : x.rekey.heldCancels = x.heldCancels := by unfold Session.rekey; split <;> rfl

@[simp] theorem push_heldCancels : (x.push now f).heldCancels = x.heldCancels := by
  unfold Session.push
  split
  · exact rekey_heldCancels _
  · rfl

@[simp] theorem rekey_kept : x.rekey.kept = x.kept := by unfold Session.rekey; split <;> rfl

@[simp] theorem push_kept : (x.push now f).kept = x.kept := by
  unfold Session.push
  split
  · exact rekey_kept _
  · rfl

end

/-- A session to which a frame has been sent is not the value of an unlisted key. -/
theorem ne_init_of_mem {x : Session} {f : Frame} (h : f ∈ x.unacked ++ x.queued) : x ≠ Session.init := by
  rintro rfl
  cases h

theorem keepStatus_ne_init (x : Session) (id : BitVec 64) (st : Status) : x.keepStatus id st ≠ Session.init :=
  fun e => nomatch congrArg Session.kept e

end Session

/-! ### The sessions of a state -/

namespace Serv

/-- A session that stands in `x` stands in `y`, with its frames. -/
def Follows (x y : Serv) : Prop := ∀ n z, x.session n = some z → ∃ z', y.session n = some z' ∧ z.Follows z'

/-- Frame `f` is among those of session `n`; of the state that the sessions stand in this is `Received`. -/
def Holds (x : Serv) (n : Nat) (f : Frame) : Prop := ∃ z : Session, x.session n = some z ∧ f ∈ z.unacked ++ z.queued

section
variable {x y z : Serv}

theorem Follows.refl (x : Serv) : x.Follows x := fun _ v h => ⟨v, h, List.Subset.refl _⟩

theorem Follows.trans (h : x.Follows y) (k : y.Follows z) : x.Follows z := fun n v hv => by
  obtain ⟨v', hv', sub⟩ := h n v hv
  obtain ⟨v'', hv'', sub'⟩ := k n v' hv'
  exact ⟨v'', hv'', List.Subset.trans sub sub'⟩

theorem Follows.holds (h : x.Follows y) {n : Nat} {f : Frame} (k : x.Holds n f) : y.Holds n f := by
  obtain ⟨v, hv, hf⟩ := k
  obtain ⟨v', hv', sub⟩ := h n v hv
  exact ⟨v', hv', sub hf⟩

theorem Follows.of_sessions (h : y.sessions = x.sessions) : x.Follows y := fun n v hv =>
  ⟨v, by rw [Serv.session, h]; exact hv, List.Subset.refl _⟩

theorem session_of_set {n : Nat} {w : Session} (h : y.sessions = SMap.set Session.init x.sessions n w) (hw : w ≠ Session.init) (j : Nat) :
    y.session j = if j = n then some w else x.session j := by
  rw [Serv.session, h, SMap.find?_set hw]
  split <;> rfl

/-- A session written that follows the one that stood there. -/
theorem Follows.of_set {n : Nat} {v w : Session} (h : y.sessions = SMap.set Session.init x.sessions n w)
    (hw : w ≠ Session.init) (hv : x.session n = some v) (sub : v.Follows w) : x.Follows y := fun j a ha => by
  rw [session_of_set h hw]
  split
  next hj =>
    subst hj
    obtain rfl := Option.some.inj (hv.symm.trans ha)
    exact ⟨w, rfl, sub⟩
  next => exact ⟨a, ha, List.Subset.refl _⟩

end

section
variable (x : Serv) (n : Nat) (f : Frame) (id : BitVec 64) (st : Status)

theorem push_of_session {v : Session} (h : x.session n = some v) :
    (x.push n f).sessions = SMap.set Session.init x.sessions n (v.push x.now f) := by
  rw [Serv.push, h]

/-- A frame reaches the session that stands. -/
theorem session_push {v : Session} (h : x.session n = some v) : (x.push n f).session n = some (v.push x.now f) := by
  rw [session_of_set (push_of_session x n f h) (Session.ne_init_of_mem (v.mem_push x.now f)), if_pos rfl]

theorem push_follows : x.Follows (x.push n f) := by
  cases h : x.session n with
  | none => rw [Serv.push, h]; exact .refl x
  | some v => exact .of_set (push_of_session x n f h) (Session.ne_init_of_mem (v.mem_push x.now f)) h (v.push_follows x.now f)

theorem push_holds {v : Session} (h : x.session n = some v) : (x.push n f).Holds n f :=
  ⟨_, session_push x n f h, v.mem_push x.now f⟩

theorem keepStatus_of_session {v : Session} (h : x.session n = some v) :
    (x.keepStatus n id st).sessions = SMap.set Session.init x.sessions n (v.keepStatus id st) := by
  rw [Serv.keepStatus, h]

theorem session_keepStatus {v : Session} (h : x.session n = some v) : (x.keepStatus n id st).session n = some (v.keepStatus id st) := by
  rw [session_of_set (keepStatus_of_session x n id st h) (v.keepStatus_ne_init id st), if_pos rfl]

theorem keepStatus_follows : x.Follows (x.keepStatus n id st) := by
  cases h : x.session n with
  | none => rw [Serv.keepStatus, h]; exact .refl x
  | some v => exact .of_set (keepStatus_of_session x n id st h) (v.keepStatus_ne_init id st) h (List.Subset.refl _)

theorem sendStatus_follows : x.Follows (x.sendStatus n id st) := (keepStatus_follows x n id st).trans (push_follows _ n _)

/-- A terminal status reaches the session, which keeps it (R419, R421). -/
theorem sendStatus_session {v : Session} (h : x.session n = some v) :
    ∃ w, (x.sendStatus n id st).session n = some w ∧ .status id st ∈ w.unacked ++ w.queued ∧ (id, st) ∈ w.kept := by
  refine ⟨_, session_push _ n _ (session_keepStatus x n id st h), Session.mem_push _ _ _, ?_⟩
  rw [Session.push_kept]
  exact List.mem_cons_self ..

theorem sendStatus_holds {v : Session} (h : x.session n = some v) : (x.sendStatus n id st).Holds n (.status id st) := by
  obtain ⟨w, hw, hf, -⟩ := sendStatus_session x n id st h
  exact ⟨w, hw, hf⟩

theorem pushAll_follows (l : List (Nat × Frame)) : x.Follows (x.pushAll l) := by
  induction l generalizing x with
  | nil => exact .refl x
  | cons e r ih => exact (x.push_follows e.1 e.2).trans (ih _)

theorem endSlot_follows (now : Nat) (code detail : BitVec 8) (k : Nat) : x.Follows (x.endSlot now code detail k) := by
  unfold Serv.endSlot
  dsimp only
  split
  · split
    · refine Follows.trans ?_ (sendStatus_follows _ _ _ _)
      exact .of_sessions rfl
    · exact .of_sessions rfl
  · exact .refl x

theorem endSlots_follows (now : Nat) (code detail : BitVec 8) (ks : List Nat) : x.Follows (x.endSlots now code detail ks) := by
  induction ks generalizing x with
  | nil => exact .refl x
  | cons k r ih => exact (x.endSlot_follows now code detail k).trans (ih _)

end

end Serv

/-- Frames held are those of the session of the state. -/
theorem received_iff (u : State) (n : Nat) (f : Frame) : Received u n f ↔ u.serv.Holds n f := Iff.rfl

end Sys2Proof.Machine
end

section
/-! SUPPORT. The slot tables written again in a gap (R386, R387), and the return of a slot's pages (R420): what they leave alone. -/

namespace Sys2Proof.Machine

/-- Slots that are the same but for the positions in flight that a slot table states (R386). -/
def SameButNf (m m' : SMap Slot) : Prop :=
  ∀ k : Nat, { SMap.get Slot.init m' k with nf := 0 } = { SMap.get Slot.init m k with nf := 0 }

theorem SameButNf.refl (m : SMap Slot) : SameButNf m m := fun _ => rfl

theorem SameButNf.trans {a b c : SMap Slot} (h : SameButNf a b) (k : SameButNf b c) : SameButNf a c := fun n => (k n).trans (h n)

/-- What does not depend on the positions in flight reads the same. -/
theorem Slot.field_of_nf {α : Type} {y z : Slot} (h : { y with nf := 0 } = { z with nf := 0 }) (g : Slot → α)
    (hg : ∀ y : Slot, g { y with nf := 0 } = g y) : g y = g z := by rw [← hg, h, hg]

theorem SameButNf.field {α : Type} {m m' : SMap Slot} (h : SameButNf m m') (g : Slot → α) (hg : ∀ y : Slot, g { y with nf := 0 } = g y)
    (k : Nat) : g (SMap.get Slot.init m' k) = g (SMap.get Slot.init m k) := Slot.field_of_nf (h k) g hg

/-- One slot written, and the tables after it. -/
theorem OtherSlots.of_set {s u : State} {k : Nat} {y : Slot} (h : SameButNf (SMap.set Slot.init s.slots k y) u.slots) : OtherSlots s u k :=
  fun j hj => by rw [h j, SMap.get_set_ne _ _ _ hj]

/-- The entries of a map under a change of its values come from its entries. -/
theorem SMap.exists_mem_of_mem_mapVals {V : Type} [DecidableEq V] {d : V} {f : Nat → V → V} {m : SMap V} {e : Nat × V}
    (h : e ∈ SMap.mapVals d f m) : ∃ v, (e.1, v) ∈ m ∧ e.2 = f e.1 v := by
  induction m with
  | nil => cases h
  | cons a r ih =>
    obtain ⟨k, v⟩ := a
    have later : (∃ w, (e.1, w) ∈ r ∧ e.2 = f e.1 w) → ∃ w, (e.1, w) ∈ (k, v) :: r ∧ e.2 = f e.1 w :=
      fun ⟨w, hw, he⟩ => ⟨w, List.mem_cons_of_mem _ hw, he⟩
    rw [SMap.mapVals] at h
    split at h
    · exact later (ih (SMap.mem_del h))
    · rcases List.mem_cons.1 h with rfl | h
      · exact ⟨v, List.mem_cons_self .., rfl⟩
      · exact later (ih h)

section
variable (s : State) (p : Fin 32)

/-- The tables change the flits, the partition's outstanding writes and the positions in flight. -/
theorem State.refreshTables_only : ∃ (n : Net) (ws : List (Nat × CfgWrite)) (ps : SMap Part) (m : SMap Slot),
    s.refreshTables p = { s with net := n, parts := ps, slots := m } ∧
    SMap.get Part.init ps p.val = { s.part p with outWrites := ws } ∧
    (∀ r : Fin 32, r ≠ p → SMap.get Part.init ps r.val = s.part r) ∧
    SameButNf s.slots m ∧ ∀ e ∈ m, ∃ y, (e.1, y) ∈ s.slots ∧ { e.2 with nf := 0 } = { y with nf := 0 } := by
  unfold State.refreshTables
  split
  · unfold State.writeTables
    dsimp only
    refine ⟨_, _, _, _, rfl, SMap.get_set_self .., fun r hr => SMap.get_set_ne _ _ _ fun e => hr (Fin.ext e), ?_, ?_⟩
    · split
      · exact .refl _
      · refine fun k => SMap.get_mapVals_field Slot.init (fun y : Slot => { y with nf := 0 }) (fun k y => ?_) s.slots k
        split <;> rfl
    · split
      · exact fun e he => ⟨e.2, he, rfl⟩
      · intro e he
        obtain ⟨y, hy, eq⟩ := SMap.exists_mem_of_mem_mapVals he
        refine ⟨y, hy, ?_⟩
        rw [eq]
        split <;> rfl
  · exact ⟨s.net, (s.part p).outWrites, s.parts, s.slots, rfl, rfl, fun _ _ => rfl, .refl _, fun e he => ⟨e.2, he, rfl⟩⟩

theorem State.refreshTables_slots : SameButNf s.slots (s.refreshTables p).slots := by
  obtain ⟨n, ws, ps, m, eq, -, -, slots, -⟩ := s.refreshTables_only p
  rw [eq]
  exact slots

theorem State.refreshTables_part : ∃ ws, (s.refreshTables p).part p = { s.part p with outWrites := ws } := by
  obtain ⟨n, ws, ps, m, eq, self, -⟩ := s.refreshTables_only p
  exact ⟨ws, by rw [eq]; exact self⟩

theorem State.refreshTables_part_ne {r : Fin 32} (h : r ≠ p) : (s.refreshTables p).part r = s.part r := by
  obtain ⟨n, ws, ps, m, eq, -, other, -⟩ := s.refreshTables_only p
  rw [eq]
  exact other r h

@[simp] theorem State.refreshTables_tiles : (s.refreshTables p).tiles = s.tiles := by
  obtain ⟨n, ws, ps, m, eq, -⟩ := s.refreshTables_only p
  rw [eq]

@[simp] theorem State.refreshTables_sessions : (s.refreshTables p).sessions = s.sessions := by
  obtain ⟨n, ws, ps, m, eq, -⟩ := s.refreshTables_only p
  rw [eq]

@[simp] theorem State.refreshTables_bbx : (s.refreshTables p).bbx = s.bbx := by
  obtain ⟨n, ws, ps, m, eq, -⟩ := s.refreshTables_only p
  rw [eq]

end

/-! ### Records of loft reads stand in the sites' rings -/

section
variable (s : State)

theorem State.entryErrs_recs (l : List (Nat × Nat)) : (s.entryErrs none l).bbx.recs = s.bbx.recs := by
  induction l generalizing s with
  | nil => rfl
  | cons e r ih => exact (ih _).trans (Bbx.siteLogAll_supervisor ..).1

theorem State.makeEdit_bbx (e : PageEdit) : (s.makeEdit e).bbx = s.bbx := by
  unfold State.makeEdit
  dsimp only
  split
  · rfl
  · split <;> rfl

theorem State.pageEdits_recs (l : List PageEdit) : (s.pageEdits l).bbx.recs = s.bbx.recs := by
  induction l generalizing s with
  | nil => rfl
  | cons e r ih => exact (ih _).trans ((congrArg Bbx.recs (State.makeEdit_bbx _ e)).trans (State.entryErrs_recs s _))

theorem State.startReturn_recs (k : Nat) : (s.startReturn k).bbx.recs = s.bbx.recs := by
  unfold State.startReturn
  dsimp only
  split
  · exact State.pageEdits_recs s _
  · rfl

end

/-- The return of a slot's pages changes its partition in the edit queues and the mappings. -/
theorem State.startReturn_slot (s : State) (p : Fin 32) (slot : Fin 128) : PagesOnly p s (s.startReturn (p.val * 128 + slot.val)) := by
  have part : Fin.ofNat 32 ((p.val * 128 + slot.val) / 128) = p := Fin.ext (by simp only [Fin.ofNat]; omega)
  have only := s.startReturn_only (p.val * 128 + slot.val)
  rwa [part] at only

end Sys2Proof.Machine
end

section
/-! O43: deadlines (R397, R398), token frames in continuity (R421, R473–R475), and slots that become FREE (R420). -/

namespace Sys2Proof.Machine

/-- What a session holds is read from the map of the sessions. -/
theorem Received.of_sessions {u v : State} (h : u.sessions = v.sessions) {n : Nat} {f : Frame} (k : v.serv.Holds n f) : Received u n f := by
  obtain ⟨z, hz, hf⟩ := k
  exact ⟨z, by rw [State.session, h]; exact hz, hf⟩

section
variable {s : State} {p : Fin 32} {slot : Fin 128}

/-! ### Deadlines -/

theorem State.live_of_late {y : Slot} (h : s.late y = true) : y.live = true := by
  unfold State.late at h
  simp only [Bool.and_eq_true] at h
  exact h.1.1.1

theorem State.expire_slots {k : Nat} (h : (SMap.get Slot.init s.slots k).live = true) :
    (s.expire p k).slots = SMap.set Slot.init s.slots k ((SMap.get Slot.init s.slots k).ended 5 3 s.now) :=
  (Serv.endSlot_slots s.serv s.now 5 3 k).trans (if_pos h)

/-- The slot ends late (R398). -/
theorem deadlineExpiry_clause (h : s.late (s.slot p slot) = true) : Completes (.deadlineExpiry p slot) s fun u =>
    (u.slot p slot).st = .ended ∧ (u.slot p slot).status = some ⟨5, 3, (s.slot p slot).handed⟩ ∧ (u.slot p slot).toks = (s.slot p slot).toks ∧
    OtherSlots s u (p.val * 128 + slot.val) ∧ (u.part p).late = satAdd (s.part p).late 1 ∧ u.tiles = s.tiles ∧
    (s.bbx.frozen = false → (SMap.get BbxRec.init u.bbx.recs s.bbx.next.toNat).event = evtLate) := by
  let k := p.val * 128 + slot.val
  have step : exec (.deadlineExpiry p slot) s = .next (((s.expire p k).refreshTables p).startReturn k) :=
    congrArg Host.Outcome.next (if_pos h)
  have pages := ((s.expire p k).refreshTables p).startReturn_slot p slot
  have slots : SameButNf (SMap.set Slot.init s.slots k ((s.slot p slot).ended 5 3 s.now))
      (((s.expire p k).refreshTables p).startReturn k).slots := by
    rw [pages.slots]
    exact (State.expire_slots (p := p) (State.live_of_late h)) ▸ State.refreshTables_slots _ p
  have read {α : Type} (g : Slot → α) (hg : ∀ y : Slot, g { y with nf := 0 } = g y) := (slots.field g hg k).trans (congrArg g (SMap.get_set_self ..))
  refine .of_next step ⟨read Slot.st fun _ => rfl, read Slot.status fun _ => rfl, read Slot.toks fun _ => rfl, .of_set slots, ?_, ?_, fun hb => ?_⟩
  · obtain ⟨qs, ms, part⟩ := pages.2.2.1
    obtain ⟨ws, tables⟩ := (s.expire p k).refreshTables_part p
    rw [part, tables]
    exact congrArg Part.late (SMap.get_set_self ..)
  · rw [pages.tiles, State.refreshTables_tiles]
    rfl
  · rw [State.startReturn_recs, State.refreshTables_bbx]
    exact congrArg BbxRec.event (Bbx.append_recAt_self hb _)

/-! ### Token frames -/

/-- The port's step on a slot's status touches one slot, in the mark that the status has been sent. -/
theorem Serv.statusAfter_slots (x : Serv) (k : Nat) :
    (∃ b, SMap.get Slot.init (x.statusAfter k).slots k = { SMap.get Slot.init x.slots k with statusSent := b }) ∧
    ∀ j : Nat, j ≠ k → SMap.get Slot.init (x.statusAfter k).slots j = SMap.get Slot.init x.slots j := by
  unfold Serv.statusAfter
  dsimp only
  split
  · exact ⟨⟨_, rfl⟩, fun _ _ => rfl⟩
  · split
    · exact ⟨⟨_, rfl⟩, fun _ _ => rfl⟩
    · rw [Serv.sendStatus_slots]
      exact ⟨⟨true, SMap.get_set_self ..⟩, fun j hj => SMap.get_set_ne _ _ _ hj⟩

theorem Serv.statusAfter_follows (x : Serv) (k : Nat) : x.Follows (x.statusAfter k) := by
  unfold Serv.statusAfter
  dsimp only
  split
  · exact .refl x
  · split
    · exact .refl x
    · refine Serv.Follows.trans ?_ (Serv.sendStatus_follows _ _ _ _)
      exact .of_sessions rfl

/-- A status behind the last token frame is sent (R421). -/
theorem Serv.statusAfter_sends {x : Serv} {k : Nat} {y : Slot} {st : Status} {z : Session} (hy : SMap.get Slot.init x.slots k = y)
    (hst : y.status = some st) (hsent : y.statusSent = false) (hq : y.portQ = []) (hz : x.session y.session = some z) :
    (SMap.get Slot.init (x.statusAfter k).slots k).statusSent = true ∧ (x.statusAfter k).Holds y.session (.status y.reqId st) := by
  have eq : x.statusAfter k = ({ x with slots := SMap.set Slot.init x.slots k { y with statusSent := true } } : Serv).sendStatus y.session y.reqId st := by
    simp only [Serv.statusAfter, hy, hst, hsent, hq]
    rfl
  rw [eq, Serv.sendStatus_slots]
  exact ⟨congrArg Slot.statusSent (SMap.get_set_self ..), Serv.sendStatus_holds _ _ _ _ hz⟩

/-- The slot `y` once the port has sent its oldest token frame. -/
def Slot.tokensSent (y : Slot) (f : TokFrame) (rest : List TokFrame) (last : Nat) : Slot :=
  { y with sent := y.sent + f.toks.length, portQ := rest, tLast := last }

/-- What the port has sent, and the slot, before the slot's status. -/
def State.tokensServ (s : State) (k : Nat) (y : Slot) (f : TokFrame) (rest : List TokFrame) : Serv :=
  let v := s.serv.push y.session (.tokens y.reqId f.k f.toks)
  { v with slots := SMap.set Slot.init v.slots k (y.tokensSent f rest (if s.sendsNow y.session then s.now else y.tLast)) }

/-- What the port has sent, with the status where it was due. -/
def State.tokensState (s : State) (k : Nat) (y : Slot) (f : TokFrame) (rest : List TokFrame) : State :=
  let w := (s.tokensServ k y f rest).statusAfter k
  { s with slots := w.slots, sessions := w.sessions, phw := w.phw }

theorem State.sendTokens_eq (s : State) (k : Nat) (y : Slot) (f : TokFrame) (rest : List TokFrame) :
    s.sendTokens k y f rest = (s.tokensState k y f rest).startReturn k := rfl

section
variable {f : TokFrame} {rest : List TokFrame} {z : Session} (hq : (s.slot p slot).portQ = f :: rest)
  (hz : s.session (s.slot p slot).session = some z)
include hq hz

/-- A frame in continuity leaves, and the slot's status behind the last one (R421, R473, R548). -/
theorem portTokenFrame_clause_sent (hk : f.k = (s.slot p slot).sent + 1) : Completes (.portTokenFrame p slot) s fun u =>
    let y := s.slot p slot
    (u.slot p slot).sent = y.sent + f.toks.length ∧ (u.slot p slot).portQ = rest ∧
    (u.slot p slot).tLast = (if z.canSend true = true then s.now else y.tLast) ∧
    (u.slot p slot).toks = y.toks ∧ Received u y.session (.tokens y.reqId f.k f.toks) ∧ OtherSlots s u (p.val * 128 + slot.val) ∧
    (y.status = none → y.st ≠ .ended → u.parts = s.parts) ∧ (∀ r : Fin 32, r ≠ p → u.part r = s.part r) ∧
    (∀ st : Status, rest = [] → y.status = some st → y.statusSent = false →
      (u.slot p slot).statusSent = true ∧ Received u y.session (.status y.reqId st)) := by
  let k := p.val * 128 + slot.val
  let y := s.slot p slot
  let v := s.tokensServ k y f rest
  let t := s.tokensState k y f rest
  have step : exec (.portTokenFrame p slot) s = .next (t.startReturn k) := by
    simp only [exec, execPortTokenFrame, hq, if_pos hk, State.sendTokens_eq]
    rfl
  have pages := t.startReturn_slot p slot
  have now : s.sendsNow y.session = z.canSend true := by rw [State.sendsNow, hz]
  have before : SMap.get Slot.init v.slots k = y.tokensSent f rest (if z.canSend true then s.now else y.tLast) := by
    rw [← now]
    exact SMap.get_set_self ..
  obtain ⟨⟨b, self⟩, others⟩ := v.statusAfter_slots k
  rw [before] at self
  have slot_eq : (t.startReturn k).slot p slot = { y.tokensSent f rest (if z.canSend true then s.now else y.tLast) with statusSent := b } := by
    rw [State.slot, pages.slots]
    exact self
  have session : v.session y.session = some (z.push s.now (.tokens y.reqId f.k f.toks)) := Serv.session_push s.serv _ _ hz
  have tokens : v.Holds y.session (.tokens y.reqId f.k f.toks) := Serv.push_holds s.serv _ _ hz
  refine .of_next step ⟨by rw [slot_eq]; rfl, by rw [slot_eq]; rfl, by rw [slot_eq]; rfl, by rw [slot_eq]; rfl,
    .of_sessions pages.sessions ((v.statusAfter_follows k).holds tokens), fun j hj => ?_, fun _ hlive => ?_, fun r hr => pages.other hr,
    fun st hr hst hsent => ?_⟩
  · rw [pages.slots]
    refine congrArg (fun y : Slot => { y with nf := 0 }) ((others j hj).trans ?_)
    exact (SMap.get_set_ne _ _ _ hj).trans (congrArg (SMap.get Slot.init · j) (Serv.push_slots ..))
  · have st : (SMap.get Slot.init t.slots k).st = y.st := (congrArg Slot.st self :)
    rw [State.startReturn_live (by rw [st]; exact hlive)]
    rfl
  · obtain ⟨sent, status⟩ := Serv.statusAfter_sends before hst hsent hr session
    refine ⟨?_, .of_sessions pages.sessions status⟩
    rw [State.slot, pages.slots]
    exact sent

/-- A frame out of continuity ends its request and closes the partition (R474, R475). -/
theorem portTokenFrame_clause_fault (hk : f.k ≠ (s.slot p slot).sent + 1) : Completes (.portTokenFrame p slot) s fun u =>
    let y := s.slot p slot
    (u.slot p slot).portQ = [] ∧ (u.slot p slot).sent = y.sent ∧ (u.part p).open_ = false ∧ (u.part p).resetDue = true ∧
    u.sup.auditTokens = satAdd s.sup.auditTokens 1 ∧ u.sup.auditKind = 5 ∧ u.sup.auditPart = BitVec.ofNat 5 p.val ∧
    (y.statusSent = false → (u.slot p slot).status = some ⟨5, 4, y.sent⟩ ∧ Received u y.session (.status y.reqId ⟨5, 4, y.sent⟩)) ∧
    ∀ j : Nat, j / 128 = p.val → (SMap.get Slot.init u.slots j).live = false := by
  let k := p.val * 128 + slot.val
  let y := s.slot p slot
  let t := s.endUnsent k y
  have step : exec (.portTokenFrame p slot) s = .next (s.tokenFault p k y (y.sent + 1) f.k) := by
    simp only [exec, execPortTokenFrame, hq, if_neg hk]
    rfl
  have written : SMap.get Slot.init t.slots k = { y with
      portQ := [], handed := y.sent, st := .ended, statusSent := true, tEnd := if y.live then s.now else y.tEnd
      status := if y.statusSent then y.status else some ⟨5, 4, y.sent⟩ } := by
    refine (congrArg (SMap.get Slot.init · k) ?_).trans (SMap.get_set_self Slot.init s.slots k _)
    cases h : y.statusSent
    · simp only [t, State.endUnsent, h]
      exact Serv.sendStatus_slots ..
    · simp only [t, State.endUnsent, h]
      rfl
  have self : (s.tokenFault p k y (y.sent + 1) f.k).slot p slot = SMap.get Slot.init t.slots k :=
    Serv.endSlots_get_of_not_live (x := t.serv) _ _ _ _ (by rw [show t.serv.slots = t.slots from rfl, written]; rfl)
  rw [written] at self
  have closed : (s.tokenFault p k y (y.sent + 1) f.k).part p = (t.part p).close := SMap.get_set_self ..
  refine .of_next step ⟨by rw [self], by rw [self], by rw [closed]; rfl, by rw [closed]; rfl, rfl, rfl, rfl, fun hs => ⟨?_, ?_⟩, fun j hj =>
    t.endServ_not_live (List.mem_singleton_self p) 5 4 hj⟩
  · rw [self]
    exact if_neg (by rw [show (s.slot p slot).statusSent = false from hs]; nofun)
  · have status : t.serv.Holds y.session (.status y.reqId ⟨5, 4, y.sent⟩) := by
      simp only [t, State.endUnsent, show y.statusSent = false from hs]
      exact Serv.sendStatus_holds _ _ _ _ hz
    exact (Serv.endSlots_follows t.serv t.now 5 4 (t.liveSlots [p])).holds status

end

/-! ### FREE -/

/-- Frames that stay used when a slot of unmapped pages gives up its own: none (R460). -/
theorem Part.stays_of_unmapped {x : Part} {y : Slot} (h : x.maps.all (fun m => !y.holds m.handle) = true) : x.stays y = 0 := by
  have none_ : x.maps.filter (fun m => y.holds m.handle && m.own && x.kept.contains m.frame && !x.treeHolds m.frame) = [] :=
    List.filter_eq_nil_iff.2 fun m hm => by
      have free := List.all_eq_true.1 h m hm
      simp only [Bool.not_eq_true'] at free
      simp [free]
  rw [Part.stays, none_]
  exact Nat.min_zero _

/-- An ended slot becomes FREE, and what it held of the pool returns (R417, R420). -/
theorem slotFree_clause (h : s.mayFree p (s.slot p slot) = true) : Completes (.slotFree p slot) s fun u =>
    let y := s.slot p slot
    let x := s.part p
    u.slot p slot = Slot.init ∧ OtherSlots s u (p.val * 128 + slot.val) ∧ u.tiles = s.tiles ∧
    (y.adapt = none → (u.part p).free = x.free + y.rsv + y.used ∧ (u.part p).rsv = x.rsv - y.rsv ∧ (u.part p).used = x.used - y.used) ∧
    ∀ r : Fin 32, r ≠ p → u.part r = s.part r := by
  let k := p.val * 128 + slot.val
  let y := s.slot p slot
  let t : State := { s with
    slots := SMap.set Slot.init s.slots k Slot.init
    parts := SMap.set Part.init s.parts p.val ((s.part p).releaseSlot y) }
  have step : exec (.slotFree p slot) s = .next (t.refreshTables p) := congrArg Host.Outcome.next (if_pos h)
  have free : SMap.get Slot.init t.slots k = Slot.init := SMap.get_set_self Slot.init s.slots k Slot.init
  have part : t.part p = (s.part p).releaseSlot y := SMap.get_set_self ..
  have stays : (s.part p).stays y = 0 := Part.stays_of_unmapped (Bool.and_eq_true_iff.1 h).2
  refine .of_next step ⟨?_, .of_set (k := k) (y := Slot.init) (t.refreshTables_slots p), t.refreshTables_tiles p, fun ha => ?_, fun r hr => ?_⟩
  · rw [State.slot, State.refreshTables]
    split
    · exact State.writeTables_slots t p free
    · exact free
  · obtain ⟨ws, tables⟩ := t.refreshTables_part p
    have released : (s.part p).releaseSlot y = ({ s.part p with
        free := (s.part p).free + (y.rsv + y.used - (s.part p).stays y), rsv := (s.part p).rsv - y.rsv,
        used := (s.part p).used - y.used + (s.part p).stays y
        maps := (s.part p).maps.filter fun m => !y.holds m.handle } : Part).refNodes y.nodes false 0 := by
      rw [Part.releaseSlot, show y.adapt = none from ha, Part.unbind]
    rw [tables, part, released, stays]
    exact ⟨(Nat.add_assoc ..).symm, rfl, rfl⟩
  · exact (t.refreshTables_part_ne p hr).trans (State.part_setPart_ne s _ hr)

end

/-- Settles O43: each command by its own clause. -/
theorem slotsEnd : Obligations.SlotsEnd := by
  unfold Obligations.SlotsEnd
  exact fun s p slot => ⟨deadlineExpiry_clause, fun f rest z hq hz => ⟨portTokenFrame_clause_sent hq hz, portTokenFrame_clause_fault hq hz⟩,
    slotFree_clause⟩

end Sys2Proof.Machine
end

section
/-! SUPPORT. Messages of a session and their answers (R419, R547, R549): the state that has heard a message, and answers, which leave
everything but the sessions and the ports' counts. -/

namespace Sys2Proof.Machine

/-- `u` is `s` but for the sessions and the ports' counts, and the sessions have their frames. -/
structure State.Sends (s u : State) : Prop where
  rest : ∃ (z : SMap Session) (c : SMap PhwPort), u = { s with sessions := z, phw := c }
  follows : s.serv.Follows u.serv

namespace State.Sends

variable {s t u : State}

theorem refl (s : State) : s.Sends s := ⟨⟨_, _, rfl⟩, .refl _⟩

theorem trans (h : s.Sends t) (k : t.Sends u) : s.Sends u := by
  obtain ⟨⟨z, c, rfl⟩, hf⟩ := h
  obtain ⟨⟨z', c', rfl⟩, kf⟩ := k
  exact ⟨⟨z', c', rfl⟩, hf.trans kf⟩

theorem slots (h : s.Sends u) : u.slots = s.slots := by obtain ⟨⟨_, _, rfl⟩, -⟩ := h; rfl
theorem parts (h : s.Sends u) : u.parts = s.parts := by obtain ⟨⟨_, _, rfl⟩, -⟩ := h; rfl
theorem tiles (h : s.Sends u) : u.tiles = s.tiles := by obtain ⟨⟨_, _, rfl⟩, -⟩ := h; rfl

theorem part (h : s.Sends u) (p : Fin 32) : u.part p = s.part p := by rw [State.part, h.parts, State.part]

end State.Sends

/-! ### Answers -/

theorem fragments_admitted (id : BitVec 64) (c d : BitVec 8) (bf bt : Nat) :
    fragments (.admitted id c d bf bt) = [.admitted id c d bf bt] := rfl

theorem fragments_status (id : BitVec 64) (st : Status) : fragments (.status id st) = [.status id st] := rfl

section
variable (s : State) (n : Nat) (f : Frame)

theorem State.answer_sends : s.Sends (s.answer n f) := by
  let v := s.serv.pushAll ((fragments f).map fun g => (n, g))
  refine ⟨⟨v.sessions, v.phw, ?_⟩, Serv.pushAll_follows s.serv _⟩
  rw [State.answer, Serv.pushAll_slots]
  rfl

/-- A message of one frame reaches the session. -/
theorem State.session_answer (hf : fragments f = [f]) {z : Session} (hz : s.session n = some z) :
    (s.answer n f).session n = some (z.push s.now f) := by
  have pushed : (s.answer n f).session n = (s.serv.pushAll ((fragments f).map fun g => (n, g))).session n := rfl
  rw [pushed, hf]
  exact Serv.session_push s.serv n f hz

theorem State.answer_holds (hf : fragments f = [f]) {z : Session} (hz : s.session n = some z) : (s.answer n f).serv.Holds n f :=
  ⟨_, s.session_answer n f hf hz, z.mem_push s.now f⟩

/-- The same answer given to each of a list of messages. -/
theorem State.answers_sends (l : List Nat) : s.Sends (l.foldl (fun s _ => s.answer n f) s) := by
  induction l generalizing s with
  | nil => exact .refl s
  | cons a r ih => exact (s.answer_sends n f).trans (ih _)

theorem State.answers_hold (hf : fragments f = [f]) {z : Session} (hz : s.session n = some z) {l : List Nat} (hl : l ≠ []) :
    (l.foldl (fun s _ => s.answer n f) s).serv.Holds n f := by
  cases l with
  | nil => exact absurd rfl hl
  | cons a r => exact ((s.answer n f).answers_sends n f r).follows.holds (s.answer_holds n f hf hz)

end

/-! ### Messages heard, and cancels held -/

/-- The session when a message of it has been accepted (R549). -/
def Session.heard (x : Session) (now : Nat) : Session := { x with lastRx := now, rxSeq := x.rxSeq + 1 }

section
variable {s : State} {n : Nat} {x : Session}

theorem State.session_heard (h : Talks s n x) : (s.heard n x).session n = some (x.heard s.now) := by
  have differs : x.heard s.now ≠ Session.init := fun e => by
    have ticket := congrArg Session.ticketUsed e
    rw [show (x.heard s.now).ticketUsed = x.ticketUsed from rfl, h.ticket] at ticket
    cases ticket
  refine (congrArg (Option.map (·.2)) (SMap.find?_set differs s.sessions n n)).trans ?_
  rw [if_pos rfl]
  rfl

theorem State.onMsg_of_talks (h : Talks s n x) (f : Session → State → State) : s.onMsg n f = f x (s.heard n x) := by
  rw [State.onMsg, h.found]
  simp only [h.here]
  rfl

variable {z : Session} (hz : s.session n = some z) (id : BitVec 64)
include hz

/-- The cancels held for a request leave the session when it is decided (R419). -/
theorem State.takeHeld_eq : s.takeHeld n id = ((z.heldCancels.filter (· == id)).length, { s with
    sessions := SMap.set Session.init s.sessions n { z with heldCancels := z.heldCancels.filter (· != id) } }) := by
  rw [State.takeHeld, hz]

theorem State.takeHeld_sends {f : Frame} (hf : f ∈ z.unacked ++ z.queued) : s.Sends (s.takeHeld n id).2 := by
  rw [State.takeHeld_eq hz]
  refine ⟨⟨_, _, rfl⟩, .of_set (w := { z with heldCancels := z.heldCancels.filter (· != id) }) rfl ?_ hz (List.Subset.refl _)⟩
  exact Session.ne_init_of_mem (f := f) hf

theorem State.takeHeld_count_pos (h : id ∈ z.heldCancels) : List.range (s.takeHeld n id).1 ≠ [] := by
  rw [State.takeHeld_eq hz]
  intro e
  have none_ := List.filter_eq_nil_iff.1 (List.length_eq_zero_iff.1 (List.range_eq_nil.1 e)) id h
  exact none_ (beq_self_eq_true id)

theorem State.takeHeld_count_zero (h : id ∉ z.heldCancels) : List.range (s.takeHeld n id).1 = [] := by
  rw [State.takeHeld_eq hz]
  have none_ : z.heldCancels.filter (· == id) = [] := List.filter_eq_nil_iff.2 fun a ha e => h (beq_iff_eq.1 e ▸ ha)
  rw [none_]
  rfl

end

end Sys2Proof.Machine
end

section
/-! SUPPORT. Admission (R389, R390): the tests of R390 one by one, and what a request that is not accepted leaves. -/

namespace Sys2Proof.Machine

/-! ### The models that are absent -/

/-- `id` is the first of the request's models that is not resident. -/
def Part.Absent (x : Part) (q : Request) (id : BitVec 16) : Prop :=
  x.model id = none ∧ (id = q.model ∨ (q.draft = some id ∧ x.model q.model ≠ none))

theorem Part.find_absent (x : Part) (q : Request) (id : BitVec 16) :
    (q.model :: q.draft.toList).find? (fun id => (x.model id).isNone) = some id ↔ x.Absent q id := by
  unfold Part.Absent
  cases hm : x.model q.model with
  | none =>
    rw [List.find?_cons_of_pos (by rw [hm]; rfl), Option.some_inj]
    exact ⟨fun e => ⟨e ▸ hm, .inl e.symm⟩, fun h => (h.2.resolve_right fun k => k.2 rfl).symm⟩
  | some m =>
    rw [List.find?_cons_of_neg (by rw [hm]; nofun)]
    cases hd : q.draft with
    | none =>
      refine iff_of_false nofun ?_
      rintro ⟨h, rfl | ⟨h', -⟩⟩
      · rw [hm] at h; cases h
      · cases h'
    | some d =>
      rw [Option.toList_some, List.find?_singleton]
      constructor
      · intro h
        split at h
        next hn => exact ⟨Option.some.inj h ▸ Option.isNone_iff_eq_none.1 hn, .inr ⟨h, nofun⟩⟩
        next => cases h
      · rintro ⟨h, rfl | ⟨hs, -⟩⟩
        · rw [hm] at h; cases h
        · rw [Option.some.inj hs, h]; rfl

theorem Part.find_absent_none {x : Part} {q : Request} (h : ∀ id : BitVec 16, ¬ x.Absent q id) :
    (q.model :: q.draft.toList).find? (fun id => (x.model id).isNone) = none := by
  cases hf : (q.model :: q.draft.toList).find? (fun id => (x.model id).isNone) with
  | none => rfl
  | some id => exact absurd ((x.find_absent q id).1 hf) (h id)

section
variable {s : State} {p : Fin 32} {id : BitVec 16}

theorem State.absentModel_unlisted (h : s.entryIndex p id = none) : s.absentModel p id = .absent none := by
  rw [State.absentModel, h]

/-- A load of the entry runs or waits (R432). -/
def Load.Brings (l : Load) (e : Nat) : Prop :=
  (l.entry = some e ∧ l.state ≠ 0 ∧ l.state ≠ 8 ∧ l.state ≠ 9) ∨ ∃ y ∈ l.queue ++ l.later, y.1 = e

theorem Load.brings_iff (l : Load) (e : Nat) :
    ((l.entry == some e && l.state != 0 && l.state != 8 && l.state != 9) || l.waiting e) = true ↔ l.Brings e := by
  simp only [Load.Brings, Load.waiting, Bool.or_eq_true, Bool.and_eq_true, beq_iff_eq, bne_iff_ne, List.any_eq_true, and_assoc]

variable {e : Nat} {w : SwapEntry} (hi : s.entryIndex p id = some e) (hw : s.entryOf p (some e) = some w)
include hi hw

theorem State.absentModel_starts (h : w.auto = true ∨ (s.part p).load.Brings e) : s.absentModel p id = .absent (some e) := by
  simp only [State.absentModel, hi, hw]
  refine if_pos ?_
  rw [Bool.or_eq_true, Load.brings_iff]
  exact h.symm

theorem State.absentModel_stays (ha : w.auto = false) (h : ¬ (s.part p).load.Brings e) : s.absentModel p id = .absent none := by
  simp only [State.absentModel, hi, hw]
  refine if_neg ?_
  rw [Bool.or_eq_true, Load.brings_iff, ha]
  exact fun k => k.elim h nofun

end

/-! ### The decision -/

section
variable (s : State) (q : Request) (f : FurnPart) (fu : Furnish) (g : Program)

/-- The tests of R390 of a request whose models are resident. -/
def State.consider : Decision :=
  let x := s.part q.part
  if q.adapter.any fun a => (x.current a).isNone then .reject 0x15 0
  else if x.halted then .reject 0x13 5
  else if s.throttles q.part then .reject 0x13 6
  else if x.switching.isSome then .reject 0x13 7
  else if effMode f q != x.isExact then if s.allFree q.part then .change (effMode f q) else .reject 0x13 4
  else s.fit q f fu g

theorem State.throttles_iff (p : Fin 32) : s.throttles p = true ↔ ∃ i : Fin 64, (s.site i).tstate = 1 ∧ p ∈ s.affected i := by
  simp only [State.throttles, List.any_eq_true, mem_allSites, true_and, Bool.and_eq_true, beq_iff_eq, List.contains_iff_mem]

end

section
variable {s : State} {n : Nat} {nd : Node} {q : Request}

theorem State.decide_of_refused {d : BitVec 8} (h : s.refusal n nd q = some d) : s.decide n nd q = .reject 0x16 d := by
  simp only [State.decide, h]

section
variable (hr : s.refusal n nd q = none)
include hr

theorem State.decide_of_hot (h : (s.part q.part).thermClosed = true) : s.decide n nd q = .reject 0x13 6 := by
  simp only [State.decide, hr, h, if_true]

variable (ht : (s.part q.part).thermClosed = false) {fu : Furnish} {f : FurnPart} {g : Program} (hu : s.furnish = some fu)
  (hf : s.furnPart q.part = some f) (hg : (s.part q.part).program = some g)
include ht hu hf hg

theorem State.decide_of_closed (h : (s.part q.part).oos = true ∨ (s.part q.part).loaded = false ∨ (s.part q.part).resetDue = true ∨
    (s.part q.part).open_ = false) : s.decide n nd q = .reject 0x13 8 := by
  have closed : ((s.part q.part).oos || !(s.part q.part).loaded || (s.part q.part).resetDue || !(s.part q.part).open_) = true := by
    rcases h with h | h | h | h <;> simp [h]
  simp only [State.decide, hr, ht, hu, hf, hg, closed, if_true]
  rfl

variable (ho : (s.part q.part).oos = false) (hl : (s.part q.part).loaded = true) (hd : (s.part q.part).resetDue = false)
  (hp : (s.part q.part).open_ = true)
include ho hl hd hp

theorem State.decide_of_absent {id : BitVec 16} (h : (s.part q.part).Absent q id) : s.decide n nd q = s.absentModel q.part id := by
  simp only [State.decide, hr, ht, hu, hf, hg, ho, hl, hd, hp, ((s.part q.part).find_absent q id).2 h]
  rfl

theorem State.decide_of_resident (h : ∀ id : BitVec 16, ¬ (s.part q.part).Absent q id) : s.decide n nd q = s.consider q f fu g := by
  simp only [State.decide, hr, ht, hu, hf, hg, ho, hl, hd, hp, Part.find_absent_none h]
  cases ha : q.adapter <;> simp [State.consider, ha]

end

/-! ### An accepted request -/

/-- A test that rejects was passed by what is accepted. -/
theorem Decision.ite_reject_eq_accept {P : Prop} [Decidable P] {c d : BitVec 8} {e : Decision} {a : Plan} :
    (if P then .reject c d else e) = Decision.accept a ↔ ¬ P ∧ e = .accept a := by
  by_cases h : P <;> simp [h]

theorem State.fit_slot {f : FurnPart} {fu : Furnish} {g : Program} {a : Plan} (h : s.fit q f fu g = .accept a) :
    s.freeSlot q.part = some a.slot := by
  unfold State.fit at h
  dsimp only at h
  obtain ⟨-, h⟩ := Decision.ite_reject_eq_accept.1 h
  split at h
  · cases h
  next k hk =>
    obtain ⟨-, -, -, -, h⟩ := by simpa only [Decision.ite_reject_eq_accept] using h
    rw [hk, ← Decision.accept.inj h]

theorem State.absentModel_ne_accept (p : Fin 32) (id : BitVec 16) (a : Plan) : s.absentModel p id ≠ .accept a := by
  unfold State.absentModel
  dsimp only
  split
  · nofun
  · split
    · nofun
    · split <;> nofun

/-- An accepted request was not refused, and it takes the lowest FREE slot (R390). -/
theorem State.decide_accept {a : Plan} (h : s.decide n nd q = .accept a) : s.refusal n nd q = none ∧ s.freeSlot q.part = some a.slot := by
  unfold State.decide at h
  dsimp only at h
  split at h
  · cases h
  next hr =>
    refine ⟨hr, ?_⟩
    obtain ⟨-, h⟩ := Decision.ite_reject_eq_accept.1 h
    split at h
    next =>
      obtain ⟨-, h⟩ := Decision.ite_reject_eq_accept.1 h
      split at h
      · exact absurd h (State.absentModel_ne_accept _ _ _)
      · simp only [Decision.ite_reject_eq_accept] at h
        obtain ⟨-, -, -, -, h⟩ := h
        split at h
        · split at h <;> cases h
        · exact State.fit_slot h
    next => cases h

end

end Sys2Proof.Machine
end

section
/-! SUPPORT. A request that is not accepted (R389), and one that is: its slot, its frames and its pages (R343, R388, R392, R414, R417). -/

namespace Sys2Proof.Machine

/-! ### Rejection -/

/-- `u` is `s` after request `q` of session `n` was rejected with this answer (R389). -/
structure State.Rejects (s u : State) (n : Nat) (q : Request) (code detail : BitVec 8) : Prop where
  answered : u.serv.Holds n (.admitted q.id code detail 0 0)
  slots : u.slots = s.slots
  tiles : u.tiles = s.tiles
  rejected : (u.part q.part).rejected = satAdd (s.part q.part).rejected 1
  admitted : (u.part q.part).admitted = (s.part q.part).admitted
  pool : (u.part q.part).free = (s.part q.part).free ∧ (u.part q.part).rsv = (s.part q.part).rsv ∧ (u.part q.part).used = (s.part q.part).used
  nodes : (u.part q.part).nodes = (s.part q.part).nodes
  others : ∀ p : Fin 32, p ≠ q.part → u.part p = s.part p

/-- The answer to a decision that does not accept (R390, R393). -/
def Decision.answer : Decision → BitVec 8 × BitVec 8
  | .reject c d => (c, d)
  | .absent none => (0x14, 2)
  | .absent (some _) => (0x14, 1)
  | .change _ => (0x13, 7)
  | .accept _ => (0x10, 0)

section
variable (s : State) (n : Nat) (q : Request) {z : Session} (hz : s.session n = some z)

/-- The partition has counted the request. -/
def State.countReject : State := s.setPart q.part { s.part q.part with rejected := satAdd (s.part q.part).rejected 1 }

include hz

/-- The rejection itself: the answer, and one for each cancel held for the request. -/
theorem State.rejected_sends (c d : BitVec 8) : (s.countReject q).Sends (s.rejected n q c d) ∧
    (s.rejected n q c d).serv.Holds n (.admitted q.id c d 0 0) ∧
    (q.id ∈ z.heldCancels → (s.rejected n q c d).serv.Holds n (.status q.id ⟨0, 0, 0⟩)) := by
  let f : Frame := .admitted q.id c d 0 0
  let t := (s.countReject q).answer n f
  have answered : (s.countReject q).Sends t := State.answer_sends _ n f
  have session : t.session n = some (z.push s.now f) := State.session_answer _ n f (fragments_admitted ..) hz
  have taken : t.Sends (t.takeHeld n q.id).2 := State.takeHeld_sends session q.id (z.mem_push s.now f)
  have held := State.answers_sends (t.takeHeld n q.id).2 n (unknownStatus q.id) (List.range (t.takeHeld n q.id).1)
  refine ⟨(answered.trans taken).trans held, (taken.trans held).follows.holds ⟨_, session, z.mem_push s.now f⟩, fun h => ?_⟩
  obtain ⟨w, hw, -⟩ := taken.follows n _ session
  exact State.answers_hold _ n (unknownStatus q.id) (fragments_status ..) hw (State.takeHeld_count_pos session q.id (by rwa [Session.push_heldCancels]))

theorem State.rejected_rejects (c d : BitVec 8) : s.Rejects (s.rejected n q c d) n q c d := by
  obtain ⟨sends, answered, -⟩ := s.rejected_sends n q hz c d
  have part : (s.rejected n q c d).part q.part = _ := (sends.part q.part).trans (State.part_setPart ..)
  exact ⟨answered, sends.slots, sends.tiles, by rw [part], by rw [part], by rw [part]; exact ⟨rfl, rfl, rfl⟩, by rw [part],
    fun p hp => (sends.part p).trans (State.part_setPart_ne s _ hp)⟩

end

/-- A field of the partition that no field of the rejection shows changes too: the load that starts, the change that is called for. -/
theorem State.Rejects.setPart {s u : State} {n : Nat} {q : Request} {c d : BitVec 8} (h : s.Rejects u n q c d) {x : Part}
    (hx : (x.rejected, x.admitted, x.free, x.rsv, x.used, x.nodes) = ((u.part q.part).rejected, (u.part q.part).admitted,
      (u.part q.part).free, (u.part q.part).rsv, (u.part q.part).used, (u.part q.part).nodes)) :
    s.Rejects (u.setPart q.part x) n q c d := by
  simp only [Prod.mk.injEq] at hx
  obtain ⟨rejected, admitted, free, rsv, used, nodes⟩ := hx
  have part := State.part_setPart u q.part x
  refine ⟨h.answered, h.slots, h.tiles, ?_, ?_, ?_, ?_, fun p hp => (State.part_setPart_ne u x hp).trans (h.others p hp)⟩
  · rw [part, rejected, h.rejected]
  · rw [part, admitted, h.admitted]
  · rw [part, free, rsv, used]
    exact h.pool
  · rw [part, nodes, h.nodes]

/-- A trigger for which nobody waits changes the load alone (R432). -/
theorem State.trigger_nobody (s : State) (p : Fin 32) (e : Nat) :
    s.trigger p e [] = s ∨ ∃ l, s.trigger p e [] = s.setPart p { s.part p with load := l } := by
  unfold State.trigger
  dsimp only
  split
  · exact .inl rfl
  · split
    · exact .inr ⟨_, rfl⟩
    · split <;> exact .inr ⟨_, rfl⟩

section
variable (s : State) (n : Nat) (q : Request) {z : Session} (hz : s.session n = some z)
include hz

/-- A request that is not accepted is rejected; a load or a program change may start beside that (R393, R432). -/
theorem State.decided_rejects {e : Decision} (he : ∀ a : Plan, e ≠ .accept a) :
    s.Rejects (s.decided n q e) n q e.answer.1 e.answer.2 ∧
    (q.id ∈ z.heldCancels → (s.decided n q e).serv.Holds n (.status q.id ⟨0, 0, 0⟩)) := by
  have rejects := s.rejected_rejects n q hz
  have unknown (c d : BitVec 8) := (s.rejected_sends n q hz c d).2.2
  match e with
  | .reject c d => exact ⟨rejects c d, unknown c d⟩
  | .absent none => exact ⟨rejects 0x14 2, unknown 0x14 2⟩
  | .absent (some e) =>
    rw [State.decided]
    rcases (s.rejected n q 0x14 1).trigger_nobody q.part e with h | ⟨l, h⟩
    · rw [h]
      exact ⟨rejects 0x14 1, unknown 0x14 1⟩
    · rw [h]
      exact ⟨(rejects 0x14 1).setPart rfl, unknown 0x14 1⟩
  | .change ex => exact ⟨(rejects 0x13 7).setPart rfl, unknown 0x13 7⟩
  | .accept a => exact absurd rfl (he a)

end

/-! ### The partition of an accepted request -/

/-- Eviction takes nodes of the tree out (R416). -/
theorem Part.evict_eq (k : Nat) (x : Part) (need : Nat) :
    ∃ (ns : List PNode) (u f : Nat), Part.evict k x need = { x with nodes := ns, used := u, free := f } := by
  induction k generalizing x with
  | zero => exact ⟨_, _, _, rfl⟩
  | succ k ih =>
    rw [Part.evict]
    split
    · exact ⟨_, _, _, rfl⟩
    · split
      · exact ⟨_, _, _, rfl⟩
      next v _ =>
        obtain ⟨ns, u, f, h⟩ := ih (x.dropNodes fun n => n.id == v.id)
        exact ⟨ns, u, f, h⟩

/-- It takes none where the frames are free. -/
theorem Part.evict_of_le (k : Nat) {x : Part} {need : Nat} (h : need ≤ x.free) : Part.evict k x need = x := by
  cases k with
  | zero => rfl
  | succ k => exact if_pos h

section
variable (s : State) (q : Request) (a : Plan) (y : Slot)

theorem State.admitPart_eq : (s.admitPart q a y).admitted = satAdd (s.part q.part).admitted 1 ∧
    (s.admitPart q a y).rejected = (s.part q.part).rejected ∧ (s.admitPart q a y).rsv = (s.part q.part).rsv + y.rsv ∧
    (s.admitPart q a y).maps = (s.part q.part).maps := by
  obtain ⟨ns, u, f, h⟩ := Part.evict_eq (((s.part q.part).refNodes y.nodes true s.now).nodes.length)
    ((s.part q.part).refNodes y.nodes true s.now) a.need
  simp only [State.admitPart, h]
  exact ⟨rfl, rfl, rfl, rfl⟩

theorem State.admitPart_pool (h : a.need ≤ (s.part q.part).free) : (s.admitPart q a y).free = (s.part q.part).free - a.need ∧
    (s.admitPart q a y).used = (s.part q.part).used + y.used := by
  have kept := Part.evict_of_le ((s.part q.part).refNodes y.nodes true s.now).nodes.length
    (x := (s.part q.part).refNodes y.nodes true s.now) h
  simp only [State.admitPart, kept]
  exact ⟨rfl, rfl⟩

/-- What is taken of a slot does not depend on its positions in flight. -/
theorem Part.slotMaps_of_nf (x : Part) (fu : Furnish) (f : FurnPart) {y z : Slot} (h : { y with nf := 0 } = { z with nf := 0 }) :
    x.slotMaps fu f y q = x.slotMaps fu f z q :=
  (show x.slotMaps fu f y q = x.slotMaps fu f { y with nf := 0 } q from rfl).trans (h ▸ rfl)

theorem State.admitPart_of_nf {y z : Slot} (h : { y with nf := 0 } = { z with nf := 0 }) : s.admitPart q a y = s.admitPart q a z :=
  (show s.admitPart q a y = s.admitPart q a { y with nf := 0 } from rfl).trans (h ▸ rfl)

end

/-! ### The slot of an accepted request -/

/-- The entries of a map after a write are the one written and earlier ones. -/
theorem SMap.mem_set {V : Type} [DecidableEq V] {d v : V} {m : SMap V} {k : Nat} {e : Nat × V} (h : e ∈ SMap.set d m k v) :
    e = (k, v) ∨ e ∈ m := by
  unfold SMap.set at h
  split at h
  · exact .inr (SMap.mem_del h)
  · exact SMap.mem_put h

section
variable (s : State) (n : Nat) (q : Request) (a : Plan)

/-- The key of the slot that a plan takes. -/
def planKey : Nat := q.part.val * 128 + a.slot

/-- The slot taken and the partition's part of it. -/
def State.slotTaken : State :=
  { s with
    parts := SMap.set Part.init s.parts q.part.val (s.admitPart q a (s.newSlot n q a))
    slots := SMap.set Slot.init s.slots (planKey q a) (s.newSlot n q a) }

/-- The request admitted and answered, before the cancels held for it take effect. -/
def State.admitted : State :=
  (((s.slotTaken n q a).mapSlot q (planKey q a) (s.newSlot n q a)).answer n (.admitted q.id 0x10 0 a.bf a.bt)).refreshTables q.part

theorem State.accepted_eq : s.accepted n q a =
    (List.range ((s.admitted n q a).takeHeld n q.id).1).foldl (fun s _ => s.cancelOne n q.id) ((s.admitted n q a).takeHeld n q.id).2 := rfl

theorem State.newSlot_frames : (s.newSlot n q a).rsv + (s.newSlot n q a).used = a.need :=
  Nat.sub_add_cancel (Nat.min_le_left ..)

theorem State.slotTaken_part : (s.slotTaken n q a).part q.part = s.admitPart q a (s.newSlot n q a) := SMap.get_set_self ..

/-- The state of an admitted request, but for its pages and tables. -/
theorem State.admitted_effect : 
    SameButNf (SMap.set Slot.init s.slots (planKey q a) (s.newSlot n q a)) (s.admitted n q a).slots ∧
    (∀ e ∈ (s.admitted n q a).slots, e.1 = planKey q a ∨ ∃ y, (e.1, y) ∈ s.slots ∧ { e.2 with nf := 0 } = { y with nf := 0 }) ∧
    (∃ qs ms ws, (s.admitted n q a).part q.part =
      { s.admitPart q a (s.newSlot n q a) with editQs := qs, maps := ms, outWrites := ws }) ∧
    (∀ p : Fin 32, p ≠ q.part → (s.admitted n q a).part p = s.part p) ∧ (s.admitted n q a).tiles = s.tiles := by
  have pages := (s.slotTaken n q a).mapSlot_only q (planKey q a) (s.newSlot n q a)
  have sends := State.answer_sends ((s.slotTaken n q a).mapSlot q (planKey q a) (s.newSlot n q a)) n (.admitted q.id 0x10 0 a.bf a.bt)
  have slots : _ = SMap.set Slot.init s.slots (planKey q a) (s.newSlot n q a) := sends.slots.trans pages.slots
  obtain ⟨m, ws, ps, sl, eq, self, other, same, entries⟩ :=
    State.refreshTables_only (((s.slotTaken n q a).mapSlot q (planKey q a) (s.newSlot n q a)).answer n (.admitted q.id 0x10 0 a.bf a.bt)) q.part
  rw [slots] at same entries
  rw [State.admitted, eq]
  refine ⟨same, fun e he => ?_, ?_, fun p hp => ?_, sends.tiles.trans pages.tiles⟩
  · obtain ⟨y, hy, hnf⟩ := entries e he
    rcases SMap.mem_set hy with h | h
    · exact .inl (congrArg Prod.fst h)
    · exact .inr ⟨y, h, hnf⟩
  · obtain ⟨qs, ms, part⟩ := pages.2.2.1
    refine ⟨qs, ms, ws, self.trans ?_⟩
    rw [sends.part, part, State.slotTaken_part]
  · exact ((other p hp).trans (sends.part p)).trans ((pages.other hp).trans (SMap.get_set_ne _ _ _ fun e => hp (Fin.ext e)))

theorem State.admitted_maps {fu : Furnish} {f : FurnPart} (hu : s.furnish = some fu) (hf : s.furnPart q.part = some f) :
    ((s.admitted n q a).part q.part).maps = (s.part q.part).maps ++ (s.admitPart q a (s.newSlot n q a)).slotMaps fu f (s.newSlot n q a) q := by
  have mapped := State.mapSlot_maps (s := s.slotTaken n q a) hu hf (planKey q a) (s.newSlot n q a)
  obtain ⟨-, -, -, maps⟩ := s.admitPart_eq q a (s.newSlot n q a)
  obtain ⟨ws, tables⟩ := State.refreshTables_part (((s.slotTaken n q a).mapSlot q (planKey q a) (s.newSlot n q a)).answer n
    (.admitted q.id 0x10 0 a.bf a.bt)) q.part
  rw [State.slotTaken_part, maps] at mapped
  rw [State.admitted, tables]
  exact (congrArg Part.maps ((State.answer_sends _ n _).part q.part)).trans mapped

/-- The session has the answer. -/
theorem State.admitted_session {z : Session} (hz : s.session n = some z) :
    ∃ w, (s.admitted n q a).session n = some w ∧ .admitted q.id 0x10 0 a.bf a.bt ∈ w.unacked ++ w.queued ∧ w.heldCancels = z.heldCancels := by
  let t := (s.slotTaken n q a).mapSlot q (planKey q a) (s.newSlot n q a)
  have pages : t.sessions = s.sessions := ((s.slotTaken n q a).mapSlot_only q (planKey q a) (s.newSlot n q a)).sessions
  have before : t.session n = some z := by rw [State.session, pages]; exact hz
  have after := t.session_answer n (.admitted q.id 0x10 0 a.bf a.bt) (fragments_admitted ..) before
  refine ⟨_, ?_, z.mem_push t.now _, z.push_heldCancels t.now _⟩
  rw [State.admitted, State.session, State.refreshTables_sessions]
  exact after

end

end Sys2Proof.Machine
end

section
/-! SUPPORT. Cancels (R418, R419): the slot that ends, and what stays. -/

namespace Sys2Proof.Machine

/-! ### Which slot a cancel names -/

/-- A live slot of the session's request. -/
def Slot.Serves (y : Slot) (n : Nat) (id : BitVec 64) : Prop := y.live = true ∧ y.session = n ∧ y.reqId = id

theorem Slot.serves_of_nf {y z : Slot} (h : { y with nf := 0 } = { z with nf := 0 }) {n : Nat} {id : BitVec 64} (k : y.Serves n id) :
    z.Serves n id := by
  obtain ⟨live, session, reqId⟩ := k
  exact ⟨(Slot.field_of_nf h Slot.live fun _ => rfl).symm.trans live, (Slot.field_of_nf h Slot.session fun _ => rfl).symm.trans session,
    (Slot.field_of_nf h Slot.reqId fun _ => rfl).symm.trans reqId⟩

section
variable {s : State} {n : Nat} {id : BitVec 64}

/-- The slot is found where all slots of the request have one key. -/
theorem State.slotOf_eq {k : Nat} (hk : (SMap.get Slot.init s.slots k).Serves n id) (h : ∀ e ∈ s.slots, e.2.Serves n id → e.1 = k) :
    s.slotOf n id = some k := by
  have serves (e : Nat × Slot) : (e.2.live && e.2.session == n && e.2.reqId == id) = true ↔ e.2.Serves n id := by
    simp only [Slot.Serves, Bool.and_eq_true, beq_iff_eq, and_assoc]
  have mem : (k, SMap.get Slot.init s.slots k) ∈ s.slots := SMap.mem_of_get_ne fun e => by
    have live := hk.1
    rw [e] at live
    cases live
  rw [State.slotOf]
  cases hf : s.slots.find? fun e => e.2.live && e.2.session == n && e.2.reqId == id with
  | none => exact absurd ((serves _).2 hk) (List.find?_eq_none.1 hf _ mem)
  | some e =>
    have found := List.find?_some hf
    exact congrArg some (h e (List.mem_of_find?_eq_some hf) ((serves e).1 found))

theorem State.not_serves_of_idInUse (h : s.idInUse n id = false) {e : Nat × Slot} (he : e ∈ s.slots) : ¬ e.2.Serves n id := by
  rintro ⟨live, session, reqId⟩
  have unused := List.any_eq_false.1 h e he
  simp [live, session, reqId] at unused

end

/-! ### The end of the slot -/

section
variable (s : State) (p : Fin 32) (k : Nat)

/-- The cancelled slot. -/
def Slot.cancelled (y : Slot) (now : Nat) : Slot := { y.ended 4 0 now with masked := true }

/-- The state of a cancel before tables and pages follow it. -/
def State.slotCancelled : State :=
  let v := s.serv.endSlot s.now 4 0 k
  { s with
    slots := SMap.set Slot.init v.slots k { SMap.get Slot.init v.slots k with masked := true }
    sessions := v.sessions, phw := v.phw }

theorem State.cancelSlot_pages : PagesOnly (Fin.ofNat 32 (k / 128)) ((s.slotCancelled k).refreshTables p) (s.cancelSlot p k) :=
  State.startReturn_only ((s.slotCancelled k).refreshTables p) k

theorem State.cancelSlot_sessions : (s.cancelSlot p k).sessions = (s.serv.endSlot s.now 4 0 k).sessions :=
  (s.cancelSlot_pages p k).sessions.trans (State.refreshTables_sessions _ p)

theorem State.cancelSlot_tiles : (s.cancelSlot p k).tiles = s.tiles :=
  (s.cancelSlot_pages p k).tiles.trans (State.refreshTables_tiles _ p)

theorem State.cancelSlot_slots : SameButNf (s.slotCancelled k).slots (s.cancelSlot p k).slots := by
  rw [(s.cancelSlot_pages p k).slots]
  exact State.refreshTables_slots _ p

theorem State.cancelSlot_follows : s.serv.Follows (s.cancelSlot p k).serv := by
  intro n z hz
  obtain ⟨w, hw, sub⟩ := s.serv.endSlot_follows s.now 4 0 k n z hz
  exact ⟨w, by rw [Serv.session, show (s.cancelSlot p k).serv.sessions = _ from s.cancelSlot_sessions p k]; exact hw, sub⟩

variable {k}

/-- A live slot ends with status 4, masked (R418). -/
theorem State.slotCancelled_self (h : (SMap.get Slot.init s.slots k).live = true) :
    SMap.get Slot.init (s.slotCancelled k).slots k = (SMap.get Slot.init s.slots k).cancelled s.now := by
  have ended : SMap.get Slot.init (s.serv.endSlot s.now 4 0 k).slots k = (SMap.get Slot.init s.slots k).ended 4 0 s.now := by
    rw [Serv.endSlot_slots, show s.serv.slots = s.slots from rfl, if_pos h, SMap.get_set_self]
  refine (SMap.get_set_self ..).trans ?_
  rw [ended]
  rfl

theorem State.slotCancelled_ne {j : Nat} (h : j ≠ k) : SMap.get Slot.init (s.slotCancelled k).slots j = SMap.get Slot.init s.slots j :=
  (SMap.get_set_ne _ _ _ h).trans (Serv.endSlot_get_ne s.now 4 0 h)

/-- A cancel leaves a slot that has ended and is masked already. -/
theorem State.slotCancelled_ended {j : Nat} (hl : (SMap.get Slot.init s.slots j).live = false) (hm : (SMap.get Slot.init s.slots j).masked = true)
    (k : Nat) : SMap.get Slot.init (s.slotCancelled k).slots j = SMap.get Slot.init s.slots j := by
  by_cases h : j = k
  · subst h
    have same : SMap.get Slot.init (s.serv.endSlot s.now 4 0 j).slots j = SMap.get Slot.init s.slots j := by
      rw [Serv.endSlot_slots, show s.serv.slots = s.slots from rfl, if_neg (by rw [hl]; nofun)]
    refine (SMap.get_set_self ..).trans ?_
    rw [same]
    generalize SMap.get Slot.init s.slots j = y at hm
    rw [← hm]
  · exact s.slotCancelled_ne h

end

/-! ### A cancel of a decided request -/

section
variable (s : State) (n : Nat) (id : BitVec 64)

theorem State.cancelOne_of_slot {k : Nat} (h : s.slotOf n id = some k) : s.cancelOne n id = s.cancelSlot (Fin.ofNat 32 (k / 128)) k := by
  rw [State.cancelOne, h]

/-- A cancel that names no live slot is answered, or waits behind the tokens of an ended one (R419, R421). -/
theorem State.cancelOne_of_none (h : s.slotOf n id = none) : s.Sends (s.cancelOne n id) := by
  unfold State.cancelOne
  rw [h]
  dsimp only
  split
  · exact s.answer_sends n _
  · split
    · exact .refl s
    · exact s.answer_sends n _

theorem State.cancelOne_kept {z : Session} {e : BitVec 64 × Status} (h : s.slotOf n id = none) (hz : s.session n = some z)
    (he : (z.kept.find? fun e => e.1 == id) = some e) : s.cancelOne n id = s.answer n (.status id e.2) := by
  rw [State.cancelOne, h, hz, Option.bind_some, he]

theorem State.cancelOne_unkept {z : Session} (h : s.slotOf n id = none) (hz : s.session n = some z)
    (he : (z.kept.find? fun e => e.1 == id) = none) :
    s.cancelOne n id = if s.ending n id then s else s.answer n (unknownStatus id) := by
  rw [State.cancelOne, h, hz, Option.bind_some, he]

theorem State.cancelOne_follows : s.serv.Follows (s.cancelOne n id).serv := by
  cases h : s.slotOf n id with
  | some k => rw [s.cancelOne_of_slot n id h]; exact s.cancelSlot_follows _ k
  | none => exact (s.cancelOne_of_none n id h).follows

theorem State.cancelOne_tiles : (s.cancelOne n id).tiles = s.tiles := by
  cases h : s.slotOf n id with
  | some k => rw [s.cancelOne_of_slot n id h]; exact s.cancelSlot_tiles _ k
  | none => exact (s.cancelOne_of_none n id h).tiles

/-- A slot that a cancel has ended. -/
structure Slot.Cancelled (y : Slot) : Prop where
  st : y.st = .ended
  status : y.status = some ⟨4, 0, 0⟩
  masked : y.masked = true

theorem Slot.Cancelled.of_nf {y z : Slot} (h : { z with nf := 0 } = { y with nf := 0 }) (k : y.Cancelled) : z.Cancelled :=
  ⟨(Slot.field_of_nf h Slot.st fun _ => rfl).trans k.st, (Slot.field_of_nf h Slot.status fun _ => rfl).trans k.status,
    (Slot.field_of_nf h Slot.masked fun _ => rfl).trans k.masked⟩

/-- Further cancels leave it. -/
theorem State.cancelOne_cancelled {k : Nat} (h : (SMap.get Slot.init s.slots k).Cancelled) :
    (SMap.get Slot.init (s.cancelOne n id).slots k).Cancelled := by
  cases hs : s.slotOf n id with
  | some j =>
    have live : (SMap.get Slot.init s.slots k).live = false := by rw [Slot.live, h.st]; rfl
    rw [s.cancelOne_of_slot n id hs]
    refine .of_nf (s.cancelSlot_slots _ j k) ?_
    rw [s.slotCancelled_ended live h.masked]
    exact h
  | none =>
    rw [(s.cancelOne_of_none n id hs).slots]
    exact h

theorem State.cancels_follow (l : List Nat) : s.serv.Follows (l.foldl (fun s _ => s.cancelOne n id) s).serv := by
  induction l generalizing s with
  | nil => exact .refl _
  | cons a r ih => exact (s.cancelOne_follows n id).trans (ih _)

theorem State.cancels_cancelled {k : Nat} (l : List Nat) (h : (SMap.get Slot.init s.slots k).Cancelled) :
    (SMap.get Slot.init (l.foldl (fun s _ => s.cancelOne n id) s).slots k).Cancelled := by
  induction l generalizing s with
  | nil => exact h
  | cons a r ih => exact ih _ (s.cancelOne_cancelled n id h)

end

end Sys2Proof.Machine
end

section
/-! SUPPORT. An accepted request with the cancels held for it (R390, R419), and a request that passes every test of R390. -/

namespace Sys2Proof.Machine

section
variable {s : State} {n : Nat} {q : Request} (a : Plan) {z : Session} (hz : s.session n = some z)

theorem State.newSlot_serves : (s.newSlot n q a).Serves n q.id := ⟨rfl, rfl, rfl⟩

include hz

theorem State.admitted_taken : (s.admitted n q a).Sends ((s.admitted n q a).takeHeld n q.id).2 ∧
    ((s.admitted n q a).takeHeld n q.id).2.serv.Holds n (.admitted q.id 0x10 0 a.bf a.bt) := by
  obtain ⟨w, hw, hf, -⟩ := s.admitted_session n q a hz
  have taken := State.takeHeld_sends hw q.id hf
  exact ⟨taken, taken.follows.holds ⟨w, hw, hf⟩⟩

/-- An accepted request is answered. -/
theorem State.accepted_holds : (s.accepted n q a).serv.Holds n (.admitted q.id 0x10 0 a.bf a.bt) := by
  rw [State.accepted_eq]
  exact (State.cancels_follow _ n q.id _).holds (State.admitted_taken a hz).2

/-- Where no cancel is held for it, no more happens. -/
theorem State.accepted_sends (hq : q.id ∉ z.heldCancels) : (s.admitted n q a).Sends (s.accepted n q a) := by
  obtain ⟨w, hw, -, held⟩ := s.admitted_session n q a hz
  rw [State.accepted_eq, State.takeHeld_count_zero hw q.id (by rwa [held])]
  exact (State.admitted_taken a hz).1

/-- A cancel held for it ends its slot at once. -/
theorem State.accepted_cancelled (hq : q.id ∈ z.heldCancels) (hid : s.idInUse n q.id = false) :
    (SMap.get Slot.init (s.accepted n q a).slots (planKey q a)).Cancelled := by
  obtain ⟨w, hw, -, held⟩ := s.admitted_session n q a hz
  obtain ⟨slots, entries, -⟩ := s.admitted_effect n q a
  rw [State.accepted_eq]
  have some_ := State.takeHeld_count_pos hw q.id (by rwa [held])
  have taken := (State.admitted_taken (q := q) a hz).1.slots
  generalize ((s.admitted n q a).takeHeld n q.id).2 = t at taken
  rw [← taken] at slots entries
  have self := slots (planKey q a)
  rw [SMap.get_set_self] at self
  have named : t.slotOf n q.id = some (planKey q a) := by
    refine State.slotOf_eq (Slot.serves_of_nf self.symm (State.newSlot_serves a)) fun e he serves => ?_
    rcases entries e he with h | ⟨y, hy, hnf⟩
    · exact h
    · exact absurd (Slot.serves_of_nf hnf serves) (State.not_serves_of_idInUse hid hy)
  have live : (SMap.get Slot.init t.slots (planKey q a)).live = true := Slot.field_of_nf self Slot.live fun _ => rfl
  have first : (SMap.get Slot.init (t.cancelOne n q.id).slots (planKey q a)).Cancelled := by
    rw [t.cancelOne_of_slot n q.id named]
    refine .of_nf (t.cancelSlot_slots _ _ _) ?_
    rw [t.slotCancelled_self live]
    refine ⟨rfl, ?_, rfl⟩
    exact congrArg (fun h => some (Status.mk 4 0 h)) (Slot.field_of_nf self Slot.handed fun _ => rfl)
  cases hl : List.range ((s.admitted n q a).takeHeld n q.id).1 with
  | nil => exact absurd hl some_
  | cons b r => exact State.cancels_cancelled _ n q.id r first

end

/-! ### A request that passes every test -/

section
variable {s : State} {n : Nat} {nd : Node} {q : Request} {f : FurnPart}

theorem State.idInUse_of_refusal (h : s.refusal n nd q = none) : s.idInUse n q.id = false := by
  refine Bool.eq_false_iff.2 fun used => ?_
  unfold State.refusal at h
  simp only [used, Bool.or_true, if_true] at h
  split at h
  · cases h
  · split at h <;> cases h

/-- A request in the narrow mode with its parameters in order is not refused. -/
theorem State.refusal_none (hn : nd.submit = true) (hx : q.exact = false) (hf : s.furnPart q.part = some f) (he : f.exact = .narrow)
    (ht : f.tuning = false) (hb : (s.part q.part).badNarrow = false) (hp : (s.part q.part).paramsOk false q = true)
    (hid : s.idInUse n q.id = false) (hpause : s.sup.pause.getLsbD q.part.val = false) (hdoze : (s.part q.part).doze = false)
    (hpkg : (s.part q.part).pkg = none) : s.refusal n nd q = none := by
  have mode : effMode f q = false := by rw [effMode, he]
  simp only [State.refusal, hn, hx, hf, hb, hp, hid, hpause, hdoze, hpkg, mode, Option.any_some, ht, he]
  rfl

/-- A request without a draft and without shared blocks, which fits in its length class, a FREE slot, the attention tiles and the free
frames, and whose class has no bound, is accepted (R390, R392). -/
theorem State.fit_accepts {fu : Furnish} {g : Program} {m : ModelInfo} {sl : Nat} (hm : (s.part q.part).model q.model = some m)
    (hd : q.draft = none) (hr : q.prompt.ref = none) (hc : q.prompt.toks.length + q.maxNew ≤ g.lengthClass) (hs : s.freeSlot q.part = some sl)
    (ho : s.occupied < 512)
    (hb : sumN ((s.slotsOf q.part).map (·.2.chunks)) + Descriptor.chunksOf m.desc (q.prompt.toks.length + q.maxNew) ≤ g.q * g.attnTiles)
    (hl : fu.classes[q.cls.val]? = none) (hn : m.desc.need (q.prompt.toks.length + q.maxNew) ≤ (s.part q.part).free) :
    ∃ a : Plan, s.fit q f fu g = .accept a ∧ a.slot = sl := by
  have prompt : (s.part q.part).fullPrompt q = q.prompt.toks := by rw [Part.fullPrompt, hr]; rfl
  have descs : (s.part q.part).descsOf q = [m.desc] := by simp [Part.descsOf, hd, hm]
  have length : q.prompt.toks.length + q.maxNew + (if q.draft.isSome then g.gamma + 1 else 1) - 1 = q.prompt.toks.length + q.maxNew := by
    rw [hd]; rfl
  have need (b : Nat) : (s.part q.part).needOf q (q.prompt.toks.length + q.maxNew) b ≤ (s.part q.part).free := by
    rw [Part.needOf, descs]
    refine (Nat.sub_le ..).trans ?_
    simpa [sumN] using hn
  have chunks : sumN [Descriptor.chunksOf m.desc (q.prompt.toks.length + q.maxNew)] = Descriptor.chunksOf m.desc (q.prompt.toks.length + q.maxNew) :=
    Nat.zero_add _
  unfold State.fit
  simp only [prompt, length, descs, List.map_cons, List.map_nil, chunks, hs, hl]
  rw [if_neg (Nat.not_lt.2 hc), if_neg (Nat.not_le.2 ho), if_neg (Nat.not_lt.2 hb), if_neg Bool.false_ne_true,
    if_neg (Nat.not_lt.2 ((need _).trans (Nat.le_add_right ..)))]
  exact ⟨_, rfl, rfl⟩

end

end Sys2Proof.Machine
end

section
/-! O40: requests (R388–R393) and cancels (R418, R419). -/

namespace Sys2Proof.Machine

/-- In a well-formed map an entry is what its key reads. -/
theorem SMap.get_of_mem {V : Type} [DecidableEq V] {d : V} {m : SMap V} (hwf : SMap.wf d m = true) {e : Nat × V} (he : e ∈ m) :
    SMap.get d m e.1 = e.2 := by
  have nodup := SMap.keys_nodup hwf
  clear hwf
  induction m with
  | nil => cases he
  | cons a r ih =>
    obtain ⟨fresh, nodup⟩ := List.nodup_cons.1 nodup
    rcases List.mem_cons.1 he with rfl | he
    · exact if_pos rfl
    · exact (if_neg fun e => fresh (List.mem_map.2 ⟨_, he, e⟩)).trans (ih he nodup)

/-- A live slot with no tokens left at the port sends its status as it ends. -/
theorem Serv.endSlot_status {x : Serv} (now : Nat) (code detail : BitVec 8) {k : Nat} {z : Session}
    (live : (SMap.get Slot.init x.slots k).live = true) (hq : (SMap.get Slot.init x.slots k).portQ = [])
    (hz : x.session (SMap.get Slot.init x.slots k).session = some z) :
    ∃ w, (x.endSlot now code detail k).session (SMap.get Slot.init x.slots k).session = some w ∧
      .status (SMap.get Slot.init x.slots k).reqId ⟨code, detail, (SMap.get Slot.init x.slots k).handed⟩ ∈ w.unacked ++ w.queued ∧
      ((SMap.get Slot.init x.slots k).reqId, ⟨code, detail, (SMap.get Slot.init x.slots k).handed⟩) ∈ w.kept := by
  rw [Serv.endSlot, if_pos live, if_pos (by rw [hq]; rfl)]
  exact Serv.sendStatus_session _ _ _ _ hz

/-! ### Requests -/

section
variable {s : State} {n : Nat} {x : Session} {q : Request}

/-- The answer of a rejection, and all that it leaves (R389). -/
def Answers (s : State) (n : Nat) (q : Request) (c d : BitVec 8) : Prop := Completes (.submit n q) s fun u =>
  Received u n (.admitted q.id c d 0 0) ∧ u.slots = s.slots ∧ u.tiles = s.tiles ∧
  (u.part q.part).rejected = satAdd (s.part q.part).rejected 1 ∧ (u.part q.part).admitted = (s.part q.part).admitted ∧
  (u.part q.part).free = (s.part q.part).free ∧ (u.part q.part).rsv = (s.part q.part).rsv ∧ (u.part q.part).used = (s.part q.part).used ∧
  (u.part q.part).nodes = (s.part q.part).nodes ∧ ∀ p : Fin 32, p ≠ q.part → u.part p = s.part p

/-- A request is decided as the state stands; hearing it changes the session alone. -/
theorem exec_submit (h : Talks s n x) : exec (.submit n q) s = .next ((s.heard n x).decided n q (s.decide n x.node q)) :=
  congrArg Host.Outcome.next (State.onMsg_of_talks h _)

section
variable (h : Talks s n x)
include h

theorem submit_rejects {d : Decision} (hd : s.decide n x.node q = d) (hn : ∀ a : Plan, d ≠ .accept a) : Completes (.submit n q) s fun u =>
    s.Rejects u n q d.answer.1 d.answer.2 ∧ (q.id ∈ x.heldCancels → Received u n (.status q.id ⟨0, 0, 0⟩)) := by
  obtain ⟨rejects, unknown⟩ := State.decided_rejects (s.heard n x) n q (State.session_heard h) hn
  rw [← hd] at rejects unknown ⊢
  exact .of_next (exec_submit h) ⟨⟨rejects.answered, rejects.slots, rejects.tiles, rejects.rejected, rejects.admitted, rejects.pool,
    rejects.nodes, rejects.others⟩, unknown⟩

theorem submit_answers {d : Decision} {c e : BitVec 8} (hd : s.decide n x.node q = d) (hn : ∀ a : Plan, d ≠ .accept a)
    (ha : d.answer = (c, e)) : Answers s n q c e := by
  obtain ⟨u, hu, rejects, -⟩ := submit_rejects h hd hn
  rw [ha] at rejects
  obtain ⟨free, rsv, used⟩ := rejects.pool
  exact ⟨u, hu, rejects.answered, rejects.slots, rejects.tiles, rejects.rejected, rejects.admitted, free, rsv, used, rejects.nodes, rejects.others⟩

theorem submit_reject {c d : BitVec 8} (hd : s.decide n x.node q = .reject c d) : Answers s n q c d := submit_answers h hd nofun rfl

/-- A program change starts (R393). -/
theorem submit_change {ex : Bool} (hd : s.decide n x.node q = .change ex) :
    Completes (.submit n q) s fun u => (u.part q.part).switching = some ex := by
  refine .of_next (exec_submit h) ?_
  rw [hd]
  exact congrArg Part.switching (State.part_setPart ..)

theorem exec_submit_accept {a : Plan} (hd : s.decide n x.node q = .accept a) :
    exec (.submit n q) s = .next ((s.heard n x).accepted n q a) := by rw [exec_submit h, hd]; rfl

/-- Every request is answered, whatever is decided. -/
theorem submit_clause_answered : Completes (.submit n q) s fun u => ∃ (c d : BitVec 8) (bf bt : Nat), Received u n (.admitted q.id c d bf bt) := by
  by_cases hn : ∀ a : Plan, s.decide n x.node q ≠ .accept a
  · obtain ⟨u, hu, rejects, -⟩ := submit_rejects h rfl hn
    exact ⟨u, hu, _, _, 0, 0, rejects.answered⟩
  · obtain ⟨a, ha⟩ := not_forall_not.1 hn
    exact .of_next (exec_submit_accept h ha) ⟨_, _, _, _, State.accepted_holds a (State.session_heard h)⟩

/-- A request for which a cancel is held (R419). -/
theorem submit_clause_held (hc : q.id ∈ x.heldCancels) :
    ((∀ a : Plan, s.decide n x.node q ≠ .accept a) → Completes (.submit n q) s fun u =>
      (∃ c d : BitVec 8, Received u n (.admitted q.id c d 0 0)) ∧ Received u n (.status q.id ⟨0, 0, 0⟩) ∧ u.slots = s.slots) ∧
    (∀ a : Plan, s.decide n x.node q = .accept a → Completes (.submit n q) s fun u =>
      let y := SMap.get Slot.init u.slots (q.part.val * 128 + a.slot)
      Received u n (.admitted q.id 0x10 0 a.bf a.bt) ∧ y.st = .ended ∧ y.status = some ⟨4, 0, 0⟩ ∧ y.masked = true) := by
  refine ⟨fun hn => ?_, fun a ha => ?_⟩
  · obtain ⟨u, hu, rejects, unknown⟩ := submit_rejects h rfl hn
    exact ⟨u, hu, ⟨_, _, rejects.answered⟩, unknown hc, rejects.slots⟩
  · obtain ⟨hr, -⟩ := State.decide_accept ha
    have cancelled := State.accepted_cancelled a (State.session_heard h) hc (State.idInUse_of_refusal hr)
    exact .of_next (exec_submit_accept h ha) ⟨State.accepted_holds a (State.session_heard h), cancelled.st, cancelled.status, cancelled.masked⟩

/-- An accepted request takes its slot and its frames (R343, R388, R414, R417). -/
theorem submit_clause_accept (hc : q.id ∉ x.heldCancels) (a : Plan) (ha : s.decide n x.node q = .accept a) :
    Completes (.submit n q) s fun u =>
      let P := s.part q.part
      let k := q.part.val * 128 + a.slot
      let y := SMap.get Slot.init u.slots k
      Received u n (.admitted q.id 0x10 0 a.bf a.bt) ∧ OtherSlots s u k ∧ s.freeSlot q.part = some a.slot ∧
      y.st = .prefill ∧ y.q = some q ∧ y.session = n ∧ y.lc = 64 * a.m ∧ y.lp = a.lp ∧ y.lres = a.lres ∧
      y.prompt = P.fullPrompt q ∧ y.toks = [] ∧ y.handed = 0 ∧ y.status = none ∧ y.rsv + y.used = a.need ∧
      y.bf = a.bf ∧ y.bt = a.bt ∧ y.tArr = s.now ∧
      (u.part q.part).admitted = satAdd P.admitted 1 ∧ (u.part q.part).rejected = P.rejected ∧
      (u.part q.part).rsv = P.rsv + y.rsv ∧
      (a.need ≤ P.free → (u.part q.part).free = P.free - a.need ∧ (u.part q.part).used = P.used + y.used) ∧
      (∀ (fu : Furnish) (f : FurnPart), s.furnish = some fu → s.furnPart q.part = some f →
        (u.part q.part).maps = P.maps ++ (s.admitPart q a y).slotMaps fu f y q) ∧
      (∀ p : Fin 32, p ≠ q.part → u.part p = s.part p) ∧ u.tiles = s.tiles := by
  have session := State.session_heard h
  have sends := State.accepted_sends (q := q) a session hc
  obtain ⟨slots, -, ⟨qs, ms, ws, part⟩, others, tiles⟩ := (s.heard n x).admitted_effect n q a
  have maps {fu : Furnish} {f : FurnPart} (hu : s.furnish = some fu) (hf : s.furnPart q.part = some f) :=
    (s.heard n x).admitted_maps n q a hu hf
  obtain ⟨admitted, rejected, rsv, -⟩ := (s.heard n x).admitPart_eq q a ((s.heard n x).newSlot n q a)
  rw [← sends.slots] at slots
  rw [← sends.part] at part
  have self := slots (planKey q a)
  rw [SMap.get_set_self] at self
  have read {α : Type} (g : Slot → α) (hg : ∀ y : Slot, g { y with nf := 0 } = g y) :
      g (SMap.get Slot.init ((s.heard n x).accepted n q a).slots (planKey q a)) = g ((s.heard n x).newSlot n q a) :=
    Slot.field_of_nf self g hg
  have frames := (s.heard n x).newSlot_frames n q a
  refine .of_next (exec_submit_accept h ha) ⟨State.accepted_holds a session, .of_set (k := planKey q a) slots, (State.decide_accept ha).2,
    read Slot.st fun _ => rfl, read Slot.q fun _ => rfl, read Slot.session fun _ => rfl, read Slot.lc fun _ => rfl, read Slot.lp fun _ => rfl,
    read Slot.lres fun _ => rfl, read Slot.prompt fun _ => rfl, read Slot.toks fun _ => rfl, read Slot.handed fun _ => rfl,
    read Slot.status fun _ => rfl, (read (fun y => y.rsv + y.used) fun _ => rfl).trans frames, read Slot.bf fun _ => rfl,
    read Slot.bt fun _ => rfl, read Slot.tArr fun _ => rfl, ?_, ?_, ?_, fun hn => ?_, fun fu f hu hf => ?_, fun p hp => ?_, ?_⟩
  · rw [part]
    exact admitted
  · rw [part]
    exact rejected
  · rw [part]
    exact rsv.trans (congrArg (_ + ·) (read Slot.rsv fun _ => rfl).symm)
  · obtain ⟨free, used⟩ := (s.heard n x).admitPart_pool q a ((s.heard n x).newSlot n q a) hn
    rw [part]
    exact ⟨free, used.trans (congrArg (_ + ·) (read Slot.used fun _ => rfl).symm)⟩
  · rw [sends.part, maps hu hf]
    refine congrArg (_ ++ ·) ((Part.slotMaps_of_nf q _ fu f self).symm.trans ?_)
    exact congrArg (fun x => Part.slotMaps x fu f _ q) (State.admitPart_of_nf (s.heard n x) q a self).symm
  · exact (sends.part p).trans (others p hp)
  · exact sends.tiles.trans tiles

end

end

/-! ### Cancels -/

section
variable {s : State} {n : Nat} {x : Session} (h : Talks s n x) {id : BitVec 64}
include h

/-- A cancel that has nothing to wait for takes effect (R418, R419). -/
theorem exec_cancel (hw : ((s.slotOf n id).isNone && !(x.kept.any fun e => e.1 == id) && !s.ending n id && s.undecided n id) = false) :
    exec (.cancel n id) s = .next ((s.heard n x).cancelOne n id) :=
  congrArg Host.Outcome.next ((State.onMsg_of_talks h _).trans (if_neg (by
    rw [Bool.not_eq_true]
    exact hw)))

/-- A cancel of a live request ends its slot at once (R418). -/
theorem cancel_clause_live {k : Nat} (hwf : SMap.wf Slot.init s.slots = true)
    (hy : (SMap.get Slot.init s.slots k).Serves n id) (hone : ∀ j : Nat, j ≠ k → ¬ (SMap.get Slot.init s.slots j).Serves n id) :
    Completes (.cancel n id) s fun u =>
      let y := SMap.get Slot.init s.slots k
      let z := SMap.get Slot.init u.slots k
      z.st = .ended ∧ z.status = some ⟨4, 0, y.handed⟩ ∧ z.masked = true ∧ z.toks = y.toks ∧ z.portQ = y.portQ ∧
      z.rsv = y.rsv ∧ z.used = y.used ∧ OtherSlots s u k ∧ u.tiles = s.tiles ∧
      (y.portQ = [] → Received u n (.status id ⟨4, 0, y.handed⟩) ∧
        ∃ v : Session, u.session n = some v ∧ (id, ⟨4, 0, y.handed⟩) ∈ v.kept) := by
  let t := s.heard n x
  have named : s.slotOf n id = some k := State.slotOf_eq hy fun e he serves => by
    by_contra hne
    exact hone e.1 hne (by rwa [SMap.get_of_mem hwf he])
  have step : exec (.cancel n id) s = .next (t.cancelSlot (Fin.ofNat 32 (k / 128)) k) := by
    rw [exec_cancel h (by rw [named]; rfl), State.cancelOne_of_slot t n id named]
  obtain ⟨live, session, reqId⟩ := hy
  have slots := t.cancelSlot_slots (Fin.ofNat 32 (k / 128)) k
  have self := (slots k).trans (congrArg (fun y : Slot => { y with nf := 0 }) (t.slotCancelled_self live))
  have read {α : Type} (g : Slot → α) (hg : ∀ y : Slot, g { y with nf := 0 } = g y) :
      g (SMap.get Slot.init (t.cancelSlot (Fin.ofNat 32 (k / 128)) k).slots k) = g ((SMap.get Slot.init s.slots k).cancelled t.now) :=
    Slot.field_of_nf self g hg
  refine .of_next step ⟨read Slot.st fun _ => rfl, read Slot.status fun _ => rfl, read Slot.masked fun _ => rfl, read Slot.toks fun _ => rfl,
    read Slot.portQ fun _ => rfl, read Slot.rsv fun _ => rfl, read Slot.used fun _ => rfl, fun j hj => ?_, t.cancelSlot_tiles _ k, fun hq => ?_⟩
  · exact (slots j).trans (congrArg (fun y : Slot => { y with nf := 0 }) (t.slotCancelled_ne hj))
  · have same : SMap.get Slot.init t.serv.slots k = SMap.get Slot.init s.slots k := rfl
    have status := Serv.endSlot_status (x := t.serv) t.now 4 0 (k := k) live hq (by rw [same, session]; exact State.session_heard h)
    rw [same, session, reqId] at status
    obtain ⟨w, hw, hf, kept⟩ := status
    have found : (t.cancelSlot (Fin.ofNat 32 (k / 128)) k).session n = some w := by
      rw [State.session, t.cancelSlot_sessions]
      exact hw
    exact ⟨⟨w, found, hf⟩, w, found, kept⟩

section
variable (hs : s.slotOf n id = none)
include hs

/-- A cancel of a request whose status the session keeps is answered with it (R419). -/
theorem cancel_clause_kept {e : BitVec 64 × Status} (he : (x.kept.find? fun e => e.1 == id) = some e) :
    Completes (.cancel n id) s fun u => Received u n (.status id e.2) ∧ u.slots = s.slots ∧ u.parts = s.parts := by
  have kept : x.kept.any (fun e => e.1 == id) = true :=
    List.any_eq_true.2 ⟨e, List.mem_of_find?_eq_some he, by have found := List.find?_some he; exact found⟩
  have step := exec_cancel h (id := id) (by rw [hs, kept]; rfl)
  rw [State.cancelOne_kept (s.heard n x) n id hs (State.session_heard h) he] at step
  have sends := (s.heard n x).answer_sends n (.status id e.2)
  exact .of_next step ⟨State.answer_holds _ n _ (fragments_status ..) (State.session_heard h), sends.slots, sends.parts⟩

variable (hk : (x.kept.find? fun e => e.1 == id) = none)
include hk

/-- Before a status that waits behind its tokens nothing is sent (R421). -/
theorem cancel_clause_ending (he : s.ending n id = true) : Completes (.cancel n id) s fun u =>
    u.slots = s.slots ∧ u.parts = s.parts ∧
    ∃ v : Session, u.session n = some v ∧ v.unacked = x.unacked ∧ v.queued = x.queued := by
  have step := exec_cancel h (id := id) (by rw [he]; simp)
  rw [State.cancelOne_unkept (s.heard n x) n id hs (State.session_heard h) hk, if_pos (show (s.heard n x).ending n id = true from he)] at step
  exact .of_next step ⟨rfl, rfl, _, State.session_heard h, rfl, rfl⟩

variable (he : s.ending n id = false)
include he

/-- A cancel of a request that waits for its decision is held. -/
theorem cancel_clause_undecided (hu : s.undecided n id = true) : Completes (.cancel n id) s fun u =>
    (∃ v : Session, u.session n = some v ∧ v.heldCancels = id :: x.heldCancels) ∧ u.slots = s.slots ∧ u.parts = s.parts := by
  let t := s.heard n x
  let v : Session := { x.heard s.now with heldCancels := id :: x.heldCancels }
  have waits : ((t.slotOf n id).isNone && !(x.kept.any fun e => e.1 == id) && !t.ending n id && t.undecided n id) = true := by
    have kept : x.kept.any (fun e => e.1 == id) = false := List.any_eq_false.2 (List.find?_eq_none.1 hk)
    rw [show t.slotOf n id = none from hs, kept, show t.ending n id = false from he, show t.undecided n id = true from hu]
    rfl
  let u : State := { t with sessions := SMap.set Session.init t.sessions n v }
  have step : exec (.cancel n id) s = .next u := by
    refine congrArg Host.Outcome.next ((State.onMsg_of_talks h _).trans ((if_pos waits).trans ?_))
    rw [State.session_heard h]
    rfl
  have differs : v ≠ Session.init := fun e => nomatch congrArg Session.heldCancels e
  exact .of_next step ⟨⟨v, (Serv.session_of_set (x := t.serv) (y := u.serv) rfl differs n).trans (if_pos rfl), rfl⟩, rfl, rfl⟩

/-- A cancel of an unknown request is answered with status 0. -/
theorem cancel_clause_unknown (hu : s.undecided n id = false) : Completes (.cancel n id) s fun u =>
    Received u n (.status id ⟨0, 0, 0⟩) ∧ u.slots = s.slots ∧ u.parts = s.parts := by
  have step := exec_cancel h (id := id) (by rw [hu, Bool.and_false])
  rw [State.cancelOne_unkept (s.heard n x) n id hs (State.session_heard h) hk,
    if_neg (by rw [show (s.heard n x).ending n id = false from he]; nofun)] at step
  have sends := (s.heard n x).answer_sends n (unknownStatus id)
  exact .of_next step ⟨State.answer_holds _ n _ (fragments_status ..) (State.session_heard h), sends.slots, sends.parts⟩

end

end

end Sys2Proof.Machine
end

section
/-! O40: the tests of R390 of a request whose models are resident, in their order, and the obligation. -/

namespace Sys2Proof.Machine

section
variable {s : State} {q : Request} {f : FurnPart} {fu : Furnish} {g : Program}

/-- The positions that a request reserves (R390). -/
def State.positionsOf (s : State) (q : Request) (g : Program) : Nat :=
  ((s.part q.part).fullPrompt q).length + q.maxNew + (if q.draft.isSome then g.gamma + 1 else 1) - 1

/-! ### Length, slot, device and attention chunks -/

theorem State.fit_of_long (h : g.lengthClass < s.positionsOf q g) : s.fit q f fu g = .reject 0x13 2 := by
  unfold State.fit
  exact if_pos h

section
variable (hl : s.positionsOf q g ≤ g.lengthClass)
include hl

theorem State.fit_of_full (h : s.freeSlot q.part = none) : s.fit q f fu g = .reject 0x11 1 := by
  unfold State.fit
  refine (if_neg (Nat.not_lt.2 hl)).trans ?_
  rw [h]

variable (hs : s.freeSlot q.part ≠ none)
include hs

theorem State.fit_of_deviceFull (h : 512 ≤ s.occupied) : s.fit q f fu g = .reject 0x11 2 := by
  obtain ⟨k, hk⟩ := Option.ne_none_iff_exists'.1 hs
  unfold State.fit
  refine (if_neg (Nat.not_lt.2 hl)).trans ?_
  rw [hk]
  exact if_pos h

theorem State.fit_of_chunks (ho : s.occupied < 512) (h : g.q * g.attnTiles < sumN ((s.slotsOf q.part).map (·.2.chunks)) +
    sumN (((s.part q.part).descsOf q).map fun d => Descriptor.chunksOf d (s.positionsOf q g))) : s.fit q f fu g = .reject 0x13 3 := by
  obtain ⟨k, hk⟩ := Option.ne_none_iff_exists'.1 hs
  unfold State.fit
  refine (if_neg (Nat.not_lt.2 hl)).trans ?_
  rw [hk]
  exact (if_neg (Nat.not_le.2 ho)).trans (if_pos h)

end

/-! ### Adapter, halt, throttling, program change and mode -/

theorem State.throttles_false (ht : ∀ i : Fin 64, (s.site i).tstate = 1 → q.part ∉ s.affected i) :
    s.throttles q.part = false := by
  rw [← Bool.not_eq_true, State.throttles_iff]
  rintro ⟨i, hi, hp⟩
  exact ht i hi hp

theorem State.consider_of_adapter {a : BitVec 16} (ha : q.adapter = some a) (h : (s.part q.part).current a = none) :
    s.consider q f fu g = .reject 0x15 0 := by simp [State.consider, ha, h]

section
variable (ha : ∀ a : BitVec 16, q.adapter = some a → (s.part q.part).current a ≠ none)
include ha

theorem Request.adapters_current : (q.adapter.any fun a => ((s.part q.part).current a).isNone) = false := by
  rw [← Bool.not_eq_true, Option.any_eq_true]
  rintro ⟨a, hq, hn⟩
  exact ha a hq (Option.isNone_iff_eq_none.1 hn)

theorem State.consider_of_halted (h : (s.part q.part).halted = true) : s.consider q f fu g = .reject 0x13 5 := by
  simp [State.consider, Request.adapters_current ha, h]

variable (hh : (s.part q.part).halted = false)
include hh

theorem State.consider_of_throttled (h : ∃ i : Fin 64, (s.site i).tstate = 1 ∧ q.part ∈ s.affected i) :
    s.consider q f fu g = .reject 0x13 6 := by
  simp [State.consider, Request.adapters_current ha, hh, (s.throttles_iff q.part).2 h]

variable (ht : ∀ i : Fin 64, (s.site i).tstate = 1 → q.part ∉ s.affected i)
include ht

theorem State.consider_of_switching (h : (s.part q.part).switching ≠ none) : s.consider q f fu g = .reject 0x13 7 := by
  simp [State.consider, Request.adapters_current ha, hh, State.throttles_false ht, Option.isSome_iff_ne_none.2 h]

variable (hsw : (s.part q.part).switching = none)
include hsw

theorem State.consider_of_otherMode (h : effMode f q ≠ (s.part q.part).isExact) :
    s.consider q f fu g = if s.allFree q.part then .change (effMode f q) else .reject 0x13 4 := by
  simp [State.consider, Request.adapters_current ha, hh, State.throttles_false ht, hsw, h]

theorem State.consider_of_mode (h : effMode f q = (s.part q.part).isExact) : s.consider q f fu g = s.fit q f fu g := by
  simp [State.consider, Request.adapters_current ha, hh, State.throttles_false ht, hsw, h]

end

end

/-! ### A request that passes every test -/

section
variable {s : State} {n : Nat} {x : Session} {q : Request} (h : Talks s n x) (hc : q.id ∉ x.heldCancels)
include h hc

/-- The request takes the slot found for it. -/
theorem submit_clause_fits {sl : Nat} (ha : ∃ a : Plan, s.decide n x.node q = .accept a ∧ a.slot = sl) :
    Completes (.submit n q) s fun u => (∃ bf bt : Nat, Received u n (.admitted q.id 0x10 0 bf bt)) ∧
      (SMap.get Slot.init u.slots (q.part.val * 128 + sl)).st = .prefill ∧
      (SMap.get Slot.init u.slots (q.part.val * 128 + sl)).q = some q ∧
      (u.part q.part).admitted = satAdd (s.part q.part).admitted 1 ∧ u.tiles = s.tiles := by
  obtain ⟨a, hd, rfl⟩ := ha
  obtain ⟨u, hu, answered, -, -, st, req, -, -, -, -, -, -, -, -, -, -, -, -, admitted, -, -, -, -, -, tiles⟩ :=
    submit_clause_accept h hc a hd
  exact ⟨u, hu, ⟨_, _, answered⟩, st, req, admitted, tiles⟩

end

/-- Only a model that the partition does not hold is absent. -/
theorem Part.not_absent {x : Part} {q : Request} {m : ModelInfo} (hm : x.model q.model = some m) (hd : q.draft = none) (id : BitVec 16) :
    ¬ x.Absent q id := by
  rintro ⟨none_, rfl | ⟨draft, -⟩⟩
  · rw [hm] at none_
    cases none_
  · rw [hd] at draft
    cases draft

/-- Settles O40: a request is decided by the chain of R390, each of whose tests has its own lemma, and the answer to every decision but
acceptance leaves the session and the count of rejections alone; a cancel ends the slot it names, or is answered, held or left to wait. -/
theorem requestsAreAnswered : Obligations.RequestsAreAnswered := by
  unfold Obligations.RequestsAreAnswered
  intro s n x q h P
  refine ⟨submit_clause_answered h, submit_clause_held h, fun hc => ⟨fun d hd => submit_reject h (State.decide_of_refused hd), fun hr =>
    ⟨fun ht => submit_reject h (State.decide_of_hot hr ht), fun ht fu f g hu hf hg =>
      ⟨fun closed => submit_reject h (State.decide_of_closed hr ht hu hf hg closed), fun ho hl hd hp => ⟨?absentUnlisted, ?absentListed, ?resident⟩⟩⟩,
    fun c d hd => submit_reject h hd, submit_clause_accept h hc, ?fits⟩, fun id => ⟨?live, fun hs => ⟨?kept, ?ending, ?unkept⟩⟩⟩
  case absentUnlisted =>
    intro id absent unlisted
    exact submit_answers h ((State.decide_of_absent hr ht hu hf hg ho hl hd hp absent).trans (State.absentModel_unlisted unlisted)) nofun rfl
  case absentListed =>
    intro id e w absent listed entry
    have decided := State.decide_of_absent hr ht hu hf hg ho hl hd hp absent
    exact ⟨fun auto idle => submit_answers h (decided.trans (State.absentModel_stays listed entry auto idle)) nofun rfl,
      fun starts => submit_answers h (decided.trans (State.absentModel_starts listed entry starts)) nofun rfl⟩
  case resident =>
    intro present
    have decided := State.decide_of_resident hr ht hu hf hg ho hl hd hp present
    refine ⟨fun a ha none_ => submit_reject h (decided.trans (State.consider_of_adapter ha none_)), fun ha =>
      ⟨fun halted => submit_reject h (decided.trans (State.consider_of_halted ha halted)), fun hh =>
        ⟨fun hot => submit_reject h (decided.trans (State.consider_of_throttled ha hh hot)), fun cool =>
          ⟨fun sw => submit_reject h (decided.trans (State.consider_of_switching ha hh cool sw)), fun hsw => ⟨?_, ?_, ?_⟩⟩⟩⟩⟩
    · intro mode busy
      refine submit_reject h ((decided.trans (State.consider_of_otherMode ha hh cool hsw mode)).trans ?_)
      rw [busy]
      rfl
    · intro mode free
      have change := (decided.trans (State.consider_of_otherMode ha hh cool hsw mode)).trans (if_pos free)
      exact ⟨submit_answers h change nofun rfl, submit_change h change⟩
    · intro mode
      have fit := decided.trans (State.consider_of_mode ha hh cool hsw mode)
      exact ⟨fun long => submit_reject h (fit.trans (State.fit_of_long long)), fun length =>
        ⟨fun full => submit_reject h (fit.trans (State.fit_of_full length full)),
          fun slot device => submit_reject h (fit.trans (State.fit_of_deviceFull length slot device)),
          fun slot device chunks => submit_reject h (fit.trans (State.fit_of_chunks length slot device chunks))⟩⟩
  case fits =>
    intro fu f g m sl hu hf hg hm hdraft hadapter href hexact hnarrow hnode hparams hbad hmode htuning hunused hpause hdoze hpkg ht ho hl hd hp
      hh hsw cool hlength hslot hdevice hnodes hchunks hclass hneed
    have unused : s.idInUse n q.id = false := List.any_eq_false.2 fun e he used => by
      simp only [Bool.and_eq_true, beq_iff_eq, and_assoc] at used
      exact hunused e he used
    have hr := State.refusal_none hnode hexact hf hnarrow htuning hbad hparams unused hpause hdoze hpkg
    have mode : effMode f q = (s.part q.part).isExact := by rw [effMode, hnarrow, hmode]
    have noAdapter : ∀ a : BitVec 16, q.adapter = some a → (s.part q.part).current a ≠ none := fun a ha => by
      rw [hadapter] at ha
      cases ha
    have decided := (State.decide_of_resident hr ht hu hf hg ho hl hd hp (Part.not_absent hm hdraft)).trans
      (State.consider_of_mode noAdapter hh cool hsw mode)
    obtain ⟨a, fit, slot⟩ := State.fit_accepts (f := f) hm hdraft href hlength hslot hdevice hchunks hclass hneed
    exact submit_clause_fits h hc ⟨a, decided.trans fit, slot⟩
  case live => exact fun k wf _ live session reqId one => cancel_clause_live h wf ⟨live, session, reqId⟩ one
  case kept => exact fun e he => cancel_clause_kept h hs he
  case ending => exact fun unkept ending => cancel_clause_ending h hs unkept ending
  case unkept => exact fun unkept ending => ⟨cancel_clause_undecided h hs unkept ending, cancel_clause_unknown h hs unkept ending⟩

end Sys2Proof.Machine
end

section
/-! O41: the release of a step in which a vat of one of the partition's models has failed its tests twice, with no empty vat in its tile to
take its slice (R133, R170, R465). The supervisor's work of the gap gives the tile up: the live slots end, also those with no position in
flight. -/

namespace Sys2Proof.Machine

/-- A model whose one slice is in the first vat of the first tile. -/
def oneSliceModel : ModelInfo :=
  { entry := 0, id := 1, svn := 0, lastAdmit := 0, vats := [0], digest := 0, gone := false,
    desc := { layers := 1, kvHeads := 1, headWidth := 64, vocab := 2, chainT := 0, chainP := 0, chainW := 0, chainG := 0, windows := [],
              keyFmt := 0, valueFmt := 0, keySym := true, valueSym := true, eos := 0, tensors := [], slices := [] } }

/-- An open partition of one tile, in the gap with its step not yet released. All vats of the tile are the partition's, and the first has
failed its tests twice. One slot is live, with no position in flight. -/
def spentTileState : State :=
  { State.reset with
    tiles := [(0, { Tile.init with pl := { Tile.init.pl with part := some 0 } })]
    vats := (List.range 96).map fun k => (k, { Vat.init with part := some 0, testFails := if k = 0 then 2 else 0 })
    parts := [(0, { Part.init with
      open_ := true, models := [oneSliceModel], couch := { Couch.init with fresh := false, released := false } })]
    slots := [(0, { Slot.init with st := .prefill })] }

theorem spentTileState_mayRelease : spentTileState.mayRelease 0 [] = true := by decide +kernel

theorem spentTileState_inFlight : spentTileState.inFlight 0 = [] := by decide

/-- The state of a slot after a step of the machine. -/
def slotPhase (k : Nat) : Out → Option SlotSt
  | .next u => some (SMap.get Slot.init u.slots k).st
  | _ => none

/-- The release ends the slot. -/
theorem spentTileState_endsSlot : slotPhase 0 (exec (.couchRelease 0 []) spentTileState) = some .ended := by decide +kernel

/-- Refutes O41: the supervisor's work that follows the release (R170) may find that a tile has failed, and its live slots end then, also
those with no position in flight, which the statement takes to be unchanged whatever the vats. -/
theorem not_stepsRunThroughTheCouch : ¬ Obligations.StepsRunThroughTheCouch := by
  unfold Obligations.StepsRunThroughTheCouch
  intro h
  obtain ⟨-, release, -⟩ := h spentTileState 0 ⟨0, 0, 0⟩ Report.clean []
  obtain ⟨u, hu, -, -, -, still, -⟩ := release spentTileState_mayRelease (by decide)
  have same := congrArg Slot.st (still 0 (by rw [spentTileState_inFlight]; exact List.not_mem_nil))
  have ended := spentTileState_endsSlot
  rw [hu, slotPhase, show (SMap.get Slot.init u.slots 0).st = .prefill from same] at ended
  cases ended

end Sys2Proof.Machine
end
